-- ==== Sys2Proof/Word.lean ====
section
/-! DEFINITION. The word types of the block and the one container shape its state uses. -/
namespace Sys2Proof

/-- A byte of memory, of a mailbox slot or of a bus transfer (R8). -/
abbrev Byte := BitVec 8

/-- A 32-bit lane value: the pattern of a binary32 number or of an integer (R157). -/
abbrev Word := BitVec 32

/-- A finite table: pairs of a key and a value, keys strictly rising. Equal tables are equal data. -/
abbrev Tbl (α : Type) := List (Nat × α)

end Sys2Proof
end

