-- ==== Sys2Proof/Syntax.lean ====
section
/-! DEFINITION. The commands of the block: one constructor for each row of spec/opcode_table.json, in the table's order, with
the row's operands. Where a row is an event inside the engine or in its surroundings, the operands say which object it concerns
and what the surroundings contributed (a reading, a frame, an error found). -/
namespace Sys2Proof

/-- Which mailbox of a hub a message is posted in (R358, R370). -/
inductive Mbox where
  | fabric
  | mgmt
deriving DecidableEq, Repr

/-- Who writes to the fabric mailbox: any agent, or the package manager's agent (R373). -/
inductive Agent where
  | any
  | pm
deriving DecidableEq, Repr

/-- An error that a read meets: which atom of what is read, from 0 in order, and how many lanes of it read wrongly, or that it was read from
the wrong place (R261). In a line that a cache level serves, `wrong` counts the bits of one 8-byte word that read wrongly, and `tag` puts
the error into the tag or tree bits of the line's set (R296); `acc` puts it into the row's pending accumulator (R126). -/
structure AtomErr where
  atom : Nat := 0
  wrong : Nat := 1
  place : Bool := false
  tag : Bool := false
  acc : Bool := false
deriving DecidableEq, Repr

/-- What a read meets: nothing when the list is empty. -/
abbrev ReadErr := List AtomErr

/-- The atom code corrects an error confined to one lane (R261). -/
def AtomErr.corrects (e : AtomErr) : Bool := !e.tag && !e.acc && !e.place && e.wrong == 1
/-- It detects every wider error and an atom from the wrong place (R261; that it never misses a wider error is log 53). -/
def AtomErr.fails (e : AtomErr) : Bool := !e.tag && !e.acc && (e.place || decide (2 ≤ e.wrong))
/-- Some atom of the read fails its code. -/
def ReadErr.failed (err : ReadErr) : Bool := err.any (·.fails)
/-- The read of the row's pending accumulator meets an uncorrectable error (R126). -/
def ReadErr.accLost (err : ReadErr) : Bool := err.any fun e => e.acc && decide (2 ≤ e.wrong)

/-- A slot in flight, with what the first read of a row that its tile makes meets (R262). -/
structure SlotRead where
  p : Nat
  err : ReadErr := []
deriving DecidableEq, Repr

/-- What ended a link replay (R406). -/
inductive ReplayEnd where
  | replayed
  | retrained
  | lost
deriving DecidableEq, Repr

/-- What start-up finds (R420 to R426): masks of the hubs whose self-test fails, that do not receive the image, and whose fabric and
Telemark ports train; the mask of stacks whose row die fails; for each stack the pseudo-channels that train and pass, the modules that
train and the threshold reported; whether the boot store can be read and which banks fail; hard repairs in the stacks' fuses, pages that
fail the test as (channel, bank, page), spare rows as (channel, bank, count), and the dies' identifications, row dies 0 to 11 first. -/
structure StartReport where
  hubFail : Nat
  imageFail : Nat
  fabUp : Nat
  tlmUp : Nat
  stackFail : Nat
  trained : List Nat
  ucie : List Nat
  trep : List Nat
  bootUnreadable : Bool
  bankBad : Nat
  fuses : List (Nat × BitVec 128)
  candidates : List (Nat × Nat × Nat)
  spares : List (Nat × Nat × Nat)
  dieIds : List Nat
  /-- Lanes whose trained eye is below the margin, as (channel, lane number of Table 9-4). -/
  lanes : List (Nat × Nat) := []
  /-- Corrections that the stacks' own codes have counted, as (channel, bank, page, count). -/
  onDie : List (Nat × Nat × Nat × Nat) := []
deriving DecidableEq, Repr

/-- The header of a Telemark frame (Table 14-1). -/
structure FrameHdr where
  link : Nat
  pairId : Nat
  fseq : Nat
  shub : Nat
  dhub : Nat
  version : Nat := 0x20
deriving DecidableEq, Repr

/-- One mirrored table in a PAIR frame (Table 14-2, KIND 0). -/
structure PairEntry where
  table : Nat
  overflow : Bool
  incomplete : Bool
  descCrc : Nat
  applied : List Nat
deriving DecidableEq, Repr

/-- The payload of a PAIR frame (Table 14-2, KIND 0). -/
structure PairPayload where
  primary : Bool
  resync : Bool
  state : Nat
  lastPairId : Nat
  entries : List PairEntry
deriving DecidableEq, Repr

/-- One digest entry of a DIGEST frame (Table 14-2, KIND 2). -/
structure DigestEntry where
  table : Nat
  lrow : Nat
  bseq : Nat
  digest : Nat
  mdigest : Nat
deriving DecidableEq, Repr

/-- Phases of a FENCE frame (Table 14-2, KIND 3). -/
inductive FencePhase where
  | request
  | started
  | reached
  | release
deriving DecidableEq, Repr

/-- What a ROW frame carries (Table 14-2, KIND 4): a slot's bytes, a master record, or an accumulator record. -/
structure RowPayload where
  table : Nat
  lrow : Nat
  bseq : Nat
  slot : List Byte
  master : List Byte
  accum : List Byte
deriving DecidableEq, Repr

/-- What an inbound access through a window asks for (R324). -/
inductive WinOp where
  | read (len : Nat) (err : ReadErr)
  | write (data : List Byte)
  | signal (hub sem count : Nat)
  | arrival (solid epoch : Nat)
deriving DecidableEq, Repr

/-- An inbound access through a window: the sender's coordinates and window, the entry of ours that it names, and the place. -/
structure WinAccess where
  hub : Nat
  x : Nat
  y : Nat
  z : Nat
  fromWin : Nat
  win : Nat
  page : Nat
  offset : Nat
  op : WinOp
deriving DecidableEq, Repr

/-- How a receiver answers an outbound window access (R323): accepted, with the bytes read, with the poison indication (R264), refused, or
faulted. -/
inductive WinAnswer where
  | accepted
  | data (bytes : List Byte)
  | poisoned
  | refused
  | faulted
deriving DecidableEq, Repr

/-- Why the host link was lost (R347). -/
inductive HostLossCause where
  | reset
  | linkDown
deriving DecidableEq, Repr

/-- The commands. -/
inductive Instr where
  -- power and start-up
  | pwrgdRise
  | orderlyStop
  | startUp (rep : StartReport)
  -- test access port
  | testReset (hub : Nat)
  | bypass (hub : Nat)
  | idcode (hub : Nat)
  | samplePreload (hub load : Nat)
  | extest (hub : Nat)
  | clamp (hub : Nat)
  | highz (hub : Nat)
  -- I3C target
  | i3cPrivateWrite (hub : Nat) (data : List Byte)
  | i3cPrivateRead (hub : Nat)
  | enec (hub events : Nat)
  | disec (hub events : Nat)
  | rstdaa (hub : Nat)
  | entdaa (hub addr : Nat)
  | setdasa (hub addr : Nat)
  | setnewda (hub addr : Nat)
  | getpid (hub : Nat)
  | getbcr (hub : Nat)
  | getdcr (hub : Nat)
  | getstatus (hub : Nat)
  | getmwl (hub : Nat)
  | setmwl (hub len : Nat)
  | getmrl (hub : Nat)
  | setmrl (hub len : Nat)
  | rstact (hub defining : Nat)
  -- boundary registers
  | requestSlotWrite (hub : Nat) (agent : Agent) (offset : Nat) (data : List Byte)
  | intStatusWrite (hub : Nat) (value : BitVec 64)
  | intEnableWrite (hub : Nat) (value : BitVec 64)
  | registerWrite (hub offset : Nat) (value : BitVec 64)
  -- Rylet messages: the posted pair that the hub copies and answers
  | doneReply (hub : Nat) (mb : Mbox) (pair : Nat)
  | hello (hub : Nat) (mb : Mbox) (pair : Nat)
  | almanacRead (hub : Nat) (mb : Mbox) (pair : Nat)
  | eventRead (hub : Nat) (mb : Mbox) (pair : Nat)
  | monitorRead (hub : Nat) (mb : Mbox) (pair : Nat)
  | jobOpen (hub : Nat) (mb : Mbox) (pair : Nat)
  | jobClose (hub : Nat) (mb : Mbox) (pair : Nat)
  | tableDefine (hub : Nat) (mb : Mbox) (pair : Nat)
  | tableRetire (hub : Nat) (mb : Mbox) (pair : Nat)
  | tableStats (hub : Nat) (mb : Mbox) (pair : Nat)
  | updateStatus (hub : Nat) (mb : Mbox) (pair : Nat)
  | programLoad (hub : Nat) (mb : Mbox) (pair : Nat)
  | programUnload (hub : Nat) (mb : Mbox) (pair : Nat)
  | ringCreate (hub : Nat) (mb : Mbox) (pair : Nat)
  | ringDestroy (hub : Nat) (mb : Mbox) (pair : Nat)
  | ringHalt (hub : Nat) (mb : Mbox) (pair : Nat)
  | ringResumeContinue (hub : Nat) (mb : Mbox) (pair : Nat)
  | ringResumeRetry (hub : Nat) (mb : Mbox) (pair : Nat)
  | hostlostRead (hub : Nat) (mb : Mbox) (pair : Nat)
  | ledgerSet (hub : Nat) (mb : Mbox) (pair : Nat)
  | schedSet (hub : Nat) (mb : Mbox) (pair : Nat)
  | layoutSetPlan (hub : Nat) (mb : Mbox) (pair : Nat)
  | layoutSetCommit (hub : Nat) (mb : Mbox) (pair : Nat)
  | channelMapoutPlan (hub : Nat) (mb : Mbox) (pair : Nat)
  | channelMapoutCommit (hub : Nat) (mb : Mbox) (pair : Nat)
  | pageRetire (hub : Nat) (mb : Mbox) (pair : Nat)
  | repairRead (hub : Nat) (mb : Mbox) (pair : Nat)
  | channelTestScan (hub : Nat) (mb : Mbox) (pair : Nat)
  | channelTestMarch (hub : Nat) (mb : Mbox) (pair : Nat)
  | channelTestPattern (hub : Nat) (mb : Mbox) (pair : Nat)
  | channelTestStop (hub : Nat) (mb : Mbox) (pair : Nat)
  | cachePartition (hub : Nat) (mb : Mbox) (pair : Nat)
  | cacheFlush (hub : Nat) (mb : Mbox) (pair : Nat)
  | cacheStatus (hub : Nat) (mb : Mbox) (pair : Nat)
  | mogulRead (hub : Nat) (mb : Mbox) (pair : Nat)
  | invalidate (hub : Nat) (mb : Mbox) (pair : Nat)
  | harvestArm (hub : Nat) (mb : Mbox) (pair : Nat)
  | faultResume (hub : Nat) (mb : Mbox) (pair : Nat)
  | faultResumeAbort (hub : Nat) (mb : Mbox) (pair : Nat)
  | prefetch (hub : Nat) (mb : Mbox) (pair : Nat)
  | adviseWarm (hub : Nat) (mb : Mbox) (pair : Nat)
  | adviseDemote (hub : Nat) (mb : Mbox) (pair : Nat)
  | migratePage (job vpage : Nat)
  | windowSet (hub : Nat) (mb : Mbox) (pair : Nat)
  | windowClear (hub : Nat) (mb : Mbox) (pair : Nat)
  | regionRegister (hub : Nat) (mb : Mbox) (pair : Nat)
  | regionRelease (hub : Nat) (mb : Mbox) (pair : Nat)
  | twinPair (hub : Nat) (mb : Mbox) (pair : Nat)
  | twinUnpair (hub : Nat) (mb : Mbox) (pair : Nat)
  | twinUnpairPlanned (hub : Nat) (mb : Mbox) (pair : Nat)
  | twinStatus (hub : Nat) (mb : Mbox) (pair : Nat)
  | dumpArm (hub : Nat) (mb : Mbox) (pair : Nat)
  | fwStage (hub : Nat) (mb : Mbox) (pair : Nat)
  | fwHandover (hub : Nat) (mb : Mbox) (pair : Nat)
  | recalibrate (hub : Nat) (mb : Mbox) (pair : Nat)
  | stackServiceRelease (hub : Nat) (mb : Mbox) (pair : Nat)
  | stackServiceAdmit (hub : Nat) (mb : Mbox) (pair : Nat) (trained trep : Nat)
  | hubServiceRelease (hub : Nat) (mb : Mbox) (pair : Nat)
  | hubServiceAdmit (hub : Nat) (mb : Mbox) (pair : Nat) (starts : Bool)
  -- fabric and windows
  | signalWord (hub : Nat) (word : BitVec 64)
  | arrivalSignalApply (hub sem : Nat)
  | hostWindowWrite (port addr : Nat) (data : List Byte) (posted : Bool)
  | hostWindowRead (port addr len : Nat) (err : ReadErr)
  | windowAccess (acc : WinAccess)
  | windowResponse (ring p : Nat) (ans : WinAnswer)
  -- slots of stream rings
  | slotLookahead (ring k : Nat)
  | slotStale (ring : Nat)
  | lookupPool (ring : Nat)
  | lookupGather (ring : Nat)
  | prefetchRows (ring : Nat)
  | scatterAccum (ring : Nat)
  | applyUpdate (ring : Nat)
  | requant (ring : Nat)
  | zeroRows (ring : Nat)
  | copyPermuteSend (ring : Nat)
  | copyPermuteCommit (ring : Nat)
  | copyPermuteAbandon (ring : Nat)
  | digestExchange (ring : Nat)
  | solstice (ring : Nat)
  | signal (ring : Nat)
  | signalFire (ring p : Nat)
  | tileStart (ring : Nat) (slot : SlotRead)
  | translationWalk (hub walk : Nat) (err : ReadErr)
  | harvestDeliver
  | rowFetch (ring p lrow : Nat) (err : ReadErr)
  | partialCombine (ring p bag stack : Nat)
  | slotComplete (ring p : Nat)
  -- update batches at the row dies
  | gateRequest (ring p stack : Nat)
  | gateDecision (ring p : Nat)
  | runAdd (stack table : Nat) (err : ReadErr)
  | overflowReplay (stack : Nat) (err : ReadErr)
  | rowApply (stack table : Nat) (err : ReadErr)
  | rowProgramRestart (hub task : Nat)
  | masterWriteAck (stack table : Nat)
  | shareRetire (stack table : Nat)
  | scoreboardRetire (stack entry : Nat)
  | rederive (job table lrow : Nat)
  -- Solstice
  | solsticeArrival (ring : Nat)
  | remoteArrival (win job solid epoch : Nat)
  | arrivalResend (index : Nat)
  -- timeouts
  | slotTimeout (ring p : Nat)
  | slotDeadline (ring p : Nat)
  -- scheduler and ledger
  | taskDispatch (hub cluster chain ctx : Nat)
  | taskEnd (hub task steps : Nat)
  | instalmentCharge (hub task : Nat)
  | ledgerCredit (hub : Nat)
  | backgroundPromotion (hub task : Nat)
  | operatingPointChoice (hub cluster : Nat)
  | operatingPointChangeDone (hub cluster : Nat)
  -- heat
  | stackTempRead (stack : Nat) (reading : Int) (reported : Nat)
  | tempReadingGap (stack : Nat)
  | level4Timeout (stack : Nat)
  | throttleIdle (channel : Nat)
  -- channels
  | snowplowFrame (channel : Nat)
  | burstGroup (channel : Nat)
  | bankRefresh (channel bank : Nat)
  | wcbDrain (stack : Nat)
  | patrolScrub (channel loc : Nat) (err : ReadErr)
  | pageRepair (channel bank page : Nat) (applied : Bool)
  | marchStep (channel : Nat) (pass : Bool)
  | channelLoss (channel : Nat) (pairToo : Bool)
  | rowDieFailure (stack : Nat)
  | relayoutStripe
  | laneRecalibration (stack : Nat) (bad : List (Nat × Nat))
  -- row cache
  | cacheFill (hub fill : Nat)
  | evictionOffer (hub offer : Nat)
  | mogulHalve (hub : Nat)
  -- host link
  | hostLinkRetrain
  | hostLinkLoss (cause : HostLossCause)
  | hostRetrainTimeout
  -- hubs, clusters and links
  | hubHeartbeat (hub : Nat) (alive : Bool)
  | hubLoss (hub : Nat)
  | leaderTakeover
  | hubDieLoss (hub : Nat)
  | stewardCoreFailure (hub : Nat)
  | clusterFailure (cluster : Nat)
  | ucieReplay (rowDie modul ns : Nat) (out : ReplayEnd)
  | fabricReplay (hub ns : Nat) (out : ReplayEnd)
  | telemarkReplay (hub ns : Nat) (out : ReplayEnd)
  | telemarkLinkDown (hub : Nat)
  -- twin
  | pairFrameSend
  | pairFrame (hdr : FrameHdr) (payload : PairPayload)
  | pairingTimeout
  | aliveSend (hub : Nat)
  | aliveFrame (hdr : FrameHdr)
  | digestSend (hub : Nat)
  | digestFrame (hdr : FrameHdr) (entries : List DigestEntry)
  | fenceFrame (hdr : FrameHdr) (table : Nat) (phase : FencePhase) (bseq : Nat)
  | rowFrame (hdr : FrameHdr) (row : RowPayload)
  | sweepFrame (hdr : FrameHdr) (table first : Nat) (rows : List (Nat × Nat))
  | resyncFrame (hdr : FrameHdr) (table applied : Nat) (digests : List (Nat × Nat))
  | unpairFrame (hdr : FrameHdr) (cause : Nat)
  | frameDiscard (hdr : FrameHdr) (kind : Nat) (reserved : Bool)
  | twinLoss
  | repairFenceStart (table : Nat)
  | fenceTimeout (table : Nat)
  | digestSweep (table : Nat)
  | resyncPass (table : Nat)
  -- fatal, firmware, monitors, pins and links
  | fatal (hub cause : Nat)
  | handoverTimeout
  | monitorSample (monitor inst value : Nat)
  | pwrgdFall
  | hostLinkReconnect
  | telemarkLinkUp (hub : Nat)
  | throttleIdleEnd (channel : Nat)
  | arrivalAck (index : Nat)
deriving DecidableEq, Repr

end Sys2Proof
end

