-- ==== Sys2Proof/Decode.lean ====
section
/-! DEFINITION. The decoder of the opcode table. No row of spec/opcode_table.json gives a command any bits (every row's fields are
empty): a command of this block is an event, not a word, so no word spells one. -/
namespace Sys2Proof

/-- The command that a word spells by the table's bits: none, for the table gives no bits to any row. -/
def decodeTableWord (_nbits _w : Nat) : Option Instr := none

end Sys2Proof
end

