-- ==== Sys2Proof/Config.lean ====
section
/-! DEFINITION. What an implementation fixes: the sizes this engine's Almanac publishes (Tables 1-6, 1-8, 15-4 to 15-6), the
identities the manual leaves to the package (R439, R440), and the free values (opaque: nothing can evaluate them). -/
namespace Sys2Proof.Config

/-- Software rows of 256 bytes per channel (R248, Almanac CHROWS). -/
def chrows : Nat := 6225920
/-- Reserve per channel in MiB (R248, Almanac CHRES). -/
def chresMiB : Nat := 16
/-- Row-cache sets per hub slice (R281). -/
def cacheSets : Nat := 524288
/-- Mogul sets per hub (R289). -/
def mogulSets : Nat := 65536
/-- Translation-cache sets per hub (R307). -/
def xlateSets : Nat := 16384
/-- Entry-cache entries per row die (R308). -/
def entryCache : Nat := 16384
/-- Walks one hub runs at once, and the walkers kept for real-time slots (R309). -/
def walkers : Nat := 64
def walkersKept : Nat := 4
/-- Write-combining buffer bytes per row die (Memory Stacks, The write-combining buffer). -/
def wcbBytes : Nat := 16 * 1048576
/-- Dispatch scoreboard entries per hub, and those kept for real-time tasks (R232). -/
def dispatchEntries : Nat := 16384
def dispatchKept : Nat := 512
/-- Entries of a row die's scoreboard: the manual gives no number (R137). DESIGN CHOICE, log 12. -/
def scoreboardEntries : Nat := 16384
/-- Open Harvest records (R317). -/
def harvestOpen : Nat := 16384
/-- Tables in all and per job slot (Table 1-6). -/
def tablesAll : Nat := 1048576
def tablesPerJob : Nat := 65536
/-- Retired frames the engine holds (R266). -/
def retiredMax : Nat := 65536
/-- Unsettled digest entries per hub (R391). -/
def unsettledMax : Nat := 1048576
/-- Twin-journal entries per stack (R401). -/
def twinJournalMax : Nat := 2097152
/-- Event-log records (R409). -/
def eventLogMax : Nat := 65536
/-- Repair-ledger records per stack (R268). -/
def repairLedgerMax : Nat := 16384

/-- Bases of the two channel domains (R248). -/
def ordBase : Nat := 0
def privBase : Nat := 0x020000000000

/-- Almanac HPWBASE: base of the host-physical window on the fabric (R331). Free value, log 3. -/
opaque hpwBase : Nat
/-- Almanac SIGBASE: base of the signal apertures (R331). Free value, log 3. -/
opaque sigBase : Nat
/-- Torus coordinates of this engine, X, Y, Z (R322: the package manager sets them). Free value, log 3. -/
opaque torus : Nat → BitVec 8
/-- Capacity tier attached, in bytes (Almanac CAPTIER). Free value, log 3. -/
opaque capTier : BitVec 64
/-- JEDEC manufacturer identity, IDCODE bits [11:1] (R440). Free value, log 3. -/
opaque jedecId : BitVec 11
/-- MIPI manufacturer ID, provisional ID bits [47:33] (R439). Free value, log 3. -/
opaque mipiId : BitVec 15
/-- Low 12 bits of the package serial number (R439). Free value, log 3. -/
opaque serialLow : BitVec 12
/-- Bytes the processor dies return for a capacity-tier read answered without an error are their own (R446):
not a value of the engine. The n-th free value of the model, drawn by a step that needs one. -/
opaque freeValue : Nat → BitVec 64

end Sys2Proof.Config
end

