-- ==== Sys2Proof/Machine/Fields.lean ====
section
/-! DEFINITION. Bit fields, byte order and rounding of sizes (R8, R9), and the operations of the finite tables. -/
namespace Sys2Proof.Machine

/-- Bits [lo + n - 1 : lo] of a structure read as a little-endian number (R9). -/
def bits (x lo n : Nat) : Nat := (x >>> lo) % 2 ^ n

/-- One bit of a structure (R9). -/
def bit (x lo : Nat) : Bool := x.testBit lo

/-- A field map written down: each entry is (low bit, width, value); a value is cut to its width. -/
def pack : List (Nat × Nat × Nat) → Nat
  | [] => 0
  | (lo, n, v) :: fs => (v % 2 ^ n) <<< lo ||| pack fs

/-- `x` with the field [lo + n - 1 : lo] replaced by `v`. -/
def setBits (x lo n v : Nat) : Nat :=
  (x >>> (lo + n)) <<< (lo + n) ||| (v % 2 ^ n) <<< lo ||| x % 2 ^ lo

/-- `a` divided by `b`, rounded up. -/
def ceilDiv (a b : Nat) : Nat := (a + b - 1) / b

/-- `a` rounded up to a multiple of `b`. -/
def roundUp (a b : Nat) : Nat := b * ceilDiv a b

/-- A Bool as a one-bit field. -/
def b2n (b : Bool) : Nat := if b then 1 else 0

/-- `n` little-endian bytes of a number (R8). -/
def toBytes : Nat → Nat → List Byte
  | 0, _ => []
  | n + 1, x => BitVec.ofNat 8 x :: toBytes n (x / 256)

/-- The number that little-endian bytes hold (R8). -/
def ofBytes : List Byte → Nat
  | [] => 0
  | b :: bs => b.toNat + 256 * ofBytes bs

/-- A number of `n` bits as a signed one. -/
def signed (n x : Nat) : Int := if x % 2 ^ n < 2 ^ (n - 1) then (x % 2 ^ n : Nat) else ((x % 2 ^ n : Nat) : Int) - (2 ^ n : Nat)

/-- The value a saturating counter of 32 bits holds (R92, R130). -/
def sat32 (x : Nat) : Nat := min x 0xFFFFFFFF

end Sys2Proof.Machine

namespace Sys2Proof

/-- Look a key up. -/
def Tbl.get? {α : Type} : Tbl α → Nat → Option α
  | [], _ => none
  | (k, v) :: t, q => if k = q then some v else if q < k then none else Tbl.get? t q

/-- Put a value at a key, keeping keys strictly rising. -/
def Tbl.put {α : Type} : Tbl α → Nat → α → Tbl α
  | [], q, w => [(q, w)]
  | (k, v) :: t, q, w =>
    if q < k then (q, w) :: (k, v) :: t
    else if q = k then (q, w) :: t
    else (k, v) :: Tbl.put t q w

/-- Drop a key. -/
def Tbl.del {α : Type} : Tbl α → Nat → Tbl α
  | [], _ => []
  | (k, v) :: t, q => if q < k then (k, v) :: t else if q = k then t else (k, v) :: Tbl.del t q

/-- Keys strictly rising, all at or above a bound. -/
def Tbl.wfFrom {α : Type} : Nat → Tbl α → Bool
  | _, [] => true
  | lo, (k, _) :: t => decide (lo ≤ k) && Tbl.wfFrom (k + 1) t

/-- The canonical form of a table: keys strictly rising. -/
def Tbl.wf {α : Type} (t : Tbl α) : Bool := Tbl.wfFrom 0 t

/-- The value at a key, or a default. -/
def Tbl.getD {α : Type} (t : Tbl α) (k : Nat) (d : α) : α := (Tbl.get? t k).getD d

/-- Change the value at a key, if there is one. -/
def Tbl.modify {α : Type} (t : Tbl α) (k : Nat) (f : α → α) : Tbl α :=
  match Tbl.get? t k with
  | none => t
  | some v => Tbl.put t k (f v)

/-- Whether a key is present. -/
def Tbl.has {α : Type} (t : Tbl α) (k : Nat) : Bool := (Tbl.get? t k).isSome

/-- Change every value of a table, its keys kept. -/
def Tbl.mapVal {α : Type} (t : Tbl α) (f : Nat → α → α) : Tbl α := t.map fun (k, v) => (k, f k v)

/-- The values of a table in key order. -/
def Tbl.vals {α : Type} (t : Tbl α) : List α := t.map (·.2)

/-- The keys of a table, rising. -/
def Tbl.keys {α : Type} (t : Tbl α) : List Nat := t.map (·.1)

/-- Keep the entries that a test accepts. -/
def Tbl.keep {α : Type} (t : Tbl α) (p : Nat → α → Bool) : Tbl α := t.filter fun (k, v) => p k v

end Sys2Proof

namespace Sys2Proof.Machine

/-- The lowest number not in a list, found within its length. -/
def firstFree (used : List Nat) : Nat → Nat → Nat
  | n, 0 => n
  | n, fuel + 1 => if used.contains n then firstFree used (n + 1) fuel else n

/-- Insert into a list sorted by an order, after equals (a stable insertion). -/
def insertBy {α : Type} (lt : α → α → Bool) (x : α) : List α → List α
  | [] => [x]
  | y :: ys => if lt x y then x :: y :: ys else y :: insertBy lt x ys

/-- Stable insertion sort. -/
def sortBy {α : Type} (lt : α → α → Bool) (xs : List α) : List α := xs.foldl (fun acc x => insertBy lt x acc) []

/-- A list with each element kept once, in order of first appearance. -/
def distinct : List Nat → List Nat
  | [] => []
  | x :: xs => x :: (distinct xs).filter (· != x)

/-- The elements of a list that are not repeated, for any type with decidable equality. -/
def dedup {α : Type} [DecidableEq α] : List α → List α
  | [] => []
  | x :: xs => x :: (dedup xs).filter (fun y => !decide (y = x))

/-- Bit positions set in a mask, among the first n, rising. -/
def maskBits (mask n : Nat) : List Nat := (List.range n).filter mask.testBit

/-- Number of bits set among the first n. -/
def popCount (mask n : Nat) : Nat := (maskBits mask n).length

end Sys2Proof.Machine
end

