-- ==== Sys2Proof/Machine/Float.lean ====
section
/-! DEFINITION. Binary floating point: exact values, one rounding to nearest with ties to even (R64, R77, R131, R172), and the
formats of Table 2-7. Subnormals are never flushed. -/
namespace Sys2Proof.Machine

/-- An exact value: a NaN, an infinity, or plus or minus m times 2 to the e. -/
inductive FV where
  | nan
  | inf (neg : Bool)
  | fin (neg : Bool) (m : Nat) (e : Int)
deriving DecidableEq, Repr

/-- m times 2 to the k as an integer, rounded to nearest, ties to even (R65). -/
def rneShift (m : Nat) (k : Int) : Nat :=
  match k with
  | Int.ofNat n => m <<< n
  | Int.negSucc n =>
    let q := m >>> (n + 1)
    let r := m % 2 ^ (n + 1)
    let h := 2 ^ n
    if r < h then q else if r = h then q + q % 2 else q + 1

/-- An IEEE 754 binary interchange format: exponent bits and stored fraction bits. -/
structure Ieee where
  eb : Nat
  fb : Nat
deriving DecidableEq, Repr

def ieee32 : Ieee := ⟨8, 23⟩
def ieee16 : Ieee := ⟨5, 10⟩
def ieeeBf : Ieee := ⟨8, 7⟩

/-- Exponent bias. -/
def Ieee.bias (f : Ieee) : Int := 2 ^ (f.eb - 1) - 1
/-- Exponent of the least subnormal. -/
def Ieee.qmin (f : Ieee) : Int := 1 - f.bias - f.fb
/-- Pattern of plus infinity. -/
def Ieee.infPat (f : Ieee) : Nat := (2 ^ f.eb - 1) <<< f.fb
/-- The canonical quiet NaN (R79, R172). -/
def Ieee.nanPat (f : Ieee) : Nat := f.infPat ||| 2 ^ (f.fb - 1)
/-- The sign bit. -/
def Ieee.signPat (f : Ieee) (neg : Bool) : Nat := if neg then 2 ^ (f.eb + f.fb) else 0

/-- Round an exact magnitude to a format: the pattern without its sign. -/
def Ieee.roundMag (f : Ieee) (m : Nat) (e : Int) : Nat :=
  if m = 0 then 0
  else
    let top : Int := (Nat.log2 m : Int) + e
    let q := max (top - f.fb) f.qmin
    let n := rneShift m (e - q)
    let pat := (q - f.qmin).toNat <<< f.fb
    min (pat + n) f.infPat

/-- Round an exact value to a format (IEEE 754, nearest, ties to even). -/
def Ieee.round (f : Ieee) : FV → Nat
  | .nan => f.nanPat
  | .inf s => f.signPat s + f.infPat
  | .fin s m e => f.signPat s + f.roundMag m e

/-- The exact value of a pattern. -/
def Ieee.val (f : Ieee) (x : Nat) : FV :=
  let neg := x.testBit (f.eb + f.fb)
  let ex := bits x f.fb f.eb
  let fr := bits x 0 f.fb
  if ex = 2 ^ f.eb - 1 then (if fr = 0 then .inf neg else .nan)
  else if ex = 0 then .fin neg fr f.qmin
  else .fin neg (2 ^ f.fb + fr) (f.qmin + (ex - 1))

/-- The value of a binary32 pattern. -/
def fval (x : Word) : FV := ieee32.val x.toNat
/-- Round to binary32 (rne32 of R64). -/
def rne32 (v : FV) : Word := BitVec.ofNat 32 (ieee32.round v)
/-- Round to binary16 (rne16 of R65), as a pattern. -/
def rne16 (v : FV) : Nat := ieee16.round v

def canonNaN : Word := 0x7FC00000#32
def negZero : Word := 0x80000000#32
def posZero : Word := 0x00000000#32
def oneF : Word := 0x3F800000#32
def posInf : Word := 0x7F800000#32
def negInf : Word := 0xFF800000#32

def FV.neg : FV → FV
  | .nan => .nan
  | .inf s => .inf (!s)
  | .fin s m e => .fin (!s) m e

def FV.isFinite : FV → Bool
  | .fin _ _ _ => true
  | _ => false

def FV.isZero : FV → Bool
  | .fin _ m _ => m == 0
  | _ => false

/-- The signed integer m of a finite value over 2 to the least of two exponents. -/
def FV.scaled (s : Bool) (m : Nat) (e lo : Int) : Int :=
  let k : Int := (m <<< (e - lo).toNat : Nat)
  if s then -k else k

/-- Exact sum. A zero sum is +0.0 unless both operands are negative (IEEE 754). -/
def FV.add : FV → FV → FV
  | .nan, _ => .nan
  | _, .nan => .nan
  | .inf a, .inf b => if a = b then .inf a else .nan
  | .inf a, _ => .inf a
  | _, .inf b => .inf b
  | .fin sa ma ea, .fin sb mb eb =>
    let lo := min ea eb
    let t := FV.scaled sa ma ea lo + FV.scaled sb mb eb lo
    if t = 0 then .fin (sa && sb) 0 0 else .fin (decide (t < 0)) t.natAbs lo

/-- Exact product. -/
def FV.mul : FV → FV → FV
  | .nan, _ => .nan
  | _, .nan => .nan
  | .inf a, .inf b => .inf (a != b)
  | .inf a, .fin b m _ => if m = 0 then .nan else .inf (a != b)
  | .fin a m _, .inf b => if m = 0 then .nan else .inf (a != b)
  | .fin sa ma ea, .fin sb mb eb => .fin (sa != sb) (ma * mb) (ea + eb)

/-- Quotient, exact but for a sticky bit far below any rounding position of binary32. -/
def FV.div : FV → FV → FV
  | .nan, _ => .nan
  | _, .nan => .nan
  | .inf _, .inf _ => .nan
  | .inf a, .fin b _ _ => .inf (a != b)
  | .fin a _ _, .inf b => .fin (a != b) 0 0
  | .fin sa ma ea, .fin sb mb eb =>
    if mb = 0 then (if ma = 0 then .nan else .inf (sa != sb))
    else
      let k := Nat.log2 mb + 40
      let n := ma <<< k
      let q := n / mb
      let r := n % mb
      .fin (sa != sb) (2 * q + (if r = 0 then 0 else 1)) (ea - eb - k - 1)

/-- Integer square root by bits, from bit `i` down. -/
def isqrtFrom (x : Nat) : Nat → Nat → Nat
  | 0, r => r
  | i + 1, r => let t := r + 2 ^ i; isqrtFrom x i (if t * t ≤ x then t else r)

/-- Square root, exact but for a sticky bit (R170 FSQRT). -/
def FV.sqrt : FV → FV
  | .nan => .nan
  | .inf s => if s then .nan else .inf false
  | .fin s m e =>
    if m = 0 then .fin s 0 0
    else if s then .nan
    else
      let e' := e - (if e % 2 = 0 then 60 else 61)
      let n := m <<< (e - e').toNat
      let r := isqrtFrom n (Nat.log2 n / 2 + 1) 0
      .fin false (2 * r + (if r * r = n then 0 else 1)) (e' / 2 - 1)

/-- Compare finite magnitudes and signs: the sign of a - b, for non-NaN values; zeros are equal. -/
def FV.lt : FV → FV → Bool
  | .nan, _ => false
  | _, .nan => false
  | .inf a, .inf b => a && !b
  | .inf a, _ => a
  | _, .inf b => !b
  | .fin sa ma ea, .fin sb mb eb =>
    let lo := min ea eb
    decide (FV.scaled sa ma ea lo < FV.scaled sb mb eb lo)

def FV.eqv : FV → FV → Bool
  | .nan, _ => false
  | _, .nan => false
  | a, b => !FV.lt a b && !FV.lt b a

def isNaN (x : Word) : Bool := decide (fval x = .nan)
def isFin (x : Word) : Bool := (fval x).isFinite
def isZeroF (x : Word) : Bool := (fval x).isZero

def fadd (a b : Word) : Word := rne32 ((fval a).add (fval b))
def fneg (a : Word) : Word := a ^^^ 0x80000000#32
def fabs (a : Word) : Word := a &&& 0x7FFFFFFF#32
def fsub (a b : Word) : Word := rne32 ((fval a).add (fval b).neg)
def fmul (a b : Word) : Word := rne32 ((fval a).mul (fval b))
/-- Fused multiply-add with one rounding (R77). -/
def fma32 (a b c : Word) : Word := rne32 (((fval a).mul (fval b)).add (fval c))
def fdiv (a b : Word) : Word := rne32 ((fval a).div (fval b))
def fsqrt (a : Word) : Word := rne32 (fval a).sqrt

/-- max32 of R77: a NaN if either is, else the larger, +0.0 above -0.0. -/
def max32 (a b : Word) : Word :=
  if isNaN a || isNaN b then canonNaN
  else if isZeroF a && isZeroF b then (if a = posZero then a else b)
  else if (fval a).lt (fval b) then b else a

/-- FMIN of Table 6-6. -/
def min32 (a b : Word) : Word :=
  if isNaN a || isNaN b then canonNaN
  else if isZeroF a && isZeroF b then (if a = negZero then a else b)
  else if (fval b).lt (fval a) then b else a

/-- binary32 of an unsigned integer. -/
def ofNatF (n : Nat) : Word := rne32 (.fin false n 0)
/-- binary32 of a signed integer. -/
def ofIntF (i : Int) : Word := rne32 (.fin (decide (i < 0)) i.natAbs 0)

/-- Round a finite value to an integer, ties to even (rint of R65). -/
def rint (v : FV) : Int :=
  match v with
  | .fin s m e => let n : Int := rneShift m e; if s then -n else n
  | _ => 0

/-- Truncate a finite value toward zero. -/
def trunc (v : FV) : Int :=
  match v with
  | .fin s m e => let n : Int := if 0 ≤ e then m <<< e.toNat else m >>> (-e).toNat; if s then -n else n
  | _ => 0

/-- Limit an integer to a range. -/
def clampI (x lo hi : Int) : Int := max lo (min x hi)

/-- Conversion to a signed 32-bit integer: saturating, a NaN gives 0 (R172). -/
def toI32 (v : FV) (r : FV → Int) : Word :=
  match v with
  | .nan => 0
  | .inf s => if s then 0x80000000#32 else 0x7FFFFFFF#32
  | w => BitVec.ofInt 32 (clampI (r w) (-2147483648) 2147483647)

/-- Widen a bfloat16 pattern: exact, NaN payloads kept (R64, R172). -/
def widenBf (x : Nat) : Word := BitVec.ofNat 32 (x % 65536 * 65536)

/-- Widen a binary16 pattern: exact, NaN sign and payload kept in the high payload bits (R64, R172). -/
def widenH (x : Nat) : Word :=
  match ieee16.val (x % 65536) with
  | .nan => BitVec.ofNat 32 (bits x 15 1 * 2 ^ 31 + 0x7F800000 + bits x 0 10 * 2 ^ 13)
  | v => rne32 v

/-- A binary32 value as a bfloat16 pattern (R80, F2BF). -/
def toBf (x : Word) : Nat := ieeeBf.round (fval x)
/-- A binary32 value as a binary16 pattern (R80, F2H). -/
def toH (x : Word) : Nat := ieee16.round (fval x)

/-- FEXP of Table 6-6. -/
def fexp (a : Word) : Word :=
  match fval a with
  | .fin _ m e => if m = 0 then 0x80000000#32 else BitVec.ofInt 32 ((Nat.log2 m : Int) + e)
  | _ => 0x7FFFFFFF#32

/-- FSCALE of Table 6-6. -/
def fscale (a b : Word) : Word :=
  let n := clampI b.toInt (-512) 511
  match fval a with
  | .fin s m e => rne32 (.fin s m (e + n))
  | v => rne32 v

/-- FCLASS of Table 6-6. -/
def fclass (a : Word) : Word :=
  let sub := bits a.toNat 23 8 == 0 && bits a.toNat 0 23 != 0
  let isInf := match fval a with | .inf _ => true | _ => false
  BitVec.ofNat 32 (b2n (isNaN a) + 2 * b2n isInf + 4 * b2n (isZeroF a) + 8 * b2n sub + 16 * b2n (a.toNat.testBit 31))

/-! Small formats of Table 2-7. -/

/-- A small float: exponent bits, fraction bits, bias, and its largest finite magnitude code. -/
structure Mini where
  eb : Nat
  fb : Nat
  bias : Int
  maxCode : Nat
deriving DecidableEq, Repr

def e4m3 : Mini := ⟨4, 3, 7, 0x7E⟩
def e5m2 : Mini := ⟨5, 2, 15, 0x7B⟩
def e2m3 : Mini := ⟨2, 3, 1, 0x1F⟩
def e3m2 : Mini := ⟨3, 2, 3, 0x1F⟩
def e2m1 : Mini := ⟨2, 1, 1, 0x7⟩

def Mini.qmin (f : Mini) : Int := 1 - f.bias - f.fb

/-- The exact magnitude of a code below the sign. -/
def Mini.mag (f : Mini) (s : Bool) (c : Nat) : FV :=
  let ex := c >>> f.fb
  let fr := c % 2 ^ f.fb
  if ex = 0 then .fin s fr f.qmin else .fin s (2 ^ f.fb + fr) (f.qmin + (ex - 1))

/-- d(p) of R64: E4M3 has NaN at S.1111.111, E5M2 follows IEEE 754, the others have only finite values. -/
def Mini.val (f : Mini) (p : Nat) : FV :=
  let s := p.testBit (f.eb + f.fb)
  let c := p % 2 ^ (f.eb + f.fb)
  if f = e4m3 && c = 0x7F then .nan
  else if f = e5m2 && decide (0x7C ≤ c) then (if c = 0x7C then .inf s else .nan)
  else f.mag s c

/-- satfinite(cvt(x)) of R65 and R66: nearest, ties to even, held to the largest finite. -/
def Mini.enc (f : Mini) (x : FV) : Nat :=
  let sg := fun (s : Bool) => if s then 2 ^ (f.eb + f.fb) else 0
  match x with
  | .nan => f.maxCode
  | .inf s => sg s + f.maxCode
  | .fin s m e =>
    if m = 0 then sg s
    else
      let top : Int := (Nat.log2 m : Int) + e
      let q := max (top - f.fb) f.qmin
      let n := rneShift m (e - q)
      sg s + min (((q - f.qmin).toNat <<< f.fb) + n) f.maxCode

end Sys2Proof.Machine
end

