-- ==== Sys2Proof/Machine/State.lean ====
section
/-! DEFINITION. The state of the block as plain data: everything the manual gives the engine, grouped by the part that holds it,
the queue of waiting commands, and the state right after reset. -/
namespace Sys2Proof.Machine

/-! ## Mailboxes, test port, I3C target, boundary registers (R358 to R370, R437 to R441) -/

/-- Table 13-3. -/
inductive PairState where
  | free
  | posted
  | taken
  | pending
  | done
deriving DecidableEq, Repr, Inhabited

/-- One pair of a mailbox: the request slot, the copy the hub took, the reply slot (R358, R359, R361). -/
structure Pair where
  st : PairState := .free
  req : BitVec 2048 := 0
  copy : BitVec 2048 := 0
  rep : BitVec 2048 := 0
  /-- The message came from the package manager's agent (R373, mailbox PM). -/
  pm : Bool := false
deriving DecidableEq, Repr, Inhabited

/-- Table 13-2, FWSTATE. -/
inductive Fw where
  | boot
  | run
  | handover
  | fatal
deriving DecidableEq, Repr, Inhabited

/-- Instructions of the test access port (R440). -/
inductive TapInstr where
  | bypass
  | idcode
  | samplePreload
  | extest
  | clamp
  | highz
deriving DecidableEq, Repr, Inhabited

/-- A hub's IEEE 1149.1 test access port (R440). -/
structure Tap where
  ir : TapInstr := .idcode
  /-- The boundary-scan register over the sideband pins of Table 15-10. -/
  bsr : Nat := 0
  /-- What the selected data register shifts out on TDO. -/
  tdo : Nat := 0
  /-- The sideband pins as the package drives them, sampled by SAMPLE/PRELOAD. -/
  pinsIn : Nat := 0
  /-- EXTEST or CLAMP drives the pins from the register; HIGHZ floats them. -/
  driven : Bool := false
  floated : Bool := false
deriving DecidableEq, Repr, Inhabited

/-- A hub's I3C target (R369, R370, R439). -/
structure I3c where
  dyn : Option Nat := none
  events : Nat := 0
  mwl : Nat := 257
  mrl : Nat := 256
  /-- The management reply slot that private reads return. -/
  sel : Nat := 0
  /-- In-band interrupts raised and not yet taken by the controller. -/
  ibi : List Byte := []
  /-- Data of the last transfer toward the controller, and whether the last transfer was acknowledged. -/
  out : List Byte := []
  ack : Bool := false
deriving DecidableEq, Repr, Inhabited

/-- The boundary registers of one hub (Tables 13-1, 13-2, 15-11, 15-12). -/
structure Regs where
  fw : Fw := .boot
  bank : Nat := 0
  intStatus : BitVec 64 := 0
  intEnable : BitVec 64 := 0
  msiAddr : BitVec 64 := 0
  msiData : BitVec 64 := 0
  refused : Nat := 0
  monSel : BitVec 64 := 0
  bootFail : Nat := 0
  bootSource : Nat := 0
  fallback : Bool := false
  fabUp : Bool := false
  tlmUp : Bool := false
  /-- HUB_AGE: age units since reset. -/
  age : Nat := 0
  /-- HUB_ALMGEN. -/
  almGen : Nat := 0
deriving DecidableEq, Repr, Inhabited

/-! ## Scheduler, ledger and operating points of one hub (R227 to R239) -/

/-- What a task does (Table 8-1). -/
inductive TaskKind where
  | pool
  | combine
  | accumulate
  | program
  | requant
  | transform
deriving DecidableEq, Repr, Inhabited

/-- A task: the smallest piece of work placed on chains (R227). -/
structure Task where
  id : Nat := 0
  kind : TaskKind := .pool
  ring : Nat := 0
  p : Nat := 0
  cls : Nat := 1
  job : Nat := 0
  /-- The row die whose clusters run it; none for the hub's own clusters. -/
  stack : Option Nat := none
  /-- Local row of a task of one row. -/
  row : Option Nat := none
  /-- Operations charged (Table 8-1). -/
  ops : Nat := 0
  readyAge : Nat := 0
  fillAge : Nat := 0
  pickOrder : Nat := 0
  promoted : Bool := false
  /-- Energy per operation it was charged at, in fJ. -/
  rate : Nat := 0
  /-- Energy charged so far in fJ, and the whole estimate. -/
  charged : Nat := 0
  estimate : Nat := 0
  cluster : Nat := 0
  chain : Nat := 0
  ctx : Nat := 0
  /-- Tasks, as (hub, number), whose results it works on and that have not ended: until then it is not ready (R230). -/
  after : List (Nat × Nat) := []
  /-- Figures mode: the hub runs all such tasks on one chain (R91, R151). -/
  single : Bool := false
  /-- The cluster and chain on which an error ended its run: it starts again on another chain (R164). -/
  avoid : Option (Nat × Nat) := none
deriving DecidableEq, Repr, Inhabited

/-- The operating point of a cluster: 0 Glide, 1 Stride, 2 Sprint (R238, R239). -/
structure Point where
  point : Nat := 0
  target : Nat := 0
  chosenAge : Nat := 0
  changeAge : Nat := 0
deriving DecidableEq, Repr, Inhabited

/-- A hub's scheduler, energy ledger and Snowplow shares (R230 to R236). Energies in femtojoules. -/
structure Sched where
  budget : Nat := 1000
  mainBal : Nat := 0
  reserve : Nat := 0
  rtres : Nat := 16000
  horizon : Nat := 10000
  shareRead : Nat := 36
  shareWrite : Nat := 16
  shareRemote : Nat := 12
  /-- Budget of a lost hub added to this one's until the next LEDGER_SET for either (R236): (lost hub, budget). -/
  adopted : List (Nat × Nat) := []
  /-- A budget set takes effect at the next age unit (R236). -/
  newBudget : Bool := false
  /-- The cap in force: 10,000 age units of credit, in femtojoules (R233). -/
  capNow : Nat := 12500000000000
  ready : List Task := []
  running : List Task := []
  nextTask : Nat := 1
  points : Tbl Point := []
deriving DecidableEq, Repr, Inhabited

/-! ## Row cache, Mogul and translation cache of one hub (R277 to R299, R307 to R310) -/

/-- A line: one 256-byte granule of stack memory (R278). A line is a clean copy, so its bytes are those of memory (R277). -/
structure Line where
  ch : Nat := 0
  row : Nat := 0
  part : Nat := 0
  zero : Bool := false
  /-- Commits in flight that hold the line (R277, R291). -/
  held : Nat := 0
  /-- A service copy of repair, march test or re-layout (R297). -/
  service : Bool := false
  /-- The granules (channel, row) of the row it belongs to, when a slot spans several: cached whole or not at all (R283). -/
  mates : List (Nat × Nat) := []
  /-- The slice's count of fills when it was admitted: CACHE_FLUSH leaves what was admitted after it was accepted (R299). -/
  born : Nat := 0
deriving DecidableEq, Repr, Inhabited

/-- A set of a cache with its tree of 15 pseudo-LRU bits; bit n of `tree` is b(n) (R286). -/
structure CSet where
  tree : Nat := 0
  ways : Tbl Line := []
deriving DecidableEq, Repr, Inhabited

/-- A cache of 16 ways: sets that are not empty, frames and ways disabled, and errors counted per frame (R286, R296). -/
structure Cache where
  sets : Tbl CSet := []
  disFrames : List (Nat × Nat) := []
  disWays : Nat := 0
  /-- Uncorrectable and corrected errors of a frame, keyed by set times 16 plus way. -/
  errs : Tbl (Nat × List Nat) := []
  /-- Frames that are disabled when the commit or service that holds them retires: (set, way, cause) (R296). -/
  due : List (Nat × Nat × Nat) := []
deriving DecidableEq, Repr, Inhabited

/-- A fill on its way to the home hub (R280, R288, R290). -/
structure Fill where
  id : Nat := 0
  granules : List (Nat × Nat) := []
  part : Nat := 0
  preload : Bool := false
  demand : Bool := true
  stale : Bool := false
deriving DecidableEq, Repr, Inhabited

/-- A Mogul candidate (R289). -/
structure Mogul where
  table : Nat := 0
  lrow : Nat := 0
  count : Nat := 0
deriving DecidableEq, Repr, Inhabited

/-- A hub's row-cache slice and Mogul (R281 to R289, R296, R379). -/
structure Slice where
  cache : Cache := {}
  fills : List Fill := []
  nextFill : Nat := 1
  /-- Evicted lines offered to the row die (R292). -/
  offers : List Line := []
  hits : Nat := 0
  admissions : Nat := 0
  offersAccepted : Nat := 0
  offersDeclined : Nat := 0
  zeroLines : Nat := 0
  mogul : Tbl (List Mogul) := []
  fetches : Nat := 0
  snapshot : Option (List Mogul) := none
deriving DecidableEq, Repr, Inhabited

/-- A cached translation: one leaf's, or one run's (R306, R307). -/
structure XEntry where
  job : Nat := 0
  /-- log2 of the page size: 16, 21 or 30. -/
  lg : Nat := 16
  va : Nat := 0
  /-- Further pages of the run it covers. -/
  run : Nat := 0
  addr : Nat := 0
  target : Nat := 0
  rights : Nat := 0
deriving DecidableEq, Repr, Inhabited

structure XSet where
  tree : Nat := 0
  ways : Tbl XEntry := []
deriving DecidableEq, Repr, Inhabited

/-- Who needs a translation (R314 to R316). -/
inductive Who where
  /-- The bytes of the ring's slot at HEAD. -/
  | slotBytes (ring : Nat)
  /-- The record or flag page of a picked-up slot. -/
  | recPage (ring p : Nat)
  /-- The status block of a ring. -/
  | status (ring : Nat)
  /-- The unit of a slot. -/
  | unit (ring p : Nat)
  /-- An inbound window access. -/
  | inbound (win : Nat)
  /-- A prefetch walk of a hub (R310). -/
  | ahead
deriving DecidableEq, Repr, Inhabited

/-- What Table 11-5 and R305 require of a page. -/
structure Need where
  va : Nat := 0
  read : Bool := false
  write : Bool := false
  update : Bool := false
  /-- 0 any target, 1 stack memory only, 2 capacity tier only. -/
  place : Nat := 0
  /-- 0 any domain, 1 the ordinary domain, 2 the privileged domain (R254). -/
  domain : Nat := 0
deriving DecidableEq, Repr, Inhabited

/-- A walk of a hub: the level whose entry it reads next, and that entry's table (R300, R309). -/
structure Walk where
  who : Who := .ahead
  job : Nat := 0
  need : Need := {}
  level : Nat := 0
  table : Nat := 0
  rt : Bool := false
  /-- Its read has been issued to the channel (R309). -/
  asked : Bool := false
  /-- A prefetch walk whose page an INVALIDATE named: its result is discarded (R310). -/
  discard : Bool := false
deriving DecidableEq, Repr, Inhabited

/-- A hub's translation cache and walkers (R307, R309). -/
structure Xlat where
  sets : Tbl XSet := []
  walks : Tbl Walk := []
  nextWalk : Nat := 1
deriving DecidableEq, Repr, Inhabited

/-- A hub's part of the digest exchange (R390, R391). -/
structure Digests where
  own : List DigestEntry := []
  theirs : List DigestEntry := []
  outgoing : List DigestEntry := []
  firstAge : Nat := 0
deriving DecidableEq, Repr, Inhabited

/-- One hub (R29, R33). -/
structure Hub where
  inService : Bool := false
  ringStop : Bool := false
  stewards : Nat := 8
  clusters : Nat := 64
  /-- Clusters of the hub die out of service, by slot (R28). -/
  deadClusters : Nat := 0
  spares : Nat := 4
  regs : Regs := {}
  /-- Pairs 0 to 63 of the fabric mailbox, then 64 to 67 of the management mailbox. -/
  pairs : Tbl Pair := []
  i3c : I3c := {}
  tap : Tap := {}
  sched : Sched := {}
  slice : Slice := {}
  xlat : Xlat := {}
  digests : Digests := {}
  sems : Tbl (BitVec 64) := []
  /-- Age units since the last heartbeat of its functions (R410). -/
  missed : Nat := 0
  /-- A LEDGER_SET naming the hub has been applied since its loss (Table 15-8, DETAIL 6). -/
  rebudgeted : Bool := false
  /-- The age at which a frame last left through its Telemark link, and the sequence number of that frame (R385). -/
  lastSent : Nat := 0
  fseq : Nat := 0
  /-- The age at which a frame last arrived on its link, or at which the pairing began (R399). -/
  heard : Nat := 0
  /-- The standby bank of its steward memory holds the staged image (R429). -/
  standby : Bool := false
  /-- The identification of its cache die (R422). -/
  dieId : Nat := 0
  /-- HUB_SERVICE ADMIT under way: the gates of the group's row dies answer Wait to new batches (R433). -/
  admitting : Bool := false
deriving DecidableEq, Repr, Inhabited

/-! ## Row dies, channels and stacks (R104, R112, R116, R117, R132 to R142, R240 to R276) -/

/-- Traffic classes of Snowplow. -/
inductive Traffic where
  | read
  | write
  | remote
deriving DecidableEq, Repr, Inhabited

/-- What a queued channel request serves. -/
inductive ReqFor where
  | row (ring p lrow : Nat)
  | drain
  | outside
  | scrub
  /-- The page-table read of a hub's walk (R309). -/
  | walk (hub id : Nat)
  /-- A row or granule brought into the row buffer, at the victim position or not, and then up to the home hub (R213, R290, R294). -/
  | fill (part : Nat) (locs : List (Nat × Nat)) (toward up preload : Bool)
  /-- A row program's read, or the work of REQUANT, re-derivation, a repair, a test or a re-layout. -/
  | work
deriving DecidableEq, Repr, Inhabited

/-- A request in a channel controller's queue (R255, R256). -/
structure Req where
  what : ReqFor := .drain
  traffic : Traffic := .read
  /-- Order in which Snowplow holds it: 0 real-time, 1 training, 2 background, 3 prefetch (R245). -/
  prio : Nat := 1
  row : Nat := 0
  atoms : Nat := 1
  isWrite : Bool := false
deriving DecidableEq, Repr, Inhabited

/-- A test on a channel (R275, R276). -/
structure ChanTest where
  mode : Nat := 0
  first : Nat := 0
  last : Nat := 0
  pattern : Nat := 0
  reads : Nat := 0
  next : Nat := 0
  scrub : Bool := false
  errors : Nat := 0
deriving DecidableEq, Repr, Inhabited

/-- One channel controller (R241 to R245, R255 to R257, R275). -/
structure Chan where
  lost : Bool := false
  /-- The narrow and the wide queue, and the requests that wait for an entry: at the row die's input, and at their source; oldest first
  (R242, R255). -/
  narrow : List Req := []
  wide : List Req := []
  narrowIn : List Req := []
  wideIn : List Req := []
  /-- Atom slots left in the frame for READ, WRITE and REMOTE, and slots withheld by heat. -/
  leftRead : Nat := 0
  leftWrite : Nat := 0
  leftRemote : Nat := 0
  lastBorrow : Traffic := .remote
  /-- The level-3 throttle holds the channel idle. -/
  idle : Bool := false
  /-- The real-time slot whose request group has started transferring, and whether an idle period waits for its end (R241). -/
  serving : Option (Nat × Nat) := none
  idleDue : Bool := false
  refreshes : Tbl Nat := []
  test : Option ChanTest := none
  /-- Lanes replaced: data or check lanes, command and address lane of its pair. -/
  spareLanes : Nat := 2
  spareCa : Nat := 1
  /-- Corrections per DRAM page with the ages at which they were counted, keyed by bank times 2^24 plus page. -/
  corrections : Tbl (List Nat) := []
  /-- Pages with an uncorrectable error, with age, and pages retired for good. -/
  badPages : List (Nat × Nat) := []
  gone : List Nat := []
  candidates : List Nat := []
  repaired : List Nat := []
  /-- What PATTERN has written: DRAM pages, as bank times 2^24 plus page, with the pattern (R275). -/
  patterns : Tbl Nat := []
  /-- Spare rows the stack reports per bank (R267). -/
  spareRows : Tbl Nat := []
  /-- Corrections per DRAM page that the stack's own code has counted, as the stack reports them (Table 9-1). -/
  onDie : Tbl Nat := []
  recalAge : Nat := 0
deriving DecidableEq, Repr, Inhabited

/-- A write the write-combining buffer has accepted and not drained (R258): the write itself is already visible. -/
structure WcbEntry where
  addr : Nat := 0
  len : Nat := 0
  /-- It came from outside the engine: REMOTE traffic (R332). -/
  remote : Bool := false
  /-- Class of the work that made it: 0 real-time, 1 training, 2 background (R245). -/
  cls : Nat := 1
deriving DecidableEq, Repr, Inhabited

/-- An accumulator record (R104, R132, Table 5-1). -/
structure Acc where
  job : Nat := 0
  sbseq : Nat := 0
  tidx : Nat := 0
  held : Bool := false
  long : Bool := false
  nf : Bool := false
  vec : List Word := []
deriving DecidableEq, Repr, Inhabited

/-- An overflow-log entry (R117, R416). -/
structure LogEntry where
  table : Nat := 0
  lrow : Nat := 0
  bseq : Nat := 0
  acc : Acc := {}
  spill : Option (List Word) := none
  remain : List (List Word) := []
deriving DecidableEq, Repr, Inhabited

/-- A class 1 journal entry: the updated master record and where it goes (R116). -/
structure Journal where
  table : Nat := 0
  lrow : Nat := 0
  bseq : Nat := 0
  record : List Byte := []
  /-- Where the record lies in the capacity tier: (offset, host physical address, length). -/
  parts : List (Nat × Nat × Nat) := []
  acked : Bool := false
  lost : Bool := false
deriving DecidableEq, Repr, Inhabited

/-- The in-progress record of a table at a row die (R112). -/
structure InProg where
  bseq : Nat := 0
  digest : Nat := 0
  /-- The highest local row committed, if any. -/
  cursor : Option Nat := none
  /-- Rows above the cursor whose run has been added (R118: a resumed share adds each contribution once). -/
  added : List Nat := []
  feedHub : Nat := 0
  /-- The feeding hub is lost, or the host link was lost under R349: the record can be resumed. -/
  orphan : Bool := false
deriving DecidableEq, Repr, Inhabited

/-- Replay state of a table at a row die (R112). -/
structure Replay where
  applied : Nat := 0
  inprog : Option InProg := none
  /-- Digests of the last eight batches applied, newest first: (BSEQ, digest). -/
  last : List (Nat × Nat) := []
deriving DecidableEq, Repr, Inhabited

/-- A page that a slot's unit holds translated: an in-flight use (R311). -/
structure Page where
  /-- 64 KiB virtual page number. -/
  vpn : Nat := 0
  target : Nat := 0
  /-- Address of the page's first byte: physical, host physical, or window and offset. -/
  addr : Nat := 0
  rights : Nat := 0
  /-- The model's own number of the use: those taken before a moment have numbers below the count at that moment (log 88). -/
  use : Nat := 0
deriving DecidableEq, Repr, Inhabited

/-- A row's sorted run: the contributions to one row in run order (R103). -/
structure Run where
  lrow : Nat := 0
  contribs : List (List Word) := []
deriving DecidableEq, Repr, Inhabited

/-- A batch's share at a row die (R111). -/
structure Share where
  job : Nat := 0
  bseq : Nat := 0
  ring : Nat := 0
  p : Nat := 0
  runs : List Run := []
  apply : Bool := false
  skip : Bool := false
  prog : Nat := 0
  params : List Word := []
  /-- ACCMODE 1: add to a pending accumulator (R105). -/
  addMode : Bool := false
  /-- Rows with a header that fails, lowest first, with the status (R445). -/
  failRow : Option (Nat × Nat) := none
  /-- Rows the apply has passed, so that the next one is above. -/
  passed : Option Nat := none
  accLost : Nat := 0
  counters : List Nat := []
  /-- Rows and class 1 master records of the share as translated: (offset, address, length), by local row. -/
  slots : Tbl (List (Nat × Nat × Nat)) := []
  masters : Tbl (List (Nat × Nat × Nat)) := []
  /-- Pages that the batch uses until it retires (R120). -/
  pages : List Page := []
deriving DecidableEq, Repr, Inhabited

/-- An entry of a row die's scoreboard: the accumulator slot (table, local row) and the granules it names (R135). -/
structure SbEntry where
  /-- 2^20, which no table has, for an entry that names granules only. -/
  table : Nat := 1048576
  lrow : Nat := 0
  /-- The operation has done its work; it retires when SCOREBOARD_RETIRE says so. -/
  finished : Bool := true
  /-- Cache lines that its commit holds (R291): (channel, granule row). -/
  holds : List (Nat × Nat) := []
  /-- Granules that it reads or writes (R259, R272, R276). -/
  granules : List (Nat × Nat) := []
  /-- Service copies in the row buffer that it holds (R297). -/
  copies : List (Nat × Nat) := []
deriving DecidableEq, Repr, Inhabited

/-- A row die with its stack (Table 1-1). -/
structure RowDie where
  /-- 0 out of service, 1 in service, 2 being released, 3 being admitted (Table 15-6). -/
  st : Nat := 0
  /-- The stack is lost: its row die or hub die failed, or it stayed at thermal level 4 (Table 9-5). -/
  failed : Bool := false
  selfRefresh : Bool := false
  warmMarker : Bool := false
  active : Nat := 0
  ucieUp : Nat := 0
  clusters : Nat := 64
  deadClusters : Nat := 0
  spares : Nat := 4
  chans : Tbl Chan := []
  /-- Heat: the threshold in force, the last reading, the level, and the age of the last reading (R240 to R242). -/
  trep : Nat := 95
  reading : Int := 0
  level : Nat := 0
  readAge : Nat := 0
  gap : Bool := false
  level4Age : Nat := 0
  recalReading : Int := 0
  recalAge : Nat := 0
  /-- Row buffer (R282, R297). -/
  buffer : Cache := {}
  /-- Page-table entries of the entry cache, by physical address, newest first (R308). -/
  entries : List Nat := []
  wcb : List WcbEntry := []
  board : List SbEntry := []
  /-- Pending accumulators, keyed by table times 2^40 plus local row. -/
  accs : Tbl Acc := []
  /-- Accumulators and log entries that are lost and that no batch has found yet (R126), keyed alike, with the CAUSE of their event. -/
  lostAccs : Tbl Nat := []
  log : List LogEntry := []
  journals : List Journal := []
  /-- Twin journal: (table, local row, BSEQ), and the tables whose journal overflowed (R401). -/
  twinJournal : List (Nat × Nat × Nat) := []
  replay : Tbl Replay := []
  shares : Tbl Share := []
  /-- Copies kept in the reserve that have been rewritten elsewhere, by twice the object's code plus the copy: how often (R265). -/
  rewrites : Tbl Nat := []
  /-- Disable records in its stack's reserve: those of its row buffer, and on the first stack of a group those of the hub's slice (R296). -/
  disableRecs : List (BitVec 128) := []
  /-- Repair-ledger records (Table 9-4). -/
  ledger : List (BitVec 128) := []
  dieId : Nat := 0
deriving DecidableEq, Repr, Inhabited

/-! ## Jobs, tables, programs, rings, slots in flight (R44 to R54, R165 to R168, R189 to R226, R375) -/

/-- An open job slot (R375). -/
structure Job where
  root : Nat := 0
  weight : Nat := 1
  semBase : List Nat := []
  semCount : List Nat := []
  /-- Step non-finite count (R110). -/
  nfCount : Nat := 0
  /-- Energy charged since JOB_OPEN, in fJ (R230). -/
  charged : Nat := 0
  /-- Current epoch of each Solstice number; 1 when not listed (R219). -/
  epochs : Tbl Nat := []
  closing : Bool := false
deriving DecidableEq, Repr, Inhabited

/-- A defined table: its descriptor (Tables 2-2, 2-3) and what the engine keeps of it. -/
structure TableSt where
  desc : BitVec 512 := 0
  retiring : Bool := false
  /-- Drift counters (R154). -/
  recodes : Nat := 0
  satRows : Nat := 0
  stagnant : Nat := 0
  /-- The table is re-sharding (R354). -/
  reshard : Bool := false
  /-- Twin: journal overflowed, resync incomplete, marked for a sweep, digests exchanged (R391, R401, R404, R388). -/
  overflowed : Bool := false
  incomplete : Bool := false
  marked : Bool := false
  exchanging : Bool := false
deriving DecidableEq, Repr, Inhabited

/-- A loaded Waskaob program (R166, R167). -/
structure Prog where
  job : Nat := 0
  handle : Nat := 0
  kind : Nat := 0
  base : Nat := 0
  code : List Word := []
  tag : Nat := 0
  boundS : Nat := 0
  boundP : Nat := 0
  unloading : Bool := false
deriving DecidableEq, Repr, Inhabited

/-- Why ERROR is in force and what it concerns (R224, R316). -/
inductive ErrOf where
  | none
  | slot (p : Nat)
  /-- The read of slot HEAD gave a halting status. -/
  | head
  /-- A write of the status block gave a halting status. -/
  | status
  /-- The record or flag page of a picked-up slot gave a halting status. -/
  | recPage (p : Nat)
deriving DecidableEq, Repr, Inhabited

/-- A stream ring (R189 to R226). -/
structure Ring where
  desc : BitVec 512 := 0
  xparam : List Word := []
  head : Nat := 0
  tail : Nat := 0
  done : Nat := 0
  /-- Halt reasons in force, bits 0 to 4: FAULT, ERROR, OVERRUN, REQUEST, HOSTLOST (Table 7-5). -/
  halt : Nat := 0
  haltPos : Nat := 0
  haltTile : Nat := 0
  haltStatus : Nat := 0
  err : ErrOf := .none
  /-- Slots at or above DONE whose record has been written. -/
  written : List Nat := []
  /-- Age at which the fill signal that made a slot ready was latched: (first slot it made ready, age). -/
  fills : List (Nat × Nat) := []
  /-- Age at which slot HEAD met the conditions of R201. -/
  eligible : Option Nat := none
  /-- Age since which slot HEAD's SSEQ has differed (R200). -/
  staleSince : Option Nat := none
  destroying : Bool := false
  /-- A fault on the status block's page holds a write of it (R316). -/
  statusHeld : Bool := false
  /-- The slot bytes of slot HEAD faulted (R316). -/
  headFault : Bool := false
  /-- Host-lost record: FIRSTSLOT, LASTSLOT, WHAT (Table 12-5). -/
  hostLost : Option (Nat × Nat × Nat) := none
  /-- Slots that RETRY asked for and that have not been picked up again, in the order asked (R225). -/
  retry : List Nat := []
  /-- The slot to be picked up lies behind a window: its read has been sent, and its bytes once they have come (R323). -/
  slotAsked : Bool := false
  slotBytes : Option (List Byte) := none
deriving DecidableEq, Repr, Inhabited

/-- A distinct row of a tile (R83). -/
structure Fetch where
  lrow : Nat := 0
  /-- Physical address of each 64 KiB piece's bytes: (offset in the slot, address, length). -/
  pieces : List (Nat × Nat × Nat) := []
  stack : Nat := 0
  ch : Nat := 0
  got : Bool := false
  poisoned : Bool := false
  nonfinite : Bool := false
  elems : List Word := []
deriving DecidableEq, Repr, Inhabited

/-- One term of a bag: its slot position, row, weight (R76). -/
structure Term where
  k : Nat := 0
  lrow : Nat := 0
  weight : Word := 0
deriving DecidableEq, Repr, Inhabited

/-- A bag of the running tile, or one gathered position (R78, R81). -/
structure Bag where
  j : Nat := 0
  count : Nat := 0
  terms : List Term := []
  /-- Stacks whose partial is still to be combined, rising (R87). -/
  left : List Nat := []
  acc : Option (List Word) := none
  finished : Bool := false
deriving DecidableEq, Repr, Inhabited

/-- A lookup slot at work (R82 to R91). -/
structure Lookup where
  /-- First bag and first slot position of the running tile. -/
  bag0 : Nat := 0
  pos0 : Nat := 0
  running : Bool := false
  fetches : List Fetch := []
  bags : List Bag := []
  /-- First bag and position of the next tile. -/
  bag1 : Nat := 0
  pos1 : Nat := 0
  tileCounts : List Nat := []
  /-- The shard fields read at pickup (R354): descriptor as it stood. -/
  desc : BitVec 512 := 0
  checked : Bool := false
  /-- The tile's indices have been given to the ring's index transform as tasks (R156, R227). -/
  transformed : Bool := false
  /-- Rows of the next tile whose pages are translated and whose reads are under way while other pages are awaited (R84). -/
  early : List Nat := []
deriving DecidableEq, Repr, Inhabited

/-- Decisions of the gate (Table 4-7). -/
inductive Gate where
  | stale
  | replay
  | mismatch
  | wait
  | resume
  | start
deriving DecidableEq, Repr, Inhabited

/-- An update batch at its stream's hub (R97 to R130). -/
structure Update where
  /-- The slot's own checks are done; they are done again when it starts again (R121). -/
  checked : Bool := false
  distributed : Bool := false
  /-- The batch's indices have been given to the ring's index transform as tasks (R156, R227). -/
  transformed : Bool := false
  digest : Nat := 0
  /-- Runs for each stack, in increasing local row. -/
  runs : Tbl (List Run) := []
  padded : Nat := 0
  notHere : Nat := 0
  nfContrib : Nat := 0
  /-- Form 1 with BMODE 1 or 2: each contribution is charged 3W (Table 8-1). -/
  weighted : Bool := false
  gates : Tbl Gate := []
  /-- SKIPNF decision read when the gate requests were sent (R110). -/
  skip : Bool := false
  asked : Bool := false
  started : Bool := false
  /-- Stacks whose share has not retired. -/
  open_ : List Nat := []
  counters : List Nat := []
  accLost : Bool := false
  failRow : Option (Nat × Nat) := none
deriving DecidableEq, Repr, Inhabited

/-- A slot over a range of rows: REQUANT, ZERO_ROWS, COPY_PERMUTE, DIGEST_EXCHANGE, PREFETCH_ROWS. -/
structure Rows where
  next : Nat := 0
  last : Nat := 0
  committed : Bool := false
  /-- PREFETCH_ROWS: distinct held rows left, and fills made. -/
  todo : List Nat := []
  /-- PREFETCH_ROWS: rows whose reads are under way. -/
  asked : List Nat := []
  plan : List (BitVec 128) := []
  verified : Bool := false
  started : Bool := false
  desc : BitVec 512 := 0
  /-- The row whose class 1 master record has been written toward the capacity tier, and whether the write has been acknowledged (R67). -/
  sent : Option Nat := none
  acked : Bool := false
deriving DecidableEq, Repr, Inhabited

/-- What the opcode needs besides the slot. -/
inductive WorkData where
  | none
  | lookup (l : Lookup)
  | update (u : Update)
  | rows (r : Rows)
  | solstice (windows : List Nat) (sent : Bool)
deriving DecidableEq, Repr, Inhabited

/-- Where a slot in flight stands. -/
inductive Phase where
  /-- Its unit is to be translated and worked. -/
  | active
  /-- Halted on a fault. -/
  | faulted
  /-- Every output and commit has reached visibility: SLOT_COMPLETE writes the record (R206). -/
  | visible
deriving DecidableEq, Repr, Inhabited

/-- A picked-up slot (R202, R208). -/
structure Work where
  ring : Nat := 0
  p : Nat := 0
  slot : BitVec 2048 := 0
  cls : Nat := 1
  job : Nat := 0
  order : Nat := 0
  startAge : Nat := 0
  /-- Age at which the deadline's measurement began (R221). -/
  deadlineAge : Nat := 0
  /-- Age units the timeout clock has been stopped, and since when it stands (R220). -/
  stopped : Nat := 0
  stoppedSince : Option Nat := none
  phase : Phase := .active
  status : Nat := 0
  position : Nat := 0
  counters : List Nat := []
  /-- R200 withholds the flag. -/
  noFlag : Bool := false
  /-- First slot of its merged group (R209). -/
  group : Option Nat := none
  retried : Bool := false
  deadline : Bool := false
  /-- Its record has been written. -/
  recorded : Bool := false
  /-- Its expiry was granted by the completion latch (R407). -/
  late : Bool := false
  lateAge : Nat := 0
  tile : Nat := 0
  pages : List Page := []
  /-- The page of its header and operand, translated at pickup (R311). -/
  slotPages : List Page := []
  /-- Pages of its record and flag, translated at pickup (R316). -/
  recPages : List Page := []
  /-- The record's or the flag's page faulted (R316). -/
  recFault : Bool := false
  /-- Bytes read through windows, keyed by window times 2^44 plus offset (R323). -/
  remote : Tbl Byte := []
  /-- Outbound window accesses sent and not answered, and the answer that ends the slot (R323). -/
  outstanding : Nat := 0
  /-- Outbound window reads sent and not answered, oldest first: (window, offset, length). -/
  reads : List (Nat × Nat × Nat) := []
  winStatus : Nat := 0
  /-- The host link was lost while it wrote or read host memory: bits as WHAT of Table 12-5. -/
  hostWhat : Nat := 0
  hostAffected : Bool := false
  /-- HOSTLOST_READ with ACK has cleared its ring, so that its record is due in slot order (R350). -/
  hostAcked : Bool := false
  /-- Some of its writes toward host memory are held while the link retrains (R337, R346). -/
  hostHeld : Bool := false
  /-- The host system never acknowledges some of its writes (R446). -/
  hostMute : Bool := false
  data : WorkData := .none
deriving DecidableEq, Repr, Inhabited

/-! ## Faults, windows, regions, migration (R314 to R327, R341 to R345) -/

/-- A requester of a Harvest record (R317, R318). -/
structure Requester where
  kind : Nat := 0
  id : Nat := 0
  sseq : Nat := 0
  who : Who := .ahead
deriving DecidableEq, Repr, Inhabited

/-- A Harvest record (R317, R318). -/
structure Harvest where
  hseq : Nat := 0
  job : Nat := 0
  vpn : Nat := 0
  kind : Nat := 0
  level : Nat := 0
  retired : Bool := false
  need : Nat := 0
  reqs : List Requester := []
  opened : Bool := true
  delivered : Bool := false
  age : Nat := 0
deriving DecidableEq, Repr, Inhabited

/-- A fault that waits for room among the open records (R317). -/
structure LateFault where
  job : Nat := 0
  vpn : Nat := 0
  kind : Nat := 0
  level : Nat := 0
  retired : Bool := false
  need : Nat := 0
  req : Requester := {}
deriving DecidableEq, Repr, Inhabited

/-- The Harvest store of the leader (R317 to R319). -/
structure HarvestStore where
  records : List Harvest := []
  waiting : List LateFault := []
  nextSeq : Nat := 1
  armed : Bool := false
  base : Nat := 0
  lgN : Nat := 6
  sem : Nat := 0
  gdelay : Nat := 100
  hprod : Nat := 0
deriving DecidableEq, Repr, Inhabited

/-- A migration in progress (R326): pages left, in increasing address order, with their destinations. -/
structure Migration where
  job : Nat := 0
  va : Nat := 0
  pages : Nat := 0
  dest : Nat := 0
  demote : Bool := false
  /-- Bytes of the range already moved. -/
  next : Nat := 0
  /-- Bytes, with the rest of its run, of the page that it moves next, and where the piece moved last begins. -/
  span : Nat := 65536
  last : Nat := 0
  /-- Uses of the piece moved last that were taken before this count have still to end. -/
  drain : Nat := 0
  hub : Nat := 0
  key : Nat := 0
deriving DecidableEq, Repr, Inhabited

/-- A signal latched for a region's arrival semaphore (R345), or a Solstice arrival accepted through a window and not yet applied (R339). -/
structure Arrival where
  hub : Nat := 0
  sem : Nat := 0
  count : Nat := 1
  job : Nat := 0
  /-- The window entry that it came through. -/
  win : Option Nat := none
  /-- A Solstice arrival: (SOLID, epoch). -/
  sol : Option (Nat × Nat) := none
deriving DecidableEq, Repr, Inhabited

/-- An outbound Solstice arrival or release that has not been acknowledged (R219). -/
structure Unacked where
  job : Nat := 0
  solid : Nat := 0
  epoch : Nat := 0
  /-- Through a window, or to a hub: a release. -/
  win : Option Nat := none
  hub : Nat := 0
  use : Nat := 0
deriving DecidableEq, Repr, Inhabited

/-- An outbound window access that no receiver has answered yet, under its ring and slot as in `Out` (R322, R323). -/
structure WinOut where
  use : Nat := 0
  ring : Nat := 0
  p : Nat := 0
  win : Nat := 0
  read : Bool := false
deriving DecidableEq, Repr, Inhabited

/-- One Solstice instance at the leader (R217 to R219). -/
structure Barrier where
  job : Nat := 0
  solid : Nat := 0
  epoch : Nat := 0
  /-- Rings arrived, with their slots. -/
  rings : List (Nat × Nat) := []
  /-- The window list of the first arrival. -/
  windows : List Nat := []
  nrings : Nat := 0
  remote : List Nat := []
  sent : Bool := false
  clear : Bool := false
  /-- Some local ring has arrived. -/
  opened : Bool := false
deriving DecidableEq, Repr, Inhabited

/-! ## Messages in progress, leadership (R30 to R32, R361 to R367) -/

/-- The object a message names (R366). -/
inductive Obj where
  | none
  | table (t : Nat)
  | ring (r : Nat)
  | prog (job handle : Nat)
  | job (j : Nat)
  | partition (q : Nat)
  | allPartitions
  | window (w : Nat)
  | region (r : Nat)
  | harvest (h : Nat)
  | stack (s : Nat)
  | hub (h : Nat)
  | layout
  | twin
  | firmware
  | migration (job va pages : Nat)
deriving DecidableEq, Repr, Inhabited

/-- A message whose PENDING reply stands (R361, R366, R367). -/
structure PendMsg where
  /-- The posting hub, or 4 once that hub is lost: the work goes on and its reply has no slot. -/
  hub : Nat := 0
  key : Nat := 0
  code : Nat := 0
  /-- The copy that firmware keeps until the DONE reply (R411). -/
  copy : Nat := 0
  obj : Obj := .none
  /-- It waits behind an earlier message on its object and has not been applied. -/
  behind : Bool := false
  /-- Slots in flight whose end it waits for, by the order of their pickups; or one count of uses: it waits for the uses below it. -/
  waits : List Nat := []
  /-- Figures for its DONE reply. -/
  aux : List Nat := []
deriving DecidableEq, Repr, Inhabited

/-- A window read that a message's work has sent, with its bytes or its status once it is answered (R323, R364). -/
structure MsgRead where
  hub : Nat := 0
  key : Nat := 0
  win : Nat := 0
  off : Nat := 0
  len : Nat := 0
  got : Option (List Byte) := none
  status : Nat := 0
deriving DecidableEq, Repr, Inhabited

/-- A leader record (R32): the origin of an engine-wide message and its result, in the reserve of those of stacks 0, 3, 6 and 9 that were in
service. -/
structure LeaderRec where
  hub : Nat := 0
  key : Nat := 0
  tag : Nat := 0
  code : Nat := 0
  status : Nat := 0
  detail : Nat := 0
  body : Nat := 0
  /-- Bytes of the reply. -/
  len : Nat := 0
  copies : List Nat := []
deriving DecidableEq, Repr, Inhabited

/-! ## Layout, twin, boot store, dump (R247 to R252, R383 to R404, R412 to R424) -/

/-- The layout: channel lists and zone lists of the two domains (R248 to R252). A zone is (length in bytes, unit). -/
structure Layout where
  ord : List Nat := []
  priv : List Nat := []
  zord : List (Nat × Nat) := [(0, 1)]
  zpriv : List (Nat × Nat) := [(0, 1)]
  /-- Pseudo-channels designated privileged, one mask for each stack. -/
  privMask : List Nat := []
deriving DecidableEq, Repr, Inhabited

/-- A plan: the layout it makes, its LAYOUTID and how it came (R271). -/
structure Plan where
  layout : Layout := {}
  id : Nat := 0
  mapout : Bool := false
  /-- Pseudo-channels it maps out, as channel numbers. -/
  out : List Nat := []
  posted : Bool := false
deriving DecidableEq, Repr, Inhabited

/-- A re-layout that runs (R272, R273). -/
structure Relayout where
  plan : Plan := {}
  old : Layout := {}
  /-- Stripes of the new layout left to copy, from the highest down. -/
  left : Nat := 0
deriving DecidableEq, Repr, Inhabited

/-- Table 14-3. -/
inductive TwinState where
  | unpaired
  | pairing
  | paired
  | resync
  | solo
deriving DecidableEq, Repr, Inhabited

/-- A repair fence on a table (R393 to R395) or on a sweep's tile (R397). -/
structure Fence where
  table : Nat := 0
  /-- Step of Table 14-4 reached: 1 requested, 2 started sent, 3 reached sent, 4 repairing. -/
  step : Nat := 1
  age : Nat := 0
  own : Option Nat := none
  theirs : Option Nat := none
  reachedOwn : Bool := false
  reachedTheirs : Bool := false
  /-- This engine started it and releases it. -/
  lead : Bool := true
  /-- Rows under repair at step 4: (local row, BSEQ, stage). Stages 0 to 3 are the outcome so far (Table 14-10, MISMATCH), 8 a row that
  the twin asked about, 9 a row of a sweep's tile not yet compared. -/
  rows : List (Nat × Nat × Nat) := []
  /-- A sweep's tile: first local row and count, and whether to repair. -/
  sweep : Option (Nat × Nat) := none
  repair : Bool := true
  /-- The DIGEST_EXCHANGE slot that drives it. -/
  slot : Option (Nat × Nat) := none
deriving DecidableEq, Repr, Inhabited

/-- A resynchronisation of a table (R402, R403). -/
structure Resync where
  table : Nat := 0
  full : Bool := false
  /-- Passes made; a full first pass goes up to row `next`. -/
  pass : Nat := 0
  next : Nat := 0
  /-- Entries of each stack's journal that the passes made have covered. -/
  marks : List Nat := []
  /-- H of step 5. -/
  hold : Option Nat := none
deriving DecidableEq, Repr, Inhabited

/-- A ROW frame's contents that wait to be committed: for the scoreboard, or for the acknowledgement of their class 1 master record (R67, R393,
R403). -/
structure TwinRow where
  row : RowPayload
  /-- The master record has been written toward the capacity tier, and the write has been acknowledged. -/
  sent : Bool := false
  acked : Bool := false
deriving DecidableEq, Repr

/-- The twin (R386 to R404). -/
structure Twin where
  state : TwinState := .unpaired
  role : Nat := 0
  pairId : Nat := 0
  lastPairId : Nat := 0
  receiver : Bool := false
  /-- RESYNC of this engine's TWIN_PAIR. -/
  resyncAsked : Bool := false
  primaryAsked : Bool := false
  pairAge : Nat := 0
  /-- Age of the leader at which PAIR frames were last sent (R386). -/
  pairSent : Option Nat := none
  /-- State in which TWIN_PAIR found the engine. -/
  before : TwinState := .unpaired
  gotPair : Bool := false
  fences : List Fence := []
  resyncs : List Resync := []
  /-- Sweeps still to run: (table, next row, last row plus 1, repair). -/
  sweeps : List (Nat × Nat × Nat × Bool) := []
  mismatches : Nat := 0
  /-- Rows that differ and are not yet under repair: (table, local row, BSEQ). -/
  mismatched : List (Nat × Nat × Nat) := []
  /-- Tables whose fence was abandoned, with its H (R395). -/
  abandoned : Tbl Nat := []
  /-- TWIN_UNPAIR PLANNED is under way. -/
  unpairing : Bool := false
  /-- Rows received and not yet committed, oldest first. -/
  rowsIn : List TwinRow := []
deriving DecidableEq, Repr, Inhabited

/-- A firmware bank: its header and the CRC of its body (R423, R424). -/
structure FwBank where
  header : BitVec 512 := 0
  bodyCrc : Nat := 0
  size : Nat := 0
deriving DecidableEq, Repr, Inhabited

/-- The boot store (R422): banks, selector, repair queue, disable records. -/
structure BootStore where
  bank0 : FwBank := {}
  bank1 : FwBank := {}
  active : Nat := 0
  otherState : Nat := 0
  selSeq : Nat := 0
  repairQueue : List (BitVec 128) := []
  disables : List (BitVec 128) := []
  disableSeq : Nat := 0
deriving DecidableEq, Repr, Inhabited

/-- The dump region record and the dump (R414, R415). -/
structure Dump where
  armed : Bool := false
  job : Nat := 0
  vbase : Nat := 0
  pages : Nat := 0
  svcPages : Nat := 0
  /-- Frames of the region, in page order. -/
  frames : List Nat := []
  state : Nat := 0
  cause : Nat := 0
  feseq : Nat := 0
  /-- A dump awaits reading: DUMPREADY of HELLO. -/
  ready : Bool := false
deriving DecidableEq, Repr, Inhabited

/-- What the host system does at a range of host physical addresses, which is its own affair (R446): reads are answered with an error
completion, or writes are never acknowledged. -/
structure HostRange where
  base : Nat := 0
  len : Nat := 0
  error : Bool := false
  mute : Bool := false
deriving DecidableEq, Repr, Inhabited

/-- The link between the processor dies and the package fabric (R346, R347). -/
inductive HostLink where
  | up
  | retraining (sinceHub since : Nat)
  | lost
deriving DecidableEq, Repr, Inhabited

/-- A monitor (R435). -/
structure Monitor where
  min : Nat := 0
  max : Nat := 0
  samples : Nat := 0
  bins : Tbl Nat := []
deriving DecidableEq, Repr, Inhabited

/-- A partition record of the row cache (Table 10-2). -/
structure Partition where
  locked : Nat := 0
  ways : Nat := 0xFFFF
  hot : Nat := 8
  zeroLine : Bool := true
  nlp : Bool := false
  offer : Bool := true
  wpol : Nat := 0
  admitPol : Nat := 1
deriving DecidableEq, Repr, Inhabited

/-- A payload of a Telemark frame that the engine sends (Table 14-2). -/
inductive TFrame where
  | pair (p : PairPayload)
  | alive
  | digest (entries : List DigestEntry)
  | fence (table : Nat) (phase : FencePhase) (bseq : Nat)
  | row (r : RowPayload)
  | sweep (table first : Nat) (rows : List (Nat × Nat))
  | resync (table applied : Nat) (digests : List (Nat × Nat))
  | unpair (cause : Nat)
deriving DecidableEq, Repr, Inhabited

/-- What every outbound window access carries, and the hub whose fabric port it leaves through (R323): this engine's coordinates, the
window's PEERWIN, and the page and offset within the window. -/
structure WinHead where
  port : Nat := 0
  x : Nat := 0
  y : Nat := 0
  z : Nat := 0
  peerWin : Nat := 0
  page : Nat := 0
  offset : Nat := 0
deriving DecidableEq, Repr, Inhabited

/-- What the engine sends to its surroundings, in the order sent. A window access of hub h's messages stands under ring 1024 + h, with the
pair's key for the slot. -/
inductive Out where
  /-- Interrupt write: one 4-byte posted write (R368). -/
  | msi (hub : Nat) (addr data : Nat)
  | winWrite (ring p win : Nat) (head : WinHead) (data : List Byte)
  | winRead (ring p win : Nat) (head : WinHead) (len : Nat)
  | winSignal (ring p win : Nat) (head : WinHead) (hub sem count : Nat)
  | winArrival (win : Nat) (head : WinHead) (job solid epoch : Nat)
  | release (hub job solid epoch : Nat)
  | arrivalAck (win solid epoch : Nat)
  | winAnswer (win : Nat) (ans : WinAnswer)
  | frame (link : Nat) (hdr : FrameHdr) (f : TFrame)
  /-- Completion of an inbound fabric access: data with a poison mark for each atom, an error completion, or done. -/
  | fabData (port : Nat) (data : List Byte) (poison : List Nat)
  | fabError (port : Nat) (data : List Byte)
  | fabDone (port : Nat)
  /-- A read or write of host memory, with the hub whose fabric port it leaves through (R330). -/
  | hostRead (port addr len : Nat)
  | hostWrite (port addr : Nat) (data : List Byte)
  /-- Report to the package manager (R236, R242). -/
  | pmReport (kind value : Nat)
deriving DecidableEq, Repr, Inhabited

/-- Power, pins and the way of the next start (R417 to R420). -/
structure Power where
  pwrgd : Bool := false
  rstn : Bool := false
  /-- The orderly stop that precedes the next start completed (R419). -/
  stopped : Bool := false
deriving DecidableEq, Repr, Inhabited

/-- The part of the state that belongs to the whole engine. -/
structure Eng where
  power : Power := {}
  leader : Nat := 0
  /-- A new leader has not yet begun to accept engine-wide messages (R31). -/
  passing : Bool := false
  leaderRecs : List LeaderRec := []
  /-- HELLO has been answered; the negotiated minor version and features (R372). -/
  hello : Bool := false
  minor : Nat := 0
  features : Nat := 0
  pend : List PendMsg := []
  /-- Window reads that messages have sent, in order. -/
  msgReads : List MsgRead := []
  /-- Outbound window accesses in flight, oldest first. -/
  winOut : List WinOut := []
  almGen : Nat := 0
  layout : Layout := {}
  plan : Option Plan := none
  relayout : Option Relayout := none
  /-- Map-outs that wait for the end of a re-layout: (cause, channels) (R269, R274). -/
  plansDue : List (Nat × List Nat) := []
  retired : List Nat := []
  /-- Frames listed in RETIRE events, with the DRAM page behind them: (frame, channel, bank, page). -/
  listed : List (Nat × Nat × Nat × Nat) := []
  partitions : Tbl Partition := []
  harvest : HarvestStore := {}
  windows : Tbl (BitVec 256) := []
  regions : Tbl (BitVec 256) := []
  arrivals : List Arrival := []
  migrations : List Migration := []
  barriers : List Barrier := []
  unacked : List Unacked := []
  events : List (BitVec 256) := []
  eseq : Nat := 0
  heldEvents : List (BitVec 256) := []
  twin : Twin := {}
  boot : BootStore := {}
  staged : Bool := false
  handover : Option (Nat × Nat) := none
  fwver : Nat := 0
  dump : Dump := {}
  host : HostLink := .up
  /-- Ranges at which the host system answers out of the ordinary; no command changes it (R446, log 89). -/
  hostMap : List HostRange := []
  monitors : Tbl Monitor := []
  /-- Age of its hub at which a level monitor last took a sample (R435), by the monitors' keys. -/
  sampled : Tbl Nat := []
  order : Nat := 0
  /-- The number that the next use of a page takes (log 88). -/
  nextUse : Nat := 1
deriving DecidableEq, Repr, Inhabited

/-- A write that a command makes: bytes of stack memory, bytes of host memory, atoms poisoned, whose bytes are lost, or healed (R264, R335). -/
inductive Wr where
  | mem (addr : Nat) (data : List Byte)
  | host (addr : Nat) (data : List Byte)
  /-- Atoms that arrive in host memory with the poison indication (R264, R326). -/
  | hostPoison (atoms : List Nat)
  /-- A header that a row die writes into an atom that stays poisoned (R264). -/
  | under (addr : Nat) (data : List Byte)
  /-- An interrupt write of hub h to the engine's own stack memory, made when the command ends (R368). -/
  | intr (hub addr : Nat) (data : List Byte)
  | poison (atoms : List Nat)
  | heal (atoms : List Nat)
  /-- Stack memory loses its contents (R417). -/
  | wipe
deriving DecidableEq, Repr

/-- The addressed memory. Each list is in its canonical form: addresses strictly rising, no byte equal to what an unlisted
address reads as. -/
structure Store where
  /-- Stack memory by physical address, both domains (R248). -/
  mem : List Host.Cell := []
  /-- Memory of the capacity tier by host physical address (R305). -/
  host : List Host.Cell := []
  /-- Poisoned atoms of stack memory: physical address divided by 64, strictly rising (R264). -/
  poison : List Nat := []
  /-- Atoms of host memory that answer reads with the poison indication: host physical address divided by 64, strictly rising (R446). -/
  hostPoison : List Nat := []
deriving DecidableEq, Repr, Inhabited

/-- Everything the engine holds but its addressed memory and the queue of commands. -/
structure Block where
  eng : Eng := {}
  hubs : Tbl Hub := []
  dies : Tbl RowDie := []
  jobs : Tbl Job := []
  tables : Tbl TableSt := []
  progs : List Prog := []
  rings : Tbl Ring := []
  /-- Slots in flight, keyed by ring times 2^65 plus slot. -/
  works : Tbl Work := []
  /-- What has been sent to the surroundings, oldest first. -/
  outbox : List Out := []
  /-- Writes toward host memory held while the host link retrains: (hub whose fabric port it leaves through, address, bytes) (R330, R346). -/
  heldHost : List (Nat × Nat × List Byte) := []
  /-- The model's own counter of free values drawn (log 2). -/
  freeCount : Nat := 0
  /-- Writes the running command has made, oldest first; empty between commands. -/
  wr : List Wr := []
deriving DecidableEq, Repr, Inhabited

/-- The state of the block. -/
structure State where
  /-- Commands that wait, first in, first out. -/
  pending : List Instr := []
  store : Store := {}
  blk : Block := {}
deriving DecidableEq, Repr, Inhabited

/-- Faults of the model: none of the block's commands stops the block, so no meaning raises one. -/
inductive Fault where
  /-- Raised by no meaning (safe): the manual answers every bad access with a status, a completion or an event. -/
  | stopped
deriving DecidableEq, Repr

/-- Refusals of the model. -/
inductive Refusal where
  /-- A command without a meaning yet, rejected by name (safe). -/
  | notModelled (mnemonic : String)
deriving DecidableEq, Repr

/-- The machine right after reset: no power yet, every register at its reset value, memory with nothing listed, nothing waiting. -/
def State.reset : State :=
  { blk :=
    { hubs := [(0, {}), (1, {}), (2, {}), (3, {})]
      dies := (List.range 12).map fun s => (s, {}) } }

end Sys2Proof.Machine
end

