-- ==== Sys2Proof/Machine/Accum.lean ====
section
/-! DEFINITION. Reductions of ordered term lists (R77, R78, R150) and accumulators with their three regimes (R131 to R143). -/
namespace Sys2Proof.Machine

/-! ## Pooling (R77) -/

/-- The vector -0.0. -/
def negZeros (w : Nat) : List Word := List.replicate w negZero
def posZeros (w : Nat) : List Word := List.replicate w posZero

/-- acc + x, element by element. -/
def vadd (a x : List Word) : List Word := List.zipWith fadd a x

/-- One term added to a sum or a maximum: MODE 3 takes max32; MODE 2 multiplies by the weight, fused unless Figures mode asks for
two roundings (R77, R150). -/
def poolStep (mode : Nat) (figures : Bool) (w : Word) (acc x : List Word) : List Word :=
  if mode = 3 then List.zipWith max32 acc x
  else if mode = 2 then
    if figures then List.zipWith (fun a y => fadd a (fmul w y)) acc x else List.zipWith (fun a y => fma32 w y a) acc x
  else vadd acc x

/-- Reduce an ordered list of (weight, vector) terms (R77); none for an empty list. -/
def poolList (mode : Nat) (figures : Bool) (width : Nat) : List (Word × List Word) → Option (List Word)
  | [] => none
  | (w, x) :: ts =>
    let start := if mode = 3 then x else poolStep mode figures w (negZeros width) x
    some (ts.foldl (fun acc (w, y) => poolStep mode figures w acc y) start)

/-- Combine two partials (R87): an R77 sum, or max32. The first partial of a bag is added to -0.0, which is exact. -/
def combinePartial (mode : Nat) (acc : Option (List Word)) (p : List Word) : List Word :=
  match acc with
  | none => if mode = 3 then p else vadd (negZeros p.length) p
  | some a => if mode = 3 then List.zipWith max32 a p else vadd a p

/-- R78: the bag's result from its reduction, and c, the divisor of MEAN. -/
def bagResult (mode : Nat) (emptyMax : Bool) (width c : Nat) : Option (List Word) → List Word
  | none => List.replicate width (if mode = 3 && emptyMax then negInf else posZero)
  | some s => if mode = 1 then s.map fun x => fdiv x (ofNatF c) else s

/-- Every NaN written is canonical (R79). -/
def canon (x : Word) : Word := if isNaN x then canonNaN else x

/-- One result element in OUTFMT (R80), as bytes. -/
def outBytes (outfmt : Nat) (x : Word) : List Byte :=
  if outfmt = 0x01 then toBytes 4 (canon x).toNat
  else if outfmt = 0x02 then toBytes 2 (toBf x)
  else toBytes 2 (toH x)

/-- Whether the element written is a NaN or an infinity (R80). -/
def outNonFinite (outfmt : Nat) (x : Word) : Bool :=
  if outfmt = 0x01 then !isFin x
  else if outfmt = 0x02 then !(ieeeBf.val (toBf x)).isFinite
  else !(ieee16.val (toH x)).isFinite

/-! ## The counter-based generator (R140) -/

def rotl32 (x n : Nat) : Nat := (x * 2 ^ n) % 2 ^ 32 + x / 2 ^ (32 - n)

/-- One round of srbits on (x0, x1, x2, x3) with key word k. -/
def srRound (k : Nat) : Nat × Nat × Nat × Nat → Nat × Nat × Nat × Nat
  | (x0, x1, x2, x3) =>
    let x0 := (x0 + x1 + k) % 2 ^ 32
    let x3 := rotl32 (x3 ^^^ x0) 16
    let x2 := (x2 + x3) % 2 ^ 32
    let x1 := rotl32 (x1 ^^^ x2) 12
    let x0 := (x0 + x1) % 2 ^ 32
    let x3 := rotl32 (x3 ^^^ x0) 8
    let x2 := (x2 + x3) % 2 ^ 32
    let x1 := rotl32 (x1 ^^^ x2) 7
    (x0, x1, x2, x3)

/-- srbits of R140; `row` is the global row. -/
def srbits (table row sbseq t i : Nat) : Nat :=
  let ks := [sbseq % 2 ^ 32, sbseq / 2 ^ 32, table, 0x57440002]
  let st := (List.range 8).foldl (fun s j => srRound (ks.getD (j % 4) 0) s)
    (t % 2 ^ 32, t / 2 ^ 32, row % 2 ^ 32, (row / 2 ^ 32 + i * 2 ^ 16) % 2 ^ 32)
  st.1 ^^^ st.2.1 ^^^ st.2.2.1 ^^^ st.2.2.2

/-- Round an exact value toward zero to binary32, and the exponent of one unit in its last place: (magnitude pattern, exponent). -/
def truncMag (m : Nat) (e : Int) : Nat × Int :=
  let top : Int := (Nat.log2 m : Int) + e
  let q := max (top - 23) (-149)
  let n := if 0 ≤ e - q then m <<< (e - q).toNat else m >>> (q - e).toNat
  ((q + 149).toNat <<< 23 |>.add n, q)

/-- Stochastic rounding of acc + x with random bits rb (R139). Magnitudes: the neighbour toward zero is taken when the other one is
not chosen; for a negative sum lo and hi change places. -/
def srAdd (acc x : Word) (rb : Nat) : Word :=
  match (fval acc).add (fval x) with
  | .fin s m e =>
    let near := rne32 (.fin s m e)
    if m = 0 then near
    else
      let (mag, q) := truncMag m e
      let lowBits : Nat := if 0 ≤ e - q then 0 else m % 2 ^ (q - e).toNat
      if lowBits = 0 && decide (mag < 0x7F800000) then near
      else if 0x7F7FFFFF < mag || (mag == 0x7F7FFFFF && lowBits != 0) then (if s then negInf else posInf)
      else
        let k := (q - e).toNat
        -- fraction of the interval from the neighbour toward zero, in units of 2^-k
        let frac := if s then 2 ^ k - lowBits else lowBits
        let tq := frac * 2 ^ 32 / 2 ^ k
        let up := decide (rb < tq)
        let away := if s then !up else up
        BitVec.ofNat 32 ((if s then 2 ^ 31 else 0) + mag + b2n away)
  | v => rne32 v

/-! ## Accumulators (R132 to R143) -/

/-- 2^47 - 1, at which TIDX holds. -/
def tidxTop : Nat := 2 ^ 47 - 1

/-- Bytes an accumulator counts for (R107, R132). -/
def accBytes (width : Nat) : Nat := 4 * width + 16

/-- A new accumulator (R133). -/
def newAcc (job bseq width : Nat) : Acc := { job := job, sbseq := bseq, vec := negZeros width }

/-- One contribution added under the regime of its term index (R138, R139, R141). -/
def accAdd (table row : Nat) (a : Acc) (spill : Option (List Word)) (x : List Word) : Acc × Option (List Word) :=
  let t := min (a.tidx + 1) tidxTop
  let sr := fun (v : List Word) =>
    (List.range v.length).map fun i => srAdd (v.getD i 0) (x.getD i 0) (srbits table row a.sbseq t i)
  let a' := { a with tidx := t, held := a.held || t == tidxTop }
  if t ≤ 65536 then
    let v := vadd a.vec x
    ({ a' with vec := v, nf := a.nf || !allFin v }, spill)
  else if t ≤ 16777216 then
    let v := sr a.vec
    ({ a' with vec := v, nf := a.nf || !allFin v }, spill)
  else
    let sp := sr (spill.getD (negZeros a.vec.length))
    ({ a' with nf := a.nf || !allFin sp }, some sp)
where allFin (xs : List Word) : Bool := xs.all isFin

/-- The end of a run (R141): combine the spill part. -/
def accClose (a : Acc) (spill : Option (List Word)) : Acc :=
  match spill with
  | none => a
  | some sp => let v := vadd a.vec sp; { a with vec := v, nf := a.nf || !v.all isFin }

/-- A whole run added in order (R105). -/
def accRun (table row : Nat) (a : Acc) (spill : Option (List Word)) (xs : List (List Word)) : Acc :=
  let r := xs.foldl (fun (a, sp) x => accAdd table row a sp x) (a, spill)
  accClose r.1 r.2

/-- Table 5-1 and R132: the record of an accumulator, as a dump or an overflow entry carries it. -/
def accRecord (a : Acc) (spill : Option (List Word)) : List Byte :=
  toBytes 16 (pack [(64, 64, a.sbseq), (17, 47, a.tidx), (4, 1, b2n a.held), (3, 1, b2n spill.isSome), (2, 1, b2n a.long),
    (0, 1, b2n a.nf)])
  ++ (a.vec ++ spill.getD []).flatMap fun w => toBytes 4 w.toNat

/-- An accumulator from its record (Table 5-1). -/
def accOfRecord (job width : Nat) (bs : List Byte) : Acc :=
  let x := ofBytes (bs.take 16)
  let v := ofBytes ((bs.drop 16).take (4 * width))
  { job := job, sbseq := bits x 64 64, tidx := bits x 17 47, held := bit x 4, long := bit x 2, nf := bit x 0
    vec := (List.range width).map fun i => BitVec.ofNat 32 (bits v (32 * i) 32) }

end Sys2Proof.Machine
end

