-- ==== Sys2Proof/Machine/Flags.lean ====
section
/-! DEFINITION. Every status code, halt reason, interrupt cause, event kind and counter the manual names (Tables 13-16, 7-5, 13-4,
14-12): the flags of this block. -/
namespace Sys2Proof.Machine

/-! Status codes (Table 13-16). -/
def OK : Nat := 0x0000
def PENDING : Nat := 0x0001
def REPLAYED : Nat := 0x0002
def LATE : Nat := 0x0003
def VERSION_UNSUPPORTED : Nat := 0x0100
def RESERVED_NONZERO : Nat := 0x0101
def UNKNOWN_ENCODING : Nat := 0x0102
def FEATURE_ABSENT : Nat := 0x0103
def MESSAGE_INVALID : Nat := 0x0104
def HELLO_REQUIRED : Nat := 0x0105
def MAILBOX_REFUSED : Nat := 0x0106
def ADDRESS_FAULT : Nat := 0x0107
def JOB_CLOSED : Nat := 0x0108
def JOB_INVALID : Nat := 0x0109
def JOB_EXISTS : Nat := 0x010A
def HUB_LOST : Nat := 0x010B
def TABLE_UNDEFINED : Nat := 0x0200
def TABLE_INVALID : Nat := 0x0201
def TABLE_EXISTS : Nat := 0x0202
def TABLE_LIMIT : Nat := 0x0203
def FORMAT_MISMATCH : Nat := 0x0204
def LOOKUP_INVALID : Nat := 0x0300
def INDEX_INVALID : Nat := 0x0301
def UPDATE_INVALID : Nat := 0x0400
def ACCUM_FULL : Nat := 0x0401
def REPLAY_MISMATCH : Nat := 0x0402
def SEQ_GAP : Nat := 0x0403
def ACCUM_LOST : Nat := 0x0404
def PROGRAM_UNDEFINED : Nat := 0x0500
def PROGRAM_INVALID : Nat := 0x0501
def PROGRAM_EXISTS : Nat := 0x0502
def PROGRAM_SPACE : Nat := 0x0503
def PROGRAM_IN_USE : Nat := 0x0504
def RING_UNDEFINED : Nat := 0x0600
def RING_INVALID : Nat := 0x0601
def RING_EXISTS : Nat := 0x0602
def RING_STATE : Nat := 0x0603
def RING_DESTROYED : Nat := 0x0604
def SEM_INVALID : Nat := 0x0605
def SEM_REFUSED : Nat := 0x0606
def SLOT_STALE : Nat := 0x0607
def SLOT_INVALID : Nat := 0x0608
def SOLSTICE_MISMATCH : Nat := 0x0609
def HOST_LOST : Nat := 0x060A
def BUDGET_INVALID : Nat := 0x0700
def LAYOUT_INVALID : Nat := 0x0800
def ROW_SPLIT : Nat := 0x0801
def CHCLASS_MISMATCH : Nat := 0x0802
def MEMORY_POISONED : Nat := 0x0803
def MEMORY_LOST : Nat := 0x0804
def RETIRE_FULL : Nat := 0x0805
def CHANNEL_INVALID : Nat := 0x0806
def CACHE_INVALID : Nat := 0x0900
def TRANSLATION_INVALID : Nat := 0x0A00
def FAULT_ABORTED : Nat := 0x0A01
def HARVEST_UNKNOWN : Nat := 0x0A02
def MIGRATE_INVALID : Nat := 0x0A03
def WINDOW_REFUSED : Nat := 0x0A04
def WINDOW_FAULT : Nat := 0x0A05
def WINDOW_INVALID : Nat := 0x0A06
def REGION_INVALID : Nat := 0x0A07
def RESHARD_INVALID : Nat := 0x0B00
def RESHARD_INCOMPLETE : Nat := 0x0B01
def TWIN_STATE : Nat := 0x0C00
def FW_INVALID : Nat := 0x0D00
def DUMP_INVALID : Nat := 0x0D01
def SERVICE_INVALID : Nat := 0x0D02
def ALMANAC_CHANGED : Nat := 0x0D03

/-- Codes 0x0000 to 0x00FF report success (R381). -/
def success (st : Nat) : Bool := decide (st ≤ 0xFF)

/-- Go on only after success. -/
def thenCheck (a : Nat) (b : Unit → Nat) : Nat := if a = OK then b () else a

/-- The first failing check of a list of (condition that fails, status). -/
def firstFail : List (Bool × Nat) → Nat
  | [] => OK
  | (c, st) :: r => if c then st else firstFail r

/-! Interrupt causes: bits of INT_STATUS (Table 13-4). -/
def intREPLY : Nat := 0
def intHARVEST : Nat := 1
def intEVENT : Nat := 2
def intMISUSE : Nat := 3
def intLEADER : Nat := 4
def intHOSTLOST : Nat := 5
def intFWSTATE : Nat := 6
def intDUMP : Nat := 7

/-! Halt reasons of a ring (Table 7-5), as masks. -/
def haltFAULT : Nat := 1
def haltERROR : Nat := 2
def haltOVERRUN : Nat := 4
def haltREQUEST : Nat := 8
def haltHOSTLOST : Nat := 16

/-- Set and clear reasons in a mask. -/
def setReason (h r : Nat) : Nat := h ||| r
def clearReason (h r : Nat) : Nat := h - (h &&& r)
def hasReason (h r : Nat) : Bool := h &&& r != 0

/-- A version byte is acceptable when its major is 2 and its minor is no greater than the negotiated one (R15). -/
def versionOk (v minor : Nat) : Bool := bits v 4 4 == 2 && decide (bits v 0 4 ≤ minor)

/-- Stage 2 of R17: some reserved field (low bit, width) is not zero. -/
def rsvSet (x : Nat) (fields : List (Nat × Nat)) : Bool := fields.any fun (lo, n) => bits x lo n != 0

end Sys2Proof.Machine
end

