-- ==== Sys2Proof/Machine/Row.lean ====
section
/-! DEFINITION. Tables and stored rows: the descriptor's fields, sizes of slots and records, digests, decoding, the REQUANT pass
(R44 to R68, R443, R150). -/
namespace Sys2Proof.Machine

/-! ## CRC-32C (R58) -/

/-- One byte of the bit-reflected CRC with polynomial 0x82F6_3B78. -/
def crcByte (c : Nat) (b : Byte) : Nat :=
  (List.range 8).foldl (fun r _ => if r % 2 = 1 then (r / 2) ^^^ 0x82F63B78 else r / 2) (c ^^^ b.toNat)

/-- CRC-32C of a byte string (R58). -/
def crc32c (bs : List Byte) : Nat := bs.foldl crcByte 0xFFFFFFFF ^^^ 0xFFFFFFFF

/-! ## The table descriptor (Tables 2-2, 2-3) -/

/-- The fields of a table descriptor. -/
structure TD where
  table : Nat
  job : Nat
  cpart : Nat
  width : Nat
  kstate : Nat
  rstate : Nat
  place : Nat
  chclass : Nat
  wfmt : Nat
  mfmt : Nat
  zpmode : Bool
  mirror : Bool
  shmode : Bool
  shcount : Nat
  shfirst : Nat
  shnum : Nat
  grows : Nat
  lrows : Nat
  wbase : Nat
  mbase : Nat
deriving DecidableEq, Repr, Inhabited

/-- Field positions of Tables 2-2 and 2-3. -/
def tdOf (d : BitVec 512) : TD :=
  let x := d.toNat
  { table := bits x 64 20, job := bits x 56 6, cpart := bits x 52 4, width := bits x 32 12 + 1
    kstate := bits x 44 2, rstate := bits x 46 3, place := bits x 16 4, chclass := bits x 20 2
    wfmt := bits x 8 8, mfmt := bits x 24 8, zpmode := bit x 23, mirror := bit x 22
    shmode := bit x 84, shcount := bits x 240 16, shfirst := bits x 192 48, shnum := bits x 176 16
    grows := bits x 128 48, lrows := bits x 256 41, wbase := bits x 320 56, mbase := bits x 384 56 }

/-- Reserved fields of the descriptor (Tables 2-2, 2-3). -/
def tdReserved : List (Nat × Nat) := [(85, 43), (62, 2), (49, 3), (448, 64), (440, 8), (376, 8), (297, 23)]

/-- The shard fields a permuting collective changes (R54): SHMODE, SHFIRST, SHNUM, SHCOUNT, GROWS, LROWS. -/
def tdReshard (d : BitVec 512) (shmode shcount shfirst shnum grows lrows : Nat) : BitVec 512 :=
  let x := d.toNat
  let x := setBits x 84 1 shmode
  let x := setBits x 240 16 shcount
  let x := setBits x 192 48 shfirst
  let x := setBits x 176 16 shnum
  let x := setBits x 128 48 grows
  BitVec.ofNat 512 (setBits x 256 41 lrows)

/-! ## Formats (Tables 2-7, 2-8) -/

def fmtTags : List Nat := [0x01, 0x02, 0x03, 0x10, 0x11, 0x20, 0x21, 0x30, 0x31, 0x32, 0x33, 0x34, 0x35]
def fmtKnown (f : Nat) : Bool := fmtTags.contains f
/-- Formats whose Gen in Table 2-7 is 1. -/
def fmtGen1 (f : Nat) : Bool := [0x01, 0x02, 0x03, 0x20, 0x21].contains f
def fmtMX (f : Nat) : Bool := decide (0x30 ≤ f) && decide (f ≤ 0x35)
/-- Bits of one stored element. -/
def fmtBits (f : Nat) : Nat :=
  if f = 0x01 then 32 else if f = 0x02 || f = 0x03 then 16
  else if f = 0x21 || f = 0x34 then 4 else if f = 0x32 || f = 0x33 then 6 else 8

/-- B and Ps of R62. -/
def mxBlocks (w : Nat) : Nat := ceilDiv w 32
def mxPrefix (f w : Nat) : Nat := if fmtMX f then 4 * ceilDiv (mxBlocks w) 4 else 0

/-- Payload bytes P of a row of width w (Table 2-8). -/
def payloadBytes (f w : Nat) : Nat := mxPrefix f w + ceilDiv (fmtBits f * w) 8

/-- Bytes of one master value. -/
def mvBytes (mfmt : Nat) : Nat := if mfmt = 0x02 then 2 else 4

def TD.P (t : TD) : Nat := payloadBytes t.wfmt t.width
/-- Bytes of the state vectors and words. -/
def TD.stateBytes (t : TD) : Nat := 4 * t.kstate * t.width + 4 * t.rstate
/-- M of R46. -/
def TD.M (t : TD) : Nat := 16 + mvBytes t.mfmt * t.width + t.stateBytes
/-- T of R46: the stride of master records in a class 1 table. -/
def TD.T (t : TD) : Nat := roundUp t.M 64
/-- A of Table 2-1. -/
def TD.A (t : TD) : Nat :=
  if t.place = 0 then roundUp (16 + t.P) 16 + t.M
  else if t.place = 1 then 16 + t.P
  else roundUp (16 + t.P) 16 + t.stateBytes
/-- S of R44. -/
def TD.S (t : TD) : Nat :=
  if t.A ≤ 32 then 32 else if t.A ≤ 64 then 64 else if t.A ≤ 128 then 128 else if t.A ≤ 256 then 256 else roundUp t.A 256
/-- Offset in the slot of the master record or the state area (Table 2-1). -/
def TD.auxOff (t : TD) : Nat := roundUp (16 + t.P) 16
/-- Device virtual address of a row slot (R44). -/
def TD.slotVa (t : TD) (lrow : Nat) : Nat := t.wbase + lrow * t.S
/-- Device virtual address of a class 1 master record (R46). -/
def TD.masterVa (t : TD) (lrow : Nat) : Nat := t.mbase + lrow * t.T
/-- A source from which a poisoned row is re-derived (R76). -/
def TD.hasSource (t : TD) : Bool := t.place != 2 || t.mirror

/-- Where a global index leads (R52). -/
inductive Shard where
  | invalid
  | notHere
  | local (lrow : Nat)
deriving DecidableEq, Repr

/-- R52. -/
def TD.shard (t : TD) (g : Nat) : Shard :=
  if t.grows ≤ g then .invalid
  else if t.shmode then (if g % t.shcount = t.shnum then .local (g / t.shcount) else .notHere)
  else if g < t.shfirst || decide (t.shfirst + t.lrows ≤ g) then .notHere
  else .local (g - t.shfirst)

/-- The global index of a local row (the inverse of R52). -/
def TD.globalRow (t : TD) (lrow : Nat) : Nat := if t.shmode then lrow * t.shcount + t.shnum else t.shfirst + lrow

/-- R17 stages 1 to 3 on a descriptor, with the excluded shard fields of R51 at stage 2. -/
def tdStages (d : BitVec 512) (minor : Nat) : Nat :=
  let x := d.toNat
  let t := tdOf d
  firstFail
    [ (!versionOk (bits x 0 8) minor, VERSION_UNSUPPORTED)
    , (rsvSet x tdReserved, RESERVED_NONZERO)
    , (if t.shmode then t.shfirst != 0 else t.shnum != 0 || t.shcount != 0, RESERVED_NONZERO)
    , (decide (2 < t.place) || decide (1 < t.chclass) || !fmtKnown t.wfmt || (t.mfmt != 0 && !fmtKnown t.mfmt), UNKNOWN_ENCODING) ]

/-- The shard rules of R51, but for the excluded fields. -/
def TD.shardOk (t : TD) : Bool :=
  if t.shmode then
    decide (t.shnum < t.shcount) && decide (t.shnum < t.grows) && t.lrows == (t.grows - 1 - t.shnum) / t.shcount + 1
  else decide (t.shfirst + t.lrows ≤ t.grows)

/-- Orders 5 to 8 of Table 2-5. -/
def TD.fieldsOk (t : TD) : Bool :=
  t.kstate != 3 && decide (t.rstate ≤ 4) && (!t.zpmode || t.wfmt == 0x20 || t.wfmt == 0x21)
  && (if t.place = 2 then t.mfmt == 0 else t.mfmt == 1 || t.mfmt == 2) && (t.place == 1 || t.mbase == 0)
  && t.wbase % 65536 == 0 && t.mbase % 65536 == 0 && decide (t.wbase + t.lrows * t.S ≤ 2 ^ 56)
  && (t.place != 1 || decide (t.mbase + t.lrows * t.T ≤ 2 ^ 56))
  && t.grows != 0 && t.lrows != 0 && decide (t.lrows ≤ 2 ^ 40) && t.shardOk

/-! ## The row header (Table 2-6) -/

/-- The header's fields. -/
structure RowHdr where
  scale : Word := oneF
  zp : Nat := 0
  touch : Nat := 0
  fmt : Nat := 0
  nonfinite : Bool := false
  poison : Bool := false
  saturated : Bool := false
  digest : Nat := 0
deriving DecidableEq, Repr, Inhabited

/-- Header bytes 0 to 11 as one number. -/
def RowHdr.low (h : RowHdr) : Nat :=
  pack [(0, 32, h.scale.toNat), (32, 16, h.zp), (48, 4, h.touch), (56, 8, h.fmt), (64, 1, b2n h.nonfinite),
    (65, 1, b2n h.poison), (66, 1, b2n h.saturated)]

def RowHdr.bytes (h : RowHdr) : List Byte := toBytes 12 h.low ++ toBytes 4 h.digest

def hdrOf (bs : List Byte) : RowHdr :=
  let x := ofBytes (bs.take 16)
  { scale := BitVec.ofNat 32 (bits x 0 32), zp := bits x 32 16, touch := bits x 48 4, fmt := bits x 56 8
    nonfinite := bit x 64, poison := bit x 65, saturated := bit x 66, digest := bits x 96 32 }

/-- R17 and R56 on a header read: reserved fields, a known tag, and the tag the descriptor gives. -/
def hdrCheck (bs : List Byte) (want : Nat) : Nat :=
  let x := ofBytes (bs.take 16)
  firstFail [(rsvSet x [(67, 29), (52, 4)], RESERVED_NONZERO), (!fmtKnown (bits x 56 8), UNKNOWN_ENCODING),
    (bits x 56 8 != want, FORMAT_MISMATCH)]

/-- DIGEST of a row with this header and the bytes that follow it (R58). -/
def rowDigest (h : RowHdr) (rest : List Byte) : Nat := crc32c (toBytes 12 h.low ++ rest)

/-- A header with its digest computed (R58). -/
def RowHdr.sealed (h : RowHdr) (rest : List Byte) : RowHdr := { h with digest := rowDigest h rest }

/-- The fixed header of a master record (R443). -/
def masterHdr (mfmt : Nat) (rest : List Byte) : RowHdr := RowHdr.sealed { fmt := mfmt } rest

/-! ## Decoding (R64, R150) -/

/-- The small float of a tag. -/
def miniOf (f : Nat) : Mini :=
  if f = 0x11 || f = 0x31 then e5m2 else if f = 0x32 then e2m3 else if f = 0x33 then e3m2 else if f = 0x34 then e2m1 else e4m3

/-- The E8M0 value of a block: its exponent, or none for 0xFF. -/
def e8m0 (e : Nat) : Option Int := if e = 0xFF then none else some ((e : Int) - 127)

/-- Times 2 to the e, exactly. -/
def FV.scale2 (v : FV) (k : Int) : FV :=
  match v with
  | .fin s m e => .fin s m (e + k)
  | w => w

/-- An exact small integer. -/
def FV.ofInt (i : Int) : FV := .fin (decide (i < 0)) i.natAbs 0

/-- One stored element p of format f to binary32 (R64), with SCALE, ZP and the block's E8M0 code. -/
def decodeElem (f : Nat) (scale : Word) (zp : Nat) (e8 p : Nat) : Word :=
  if f = 0x01 then BitVec.ofNat 32 p
  else if f = 0x02 then widenBf p
  else if f = 0x03 then widenH p
  else if f = 0x10 || f = 0x11 then rne32 (((miniOf f).val p).mul (fval scale))
  else if f = 0x20 || f = 0x21 then
    rne32 (((FV.ofInt (signed (fmtBits f) p)).mul (fval scale)).add (fval (widenH zp)))
  else match e8m0 e8 with
    | none => canonNaN
    | some k => if f = 0x35 then rne32 ((FV.ofInt (signed 8 p)).scale2 (k - 6)) else rne32 (((miniOf f).val p).scale2 k)

/-- Decode a payload (R62, R64). -/
def decodeRow (f w : Nat) (h : RowHdr) (payload : List Byte) : List Word :=
  let all := ofBytes payload
  let body := all >>> (8 * mxPrefix f w)
  let n := fmtBits f
  (List.range w).map fun i => decodeElem f h.scale h.zp (bits all (8 * (i / 32)) 8) (bits body (n * i) n)

/-- Generation-1 decoding of int8 and int4 (R150); other formats as R64. -/
def decodeFigures (f w : Nat) (h : RowHdr) (payload : List Byte) : List Word :=
  if f = 0x20 || f = 0x21 then
    let s16 := ieee16.val (rne16 (fval h.scale))
    let body := ofBytes payload
    let n := fmtBits f
    (List.range w).map fun i =>
      rne32 ((fval (rne32 ((FV.ofInt (signed n (bits body (n * i) n))).mul s16))).add (fval (widenH h.zp)))
  else decodeRow f w h payload

def allFinite (xs : List Word) : Bool := xs.all isFin

/-! ## Re-encoding (R65, R66) -/

/-- Codes packed little-endian, n bits each (R62). -/
def packCodes (n : Nat) (cs : List Nat) : Nat := cs.foldr (fun c acc => c % 2 ^ n + acc * 2 ^ n) 0

/-- The largest magnitude of a list of finite values. -/
def amaxOf (xs : List Word) : Word := xs.foldl (fun a x => max32 a (fabs x)) posZero

/-- A block of 32 elements re-encoded: its E8M0 code and its element codes (R66). -/
def encodeBlock (f : Nat) (xs : List Word) : Nat × List Nat :=
  let a := amaxOf xs
  if isZeroF a then (127, xs.map fun _ => 0)
  else
    let emax : Int := if f = 0x30 then 8 else if f = 0x31 then 15 else if f = 0x32 then 2 else if f = 0x33 then 4
      else if f = 0x34 then 2 else 0
    let e := clampI ((fexp a).toInt - emax) (-127) 127
    let code := fun (x : Word) =>
      let y := rne32 ((fval x).scale2 (-e))
      if f = 0x35 then (BitVec.ofInt 8 (clampI (rint ((fval y).scale2 6)) (-127) 127)).toNat
      else (miniOf f).enc (fval y)
    ((e + 127).toNat, xs.map code)

/-- Cut a list into pieces of n (with as much fuel as elements). -/
def chunks {α : Type} (n : Nat) : Nat → List α → List (List α)
  | 0, _ => []
  | _ + 1, [] => []
  | fuel + 1, xs => xs.take n :: chunks n fuel (xs.drop n)

/-- What the REQUANT pass gives: payload, SCALE, ZP, SATURATED. -/
structure Enc where
  payload : List Byte
  scale : Word
  zp : Nat
  saturated : Bool
deriving DecidableEq, Repr

/-- The least SCALE, 2 to the -126. -/
def minScale : Word := 0x00800000#32

/-- Conversion to a 16-bit float, saturating (R65). -/
def satHalf (f : Ieee) (x : Word) : Nat × Bool :=
  let p := f.round (fval x)
  if p % 2 ^ 15 = f.infPat then (p - 1, true) else (p, false)

/-- Pass 2 of R65 and R66 on values that are all finite. -/
def encodeRow (f : Nat) (zpmode : Bool) (xs : List Word) : Enc :=
  let w := xs.length
  let n := fmtBits f
  let out := fun (cs : List Nat) => toBytes (ceilDiv (n * w) 8) (packCodes n cs)
  if f = 0x01 then ⟨out (xs.map (·.toNat)), oneF, 0, false⟩
  else if f = 0x02 || f = 0x03 then
    let cs := xs.map (satHalf (if f = 0x02 then ieeeBf else ieee16))
    ⟨out (cs.map (·.1)), oneF, 0, cs.any (·.2)⟩
  else if fmtMX f then
    let bs := (chunks 32 w xs).map (encodeBlock f)
    ⟨toBytes (mxPrefix f w) (packCodes 8 (bs.map (·.1))) ++ out (bs.flatMap (·.2)), oneF, 0, false⟩
  else if !zpmode || f = 0x10 || f = 0x11 then
    let a := amaxOf xs
    let isInt := f = 0x20 || f = 0x21
    let top : Nat := if f = 0x10 then 448 else if f = 0x11 then 57344 else if f = 0x20 then 127 else 7
    if isZeroF a then ⟨out (xs.map fun _ => 0), oneF, 0, false⟩
    else
      let s0 := fdiv a (ofNatF top)
      let s := if (fval s0).lt (fval minScale) then minScale else s0
      let code := fun (x : Word) =>
        if isInt then (BitVec.ofInt n (clampI (rint (fval (fdiv x s))) (-top) top)).toNat
        else (miniOf f).enc (fval (fdiv x s))
      ⟨out (xs.map code), s, 0, false⟩
  else
    let hi := xs.foldl max32 (xs.headD 0)
    let lo := xs.foldl min32 (xs.headD 0)
    let half := 0x3F000000#32
    let top : Nat := if f = 0x20 then 127 else 7
    let z0 := rne16 (fval (fadd (fmul hi half) (fmul lo half)))
    let bad := z0 % 2 ^ 15 == 0x7C00
    let z16 := if bad then 0 else z0
    let z := widenH z16
    let d := max32 (fsub hi z) (fsub z lo)
    let s := if isZeroF d then oneF else max32 (fdiv d (ofNatF top)) minScale
    let code := fun (x : Word) => (BitVec.ofInt n (clampI (rint (fval (fdiv (fsub x z) s))) (-top) top)).toNat
    ⟨out (xs.map code), s, z16, bad⟩

/-- A working row ready to be written: header and payload. -/
structure WorkRow where
  hdr : RowHdr := {}
  payload : List Byte := []
deriving DecidableEq, Repr, Inhabited

def WorkRow.bytes (r : WorkRow) : List Byte := r.hdr.bytes ++ r.payload

/-- The REQUANT pass of R65 on a row: encode, or with a non-finite value keep the old copy and set NONFINITE. The flags and the
touch count are the caller's; POISON is cleared by a write of the whole row (R57). -/
def requantRow (f : Nat) (zpmode : Bool) (old : WorkRow) (touch : Nat) (nonfinite : Bool) (xs : List Word) : WorkRow :=
  if allFinite xs then
    let e := encodeRow f zpmode xs
    { hdr := RowHdr.sealed { scale := e.scale, zp := e.zp, touch := touch, fmt := f, nonfinite := nonfinite, saturated := e.saturated } e.payload
      payload := e.payload }
  else { old with hdr := RowHdr.sealed { old.hdr with touch := touch, nonfinite := true, poison := false } old.payload }

/-! ## Master values and states (R46) -/

/-- Master values, state vectors and state words of one row. -/
structure Master where
  vals : List Word := []
  vecs : List (List Word) := []
  words : List Word := []
deriving DecidableEq, Repr, Inhabited

/-- n binary32 values from a byte string. -/
def words32 (n : Nat) (bs : List Byte) : List Word :=
  let x := ofBytes (bs.take (4 * n))
  (List.range n).map fun i => BitVec.ofNat 32 (bits x (32 * i) 32)

def bytes32 (ws : List Word) : List Byte := ws.flatMap fun w => toBytes 4 w.toNat

/-- State vectors and words from the bytes after the master values (R46). -/
def statesOf (t : TD) (bs : List Byte) : List (List Word) × List Word :=
  ((List.range t.kstate).map fun k => words32 t.width (bs.drop (4 * t.width * k)),
   words32 t.rstate (bs.drop (4 * t.width * t.kstate)))

def stateBytesOf (vecs : List (List Word)) (words : List Word) : List Byte := vecs.flatMap bytes32 ++ bytes32 words

/-- A master record's values (R46); `bs` starts at its header. -/
def masterOf (t : TD) (bs : List Byte) : Master :=
  let body := bs.drop 16
  let mv := mvBytes t.mfmt
  let vals :=
    if mv = 2 then
      let x := ofBytes (body.take (2 * t.width))
      (List.range t.width).map fun i => widenBf (bits x (16 * i) 16)
    else words32 t.width body
  let st := statesOf t (body.drop (mv * t.width))
  ⟨vals, st.1, st.2⟩

/-- A master record written down, its header as R443 gives it. bfloat16 master values are rounded to nearest even. -/
def masterBytes (t : TD) (m : Master) : List Byte :=
  let vals := if mvBytes t.mfmt = 2 then m.vals.flatMap (fun v => toBytes 2 (toBf v)) else bytes32 m.vals
  let rest := vals ++ stateBytesOf m.vecs m.words
  (masterHdr t.mfmt rest).bytes ++ rest

/-- Zero padding to a length (R47). -/
def padTo (n : Nat) (bs : List Byte) : List Byte := bs ++ List.replicate (n - bs.length) 0

/-- The whole slot: the working row, then the master record or state area, with zero padding (Table 2-1, R47). -/
def slotImage (t : TD) (row : WorkRow) (aux : List Byte) : List Byte := padTo t.S (padTo t.auxOff row.bytes ++ aux)

/-- A class 1 record with its padding (R46). -/
def masterImage (t : TD) (rec : List Byte) : List Byte := padTo t.T rec

/-- Elements of class 2 whose updated value differed from the input and decodes to the input again (R154). The rule says "value" only: bit
patterns are compared here, so that -0.0 and +0.0 differ (DESIGN CHOICE, log 103). -/
def stagnantCount (inp upd dec : List Word) : Nat :=
  ((inp.zip upd).zip dec).countP fun ((a, b), c) => a != b && a == c

/-- MDIGEST of a master record (R58). -/
def recDigest (rec : List Byte) : Nat := bits (ofBytes (rec.take 16)) 96 32

end Sys2Proof.Machine
end

