-- ==== Sys2Proof/Machine/Layout.lean ====
section
/-! DEFINITION. Slalom: how the layout places physical addresses on channels, and the layout's identity (R248 to R254, R377). -/
namespace Sys2Proof.Machine

/-- A zone with what R250 derives for it. -/
structure Zone where
  start : Nat
  len : Nat
  first : Nat
  unit : Nat
deriving DecidableEq, Repr

/-- units(z) of R250. -/
def zoneUnits (len m : Nat) : Nat := ceilDiv len (256 * m)
/-- Channel rows that a zone takes (R250). -/
def zoneRows (c len m : Nat) : Nat := m * ceilDiv (zoneUnits len m) c
/-- The derived length of the last zone, when its first row is `first` (R252). -/
def lastLen (c first m : Nat) : Nat := 256 * m * (c * ((Config.chrows - first) / m)) / 65536 * 65536

/-- The zones of a domain with c channels (R250, R252). -/
def zonesFrom (c : Nat) : List (Nat × Nat) → Nat → Nat → List Zone
  | [], _, _ => []
  | [(_, m)], start, first => [⟨start, lastLen c first m, first, m⟩]
  | (len, m) :: zs, start, first => ⟨start, len, first, m⟩ :: zonesFrom c zs (start + len) (first + zoneRows c len m)

def Layout.chans (L : Layout) (d : Nat) : List Nat := if d = 0 then L.ord else L.priv
def Layout.zoneList (L : Layout) (d : Nat) : List (Nat × Nat) := if d = 0 then L.zord else L.zpriv
/-- An empty domain has capacity 0 and its formulas are not evaluated (R252). -/
def Layout.zones (L : Layout) (d : Nat) : List Zone :=
  if (L.chans d).isEmpty then [] else zonesFrom (L.chans d).length (L.zoneList d) 0 0
/-- Capacity of a domain (R252). -/
def Layout.cap (L : Layout) (d : Nat) : Nat := ((L.zones d).map (·.len)).sum

/-- The domain of a physical address (R248). -/
def domainOf (p : Nat) : Nat := if p < Config.privBase then 0 else 1
def domainBase (d : Nat) : Nat := if d = 0 then Config.ordBase else Config.privBase

/-- Whether [p, p + n) lies within the capacity of its domain. -/
def Layout.inCap (L : Layout) (p n : Nat) : Bool :=
  let d := domainOf p
  decide (p - domainBase d + n ≤ L.cap d)

/-- Slalom (R251): channel and channel-local granule row of a physical address. -/
def Layout.locate (L : Layout) (p : Nat) : Option (Nat × Nat) :=
  let d := domainOf p
  let q := p - domainBase d
  let cs := L.chans d
  let c := cs.length
  let zs := L.zones d
  match zs.findIdx? fun z => decide (z.start ≤ q) && decide (q < z.start + z.len) with
  | none => none
  | some zi =>
    let z := zs.getD zi ⟨0, 0, 0, 1⟩
    let h := (q - z.start) / 256
    let u := h / z.unit
    let j := h % z.unit
    let s := u / c
    let r := u % c
    let x := s ^^^ (s / 256)
    let t := (709 * x + 97 * zi) % c
    some (cs.getD ((r + t) % c) 0, z.first + s * z.unit + j)

/-- The physical address of a granule, the inverse of locate (R251 calls it a bijection). -/
def Layout.unlocate (L : Layout) (ch row : Nat) : Option Nat :=
  let d := if L.ord.contains ch then 0 else 1
  let cs := L.chans d
  let c := cs.length
  match cs.findIdx? (· == ch) with
  | none => none
  | some i =>
    let zs := L.zones d
    match zs.findIdx? fun z => decide (z.first ≤ row) && decide (row < z.first + zoneRows c z.len z.unit) with
    | none => none
    | some zi =>
      let z := zs.getD zi ⟨0, 0, 0, 1⟩
      let s := (row - z.first) / z.unit
      let j := (row - z.first) % z.unit
      let x := s ^^^ (s / 256)
      let t := (709 * x + 97 * zi) % c
      let u := s * c + (i + c - t) % c
      let q := (u * z.unit + j) * 256
      if q < z.len then some (domainBase d + z.start + q) else none

/-- Row die of a physical address (R24). -/
def Layout.stackOf (L : Layout) (p : Nat) : Option Nat := (L.locate p).map fun x => x.1 / 64

/-! ## Stripes (R251, R272) -/

/-- Stripes of each zone of the two domains in turn: the domains' stripes are numbered on from one another. -/
def Layout.zoneStripes (L : Layout) (d : Nat) : List Nat := (L.zones d).map fun z => ceilDiv (zoneUnits z.len z.unit) (L.chans d).length
def Layout.stripes (L : Layout) : Nat := (L.zoneStripes 0).sum + (L.zoneStripes 1).sum

/-- The stripe of a physical address, among all stripes of the layout. -/
def Layout.stripeOf (L : Layout) (p : Nat) : Option Nat :=
  let d := domainOf p
  let q := p - domainBase d
  let zs := L.zones d
  match zs.findIdx? fun z => decide (z.start ≤ q) && decide (q < z.start + z.len) with
  | none => none
  | some zi =>
    let z := zs.getD zi ⟨0, 0, 0, 1⟩
    let s := (q - z.start) / 256 / z.unit / (L.chans d).length
    some ((if d = 0 then 0 else (L.zoneStripes 0).sum) + ((L.zoneStripes d).take zi).sum + s)

/-- Granule addresses of a stripe. -/
def Layout.stripeGranules (L : Layout) (n : Nat) : List Nat :=
  let d := if n < (L.zoneStripes 0).sum then 0 else 1
  let k := if d = 0 then n else n - (L.zoneStripes 0).sum
  let c := (L.chans d).length
  let sts := L.zoneStripes d
  match (List.range sts.length).find? fun i => decide (k < (sts.take (i + 1)).sum) with
  | none => []
  | some i =>
    let z := (L.zones d).getD i ⟨0, 0, 0, 1⟩
    let s := k - (sts.take i).sum
    ((List.range (c * z.unit)).map fun g => domainBase d + z.start + 256 * (s * c * z.unit + g)).filter fun p =>
      decide (p < domainBase d + z.start + z.len)

/-! ## Forming layouts -/

/-- Zone entries as Table 13-14 lays them out. -/
def zoneBytes (zs : List (Nat × Nat)) : List Byte := zs.flatMap fun (len, m) => toBytes 8 (pack [(0, 32, len / 2097152), (32, 9, m)])

/-- The layout record (Table 13-14). -/
def layoutRecord (L : Layout) : List Byte :=
  toBytes 16 (pack [(0, 8, 0x20), (8, 8, L.zord.length), (16, 8, L.zpriv.length)])
  ++ (List.range 12).flatMap (fun s => toBytes 8 (L.privMask.getD s 0))
  ++ zoneBytes L.zord ++ zoneBytes L.zpriv

def chanBytes (cs : List Nat) : List Byte := cs.flatMap (toBytes 2 ·)

/-- LAYOUTID (R252). -/
def layoutId (L : Layout) : Nat := crc32c (layoutRecord L ++ chanBytes L.ord ++ chanBytes L.priv)

/-- The layout that a set of trained channels, zones and designations make (R248, R249). -/
def formLayout (trained : List Nat) (masks : List Nat) (zord zpriv : List (Nat × Nat)) : Layout :=
  let isPriv := fun (ch : Nat) => (masks.getD (ch / 64) 0).testBit (ch % 64)
  { ord := trained.filter (!isPriv ·), priv := trained.filter isPriv, zord := zord, zpriv := zpriv, privMask := masks }

/-- One domain's zones keep R252. -/
def zonesOk (c : Nat) (zs : List (Nat × Nat)) : Bool :=
  let inits := zs.dropLast
  let used := (inits.map fun (len, m) => zoneRows c len m).sum
  decide (1 ≤ zs.length) && decide (zs.length ≤ 64)
  && zs.all (fun (len, m) => len % 2097152 == 0 && decide (1 ≤ m) && decide (m ≤ 257))
  && inits.all (fun (len, _) => len != 0) && (zs.getLast?.map (·.1) == some 0)
  && (if c = 0 then zs.length == 1 else decide (used ≤ Config.chrows))

/-- A layout keeps R249 and R252; `active` is the mask of active pseudo-channels of each stack. -/
def layoutOk (active : List Nat) (L : Layout) : Bool :=
  zonesOk L.ord.length L.zord && zonesOk L.priv.length L.zpriv
  && (List.range 12).all fun s =>
    let m := L.privMask.getD s 0
    decide (popCount m 64 ≤ 8) && m &&& active.getD s 0 == m

/-- Physical granule rows of a DRAM page of a channel: four consecutive channel-local rows (Table 9-1). The manual does not say how
channel-local rows fall into banks; bank 0 to 63 is taken as the page number modulo 64 (DESIGN CHOICE, log 16). -/
def pageBank (row : Nat) : Nat × Nat := (row / 4 % 64, row / 4 / 64)
def pageRows (bank page : Nat) : List Nat := (List.range 4).map fun i => (page * 64 + bank) * 4 + i

/-- Frames that hold a granule on a DRAM page (R266), without repeats. -/
def Layout.framesOf (L : Layout) (ch bank page : Nat) : List Nat :=
  distinct (((pageRows bank page).filterMap (L.unlocate ch)).map fun p => p / 65536 * 65536)

/-- Frames to vacate: beyond the new capacity, as (first frame, count) entries, and those on pages retired for good (R271). -/
def vacateList (old new : Layout) (gone : List (Nat × Nat × Nat)) : List (Nat × Nat) :=
  let tail := fun d =>
    let a := new.cap d
    let b := old.cap d
    if a < b then [(domainBase d + a, (b - a) / 65536)] else []
  tail 0 ++ tail 1 ++ (distinct (gone.flatMap fun (ch, bank, page) => new.framesOf ch bank page)).map fun f => (f, 1)

def vacateBytes (v : List (Nat × Nat)) : List Byte := v.flatMap fun (f, n) => toBytes 8 f ++ toBytes 8 n

end Sys2Proof.Machine
end

