-- ==== Sys2Proof/Machine/Ops.lean ====
section
/-! DEFINITION. The named operations over memory, hubs, rows of state, monitors, events and interrupts. A command's meaning runs over
the block and leaves its writes in `wr`; `Store.apply` is the one place that changes memory. -/
namespace Sys2Proof.Machine

/-! ## Memory: the canonical form and its operations -/

/-- What an unlisted address reads as: 0 (DESIGN CHOICE, log 10). -/
def unlisted : Byte := 0

/-- One byte of a memory. -/
def readByte (m : List Host.Cell) (a : Nat) : Byte := (Tbl.get? m a).getD unlisted

/-- Write one byte, keeping the canonical form. -/
def writeByte (m : List Host.Cell) (a : Nat) (v : Byte) : List Host.Cell := if v = unlisted then Tbl.del m a else Tbl.put m a v

/-- n bytes from an address. -/
def readBytes (m : List Host.Cell) (a : Nat) : Nat → List Byte
  | 0 => []
  | n + 1 => readByte m a :: readBytes m (a + 1) n

/-- Write bytes from an address on. -/
def writeBytes (m : List Host.Cell) (a : Nat) : List Byte → List Host.Cell
  | [] => m
  | v :: vs => writeBytes (writeByte m a v) (a + 1) vs

/-- The canonical form of a memory: addresses strictly rising, and no byte equal to what an unlisted address reads as. -/
def Memory.wf (m : List Host.Cell) : Bool := Tbl.wf m && m.all fun c => c.2 != unlisted

/-- A strictly rising list of numbers. -/
def risingFrom : Nat → List Nat → Bool
  | _, [] => true
  | lo, x :: xs => decide (lo ≤ x) && risingFrom (x + 1) xs

def addN : List Nat → Nat → List Nat
  | [], y => [y]
  | x :: xs, y => if y < x then y :: x :: xs else if y = x then x :: xs else x :: addN xs y

def dropN (xs : List Nat) (y : Nat) : List Nat := xs.filter (· != y)

/-- The canonical form of the whole store. -/
def Store.wf (st : Store) : Bool := Memory.wf st.mem && Memory.wf st.host && risingFrom 0 st.poison && risingFrom 0 st.hostPoison

/-- The part of a write that falls into one atom: whole atoms heal poison, a part of a poisoned atom changes nothing (R259, R264). -/
def Store.writeAtom (st : Store) (a : Nat) (data : List Byte) : Store :=
  if data.isEmpty then st
  else if data.length = 64 then { st with mem := writeBytes st.mem a data, poison := dropN st.poison (a / 64) }
  else if st.poison.contains (a / 64) then st
  else { st with mem := writeBytes st.mem a data }

/-- A write to stack memory, atom by atom, with as much fuel as bytes. -/
def Store.writeMem (st : Store) (a : Nat) : Nat → List Byte → Store
  | 0, _ => st
  | fuel + 1, data =>
    if data.isEmpty then st
    else
      let n := 64 - a % 64
      (st.writeAtom a (data.take n)).writeMem (a + n) fuel (data.drop n)

/-- Atoms that [a, a + n) covers whole. -/
def wholeAtoms (a n : Nat) : List Nat := (List.range ((a + n) / 64 - (a + 63) / 64)).map ((a + 63) / 64 + ·)

/-- One write applied. -/
def Store.apply1 (st : Store) : Wr → Store
  | .mem a data => st.writeMem a data.length data
  | .host a data => { st with host := writeBytes st.host a data, hostPoison := (wholeAtoms a data.length).foldl dropN st.hostPoison }
  | .hostPoison atoms => { st with hostPoison := atoms.foldl addN st.hostPoison }
  | .poison atoms => { st with poison := atoms.foldl addN st.poison, mem := atoms.foldl (fun m a => writeBytes m (64 * a) (List.replicate 64 0)) st.mem }
  | .under a data => { st with mem := writeBytes st.mem a data }
  | .intr _ _ _ => st
  | .heal atoms => { st with poison := atoms.foldl dropN st.poison }
  | .wipe => { st with mem := [], poison := [] }

/-- A command's writes applied in order. -/
def Store.apply (st : Store) (ws : List Wr) : Store := ws.foldl Store.apply1 st

/-- Memory as the running command sees it: the store with the command's own writes. -/
def view (st : Store) (b : Block) : Store := st.apply b.wr

/-- Bytes of stack memory. -/
def rdMem (st : Store) (b : Block) (pa n : Nat) : List Byte := readBytes (view st b).mem pa n
/-- Bytes of host memory. -/
def rdHost (st : Store) (b : Block) (ha n : Nat) : List Byte := readBytes (view st b).host ha n
/-- A little-endian number in stack memory. -/
def rdNat (st : Store) (b : Block) (pa n : Nat) : Nat := ofBytes (rdMem st b pa n)

/-- Atoms that [pa, pa + n) touches. -/
def atomsOf (pa n : Nat) : List Nat := if n = 0 then [] else (List.range ((pa + n - 1) / 64 - pa / 64 + 1)).map (pa / 64 + ·)
/-- Granule base addresses that [pa, pa + n) touches. -/
def granulesOf (pa n : Nat) : List Nat :=
  if n = 0 then [] else (List.range ((pa + n - 1) / 256 - pa / 256 + 1)).map fun i => (pa / 256 + i) * 256

def poisonedIn (st : Store) (b : Block) (pa n : Nat) : Bool :=
  let p := (view st b).poison
  !p.isEmpty && (atomsOf pa n).any p.contains

/-- Append a write. -/
def Block.push (b : Block) (w : Wr) : Block := { b with wr := b.wr ++ [w] }

/-! ## Access to the parts -/

def Block.hub (b : Block) (h : Nat) : Hub := b.hubs.getD h {}
def Block.onHub (b : Block) (h : Nat) (f : Hub → Hub) : Block := { b with hubs := b.hubs.modify h f }
def Block.die (b : Block) (s : Nat) : RowDie := b.dies.getD s {}
def Block.onDie (b : Block) (s : Nat) (f : RowDie → RowDie) : Block := { b with dies := b.dies.modify s f }
def Block.onEng (b : Block) (f : Eng → Eng) : Block := { b with eng := f b.eng }
def Block.onRing (b : Block) (r : Nat) (f : Ring → Ring) : Block := { b with rings := b.rings.modify r f }
def Block.onJob (b : Block) (j : Nat) (f : Job → Job) : Block := { b with jobs := b.jobs.modify j f }
def Block.onTable (b : Block) (t : Nat) (f : TableSt → TableSt) : Block := { b with tables := b.tables.modify t f }
def Block.onSlice (b : Block) (h : Nat) (f : Slice → Slice) : Block := b.onHub h fun x => { x with slice := f x.slice }
def Block.onSched (b : Block) (h : Nat) (f : Sched → Sched) : Block := b.onHub h fun x => { x with sched := f x.sched }
def Block.onXlat (b : Block) (h : Nat) (f : Xlat → Xlat) : Block := b.onHub h fun x => { x with xlat := f x.xlat }
def Block.onRegs (b : Block) (h : Nat) (f : Regs → Regs) : Block := b.onHub h fun x => { x with regs := f x.regs }
def Block.chan (b : Block) (c : Nat) : Chan := (b.die (c / 64)).chans.getD c {}
def Block.onChan (b : Block) (c : Nat) (f : Chan → Chan) : Block :=
  b.onDie (c / 64) fun d => { d with chans := d.chans.put c (f (d.chans.getD c {})) }
def workKey (ring p : Nat) : Nat := ring * 2 ^ 65 + p
def Block.work? (b : Block) (ring p : Nat) : Option Work := b.works.get? (workKey ring p)
def Block.onWork (b : Block) (ring p : Nat) (f : Work → Work) : Block := { b with works := b.works.modify (workKey ring p) f }
def Block.putWork (b : Block) (w : Work) : Block := { b with works := b.works.put (workKey w.ring w.p) w }
def Block.delWork (b : Block) (ring p : Nat) : Block := { b with works := b.works.del (workKey ring p) }
def Block.ringWorks (b : Block) (r : Nat) : List Work := b.works.vals.filter (·.ring == r)
/-- Every slot of the merged group that slot p leads, or slot p alone (R210). -/
def Block.onGroup (b : Block) (ring p : Nat) (f : Work → Work) : Block :=
  { b with works := b.works.mapVal fun _ w => if w.ring == ring && (w.p == p || w.group == some p) then f w else w }
def Block.send (b : Block) (o : Out) : Block := { b with outbox := b.outbox ++ [o] }

/-- Where a physical address lies now (R251): during a re-layout, at its new place once its stripe has been copied (R272). -/
def Block.locate (b : Block) (pa : Nat) : Option (Nat × Nat) :=
  match b.eng.relayout with
  | none => b.eng.layout.locate pa
  | some r =>
    match r.plan.layout.stripeOf pa with
    | some n => if r.left ≤ n then r.plan.layout.locate pa else b.eng.layout.locate pa
    | none => b.eng.layout.locate pa
/-- The physical address whose granule lies at a place now, if any: the inverse of locate. -/
def Block.unlocate (b : Block) (ch row : Nat) : Option Nat :=
  match b.eng.relayout with
  | none => b.eng.layout.unlocate ch row
  | some r => ([b.eng.layout.unlocate ch row, r.plan.layout.unlocate ch row].filterMap id).find? fun g => b.locate g == some (ch, row)
/-- The row die that owns a physical address (R24). -/
def Block.stackOf (b : Block) (pa : Nat) : Option Nat := (b.locate pa).map fun x => x.1 / 64

/-- Hubs and stacks in service. -/
def Block.hubUp (b : Block) (h : Nat) : Bool := (b.hub h).inService
def Block.upHubs (b : Block) : List Nat := (List.range 4).filter b.hubUp
def Block.dieUp (b : Block) (s : Nat) : Bool := (b.die s).st == 1 && !(b.die s).failed
/-- The stack has power and its row die answers: STATE 1 of Table 15-6, a stack handed to map-out by heat included. -/
def Block.dieOn (b : Block) (s : Nat) : Bool := (b.die s).st == 1
def Block.upDies (b : Block) : List Nat := (List.range 12).filter b.dieUp
def Block.age (b : Block) (h : Nat) : Nat := (b.hub h).regs.age
def Block.fatal (b : Block) : Bool := b.hubs.vals.any fun h => h.regs.fw == .fatal
/-- FWSTATE of a hub. -/
def Block.fw (b : Block) (h : Nat) : Fw := (b.hub h).regs.fw

/-- The hub that does the home-hub work of a group (R33): its own, or the next one in service. -/
def Block.groupHub (b : Block) (g : Nat) : Nat :=
  ((List.range 4).map fun i => (g + i) % 4).find? b.hubUp |>.getD g
/-- The home hub of a stack's rows (R24). -/
def Block.homeHub (b : Block) (s : Nat) : Nat := b.groupHub (s / 3)

/-- The hub that holds a ring (R189). -/
def ringHub (r : Nat) : Nat := r / 256

/-- Draw a free value. -/
def Block.free (b : Block) : BitVec 64 × Block := (Config.freeValue b.freeCount, { b with freeCount := b.freeCount + 1 })

/-! ## Monitors (R435) -/

/-- Bin of a value. -/
def binOf (v : Nat) : Nat := if v = 0 then 0 else min (Nat.log2 v + 1) 63

def Monitor.take (m : Monitor) (v : Nat) : Monitor :=
  { min := if m.samples = 0 then v else Nat.min m.min v, max := Nat.max m.max v, samples := m.samples + 1
    bins := m.bins.put (binOf v) (sat32 (m.bins.getD (binOf v) 0 + 1)) }

def monKey (mon inst : Nat) : Nat := mon * 65536 + inst
def Block.sample (b : Block) (mon inst v : Nat) : Block :=
  b.onEng fun e => { e with monitors := e.monitors.put (monKey mon inst) ((e.monitors.getD (monKey mon inst) {}).take v) }

/-- Instances of each monitor (Table 15-9); none for an undefined number. -/
def monInstances (mon : Nat) : Option Nat :=
  if mon = 0x01 || mon = 0x11 || mon = 0x12 then some 768
  else if mon = 0x02 || mon = 0x04 || mon = 0x0B || mon = 0x0C then some 1024
  else if mon = 0x05 || mon = 0x06 || mon = 0x10 || mon = 0x13 then some 12
  else if mon = 0x07 then some 16
  else if 0x01 ≤ mon ∧ mon ≤ 0x15 then some 4
  else none

/-- The hub that holds an instance (R441). -/
def monHub (mon inst : Nat) : Nat :=
  if mon = 0x01 || mon = 0x11 || mon = 0x12 then inst / 192
  else if mon = 0x02 || mon = 0x04 || mon = 0x0B || mon = 0x0C then inst / 256
  else if mon = 0x05 || mon = 0x06 || mon = 0x10 || mon = 0x13 then inst / 3
  else if mon = 0x07 then (if inst < 12 then inst / 3 else inst - 12)
  else inst

/-! ## Interrupts (R368) and the event log (R409, R442) -/

/-- CLASS of an event (Table 14-17). -/
def eventClass (kind payload : Nat) : Nat :=
  let f := fun lo n => bits payload lo n
  if kind = 0x01 || kind = 0x02 || kind = 0x04 || kind = 0x0B || kind = 0x0C || kind = 0x0D || kind = 0x0F || kind = 0x12 || kind = 0x13 then 1
  else if kind = 0x03 then 0
  else if kind = 0x05 then (if (f 24 2 = 0 && f 4 3 = 4) || f 24 2 = 3 then 2 else 0)
  else if kind = 0x06 then (if f 112 2 = 0 then 1 else if f 112 2 = 1 then 2 else 0)
  else if kind = 0x07 then (if f 8 4 = 3 then 2 else 0)
  else if kind = 0x08 then (if f 5 1 = 1 then 2 else 0)
  else if kind = 0x09 then (if f 10 2 = 1 then 2 else 0)
  else if kind = 0x0A then (if f 36 1 = 1 then 2 else 0)
  else if kind = 0x10 then (if f 2 2 = 0 then 2 else if f 2 2 = 1 then 0 else 1)
  else if kind = 0x11 then (if f 32 3 = 5 then 1 else 2)
  else if kind = 0x0E || kind = 0x14 then 2
  else if kind = 0x15 then 3
  else if kind = 0x16 then (if f 1 2 = 2 then 1 else 0)
  else 0

/-- An event record (Table 14-9), ESEQ left 0. -/
def eventRecord (b : Block) (hub kind : Nat) (job : Option Nat) (payload : Nat) : BitVec 256 :=
  BitVec.ofNat 256 (pack [(0, 8, 0x20), (8, 8, kind), (64, 2, eventClass kind payload), (66, 6, job.getD 0), (72, 2, hub),
    (74, 1, b2n job.isSome), (96, 32, b.age hub), (128, 128, payload)])

/-- Record an event at the leader, or hold it while leadership is passing (R409). The oldest record is overwritten. -/
def Block.logRecord (b : Block) (r : BitVec 256) : Block :=
  b.onEng fun e =>
    if e.passing then { e with heldEvents := e.heldEvents ++ [r] }
    else
      let n := e.eseq + 1
      let es := e.events ++ [BitVec.ofNat 256 (setBits r.toNat 16 48 n)]
      { e with eseq := n, events := es.drop (es.length - Config.eventLogMax) }

/-- An inbound fabric write of the block's own interrupt (R368): to one of its own apertures it is applied or refused (R332). -/
def Block.msiWrite (b : Block) (h : Nat) : Block :=
  let r := (b.hub h).regs
  let a := r.msiAddr.toNat
  let d := r.msiData.toNat % 2 ^ 32
  if a = 0 then b
  else if Config.hpwBase ≤ a ∧ a < Config.hpwBase + 2 ^ 42 then
    let p := a - Config.hpwBase
    if b.eng.layout.inCap p 4 then b.push (.intr h p (toBytes 4 d)) else b.sample 0x0F h 0
  else if Config.sigBase ≤ a ∧ a < Config.sigBase + 4 * 65536 then b.sample 0x0F h 0
  else b.send (.msi h a d)

/-- Set an interrupt cause; an enabled cause that becomes 1 sends the interrupt write (R368). -/
def Block.raise (b : Block) (h cause : Nat) : Block :=
  let r := (b.hub h).regs
  let b' := b.onRegs h fun r => { r with intStatus := r.intStatus ||| BitVec.ofNat 64 (2 ^ cause) }
  if !r.intStatus.getLsbD cause && r.intEnable.getLsbD cause then b'.msiWrite h else b'

/-- The cause set at every hub in service. -/
def Block.raiseAll (b : Block) (cause : Nat) : Block := b.upHubs.foldl (fun b h => b.raise h cause) b

/-- A record enters the event log, and the EVENT cause is set (Table 13-4) at every hub in service (DEDUCED, log 14). While leadership is
passing the record is only held: it is reported once a leader logs it (R409). -/
def Block.report (b : Block) (r : BitVec 256) : Block := if b.eng.passing then b.logRecord r else (b.logRecord r).raiseAll intEVENT

/-- An event. -/
def Block.event (b : Block) (hub kind : Nat) (job : Option Nat) (payload : Nat) : Block := b.report (eventRecord b hub kind job payload)

/-- LOSTWRITE (R270): the write to a lost granule is counted and listed. -/
def Block.lostWrite (b : Block) (hub granule stack source : Nat) : Block :=
  (b.sample 0x10 stack 0).event hub 0x0B none (pack [(0, 56, granule), (56, 2, source)])

/-! ## Where an access goes -/

/-- Whether a granule's channel is lost (R270). -/
def Block.lostAt (b : Block) (pa : Nat) : Bool :=
  match b.locate pa with
  | some (ch, _) => (b.chan ch).lost
  | none => false

def Block.lostIn (b : Block) (pa n : Nat) : Bool := (granulesOf pa n).any b.lostAt

/-- Status of a slot's read of stack memory other than a row (R264, R270). -/
def rdStatus (st : Store) (b : Block) (pa n : Nat) : Nat :=
  if b.lostIn pa n then MEMORY_LOST else if poisonedIn st b pa n then MEMORY_POISONED else OK

/-- Whether a write covers a part of some poisoned atom (R264). -/
def partPoison (st : Store) (b : Block) (pa n : Nat) : Bool :=
  (atomsOf pa n).any fun a => (view st b).poison.contains a && !(decide (pa ≤ a * 64) && decide (a * 64 + 64 ≤ pa + n))

/-- Status of a slot's write to stack memory (R264, R270). -/
def wrStatus (st : Store) (b : Block) (pa n : Nat) : Nat :=
  if b.lostIn pa n then MEMORY_LOST else if partPoison st b pa n then MEMORY_POISONED else OK

/-- 24 hours in age units (R267, R296). -/
def day : Nat := 8640000000000

/-- List the frames of a DRAM page after an uncorrectable error, or when it is retired for good: every frame that holds a granule on it now
(R266, R267). -/
def Block.listFrames (b : Block) (hub ch bank page why : Nat) : Block :=
  let fs := distinct (((pageRows bank page).filterMap (b.unlocate ch)).map fun p => p / 65536 * 65536)
  let b := b.onEng fun e => { e with listed := fs.map (fun f => (f, ch, bank, page)) ++ e.listed }
  fs.foldl (fun b f => b.event hub 0x06 none
    (pack [(0, 56, f), (56, 16, 1), (72, 6, bank), (78, 10, ch), (88, 24, page), (112, 2, why)])) b

/-- Key of a DRAM page in its channel's tables. -/
def pageKey (row : Nat) : Nat := (pageBank row).1 * 2 ^ 24 + (pageBank row).2

/-- A DRAM page becomes a repair candidate (R267). -/
def Chan.candidate (c : Chan) (key : Nat) : Chan := { c with candidates := if c.candidates.contains key then c.candidates else c.candidates ++ [key] }

/-- An uncorrectable error at a place of a channel, in the reserve too: its page becomes a repair candidate and its frames are listed
(R266, R267). -/
def Block.pageErrorAt (b : Block) (hub ch row : Nat) : Block :=
  let key := pageKey row
  let now := b.age hub
  let b := b.onChan ch fun c => { c with badPages := (key, now) :: c.badPages.filter (·.1 != key) }.candidate key
  b.listFrames hub ch (pageBank row).1 (pageBank row).2 0

/-- An uncorrectable error at a physical address (R266, R267). -/
def Block.pageError (b : Block) (hub pa : Nat) : Block :=
  match b.locate pa with
  | none => b
  | some (ch, row) => b.pageErrorAt hub ch row

/-- Corrections of a page within the last 24 hours. -/
def lastDay (ages : List Nat) (now : Nat) : Nat := ages.countP fun a => decide (now ≤ a + day)

/-- Corrections counted on a DRAM page: the engine's own, and those of the stack's on-die code as its error counts are read (Table 9-1, R268). -/
def Chan.fixes (c : Chan) (key : Nat) : Nat := (c.corrections.getD key []).length + c.onDie.getD key 0

/-- A correction counted on the DRAM page of its place; 16 within 24 hours make the page a candidate (R262, R267). -/
def Block.pageCorrectionAt (b : Block) (hub ch row : Nat) : Block :=
  let key := pageKey row
  let now := b.age hub
  b.onChan ch fun c =>
    let ages := now :: c.corrections.getD key []
    let c := { c with corrections := c.corrections.put key ages }
    if 16 ≤ lastDay ages now then c.candidate key else c

/-- A correction counted on the DRAM page of a physical address. -/
def Block.pageCorrection (b : Block) (hub pa : Nat) : Block :=
  match b.locate pa with
  | none => b
  | some (ch, row) => b.pageCorrectionAt hub ch row

/-! ## Requests to the channels (R242, R255, R256) -/

def narrowEntries : Nat := 64
def wideEntries : Nat := 512
def groupAtoms : Nat := 32

/-- Requests that wait take the entries that are free, in order. -/
def Chan.takeIn (c : Chan) : Chan :=
  let n := narrowEntries - c.narrow.length
  let w := wideEntries - c.wide.length
  { c with narrow := c.narrow ++ c.narrowIn.take n, narrowIn := c.narrowIn.drop n, wide := c.wide ++ c.wideIn.take w, wideIn := c.wideIn.drop w }

/-- At thermal level 4 the row die admits no new request to any channel of its stack (R242). -/
def Block.admitsAt (b : Block) (ch : Nat) : Bool := (b.die (ch / 64)).level != 4

/-- A request reaches a channel controller: a latency-critical one the narrow path, where each entry takes up to 8 atoms, every other one
the wide queue (R255). A lost channel takes none. -/
def Block.request (b : Block) (ch : Nat) (rt : Bool) (q : Req) : Block :=
  if (b.chan ch).lost then b
  else
    let opens := b.admitsAt ch
    b.onChan ch fun c =>
      let c := if rt then { c with narrowIn := c.narrowIn ++ (List.range (ceilDiv q.atoms 8)).map fun i => { q with atoms := Nat.min 8 (q.atoms - 8 * i) } }
        else { c with wideIn := c.wideIn ++ [q] }
      if opens then c.takeIn else c

/-- Places as requests of one DRAM page each: (channel, first granule row, atoms). -/
def pageRuns (locs : List (Nat × Nat)) : List (Nat × Nat × Nat) :=
  locs.foldl (fun acc (ch, row) =>
    match acc.getLast? with
    | some (c, r, n) => if c = ch && r / 4 = row / 4 then acc.dropLast ++ [(c, r, n + 1)] else acc ++ [(ch, row, 1)]
    | none => [(ch, row, 1)]) []

/-- Requests for atoms of stack memory, one for each DRAM page that they lie on, so that each fits one burst group (R256). -/
def Block.requestAtoms (b : Block) (rt : Bool) (q : Req) (atoms : List Nat) : Block :=
  (pageRuns (atoms.filterMap fun a => b.locate (64 * a))).foldl (fun b (ch, row, n) => b.request ch rt { q with row := row, atoms := n }) b

/-- A corrected atom is written back, and the correction counts on its page (R262). -/
def Block.correctAtom (b : Block) (hub a : Nat) : Block :=
  (b.pageCorrection hub (64 * a)).requestAtoms false { what := .work, traffic := .write, isWrite := true } [a]

/-- A channel still holds a request. -/
def Chan.holds (c : Chan) (w : ReqFor) : Bool := (c.narrow ++ c.narrowIn ++ c.wide ++ c.wideIn).any fun q => q.what == w

/-! ## What the reserve holds in two copies (R265) -/

/-- Bytes of a channel: software rows, then the reserve (R248). -/
def chanSoft : Nat := 256 * Config.chrows
def chanBytesAll : Nat := chanSoft + Config.chresMiB * 2 ^ 20

/-- Codes of the objects that the reserve of a stack keeps in two copies (R265): of each table its replay state, its class 1 journal and
its descriptor; the programs; on stacks 0, 3, 6 and 9 the leader records and the event log (R32, R409); the disable records (R296); the twin
journal (R401). -/
def Block.copyCodes (b : Block) (s : Nat) : List Nat :=
  let d := b.die s
  (d.replay.map fun (t, _) => 8 * t) ++ (distinct (d.journals.map (·.table))).map (fun t => 8 * t + 1) ++ (b.tables.map fun (t, _) => 8 * t + 2)
  ++ (b.progs.map fun p => 8 * (64 * p.handle + p.job) + 3) ++ (if s % 3 = 0 && !b.eng.leaderRecs.isEmpty then [4] else [])
  ++ (if d.disableRecs.isEmpty then [] else [5]) ++ (if s % 3 = 0 && !b.eng.events.isEmpty then [6] else [])
  ++ (if d.twinJournal.isEmpty then [] else [7])

/-- Where copy i (0 or 1) of an object stands: on pseudo-channel p or p xor 32, or on the next one in increasing order that is active and
readable, at an atom of the reserve that moves with each rewrite (R265). The manual gives no p and no place: p is the code modulo 64
(DESIGN CHOICE, log 86). -/
def RowDie.copyAt (d : RowDie) (s code i : Nat) : Option (Nat × Nat) :=
  let p := if i = 0 then code % 64 else (code % 64) ^^^ 32
  let up := fun (k : Nat) => let q := (p + k) % 64; d.active.testBit q && !(d.chans.getD (64 * s + q) {}).lost
  (((List.range 64).find? up).map fun k => 64 * s + (p + k) % 64).map fun ch =>
    (ch, chanSoft + 64 * ((2 * code + i + 7919 * d.rewrites.getD (2 * code + i) 0) % (Config.chresMiB * 16384)))

/-- A read of the reserve finds an atom poisoned: a copy that stands there is read from its other copy and rewritten elsewhere (R265). -/
def Block.copyFailed (b : Block) (ch loc : Nat) : Block :=
  let s := ch / 64
  let hit := (b.copyCodes s).flatMap fun code => [0, 1].filterMap fun i =>
    if (b.die s).copyAt s code i == some (ch, loc / 64 * 64) then some (2 * code + i) else none
  b.onDie s fun d => { d with rewrites := hit.foldl (fun t k => t.put k (t.getD k 0 + 1)) d.rewrites }

/-! ## The write-combining buffer (R258, R259) -/

/-- Bytes the write-combining buffer of a row die holds (accumulators included). -/
def RowDie.wcbUsed (d : RowDie) : Nat :=
  (d.wcb.map (·.len)).sum + (d.accs.vals.map fun a => 4 * a.vec.length + 16).sum

/-- An operation of a row die's scoreboard that has not retired names the granules, or the scoreboard is full (R135, R137). -/
def Block.granStalls (b : Block) (stack : Nat) (locs : List (Nat × Nat)) : Bool :=
  let d := b.die stack
  d.board.any (fun e => e.granules.any locs.contains) || decide (Config.scoreboardEntries ≤ d.board.length)

def Block.enter (b : Block) (stack : Nat) (e : SbEntry) : Block := b.onDie stack fun d => { d with board := d.board ++ [e] }

/-- The oldest write of a row die's buffer goes to its channel: WRITE traffic of its work's class, or REMOTE for an outside agent's
(R245, R258, R332). A write of a part of an atom is merged first: the atom is read, and the read, the merge and the write are one
operation of the scoreboard (R259). True when nothing stalls it. -/
def Block.drainOne (b : Block) (s : Nat) : Block × Bool :=
  match (b.die s).wcb with
  | [] => (b, false)
  | e :: es =>
    let b' := b.onDie s fun d => { d with wcb := es }
    let atoms := atomsOf e.addr e.len
    let parts := atoms.filter fun a => !(decide (e.addr ≤ 64 * a) && decide (64 * a + 64 ≤ e.addr + e.len))
    let locs := dedup (parts.filterMap fun a => b.locate (64 * a))
    let q : Req := { what := .drain, prio := e.cls, traffic := if e.remote then .remote else .write, isWrite := true }
    if parts.isEmpty then (b'.requestAtoms (e.cls == 0) q atoms, true)
    else if b.granStalls s locs then (b, false)
    else
      let b' := b'.requestAtoms (e.cls == 0) { q with traffic := if e.remote then .remote else .read, isWrite := false } parts
      ((b'.requestAtoms (e.cls == 0) q atoms).enter s { granules := locs }, true)

/-- Make room for n bytes: a full buffer holds a write back until room frees, which its own oldest writes give as they drain (R258, log
49). -/
def Block.drainFor (b : Block) (s n : Nat) : Nat → Block
  | 0 => b
  | fuel + 1 =>
    if (b.die s).wcbUsed + n ≤ Config.wcbBytes then b
    else match b.drainOne s with
      | (b, true) => b.drainFor s n fuel
      | (_, false) => b

/-- The buffer accepts a write (R258). -/
def Block.wcbAccept (b : Block) (stack pa n cls : Nat) (remote : Bool) : Block :=
  (b.drainFor stack n (b.die stack).wcb.length).onDie stack fun d => { d with wcb := d.wcb ++ [{ addr := pa, len := n, remote := remote, cls := cls }] }

/-! ## Hosts (R346 to R348) -/

/-- A write toward host memory leaves through the fabric port of the hub that makes it, or is held while the link retrains, or dropped when
it is lost (R330, R346, R347). -/
def Block.wrHost (b : Block) (port ha : Nat) (data : List Byte) : Block :=
  match b.eng.host with
  | .up => (b.push (.host ha data)).send (.hostWrite port ha data)
  | .retraining _ _ => { b with heldHost := b.heldHost ++ [(port, ha, data)] }
  | .lost => b

/-- Two ranges of bytes meet. -/
def meets (a n c m : Nat) : Bool := decide (a < c + m) && decide (c < a + n)

/-- A read of host memory is answered with an error completion or the poison indication (R446). -/
def hostBad (st : Store) (b : Block) (ha n : Nat) : Bool :=
  (atomsOf ha n).any (view st b).hostPoison.contains || b.eng.hostMap.any fun r => r.error && meets ha n r.base r.len
/-- A write of host memory is never acknowledged (R446). -/
def Block.hostMute (b : Block) (ha n : Nat) : Bool := b.eng.hostMap.any fun r => r.mute && meets ha n r.base r.len

def Block.hostUp (b : Block) : Bool := match b.eng.host with | .up => true | _ => false
def Block.hostLostNow (b : Block) : Bool := match b.eng.host with | .lost => true | _ => false

/-! ## Repair ledger (Table 9-4) -/

/-- A repair-ledger record (Table 9-4) made by the event that comes next. -/
def ledgerRecord (b : Block) (ch bank where_ kind state corrected : Nat) : Nat :=
  pack [(0, 8, 0x20), (8, 4, kind), (12, 4, state), (16, 10, ch), (32, 6, bank), (40, 24, where_), (64, 32, b.eng.eseq + 1), (96, 16, min corrected 0xFFFF)]

/-- Put a record in its stack's ledger, which holds up to 16,384 (R268). -/
def Block.ledgerPut (b : Block) (ch rec_ : Nat) : Block :=
  b.onDie (ch / 64) fun d =>
    if d.ledger.length < Config.repairLedgerMax then { d with ledger := d.ledger ++ [BitVec.ofNat 128 rec_] } else d

/-- A ledger record is made, with its REPAIR event (R260, R267, R268). -/
def Block.ledgerAdd (b : Block) (hub ch bank where_ kind state corrected : Nat) : Block :=
  let rec_ := ledgerRecord b ch bank where_ kind state corrected
  (b.event hub 0x07 none rec_).ledgerPut ch rec_

/-! ## Twin journal (R401) -/

/-- An entry of a stack's twin journal; one that finds the area full marks its table overflowed, which records no more (R401). -/
def Block.journalAdd (b : Block) (td : TD) (stack lrow bseq : Nat) : Block :=
  if ((b.tables.getD td.table {}).overflowed) then b
  else if (b.die stack).twinJournal.length < Config.twinJournalMax then
    b.onDie stack fun d => { d with twinJournal := d.twinJournal ++ [(td.table, lrow, bseq)] }
  else
    (b.onTable td.table fun x => { x with overflowed := true }).event (b.homeHub stack) 0x13 (some td.job) (pack [(0, 20, td.table), (20, 2, 1)])

/-- A row commit of a mirrored table in SOLO, or at a source's resync, is journalled at its stack (R401, R403). -/
def Block.journal (b : Block) (td : TD) (stack lrow bseq : Nat) : Block :=
  let t := b.eng.twin
  if !td.mirror || !(t.state == .solo || (t.state == .resync && !t.receiver)) then b else b.journalAdd td stack lrow bseq

end Sys2Proof.Machine
end

