-- ==== Sys2Proof/Machine/Cache.lean ====
section
/-! DEFINITION. The row cache, the row buffers and Mogul (R277 to R299), and the write path that keeps them coherent. -/
namespace Sys2Proof.Machine

/-! ## Tree pseudo-LRU (R286) -/

/-- Set b(n) of a tree. -/
def treeSet (tree n : Nat) (v : Bool) : Nat := setBits tree n 1 (b2n v)

/-- Ancestors of leaf 16 + w with the child on the way: (n, child). -/
def treePath (w : Nat) : List (Nat × Nat) := [16 + w, (16 + w) / 2, (16 + w) / 4, (16 + w) / 8].map fun c => (c / 2, c)

/-- A touch of way w: each ancestor points away from it. -/
def plruTouch (tree w : Nat) : Nat := (treePath w).foldl (fun t (n, c) => treeSet t n (c == 2 * n)) tree

/-- Insertion at the victim position: each ancestor points toward way w (R295). -/
def plruToward (tree w : Nat) : Nat := (treePath w).foldl (fun t (n, c) => treeSet t n (c != 2 * n)) tree

/-- Whether the subtree at node n (of leaves at depth 4) holds an eligible way. -/
def subtreeAny (elig : Nat → Bool) (n : Nat) : Bool :=
  (List.range 16).any fun w => elig w && (n == 16 + w || n == (16 + w) / 2 || n == (16 + w) / 4 || n == (16 + w) / 8 || n == 1)

/-- The walk of R286 from node n. -/
def victimFrom (tree : Nat) (elig : Nat → Bool) : Nat → Nat → Nat
  | 0, n => n
  | k + 1, n =>
    let c := 2 * n + b2n (tree.testBit n)
    victimFrom tree elig k (if subtreeAny elig c then c else 2 * n + 1 - b2n (tree.testBit n))

/-- The victim of a fill (R286): an invalid eligible way, lowest first, else the walk; none when no way is eligible. -/
def chooseVictim (tree : Nat) (used elig : Nat → Bool) : Option Nat :=
  match (List.range 16).find? fun w => elig w && !used w with
  | some w => some w
  | none => if (List.range 16).any elig then some (victimFrom tree elig 4 1 - 16) else none

/-! ## Sets and lines -/

/-- Row-cache set of a granule (R281). -/
def cacheSet (ch row : Nat) : Nat :=
  let n := Config.cacheSets
  let g := ch * 2 ^ 23 + row
  (g ^^^ (g / n) ^^^ (g / (n * n))) % n

/-- Row-buffer set of a granule (R282). -/
def bufferSet (ch row : Nat) : Nat := ch % 64 * 256 + (row ^^^ (row / 256) ^^^ (row / 65536)) % 256

def Cache.set (c : Cache) (s : Nat) : CSet := c.sets.getD s {}
def Cache.putSet (c : Cache) (s : Nat) (x : CSet) : Cache :=
  { c with sets := if x.ways.isEmpty && x.tree == 0 then c.sets.del s else c.sets.put s x }
def CSet.find (x : CSet) (ch row : Nat) : Option Nat := (x.ways.find? fun (_, l) => l.ch == ch && l.row == row && !l.service).map (·.1)
def Cache.line? (c : Cache) (s ch row : Nat) : Option Line := ((c.set s).ways.find? fun (_, l) => l.ch == ch && l.row == row && !l.service).map (·.2)

/-- Change the line of a granule, if present. -/
def Cache.onLine (c : Cache) (s ch row : Nat) (f : Line → Line) : Cache :=
  match (c.set s).find ch row with
  | none => c
  | some w => c.putSet s { c.set s with ways := (c.set s).ways.modify w f }

/-- Touch a granule's way (a demand hit). -/
def Cache.touch (c : Cache) (s ch row : Nat) : Cache :=
  match (c.set s).find ch row with
  | none => c
  | some w => c.putSet s { c.set s with tree := plruTouch (c.set s).tree w }

/-- Remove the line of a granule. -/
def Cache.remove (c : Cache) (s ch row : Nat) : Cache :=
  match (c.set s).find ch row with
  | none => c
  | some w => c.putSet s { c.set s with ways := (c.set s).ways.del w }

/-- Remove a granule's line and those of the other granules of its row (R283); `setOf` places a granule. -/
def Cache.drop (c : Cache) (setOf : Nat → Nat → Nat) (ch row : Nat) : Cache :=
  match c.line? (setOf ch row) ch row with
  | none => c
  | some l => (l.mates ++ [(ch, row)]).foldl (fun c (ch, row) => c.remove (setOf ch row) ch row) c

/-- Way w of a set may be used: not disabled (R296). -/
def Cache.enabled (c : Cache) (s w : Nat) : Bool := !c.disWays.testBit w && !c.disFrames.contains (s, w)

/-- Fill a line into a set: the cache and the line it put out. A way whose line a commit or a service holds, or its partition locks, is no
victim (R286, R287, R297); a line that is present stays and is touched. -/
def Cache.fill (c : Cache) (s : Nat) (l : Line) (elig : Nat → Bool) (locked : Line → Nat → Bool) (toward : Bool) : Option (Cache × Option Line) :=
  let x := c.set s
  let ok := fun w => elig w && c.enabled s w && (match x.ways.get? w with | some o => o.held == 0 && !o.service && !locked o w | none => true)
  match x.find l.ch l.row with
  | some w => some (c.putSet s { x with tree := plruTouch x.tree w }, none)
  | none =>
    match chooseVictim x.tree (fun w => x.ways.has w) ok with
    | none => none
    | some w =>
      let tree := if toward then plruToward x.tree w else plruTouch x.tree w
      some (c.putSet s { tree := tree, ways := x.ways.put w l }, x.ways.get? w)

/-- A victim's other granules leave with it (R283): the cache without them, and their lines. -/
def Cache.removeMates (c : Cache) (setOf : Nat → Nat → Nat) (o : Line) : Cache × List Line :=
  o.mates.foldl (fun (c, out) (ch, row) =>
    if ch == o.ch && row == o.row then (c, out)
    else match c.line? (setOf ch row) ch row with
      | some l => (c.remove (setOf ch row) ch row, out ++ [l])
      | none => (c, out)) (c, [])

/-- One line filled, trying kinds of ways in turn, with every line that it put out. -/
def Cache.fillLine (c : Cache) (setOf : Nat → Nat → Nat) (ways : List (CSet → Nat → Bool)) (locked : Line → Nat → Bool) (toward : Bool) (l : Line) :
    Option (Cache × List Line) :=
  let set := setOf l.ch l.row
  match ways.findSome? fun e => c.fill set l (e (c.set set)) locked toward with
  | none => none
  | some (c, none) => some (c, [])
  | some (c, some o) => let (c, out) := c.removeMates setOf o; some (c, o :: out)

/-- A row is cached whole or not at all (R283): every line filled, or nothing changed. -/
def Cache.fillRow (c : Cache) (setOf : Nat → Nat → Nat) (ways : List (CSet → Nat → Bool)) (locked : Line → Nat → Bool) (toward : Bool) (ls : List Line) :
    Option (Cache × List Line) :=
  let got := ls.foldl (fun acc l => acc.bind fun (c, out) => (c.fillLine setOf ways locked toward l).map fun (c, o) => (c, out ++ o)) (some (c, []))
  match got with
  | some (c', out) => if ls.all fun l => (c'.line? (setOf l.ch l.row) l.ch l.row).isSome then some (c', out) else none
  | none => none

/-- Lines of a row that takes part in a partition. -/
def rowLines (part born : Nat) (zero : Nat × Nat → Bool) (held : Nat) (locs : List (Nat × Nat)) : List Line :=
  locs.map fun x => { ch := x.1, row := x.2, part := part, zero := zero x, held := held, mates := if locs.length ≤ 1 then [] else locs, born := born }

def Block.part (b : Block) (q : Nat) : Partition := b.eng.partitions.getD q {}

/-- Ways of a partition's ordinary fills and of its preloads (R286, R290). -/
def Partition.elig (q : Partition) (preload : Bool) (w : Nat) : Bool := q.ways.testBit w && (preload || !q.locked.testBit w)

/-- Enabled ways of the slice in a mask (R284, R296). -/
def Slice.enabledIn (s : Slice) (mask : Nat) : Nat := popCount (mask &&& (0xFFFF - s.cache.disWays % 65536)) 16

/-- ADMIT in force at a slice: 0 when fewer than two ways of the mask are enabled (R296). -/
def Block.admitAt (b : Block) (h q : Nat) : Nat := if (b.hub h).slice.enabledIn (b.part q).ways < 2 then 0 else (b.part q).admitPol

/-- The hub whose slice holds the lines of a stack's rows: the home hub of the stack's own group. While it is lost no slice holds them
(R26, R298). -/
def Block.sliceOf (b : Block) (s : Nat) : Option Nat := if b.hubUp (s / 3) then some (s / 3) else none

def Block.onGroupSlice (b : Block) (s : Nat) (f : Slice → Slice) : Block :=
  match b.sliceOf s with
  | some h => b.onSlice h f
  | none => b

/-- A line in a locked way of its own partition, or whose row has one, is locked (R287, R283). -/
def Block.lineLocked (b : Block) (c : Cache) (o : Line) (w : Nat) : Bool :=
  (b.part o.part).locked.testBit w || o.mates.any fun (ch, row) =>
    match (c.set (cacheSet ch row)).find ch row with
    | some v => (b.part o.part).locked.testBit v
    | none => false

/-- Lines that a fill put out, or that a message drops, are offered where their partition offers (R292). -/
def Block.offering (b : Block) (out : List Line) : List Line := out.filter fun o => (b.part o.part).offer

/-- A granule's lines leave the slice, with their rows' others, and fills of it on their way become stale (R279, R280). -/
def Slice.dropGranule (x : Slice) (ch row : Nat) : Slice :=
  { x with cache := x.cache.drop cacheSet ch row
           fills := x.fills.map fun f => if f.granules.contains (ch, row) then { f with stale := true } else f }

/-! ## Frame disables (R296) -/

/-- A DISABLE event with its disable record, kept in the boot store and in the reserve of the die's stacks (R296, R422). `level` 0: the slice
of the hub; 1: the row buffer of row die s. -/
def Block.disableEvent (b : Block) (hub level s set way cause : Nat) (whole : Bool) : Block :=
  let b := b.event hub 0x08 none
    (pack [(0, 1, level), (1, 4, if level = 1 then s else 0), (5, 1, b2n whole), (6, 2, cause), (8, 4, way), (12, 20, if whole then 0 else set)])
  let id := if level = 0 then (b.hub hub).dieId else (b.die s).dieId
  let rec_ := pack [(0, 64, id), (64, 8, level), (72, 1, b2n whole), (80, 8, way), (96, 32, if whole then 0 else set)]
  let b := b.onEng fun e => { e with boot := { e.boot with disables := e.boot.disables ++ [BitVec.ofNat 128 rec_], disableSeq := e.boot.disableSeq + 1 } }
  b.onDie (if level = 0 then 3 * hub else s) fun d => { d with disableRecs := d.disableRecs ++ [BitVec.ofNat 128 rec_] }

/-- Disable a frame whose line nothing holds, and the whole way once its threshold is reached: lines of the way that a commit or a service
holds stay until it retires. -/
def Cache.disableNow (c : Cache) (setOf : Nat → Nat → Nat) (set way limit : Nat) : Cache × Bool :=
  let c := match (c.set set).ways.get? way with | some l => c.drop setOf l.ch l.row | none => c
  let c := { c with disFrames := c.disFrames ++ [(set, way)] }
  if limit ≤ (c.disFrames.countP fun f => f.2 == way) && !c.disWays.testBit way then
    let gone := c.sets.filterMap fun (_, x) => (x.ways.get? way).bind fun l => if l.held == 0 && !l.service then some l else none
    let c := { c with disWays := setBits c.disWays way 1 1 }
    (gone.foldl (fun c l => c.drop setOf l.ch l.row) c, true)
  else (c, false)

/-- Frames of a slice, or of row die s's buffer, that errors disable: now, or once the commit or service that holds the frame's line
retires. `cause` 0: uncorrectable errors, 1: corrections. -/
def Block.disableFrame (b : Block) (hub : Nat) (buffer : Option Nat) (set way cause : Nat) : Block :=
  let c := match buffer with | none => (b.hub hub).slice.cache | some s => (b.die s).buffer
  let put := fun (b : Block) (c : Cache) => match buffer with
    | none => b.onSlice hub fun x => { x with cache := c }
    | some s => b.onDie s fun d => { d with buffer := c }
  let level := b2n buffer.isSome
  if c.disFrames.contains (set, way) || c.due.any (fun d => d.1 == set && d.2.1 == way) then b
  else if (match (c.set set).ways.get? way with | some l => l.held != 0 || l.service | none => false) then
    put b { c with due := c.due ++ [(set, way, cause)] }
  else
    let (c, whole) := match buffer with
      | none => c.disableNow cacheSet set way 4096
      | some _ => c.disableNow bufferSet set way 128
    let b := (put b c).disableEvent hub level (buffer.getD 0) set way cause false
    if whole then b.disableEvent hub level (buffer.getD 0) 0 way 2 true else b

/-- Frames of a set whose disable waited for their holds, once a line is held no longer. -/
def Block.disableDue (b : Block) (hub : Nat) (buffer : Option Nat) (set : Nat) : Block :=
  let c := match buffer with | none => (b.hub hub).slice.cache | some s => (b.die s).buffer
  let free := fun (way : Nat) => match (c.set set).ways.get? way with | some l => l.held == 0 && !l.service | none => true
  (c.due.filter fun d => d.1 == set && free d.2.1).foldl (fun b (set, way, cause) =>
    let drop := fun (c : Cache) => { c with due := c.due.erase (set, way, cause) }
    let b := (match buffer with
      | none => b.onSlice hub fun x => { x with cache := drop x.cache }
      | some s => b.onDie s fun d => { d with buffer := drop d.buffer })
    b.disableFrame hub buffer set way cause) b

/-! ## The write path (R258, R277, R279, R291, R293) -/

/-- Whether bytes are a whole granule of zeros. -/
def zeroGranule (data : List Byte) : Bool := data.length == 256 && data.all (· == 0)

/-- A write that is not a row commit passes the tags of the home hub and of the row buffer: the row-cache line is dropped, or becomes a zero
line where the write covers the granule with zeros; fills in flight of the granule become stale; the row-buffer line is updated (R279,
R280, R293, Table 10-1). -/
def Block.passTags (b : Block) (ch row : Nat) (zero : Bool) : Block :=
  let s := ch / 64
  let becomes := fun (l : Line) => zero && (b.part l.part).zeroLine
  let b := b.onGroupSlice s fun x =>
    match x.cache.line? (cacheSet ch row) ch row with
    | some l =>
      if becomes l then
        { x with cache := x.cache.onLine (cacheSet ch row) ch row fun l => { l with zero := true }
                 fills := x.fills.map fun f => if f.granules.contains (ch, row) then { f with stale := true } else f }
      else x.dropGranule ch row
    | none => x.dropGranule ch row
  b.onDie s fun d => { d with buffer := d.buffer.onLine (bufferSet ch row) ch row fun l => { l with zero := becomes l } }

/-- A row commit passes the tags under the partition's WPOL (R291): `row` lists the granules of its slot, `wrote` those that it writes, each
with whether it becomes zeros. The answer lists the lines that the commit holds. -/
def Block.commitTags (b : Block) (q : Nat) (row : List (Nat × Nat)) (wrote : List (Nat × Nat × Bool)) : Block × List (Nat × Nat) :=
  match wrote.head? with
  | none => (b, [])
  | some (ch0, _, _) =>
    let s := ch0 / 64
    let p := b.part q
    let zero := fun (x : Nat × Nat) => p.zeroLine && wrote.any fun w => w.1 == x.1 && w.2.1 == x.2 && w.2.2
    let mine := wrote.map fun w => (w.1, w.2.1)
    let b := b.onDie s fun d => { d with buffer := mine.foldl (fun c x => c.onLine (bufferSet x.1 x.2) x.1 x.2 fun l => { l with zero := zero x }) d.buffer }
    match b.sliceOf s with
    | none => (b, [])
    | some h =>
      let b := b.onSlice h fun x => { x with fills := x.fills.map fun f => if f.granules.any mine.contains then { f with stale := true } else f }
      let c := (b.hub h).slice.cache
      let there := fun (x : Nat × Nat) => (c.line? (cacheSet x.1 x.2) x.1 x.2).isSome
      if p.wpol = 1 then
        (b.onSlice h fun x => { x with cache := mine.foldl (fun c y => c.drop cacheSet y.1 y.2) x.cache }, [])
      else if mine.any there then
        let here := mine.filter there
        (b.onSlice h fun x => { x with cache := here.foldl (fun c y => c.onLine (cacheSet y.1 y.2) y.1 y.2 fun l =>
            { l with held := l.held + 1, zero := zero y }) x.cache }, here)
      else if p.wpol = 2 then
        match c.fillRow cacheSet [fun _ => p.elig false] (b.lineLocked c) false (rowLines q (b.hub h).slice.nextFill zero 1 row) with
        | some (c, out) => (b.onSlice h fun x => { x with cache := c, nextFill := x.nextFill + 1, offers := x.offers ++ b.offering out }, row)
        | none => (b, [])
      else (b, [])

/-- Cut [pa, pa + n) at granule boundaries: (address, offset in the data, length). -/
def pieces (pa n : Nat) : List (Nat × Nat × Nat) :=
  (granulesOf pa n).map fun g =>
    let a := Nat.max g pa
    let e := Nat.min (g + 256) (pa + n)
    (a, a - pa, e - a)

/-- A write to stack memory by the engine or an outside agent, not a row commit, for work of a class. A lost granule's write is discarded
(R270). -/
def Block.wrMem (b : Block) (hub pa : Nat) (data : List Byte) (source : Nat) (cls : Nat := 1) : Block :=
  (pieces pa data.length).foldl (fun b (a, off, n) =>
    match b.locate a with
    | none => b
    | some (ch, row) =>
      if (b.chan ch).lost then b.lostWrite hub (a / 256 * 256) (ch / 64) source
      else
        let piece := (data.drop off).take n
        ((b.push (.mem a piece)).wcbAccept (ch / 64) a n cls (decide (2 ≤ source))).passTags ch row (zeroGranule piece)) b

/-- A row commit (R59): bytes of the slot whose granules `row` lists, under the partition's write policy; the cache lines that the commit
holds. -/
def Block.wrCommit (b : Block) (hub part : Nat) (row : List (Nat × Nat)) (parts : List (Nat × Nat × Nat)) (img : List Byte) (cls : Nat := 1) :
    Block × List (Nat × Nat) :=
  let all := parts.flatMap fun (off, pa, n) => (pieces pa n).map fun (a, o, m) => (a, off + o, m)
  let (b, wrote) := all.foldl (fun (b, wrote) (a, off, n) =>
    match b.locate a with
    | none => (b, wrote)
    | some (ch, r) =>
      if (b.chan ch).lost then (b.lostWrite hub (a / 256 * 256) (ch / 64) 1, wrote)
      else
        let piece := (img.drop off).take n
        ((b.push (.mem a piece)).wcbAccept (ch / 64) a n cls false, wrote ++ [(ch, r, zeroGranule piece)])) (b, ([] : List (Nat × Nat × Bool)))
  b.commitTags part row wrote

/-- Poison atoms, listing each (R264): the pattern is a write like any other, and no copy of the granule stays at either level (R277).
`source` is the SOURCE of the event. -/
def Block.poisonAtoms (b : Block) (hub pa n source : Nat) : Block :=
  let b := b.push (.poison (atomsOf pa n))
  match b.locate pa with
  | some (ch, row) =>
    let b := (b.wcbAccept (ch / 64) (pa / 64 * 64) 64 1 false).onGroupSlice (ch / 64) fun x => x.dropGranule ch row
    let b := b.onDie (ch / 64) fun d => { d with buffer := d.buffer.drop bufferSet ch row }
    b.event hub 0x01 none (pack [(0, 10, ch), (10, 1, source), (16, 32, row * 256 + pa % 256), (48, 56, pa)])
  | none => b

/-- Lines that a commit held are released when its scoreboard entry retires; a frame that awaits its disable is disabled then (R291, R296). -/
def Block.release (b : Block) (holds : List (Nat × Nat)) : Block :=
  holds.foldl (fun b (ch, row) =>
    match b.sliceOf (ch / 64) with
    | none => b
    | some h =>
      let set := cacheSet ch row
      let b := b.onSlice h fun x =>
        let c := x.cache.onLine set ch row fun l => { l with held := l.held - 1 }
        { x with cache := match (c.set set).find ch row, c.line? set ch row with
            | some w, some l => if l.held == 0 && c.disWays.testBit w then c.drop cacheSet ch row else c
            | _, _ => c }
      b.disableDue h none set) b

/-- Whether a commit finds, in the set of some granule of its row, every way that it could take held by commits in flight, so that its
run spills (R117, R286, R291). A set none of whose ways its partition may take at all holds nothing back: the row is not allocated (DEDUCED,
log 84). -/
def Block.commitBlocked (b : Block) (q : Nat) (locs : List (Nat × Nat)) : Bool :=
  (b.part q).wpol == 2 && locs.any fun (ch, row) =>
    match b.sliceOf (ch / 64) with
    | none => false
    | some h =>
      let c := (b.hub h).slice.cache
      let x := c.set (cacheSet ch row)
      let ways := (List.range 16).filter fun w => (b.part q).elig false w && c.enabled (cacheSet ch row) w &&
        (match x.ways.get? w with | some o => !b.lineLocked c o w | none => true)
      (x.find ch row).isNone && !ways.isEmpty && ways.all fun w => match x.ways.get? w with | some o => o.held != 0 | none => false

/-! ## Reads of rows through the two levels (Table 10-1) -/

/-- Every granule present and not held at the home hub's slice (R283); a held line makes the hit wait (R279). -/
inductive Hit where
  | miss
  | hit
  | wait
deriving DecidableEq, Repr

/-- What the row cache has of a row of stack s. -/
def Block.cacheHit (b : Block) (s : Nat) (locs : List (Nat × Nat)) : Hit :=
  match b.sliceOf s with
  | none => .miss
  | some h =>
    let ls := locs.map fun (ch, row) => (b.hub h).slice.cache.line? (cacheSet ch row) ch row
    if ls.any Option.isNone then .miss else if ls.any fun l => (l.getD {}).held != 0 then .wait else .hit

def Block.cacheTouch (b : Block) (h : Nat) (locs : List (Nat × Nat)) : Block :=
  b.onSlice h fun x =>
    { x with cache := locs.foldl (fun c (ch, row) => c.touch (cacheSet ch row) ch row) x.cache, hits := x.hits + 1
             zeroLines := x.zeroLines + (locs.countP fun (ch, row) => ((x.cache.line? (cacheSet ch row) ch row).getD {}).zero) }

def Block.bufferHit (b : Block) (s : Nat) (locs : List (Nat × Nat)) : Bool :=
  locs.all fun (ch, row) => ((b.die s).buffer.line? (bufferSet ch row) ch row).isSome

def Block.bufferTouch (b : Block) (s : Nat) (locs : List (Nat × Nat)) : Block :=
  b.onDie s fun d => { d with buffer := locs.foldl (fun c (ch, row) => c.touch (bufferSet ch row) ch row) d.buffer }

/-- Fill a row's granules into the row buffer, whole or not at all (R283, R286, R297). -/
def Block.bufferFill (b : Block) (s part : Nat) (locs : List (Nat × Nat)) (toward : Bool) (zero : Bool := false) : Block :=
  match (b.die s).buffer.fillRow bufferSet [fun _ _ => true] (fun _ _ => false) toward (rowLines part 0 (fun _ => zero) 0 locs) with
  | some (c, _) => b.onDie s fun d => { d with buffer := c }
  | none => b

/-! ## Service copies (R267, R272, R276, R297) -/

/-- A free service way in every set that the granules need: at most eight ways of a set hold service copies. -/
def Block.stageRoom (b : Block) (s : Nat) (locs : List (Nat × Nat)) : Bool :=
  locs.all fun (ch, row) => decide ((((b.die s).buffer.set (bufferSet ch row)).ways.countP fun (_, l) => l.service) < 8)

/-- A row die holds a service copy of a granule, which serves every read of it (R267, R276). -/
def Block.staged (b : Block) (ch row : Nat) : Bool :=
  ((b.die (ch / 64)).buffer.set (bufferSet ch row)).ways.any fun (_, l) => l.service && l.ch == ch && l.row == row

/-- A granule's service copy takes an invalid way, else the victim's, whose row leaves with it. -/
def Cache.stage (c : Cache) (ch row : Nat) : Cache :=
  let k := bufferSet ch row
  let x := c.set k
  let ok := fun (w : Nat) => c.enabled k w && (match x.ways.get? w with | some o => o.held == 0 && !o.service | none => true)
  if 8 ≤ (x.ways.countP fun (_, l) => l.service) then c
  else match chooseVictim x.tree (fun w => x.ways.has w) ok with
    | none => c
    | some w =>
      let c' := match x.ways.get? w with
        | some o => (c.removeMates bufferSet o).1
        | none => c
      c'.putSet k { tree := x.tree, ways := (c'.set k).ways.put w { ch := ch, row := row, service := true } }

/-- Stage service copies of granules into the row buffer. -/
def Block.stage (b : Block) (s : Nat) (locs : List (Nat × Nat)) : Block :=
  b.onDie s fun d => { d with buffer := locs.foldl (fun c x => c.stage x.1 x.2) d.buffer }

/-- Service copies go when their scoreboard operation retires. -/
def Block.unstage (b : Block) (hub s : Nat) (locs : List (Nat × Nat)) : Block :=
  locs.foldl (fun b (ch, row) =>
    let k := bufferSet ch row
    (b.onDie s fun d => { d with buffer := d.buffer.putSet k { d.buffer.set k with
        ways := (d.buffer.set k).ways.keep fun _ l => !(l.service && l.ch == ch && l.row == row) } }).disableDue hub (some s) k) b

/-! ## Mogul (R289) -/

def mogulSetOf (table lrow : Nat) : Nat :=
  let k := table * 2 ^ 40 + lrow
  (k ^^^ (k / 2 ^ 16) ^^^ (k / 2 ^ 32) ^^^ (k / 2 ^ 48)) % Config.mogulSets

/-- The entry that a new candidate replaces: the lowest count, lowest entry first; a free entry counts 0. -/
def mogulVictim (es : List Mogul) : Nat :=
  let low := es.foldl (fun m e => Nat.min m e.count) 256
  (es.findIdx? fun e => e.count == low).getD 0

/-- One wide-path row fetch counted. A set lists its entries up to the last that was ever used; one with count 0 is free. -/
def Slice.mogulCount (s : Slice) (table lrow : Nat) : Slice :=
  let k := mogulSetOf table lrow
  let es := s.mogul.getD k []
  let es' :=
    match es.findIdx? fun e => e.table == table && e.lrow == lrow && e.count != 0 with
    | some i => es.modify i fun e => { e with count := Nat.min (e.count + 1) 255 }
    | none => if es.length < 16 && es.all (·.count != 0) then es ++ [{ table := table, lrow := lrow, count := 1 }]
              else es.set (mogulVictim es) { table := table, lrow := lrow, count := 1 }
  { s with mogul := s.mogul.put k es', fetches := s.fetches + 1 }

def Slice.mogulOf (s : Slice) (table lrow : Nat) : Nat :=
  (((s.mogul.getD (mogulSetOf table lrow) []).find? fun e => e.table == table && e.lrow == lrow).map (·.count)).getD 0

/-- After 4,194,304 counted fetches every count is halved; entries at 0 become free (R289). -/
def Slice.halve (s : Slice) : Slice :=
  { s with mogul := (s.mogul.mapVal fun _ es => es.map fun e => if e.count / 2 = 0 then {} else { e with count := e.count / 2 }).keep fun _ es => es.any (·.count != 0)
           fetches := s.fetches - 4194304 }

/-- Whether a row is admitted after a fetch that missed the row cache (R288). -/
def Block.admits (b : Block) (h q table lrow : Nat) : Bool :=
  let a := b.admitAt h q
  if a = 0 then false else if a = 1 then decide ((b.part q).hot ≤ (b.hub h).slice.mogulOf table lrow) else true

/-- A fill on its way to the home hub (R288, R290). -/
def Block.startFill (b : Block) (h q : Nat) (locs : List (Nat × Nat)) (preload : Bool) : Block :=
  b.onSlice h fun x =>
    { x with fills := x.fills ++ [{ id := x.nextFill, granules := locs, part := q, preload := preload }], nextFill := x.nextFill + 1
             admissions := x.admissions + 1 }

/-! ## How a command ends -/

/-- The outcome type of a meaning. -/
abbrev Result := Host.Outcome State Fault Refusal

/-- The state after a command: its writes are applied to memory in order, and the queue of waiting commands is left alone. -/
def settle (s : State) (b : Block) : State :=
  { s with store := s.store.apply b.wr, blk := { b with wr := [] } }

/-- The block as a command finds it: no write made yet. -/
def State.start (s : State) : Block := { s.blk with wr := [] }

/-- An interrupt write that a command has made to the engine's own stack memory goes the way of every inbound write (R270, R277, R331,
R368). -/
def Block.interrupt (b : Block) : Wr → Block
  | .intr h a d => b.wrMem h a d 2
  | _ => b

/-- The command's interrupt writes, which may list lost writes and so raise further ones: each hub's EVENT cause can rise once. -/
def Block.interrupts (b : Block) : Nat → Block
  | 0 => b
  | fuel + 1 =>
    let is := b.wr.filter fun | .intr _ _ _ => true | _ => false
    if is.isEmpty then b
    else (is.foldl Block.interrupt { b with wr := b.wr.filter fun | .intr _ _ _ => false | _ => true }).interrupts fuel

/-- Run a command's effect on the block: every command of the block ends in a next state (log 1). -/
def run (f : Store → Block → Block) (s : State) : Result := .next (settle s ((f s.store s.start).interrupts 16))

/-- What a fatal engine no longer does (R413): records, flags and new scoreboard operations, and work that firmware drives. -/
def live (f : Store → Block → Block) (s : State) : Result := run (fun st b => if b.fatal then b else f st b) s

/-- Work that firmware drives: it also waits for the end of a handover (R430). -/
def firmware (f : Store → Block → Block) (s : State) : Result :=
  live (fun st b => if b.fw b.eng.leader == .handover then b else f st b) s

end Sys2Proof.Machine
end

