-- ==== Sys2Proof/Machine/Regs.lean ====
section
/-! DEFINITION. What the engine shows of itself without firmware: identities, the boundary-register map, ALERTN, the Almanac
(R427, R428, R437 to R441, Tables 13-1 to 13-4, 15-4 to 15-6, 15-10 to 15-12), and the test access port's commands (R440). -/
namespace Sys2Proof.Machine

/-! ## Identities -/

/-- IDCODE (R440). -/
def idcodeVal : Nat := pack [(28, 4, 0x2), (12, 16, 0x5A02), (1, 11, Config.jedecId.toNat), (0, 1, 1)]

/-- The provisional ID of hub h's I3C target (R439). -/
def pidVal (h : Nat) : Nat :=
  pack [(33, 15, Config.mipiId.toNat), (32, 1, 0), (16, 16, 0x5A02), (12, 4, h), (0, 12, Config.serialLow.toNat)]

/-! ## Features (Table 13-9, R43, R372) -/

def featFIGURES : Nat := 0
def featTWIN : Nat := 1
def featWINDOWS : Nat := 2
def featHUBCLUSTERS : Nat := 3
def featPRIVILEGED : Nat := 4
def featCAPACITY : Nat := 5

/-- FEATAVAIL: this engine has Figures mode, a Telemark port, 4,096 windows and channels that can be designated privileged; hub
clusters and the capacity tier as they stand. -/
def Block.featAvail (b : Block) : Nat :=
  pack [(0, 1, 1), (1, 1, 1), (2, 1, 1), (3, 1, b2n (b.hubs.vals.any fun h => h.inService && h.clusters != 0)), (4, 1, 1),
    (5, 1, b2n (Config.capTier.toNat != 0))]

/-- Whether a feature is among those HELLO agreed on. -/
def Block.feat (b : Block) (f : Nat) : Bool := b.eng.features.testBit f

/-! ## State shown by the registers -/

def Fw.code : Fw → Nat
  | .boot => 0
  | .run => 1
  | .handover => 2
  | .fatal => 3

def PairState.code : PairState → Nat
  | .free => 0
  | .posted => 1
  | .taken => 2
  | .pending => 3
  | .done => 4

/-- A row die of the group is at thermal level 4. -/
def Block.level4In (b : Block) (h : Nat) : Bool := [3 * h, 3 * h + 1, 3 * h + 2].any fun s => b.dieOn s && (b.die s).level == 4

/-- ALERTN is driven low (Table 15-10). -/
def Block.alert (b : Block) (h : Nat) : Bool := b.fw h == .fatal || b.level4In h

/-- A hub's register window answers: its functions are not lost (R441). -/
def Block.winUp (b : Block) (h : Nat) : Bool :=
  (b.hub h).ringStop && ((b.hub h).inService || b.fw h == .boot || b.fw h == .fatal)

/-- MBX_ID (Table 13-2). -/
def Block.mbxId (b : Block) (h : Nat) : Nat :=
  let r := (b.hub h).regs
  pack [(0, 8, h), (8, 8, 0x20), (16, 8, if b.eng.hello then 0x20 + b.eng.minor else 0), (24, 8, b.eng.leader),
    (32, 8, r.fw.code), (40, 8, r.bank)]

/-- HUB_STATUS (Table 15-12). -/
def Block.hubStatus (b : Block) (h : Nat) : Nat :=
  let r := (b.hub h).regs
  pack [(0, 6, (b.die (3 * h)).ucieUp), (6, 6, (b.die (3 * h + 1)).ucieUp), (12, 6, (b.die (3 * h + 2)).ucieUp),
    (24, 1, b2n r.fabUp), (32, 1, b2n r.tlmUp)]

/-- HUB_BOOT (Table 15-12). -/
def Regs.hubBoot (r : Regs) : Nat := pack [(0, 1, b2n r.fallback), (8, 8, r.bootSource), (16, 8, r.bootFail)]

/-- The states of sixteen pairs (MBX_STATEn). -/
def mbxState (ps : Tbl Pair) (n : Nat) : Nat := pack ((List.range 16).map fun j => (4 * j, 4, (ps.getD (16 * n + j) {}).st.code))

/-- The monitor that MON_SEL selects, if the hub holds it. -/
def Block.monSelected (b : Block) (h : Nat) : Option Monitor :=
  let sel := (b.hub h).regs.monSel.toNat
  let mon := bits sel 0 16
  let inst := bits sel 16 16
  match monInstances mon with
  | none => none
  | some n => if inst < n ∧ monHub mon inst = h then some (b.eng.monitors.getD (monKey mon inst) {}) else none

/-- A 64-bit register of hub h's window (Tables 13-1 and 15-11); slots are read eight bytes at a time; every other offset reads 0. -/
def Block.regRead (b : Block) (h off : Nat) : Nat :=
  let hub := b.hub h
  let r := hub.regs
  let mon := fun (f : Monitor → Nat) => match b.monSelected h with | some m => f m | none => 0
  let d := b.eng.dump
  if off % 8 ≠ 0 then 0
  else if off = 0x0000 then b.mbxId h
  else if off = 0x0008 then r.refused
  else if 0x0010 ≤ off ∧ off ≤ 0x0028 then mbxState hub.pairs ((off - 0x0010) / 8)
  else if off = 0x0100 then r.intStatus.toNat
  else if off = 0x0108 then r.intEnable.toNat
  else if off = 0x0110 then r.msiAddr.toNat
  else if off = 0x0118 then r.msiData.toNat
  else if off = 0x0200 then b.hubStatus h
  else if off = 0x0208 then r.hubBoot
  else if off = 0x0210 then r.age % 2 ^ 64
  else if off = 0x0218 then r.almGen % 2 ^ 32
  else if off = 0x0220 then idcodeVal
  else if off = 0x0228 then pidVal h
  else if off = 0x0300 then pack [(0, 4, d.state), (16, 16, d.cause)]
  else if off = 0x0308 then d.feseq
  else if off = 0x0310 then d.vbase
  else if off = 0x0318 then d.pages
  else if off = 0x0400 then r.monSel.toNat + (if (b.monSelected h).isSome then 0 else 2 ^ 63)
  else if off = 0x0408 then mon (·.min)
  else if off = 0x0410 then mon (·.max)
  else if off = 0x0418 then mon (·.samples)
  else if 0x0500 ≤ off ∧ off ≤ 0x06F8 then mon fun m => m.bins.getD ((off - 0x0500) / 8) 0
  else if 0x4000 ≤ off ∧ off < 0x8000 then bits (hub.pairs.getD ((off - 0x4000) / 256) {}).req.toNat (8 * (off % 256)) 64
  else if 0x8000 ≤ off ∧ off < 0xC000 then bits (hub.pairs.getD ((off - 0x8000) / 256) {}).rep.toNat (8 * (off % 256)) 64
  else 0

/-! ## The Almanac (Tables 15-4 to 15-6) -/

def opPoint (k : Nat) : List Byte :=
  let p := if k = 0 then (550, 300, 180) else if k = 1 then (700, 750, 320) else (850, 1200, 550)
  toBytes 16 (pack [(0, 16, p.1), (32, 32, p.2.1), (64, 32, p.2.2)])

/-- Bytes 0 to 127 (Table 15-4). -/
def Block.almHead (b : Block) : List Byte :=
  toBytes 64 (pack
    [ (0, 8, 0x20), (8, 8, pack (b.upHubs.map fun h => (h, 1, 1))), (16, 8, b.eng.leader), (24, 8, 7), (32, 32, b.eng.almGen)
    , (64, 16, pack (((List.range 12).filter b.dieOn).map fun s => (s, 1, 1))), (96, 32, layoutId b.eng.layout), (128, 64, Config.hpwBase)
    , (192, 64, Config.sigBase), (256, 8, (Config.torus 0).toNat), (264, 8, (Config.torus 1).toNat), (272, 8, (Config.torus 2).toNat)
    , (288, 32, 64), (320, 32, Config.tablesAll), (352, 32, Config.tablesPerJob), (384, 16, 4096), (400, 16, 4096)
    , (416, 16, 4000), (448, 64, Config.capTier.toNat) ])
  ++ opPoint 0 ++ opPoint 1 ++ opPoint 2
  ++ toBytes 16 (pack [(0, 32, Config.chrows), (32, 16, Config.chresMiB)])

/-- Ways enabled of a cache. -/
def Cache.waysOn (c : Cache) : Nat := 0xFFFF - c.disWays % 65536

/-- A hub record (Table 15-5). -/
def Block.almHub (b : Block) (h : Nat) : List Byte :=
  let x := b.hub h
  let groups := if x.inService then pack ((List.range 4).map fun g => (g, 1, b2n (b.groupHub g == h))) else 0
  toBytes 64 (pack
    [ (0, 8, b2n x.inService), (8, 8, x.stewards), (16, 16, x.clusters), (32, 32, 2048), (64, 32, Config.cacheSets)
    , (96, 16, x.slice.cache.waysOn), (112, 16, 256), (128, 32, 262144), (160, 32, 1048576), (192, 32, 16000), (224, 32, 64000)
    , (256, 32, 65536), (288, 8, groups) ])

/-- A stack record (Table 15-6). -/
def Block.almStack (b : Block) (s : Nat) : List Byte :=
  let d := b.die s
  let inLayout := ((b.eng.layout.ord ++ b.eng.layout.priv).filter fun c => c / 64 == s).length
  toBytes 32 (pack
    [ (0, 8, d.st), (8, 8, d.trep), (16, 16, d.clusters), (32, 32, 98304), (64, 64, d.active)
    , (128, 64, b.eng.layout.privMask.getD s 0), (192, 16, Config.chresMiB * inLayout), (208, 16, 64), (224, 16, d.buffer.waysOn)
    , (240, 16, Config.entryCache) ])

/-- A domain record (Table 15-6): its lists lie at the given offsets. -/
def Block.almDomain (b : Block) (d chanOff zoneOff : Nat) : List Byte :=
  let L := b.eng.layout
  toBytes 32 (pack
    [ (0, 64, domainBase d), (64, 64, L.cap d), (128, 16, (L.chans d).length), (144, 8, (L.zoneList d).length)
    , (160, 32, chanOff), (192, 32, zoneOff) ])

/-- The Almanac as it stands (R428): channel lists, then zone lists, from byte 832. -/
def Block.almanac (b : Block) : List Byte :=
  let L := b.eng.layout
  let o1 := 832 + 2 * L.ord.length
  let o2 := o1 + 2 * L.priv.length
  let o3 := o2 + 8 * L.zord.length
  b.almHead ++ (List.range 4).flatMap b.almHub ++ (List.range 12).flatMap b.almStack
  ++ b.almDomain 0 832 o2 ++ b.almDomain 1 o1 o3
  ++ chanBytes L.ord ++ chanBytes L.priv ++ zoneBytes L.zord ++ zoneBytes L.zpriv

/-- The leader publishes the Almanac again (R427). -/
def Block.publish (b : Block) : Block :=
  let g := b.eng.almGen + 1
  let b := b.onEng fun e => { e with almGen := g }
  b.upHubs.foldl (fun b h => b.onRegs h fun r => { r with almGen := g }) b

/-- FWSTATE of a hub changes (Table 13-4). -/
def Block.setFw (b : Block) (h : Nat) (f : Fw) : Block :=
  if b.fw h = f then b else (b.onRegs h fun r => { r with fw := f }).raise h intFWSTATE

/-! ## Register writes (R368, R441) -/

/-- The interrupt write when an enabled cause stands (R368). -/
def Block.msiIfDue (b : Block) (h : Nat) : Block :=
  let r := (b.hub h).regs
  if r.intStatus &&& r.intEnable = 0 then b else b.msiWrite h

/-- INT_STATUS_WRITE: W1C, and the interrupt write if an enabled cause remains set (R368). -/
def intStatusWrite (h : Nat) (v : BitVec 64) (b : Block) : Block :=
  if !b.winUp h then b
  else (b.onRegs h fun r => { r with intStatus := r.intStatus &&& ~~~v }).msiIfDue h

def execIntStatusWrite (hub : Nat) (value : BitVec 64) (s : State) : Result := run (fun _ b => intStatusWrite hub value b) s

/-- INT_ENABLE_WRITE: the eight enables; an enable that becomes 1 under a set cause sends the interrupt write (R368). -/
def intEnableWrite (h : Nat) (v : BitVec 64) (b : Block) : Block :=
  if !b.winUp h then b
  else
    let old := (b.hub h).regs.intEnable
    let new := v &&& 0xFF#64
    let b := b.onRegs h fun r => { r with intEnable := new }
    if new &&& ~~~old &&& (b.hub h).regs.intStatus = 0 then b else b.msiWrite h

def execIntEnableWrite (hub : Nat) (value : BitVec 64) (s : State) : Result := run (fun _ b => intEnableWrite hub value b) s

/-- REGISTER_WRITE: MON_SEL, INT_MSI_ADDR and INT_MSI_DATA take their RW bits; at INT_STATUS and INT_ENABLE it is their own write; every other
offset ignores the write (R441). The request slots are written by REQUEST_SLOT_WRITE. -/
def registerWrite (h off : Nat) (v : BitVec 64) (b : Block) : Block :=
  if !b.winUp h then b
  else if off = 0x0100 then intStatusWrite h v b
  else if off = 0x0108 then intEnableWrite h v b
  else if off = 0x0110 then b.onRegs h fun r => { r with msiAddr := v &&& ~~~(3#64) }
  else if off = 0x0118 then b.onRegs h fun r => { r with msiData := v &&& 0xFFFFFFFF#64 }
  else if off = 0x0400 then b.onRegs h fun r => { r with monSel := v &&& 0xFFFFFFFF#64 }
  else b

def execRegisterWrite (hub offset : Nat) (value : BitVec 64) (s : State) : Result := run (fun _ b => registerWrite hub offset value b) s

/-! ## The test access port (R440) -/

def Block.onTap (b : Block) (h : Nat) (f : Tap → Tap) : Block := b.onHub h fun x => { x with tap := f x.tap }

/-- Boundary-scan cells of a hub: one for each sideband pin but the test port's own, in the order of Table 15-10 (DESIGN CHOICE,
log 18): RSTN, PWRGD, SCL, SDA, ALERTN, and on hubs 0 and 1 BSCK, BSCSN, BSIO0 to BSIO3. -/
def bsrCells (h : Nat) : Nat := if h ≤ 1 then 11 else 5

/-- What the pins show: RSTN, PWRGD and ALERTN as they stand, the others free values (log 2). -/
def Block.pinSample (b : Block) (h : Nat) : Nat × Block :=
  let (x, b) := b.free
  (setBits (setBits (setBits (x.toNat % 2 ^ bsrCells h) 0 1 (b2n b.eng.power.rstn)) 1 1 (b2n b.eng.power.pwrgd)) 4 1 (b2n (!b.alert h)), b)

/-- TEST_RESET: the reset port selects the IDCODE register and releases the pins (PRESUMED from IEEE 1149.1, log 19). -/
def execTestReset (hub : Nat) (s : State) : Result :=
  run (fun _ b => b.onTap hub fun t => { t with ir := .idcode, tdo := idcodeVal, driven := false, floated := false }) s

/-- BYPASS: the one-bit bypass register, which captures 0. -/
def execBypass (hub : Nat) (s : State) : Result :=
  run (fun _ b => b.onTap hub fun t => { t with ir := .bypass, tdo := 0, driven := false, floated := false }) s

/-- IDCODE (R440). -/
def execIdcode (hub : Nat) (s : State) : Result :=
  run (fun _ b => b.onTap hub fun t => { t with ir := .idcode, tdo := idcodeVal, driven := false, floated := false }) s

/-- SAMPLE/PRELOAD: the pins are sampled into what shifts out, and the register takes what is shifted in. -/
def execSamplePreload (hub load : Nat) (s : State) : Result :=
  run (fun _ b =>
    let (pins, b) := b.pinSample hub
    b.onTap hub fun t => { t with ir := .samplePreload, pinsIn := pins, tdo := pins, bsr := load % 2 ^ bsrCells hub, driven := false, floated := false }) s

/-- EXTEST drives the pins from the boundary-scan register, only while RSTN is low (R440). -/
def execExtest (hub : Nat) (s : State) : Result :=
  run (fun _ b =>
    let (pins, b) := b.pinSample hub
    b.onTap hub fun t => { t with ir := .extest, pinsIn := pins, tdo := pins, driven := !b.eng.power.rstn, floated := false }) s

/-- CLAMP holds the pins from the boundary-scan register while bypassing, only while RSTN is low (R440). -/
def execClamp (hub : Nat) (s : State) : Result :=
  run (fun _ b => b.onTap hub fun t => { t with ir := .clamp, tdo := 0, driven := !b.eng.power.rstn, floated := false }) s

/-- HIGHZ places the outputs in high impedance (R440). -/
def execHighz (hub : Nat) (s : State) : Result :=
  run (fun _ b => b.onTap hub fun t => { t with ir := .highz, tdo := 0, driven := false, floated := true }) s

end Sys2Proof.Machine
end

