-- ==== Sys2Proof/Machine/Mail.lean ====
section
/-! DEFINITION. Mailboxes: posting, copying, the checks of R363, replies, objects of messages, leader records (R32, R358 to R368,
R370), and the commands that write request slots. -/
namespace Sys2Proof.Machine

/-! ## Pairs and frames (Tables 13-3, 13-5, 13-6) -/

/-- Key of a pair: 0 to 63 fabric, 64 to 67 management. -/
def pairKey (mb : Mbox) (k : Nat) : Nat := match mb with | .fabric => k | .mgmt => 64 + k
def keyMbox (key : Nat) : Mbox := if key < 64 then .fabric else .mgmt
/-- The pair exists: 64 in the fabric mailbox, 4 in the management mailbox. -/
def pairExists (mb : Mbox) (k : Nat) : Bool := match mb with | .fabric => decide (k < 64) | .mgmt => decide (k < 4)

def Block.pair (b : Block) (h key : Nat) : Pair := (b.hub h).pairs.getD key {}
def Block.onPair (b : Block) (h key : Nat) (f : Pair → Pair) : Block :=
  b.onHub h fun x => { x with pairs := x.pairs.put key (f (x.pairs.getD key {})) }

/-- A copied message: its header fields, and all its bits as copied. -/
structure Msg where
  hub : Nat := 0
  key : Nat := 0
  pm : Bool := false
  x : Nat := 0
deriving DecidableEq, Repr, Inhabited

def Msg.version (m : Msg) : Nat := bits m.x 0 8
def Msg.code (m : Msg) : Nat := bits m.x 8 16
def Msg.lenw (m : Msg) : Nat := bits m.x 24 8
def Msg.job (m : Msg) : Nat := bits m.x 32 6
def Msg.tag (m : Msg) : Nat := bits m.x 48 16
/-- The integer in bytes `lo` to `lo + n - 1` (R364). -/
def Msg.at (m : Msg) (lo n : Nat) : Nat := bits m.x (8 * lo) (8 * n)
/-- Bit `i` of byte `lo`. -/
def Msg.flag (m : Msg) (lo i : Nat) : Bool := bit m.x (8 * lo + i)

/-- The copy of a slot: LENW × 8 bytes, or bytes 0 to 15 when LENW lies outside 2 to 32 (R359, R363). -/
def copyOf (req : BitVec 2048) : BitVec 2048 :=
  let lenw := bits req.toNat 24 8
  let n := if 2 ≤ lenw ∧ lenw ≤ 32 then 64 * lenw else 128
  BitVec.ofNat 2048 (req.toNat % 2 ^ n)

/-- The bytes of a structure inside a message, as a number. -/
def Msg.struct (m : Msg) (lo n : Nat) : Nat := m.at lo n

/-! ## Cards (R364, R373, Tables 13-10 to 13-15) -/

structure Card where
  code : Nat
  /-- The field that tells apart the commands of one code: (low bit, width, value), and whether this command also takes the values
  that the manual leaves undefined for it. -/
  sel : Option (Nat × Nat × Nat) := none
  first : Bool := true
  /-- Highest defined value of the selecting field. -/
  top : Nat := 0
  jobScope : Bool := false
  f : Bool := true
  pm : Bool := false
  mg : Bool := false
  wide : Bool := false
  req : Nat := 16
  rep : Nat := 16
  /-- Named body fields, (low bit, width) in rising order; every other body bit is reserved. -/
  fields : List (Nat × Nat) := []
  /-- Enumerated body fields: (low bit, width, highest defined value). -/
  enums : List (Nat × Nat × Nat) := []
  /-- The feature that the message needs (R43). -/
  needs : Option Nat := none
deriving DecidableEq, Repr, Inhabited

/-- The gaps between named fields from `lo` to `hi`. -/
def gaps : List (Nat × Nat) → Nat → Nat → List (Nat × Nat)
  | [], lo, hi => if lo < hi then [(lo, hi - lo)] else []
  | (a, n) :: fs, lo, hi => (if lo < a then [(lo, a - lo)] else []) ++ gaps fs (a + n) hi

/-- A field given by bytes. -/
def byteF (lo n : Nat) : Nat × Nat := (8 * lo, 8 * n)
/-- A field given by bits of a byte. -/
def bitF (lo i n : Nat) : Nat × Nat := (8 * lo + i, n)

/-- Whether a posted slot's message is this card's. The first card of a code also takes values of the selecting field that are not
defined, and messages too short to hold it. -/
def Card.takes (c : Card) (req : BitVec 2048) : Bool :=
  let x := (copyOf req).toNat
  bits x 8 16 == c.code &&
    (match c.sel with
     | none => true
     | some (lo, n, v) => bits x lo n == v || (c.first && decide (c.top < bits x lo n)))

/-! ## Replies (R361) -/

/-- A reply header (Table 13-6). -/
def replyHeader (m : Msg) (lenw rstate status detail ans : Nat) : Nat :=
  pack [(0, 8, 0x20), (8, 16, m.code), (24, 8, lenw), (32, 6, m.job), (40, 2, ans), (48, 16, m.tag), (64, 8, rstate), (80, 16, status),
    (96, 32, detail)]

/-- Write a reply of `len` bytes into pair `key` of hub `h`; a DONE reply sets REPLY or raises the in-band interrupt (R361, R368, R370). -/
def Block.reply (b : Block) (m : Msg) (len rstate status detail ans body : Nat) : Block :=
  let x := replyHeader m (len / 8) rstate status detail ans ||| (body >>> 128) <<< 128
  let b := b.onPair m.hub m.key fun p =>
    { p with rep := BitVec.ofNat 2048 (setBits p.rep.toNat 0 (8 * len) x), st := if rstate = 2 then .done else .pending }
  if rstate ≠ 2 then b
  else if m.key < 64 then b.raise m.hub intREPLY
  else b.onHub m.hub fun x => if x.i3c.events.testBit 0 then { x with i3c := { x.i3c with ibi := x.i3c.ibi ++ [BitVec.ofNat 8 (0x10 + (m.key - 64))] } } else x

/-! ## What a message's own meaning answers -/

/-- The answer of a card's own checks and effect: a final result, or work that goes on. -/
structure Ans where
  b : Block := {}
  status : Nat := 0
  detail : Nat := 0
  /-- Body of the reply at its own bit positions. -/
  body : Nat := 0
  /-- Present: the message replies PENDING and this stands until its work ends. -/
  pend : Option PendMsg := none
deriving Inhabited

def Ans.fail (b : Block) (status : Nat) (detail : Nat := 0) : Ans := { b := b, status := status, detail := detail }
def Ans.ok (b : Block) (body : Nat := 0) : Ans := { b := b, body := body }
/-- Run on only after success of a check. -/
def Ans.guard (b : Block) (status : Nat) (k : Unit → Ans) : Ans := if status = OK then k () else .fail b status

/-! ## Objects (R366, R367) -/

/-- The object that a message names (R366). -/
def objOf (m : Msg) : Obj :=
  let c := m.code
  if c = 0x0010 || c = 0x0011 then .job m.job
  else if c = 0x0020 then .table (bits (m.struct 16 64) 64 20)
  else if 0x0021 ≤ c ∧ c ≤ 0x0023 then .table (bits m.x 128 20)
  else if c = 0x0031 then .prog m.job (m.at 16 2)
  else if c = 0x0040 then .ring (256 * m.hub + bits (m.struct 16 64) 8 8)
  else if 0x0041 ≤ c ∧ c ≤ 0x0043 then .ring (m.at 16 2)
  else if 0x0060 ≤ c ∧ c ≤ 0x0062 then .layout
  else if c = 0x0063 then .stack (m.at 16 1)
  else if c = 0x0070 then .partition (bits (m.struct 16 16) 8 4)
  else if c = 0x0071 then (if m.flag 17 0 then .allPartitions else .partition (m.at 16 1))
  else if c = 0x0072 || c = 0x0073 then .hub (m.at 16 1)
  else if c = 0x0082 then .harvest (m.at 16 4)
  else if c = 0x0085 then .window (bits (m.struct 16 32) 8 12)
  else if c = 0x0086 then .window (m.at 16 2)
  else if c = 0x0087 then .region (bits (m.struct 16 32) 24 12)
  else if c = 0x0088 then .region (m.at 16 2)
  else if c = 0x0083 || c = 0x0084 then .migration m.job (m.at 24 8) (m.at 32 4)
  else if 0x0090 ≤ c ∧ c ≤ 0x0092 then .twin
  else if c = 0x00A1 || c = 0x00A2 then .firmware
  else if c = 0x00A3 then .stack (m.at 16 1)
  else if c = 0x00A4 then .stack (m.at 17 1)
  else if c = 0x00A5 then .hub (m.at 17 1)
  else .none

/-- Whether a message on `o` waits behind one on `p`; ranges of one job slot's pages meet where they overlap (R327). -/
def Obj.meets (o p : Obj) : Bool :=
  match o, p with
  | .none, _ => false
  | .allPartitions, .partition _ => true
  | .partition _, .allPartitions => true
  | .migration j va n, .migration k w m => j == k && n != 0 && m != 0 && Machine.meets va (65536 * n) w (65536 * m)
  | a, c => decide (a = c)

/-- Two messages of one pair's origin. -/
def PendMsg.same (p : PendMsg) (hub key : Nat) : Bool := p.hub == hub && p.key == key

/-- A TABLE_DEFINE or RING_CREATE whose table is being retired, or whose ring is being destroyed, by a JOB_CLOSE (R53, R191). -/
def Block.ending (b : Block) (o : Obj) (code : Nat) : Bool :=
  match o with
  | .table t => code == 0x0020 && (match b.tables.get? t with | some x => x.retiring | none => false)
  | .ring r => code == 0x0040 && (match b.rings.get? r with | some x => x.destroying | none => false)
  | _ => false

/-- A message waits behind an earlier one on its object, which has the same object or, for REGION_REGISTER, an overlapping range
being released (R366, R367). -/
def Block.behind (b : Block) (earlier : List PendMsg) (m : Msg) (o : Obj) : Bool :=
  b.ending o m.code || earlier.any fun p => o.meets p.obj ||
    (m.code == 0x0087 && p.code == 0x0088 &&
      (match p.obj with
       | .region r =>
         let old := (b.eng.regions.getD r 0).toNat
         let new := m.struct 16 32
         bits old 36 6 == bits new 36 6 && decide (bits new 128 56 < bits old 128 56 + 65536 * bits old 192 28)
           && decide (bits old 128 56 < bits new 128 56 + 65536 * bits new 192 28)
       | _ => false))

/-! ## The checks of R363 -/

/-- Step 1: stages 1 to 3 of R17 on the header. HELLO is checked only for major version 2. -/
def headerCheck (e : Eng) (m : Msg) (known : Bool) : Nat :=
  let minor := if e.hello then e.minor else 0
  firstFail
    [ (if m.code = 0x0001 then bits m.version 4 4 != 2 else !versionOk m.version minor, VERSION_UNSUPPORTED)
    , (rsvSet m.x [(65, 63), (38, 10)], RESERVED_NONZERO)
    , (!known, UNKNOWN_ENCODING) ]

/-- Steps 2 to 4 of R363 and the mailbox of step 5. -/
def bodyCheck (e : Eng) (c : Card) (m : Msg) : Nat :=
  firstFail
    [ (!e.hello && c.code != 0x0001, HELLO_REQUIRED)
    , (8 * m.lenw != c.req, MESSAGE_INVALID)
    , (rsvSet m.x (gaps c.fields 128 (8 * c.req)), RESERVED_NONZERO)
    , (c.enums.any fun (lo, n, top) => decide (top < bits m.x lo n), UNKNOWN_ENCODING)
    , (if m.key < 64 then !(c.f || (c.pm && m.pm)) else !c.mg, MAILBOX_REFUSED) ]

/-- Step 6 of R363. -/
def Block.jobOpen (b : Block) (j : Nat) : Bool := match b.jobs.get? j with | some x => !x.closing | none => false

def Block.jobCheck (b : Block) (c : Card) (m : Msg) : Nat := if c.jobScope && !b.jobOpen m.job then JOB_CLOSED else OK

/-- The feature that a message needs (R43, R372). -/
def Block.featCheck (b : Block) (c : Card) : Nat :=
  match c.needs with
  | some f => if b.feat f then OK else FEATURE_ABSENT
  | none => OK

/-! ## Copying and answering -/

/-- Record an engine-wide message's origin and result on stacks 0, 3, 6 and 9 (R32). -/
def Block.leaderRecord (b : Block) (m : Msg) (len status detail body : Nat) : Block :=
  b.onEng fun e =>
    { e with leaderRecs := e.leaderRecs.filter (fun r => !(r.hub == m.hub && r.key == m.key))
        ++ [{ hub := m.hub, key := m.key, tag := m.tag, code := m.code, status := status, detail := detail, body := body, len := len
              copies := [0, 3, 6, 9].filter b.dieOn }] }

/-- The hub that returns the result of a message that was applied: the leader for an engine-wide message, the copying hub otherwise
(Table 13-6). -/
def Block.ansHub (b : Block) (c : Card) (h : Nat) : Nat := if c.wide then b.eng.leader else h

/-- Write a card's answer: PENDING with the header alone, or DONE with the card's reply length (R361). -/
def Ans.write (a : Ans) (c : Card) (m : Msg) (wasPending : Bool) : Block :=
  match a.pend with
  | some p =>
    let b := a.b.onEng fun e => { e with pend := e.pend ++ [{ p with hub := m.hub, key := m.key, code := c.code, copy := m.x }] }
    if wasPending then b else b.reply m 16 1 PENDING 0 (b.ansHub c m.hub) 0
  | none =>
    let b := a.b.onEng fun e => { e with msgReads := e.msgReads.filter fun r => !(r.hub == m.hub && r.key == m.key) }
    let b := if c.wide then b.leaderRecord m c.rep a.status a.detail a.body else b
    b.reply m c.rep 2 a.status a.detail (b.ansHub c m.hub) a.body

/-- Steps 6 and 7 on a copied message: job, feature, the card's own checks and effect; behind an earlier message on its object the
message only waits (R366, R367). -/
def applyMsg (c : Card) (act : Store → Block → Msg → Ans) (obj : Store → Block → Msg → Obj) (earlier : List PendMsg) (wasPending : Bool)
    (st : Store) (b : Block) (m : Msg) : Block :=
  let o := obj st b m
  if b.jobCheck c m ≠ OK then (Ans.fail b (b.jobCheck c m)).write c m wasPending
  else if b.behind earlier m o then (({ b := b, pend := some { obj := o, behind := true } } : Ans)).write c m wasPending
  else if b.featCheck c ≠ OK then (Ans.fail b (b.featCheck c)).write c m wasPending
  else (act st b m).write c m wasPending

/-- A hub copies posted messages: its functions run and FWSTATE is RUN (R362, R420); an engine-wide message also needs a leader that
accepts (R31). -/
def Block.copies (b : Block) (h : Nat) (wide : Bool) : Bool :=
  (b.hub h).ringStop && (b.hub h).inService && b.fw h == .run && !(wide && b.eng.passing)

/-- A message command: the posted pair's slot is copied at one moment, checked in the order of R363, and answered. `act` is the
card's own part. Nothing happens when no such message is posted there. -/
def messageAt (c : Card) (act : Store → Block → Msg → Ans) (obj : Store → Block → Msg → Obj) (h : Nat) (mb : Mbox) (k : Nat)
    (st : Store) (b : Block) : Block :=
  let key := pairKey mb k
  let p := b.pair h key
  if !pairExists mb k || !b.copies h c.wide || p.st != .posted || !c.takes p.req then b
  else
    let cp := copyOf p.req
    let b := b.onPair h key fun p => { p with st := .taken, copy := cp }
    let m : Msg := { hub := h, key := key, pm := p.pm, x := cp.toNat }
    let s1 := headerCheck b.eng m true
    if s1 ≠ OK then
      -- the header alone; HELLO still carries ENGVER (R372)
      if c.code = 0x0001 && s1 = VERSION_UNSUPPORTED then b.reply m c.rep 2 s1 0 h (pack [(136, 8, 0x20)])
      else b.reply m 16 2 s1 0 h 0
    else
      let s2 := bodyCheck b.eng c m
      if s2 ≠ OK then b.reply m c.rep 2 s2 0 h 0
      else applyMsg c act obj b.eng.pend false st b m

def message (c : Card) (act : Store → Block → Msg → Ans) (h : Nat) (mb : Mbox) (k : Nat) (s : State) : Result :=
  run (messageAt c act (fun _ _ m => objOf m) h mb k) s

/-! ## Posting (R359, R360) -/

/-- Codes of the message cards. -/
def msgCodes : List Nat :=
  [0x0001, 0x0002, 0x0004, 0x0005, 0x0010, 0x0011, 0x0020, 0x0021, 0x0022, 0x0023, 0x0030, 0x0031, 0x0040, 0x0041, 0x0042, 0x0043, 0x0044]
  ++ [0x0050, 0x0051, 0x0060, 0x0061, 0x0062, 0x0063, 0x0064, 0x0070, 0x0071, 0x0072, 0x0073, 0x0080, 0x0081, 0x0082, 0x0083, 0x0084]
  ++ [0x0085, 0x0086, 0x0087, 0x0088, 0x0090, 0x0091, 0x0092, 0x00A0, 0x00A1, 0x00A2, 0x00A3, 0x00A4, 0x00A5]

/-- A posted message with an undefined CODE fails step 1 of R363: no row of the command table names it, so the hub answers it when it
may copy. -/
def Block.answerUnknown (b : Block) (h key : Nat) : Block :=
  let p := b.pair h key
  if p.st != .posted || !b.copies h false || msgCodes.contains (bits p.req.toNat 8 16) then b
  else
    let cp := copyOf p.req
    let m : Msg := { hub := h, key := key, pm := p.pm, x := cp.toNat }
    let b := b.onPair h key fun p => { p with st := .taken, copy := cp }
    b.reply m 16 2 (headerCheck b.eng m false) 0 h 0

/-- Every posted message with an undefined CODE, when hub h begins to copy. -/
def Block.answerUnknowns (b : Block) (h : Nat) : Block := ((b.hub h).pairs.keys).foldl (fun b k => b.answerUnknown h k) b

/-- Bytes of a slot written from an offset. -/
def slotPatch (old : BitVec 2048) (off : Nat) (data : List Byte) : BitVec 2048 :=
  BitVec.ofNat 2048 (setBits old.toNat (8 * off) (8 * data.length) (ofBytes data))

def PairState.busy : PairState → Bool
  | .posted => true
  | .taken => true
  | .pending => true
  | .free => false
  | .done => false

/-- A write of `data` from offset `off` of request slot `key`; `go` tells whether it carries GO (R359, R360). -/
def Block.slotWrite (b : Block) (h key off : Nat) (data : List Byte) (go pm : Bool) : Block :=
  if (b.pair h key).st.busy then
    (b.onRegs h fun r => { r with refused := sat32 (r.refused + 1) }).raise h intMISUSE
  else
    let b := b.onPair h key fun p =>
      { p with req := slotPatch p.req off data, st := if go then .posted else p.st, pm := if go then pm else p.pm }
    if go then b.answerUnknown h key else b

/-- REQUEST_SLOT_WRITE: bytes written at an offset of the hub's window that lie within one request slot; GO is bit 0 of byte 8. -/
def requestSlotWrite (h : Nat) (agent : Agent) (off : Nat) (data : List Byte) (b : Block) : Block :=
  let o := off % 256
  if !b.winUp h || off < 0x4000 || 0x8000 ≤ off || data.isEmpty || 256 < o + data.length then b
  else
    let go := decide (o ≤ 8) && decide (8 < o + data.length) && (data.getD (8 - o) 0).getLsbD 0
    b.slotWrite h ((off - 0x4000) / 256) o data go (agent == .pm)

def execRequestSlotWrite (hub : Nat) (agent : Agent) (offset : Nat) (data : List Byte) (s : State) : Result :=
  run (fun _ b => requestSlotWrite hub agent offset data b) s

end Sys2Proof.Machine
end

