-- ==== Sys2Proof/Machine/Xlate.lean ====
section
/-! DEFINITION. Address translation: page-table entries, translation caches, whole walks, and Harvest records (R300 to R319). -/
namespace Sys2Proof.Machine

/-! ## Levels and entries (R301 to R306) -/

/-- Lowest address bit that a level indexes (Table 11-1). -/
def levelShift (lv : Nat) : Nat := if lv = 0 then 39 else if lv = 1 then 30 else if lv = 2 then 21 else 16
/-- Index bits of a level. -/
def levelBits (lv : Nat) : Nat := if lv = 0 then 17 else if lv = 3 then 5 else 9
/-- Size and alignment of a level's table. -/
def tableSize (lv : Nat) : Nat := 8 * 2 ^ levelBits lv
/-- Index of an address at a level. -/
def levelIndex (lv va : Nat) : Nat := bits va (levelShift lv) (levelBits lv)
/-- Address of the entry that a walk reads at a level. -/
def entryAddr (table lv va : Nat) : Nat := table + 8 * levelIndex lv va

/-- Windows are spaced so that an offset never reaches the next one: page addresses of TARGET 2 are window times 2^64 plus offset. -/
def winBase (w : Nat) : Nat := w * 2 ^ 64

/-- What a page-table entry says. -/
inductive Entry where
  | bad (status : Nat)
  | absent
  | table (addr : Nat)
  | leaf (e : XEntry)
deriving DecidableEq, Repr

/-- Rights codes of Table 11-4. -/
def rightsKnown (r : Nat) : Bool := r == 1 || r == 3 || r == 5 || r == 7

/-- Whether the window table has an entry. -/
def Block.windowSet (b : Block) (w : Nat) : Bool := b.eng.windows.has w

/-- Rules of R303 on a leaf: true when it breaks none. -/
def leafOk (b : Block) (lv va target addr run : Nat) : Bool :=
  let lg := levelShift lv
  let i := levelIndex lv va
  lv != 0 && decide (i % 16 + run ≤ 15)
  && (if target = 2 then addr % 2 ^ 16 == 0 && b.windowSet (addr / 2 ^ 44)
      else addr % 2 ^ lg == 0)
  && (target != 0 || b.eng.layout.inCap addr ((run + 1) * 2 ^ lg))

/-- Read an entry's 64 bits (Tables 11-2, 11-3, R303, R17 from stage 2). An address of 2^56 or more, which no table reaches (R300), is not
present (DEDUCED, log 90). -/
def entryOf (b : Block) (job lv va x : Nat) : Entry :=
  if !bit x 0 || decide (2 ^ 56 ≤ va) then .absent
  else
    let leaf := bit x 1
    let addr := bits x 8 48 * 256
    let target := bits x 2 2
    let rights := bits x 4 3
    let run := bits x 56 4
    if rsvSet x ([(60, 4), (7, 1)] ++ (if leaf then [] else [(56, 4), (4, 3), (2, 2)])) then .bad RESERVED_NONZERO
    else if leaf && (!rightsKnown rights || target == 3) then .bad UNKNOWN_ENCODING
    else if leaf then
      if leafOk b lv va target addr run then
        let base := va / 2 ^ levelShift lv * 2 ^ levelShift lv
        let a := if target = 2 then winBase (addr / 2 ^ 44) + addr % 2 ^ 44 else addr
        .leaf { job := job, lg := levelShift lv, va := base, run := run, addr := a, target := target, rights := rights }
      else .bad TRANSLATION_INVALID
    else if lv = 3 || addr % tableSize (lv + 1) != 0 || !b.eng.layout.inCap addr (tableSize (lv + 1)) then .bad TRANSLATION_INVALID
    else .table addr

/-! ## Entries as translations -/

/-- Bytes that a cached entry covers, from its first page to the end of its run. -/
def XEntry.size (e : XEntry) : Nat := (e.run + 1) * 2 ^ e.lg
def XEntry.covers (e : XEntry) (job va : Nat) : Bool := e.job == job && decide (e.va ≤ va) && decide (va < e.va + e.size)
/-- The 64 KiB page of an address under an entry. -/
def XEntry.page (e : XEntry) (va : Nat) : Page :=
  let v := va / 65536 * 65536
  { vpn := va / 65536, target := e.target, addr := e.addr + (v - e.va), rights := e.rights }

/-- Fault kinds of R314. -/
def fNOTPRESENT : Nat := 0
def fRIGHTS : Nat := 1
def fPLACEMENT : Nat := 2

/-- What a translation ends in. -/
inductive XOut where
  | page (p : Page)
  | fault (kind level : Nat) (retired : Bool)
  | stop (status : Nat)
deriving DecidableEq, Repr

/-- Rights of a page; the update right of a TARGET 2 leaf is ignored (R305). -/
def Page.grants (p : Page) (n : Need) : Bool :=
  (!n.read || p.rights.testBit 0) && (!n.write || p.rights.testBit 1) && (!n.update || (p.rights.testBit 2 && p.target != 2))

/-- Placement by TARGET (R305). -/
def Page.placed (p : Page) (n : Need) : Bool := n.place == 0 || (n.place == 1 && p.target == 0) || (n.place == 2 && p.target == 1)

/-- Domain of a working-region page (R254). -/
def Page.inDomain (p : Page) (n : Need) : Bool := n.domain == 0 || p.target != 0 || domainOf p.addr + 1 == n.domain

/-- Whether the frame under a page has been retired (R266, R314). -/
def Block.leafRetired (b : Block) (e : XEntry) (va : Nat) : Bool :=
  let lo := e.addr + (va - e.va) / 2 ^ e.lg * 2 ^ e.lg
  e.target == 0 && b.eng.retired.any fun f => decide (lo ≤ f) && decide (f < lo + 2 ^ e.lg)

/-- What a leaf found at a level gives for an access. RIGHTS is judged before PLACEMENT (DEDUCED, log 21). -/
def judge (b : Block) (e : XEntry) (lv : Nat) (n : Need) : XOut :=
  let p := e.page n.va
  if b.leafRetired e n.va then .fault fNOTPRESENT lv true
  else if !p.grants n then .fault fRIGHTS lv false
  else if !p.placed n then .fault fPLACEMENT lv false
  else if !p.inDomain n then .stop CHCLASS_MISMATCH
  else .page p

/-- Status of the walk's read of an entry (R264, R270). -/
def entryStatus (st : Store) (b : Block) (pa : Nat) : Nat := rdStatus st b pa 8

/-- A whole walk, level by level (R300 to R303). -/
def walkFrom (st : Store) (b : Block) (job : Nat) (n : Need) : Nat → Nat → Nat → XOut × Option XEntry
  | 0, _, _ => (.stop TRANSLATION_INVALID, none)
  | fuel + 1, lv, table =>
    let pa := entryAddr table lv n.va
    if entryStatus st b pa ≠ OK then (.stop (entryStatus st b pa), none)
    else match entryOf b job lv n.va (rdNat st b pa 8) with
      | .bad s => (.stop s, none)
      | .absent => (.fault fNOTPRESENT lv false, none)
      | .table t => walkFrom st b job n fuel (lv + 1) t
      | .leaf e =>
        match judge b e lv n with
        | .page p => (.page p, some e)
        | o => (o, none)

/-- A whole walk from a job slot's root. -/
def walkAll (st : Store) (b : Block) (job : Nat) (n : Need) : XOut × Option XEntry :=
  match b.jobs.get? job with
  | none => (.stop TRANSLATION_INVALID, none)
  | some j => walkFrom st b job n 4 0 j.root

/-! ## Translation caches (R307) -/

/-- Set of an entry: its first page's number modulo the sets (DESIGN CHOICE, log 22). -/
def xset (lg va : Nat) : Nat := va / 2 ^ lg % Config.xlateSets

/-- The cached entry that covers an address: (set, way, entry). -/
def Xlat.find (x : Xlat) (job va : Nat) : Option (Nat × Nat × XEntry) :=
  x.sets.findSome? fun (s, cs) => cs.ways.findSome? fun (w, e) => if e.covers job va then some (s, w, e) else none

def Xlat.touch (x : Xlat) (s w : Nat) : Xlat :=
  { x with sets := x.sets.modify s fun cs => { cs with tree := plruTouch cs.tree w } }

def Xlat.dropWay (x : Xlat) (s w : Nat) : Xlat :=
  { x with sets := x.sets.modify s fun cs => { cs with ways := cs.ways.del w } }

/-- Drop every entry that a test picks. -/
def Xlat.dropIf (x : Xlat) (p : XEntry → Bool) : Xlat :=
  { x with sets := (x.sets.mapVal fun _ cs => { cs with ways := cs.ways.keep fun _ e => !p e }).keep fun _ cs => !cs.ways.isEmpty || cs.tree != 0 }

/-- Cache an entry; a prefetch's goes in at the victim position (R295, R310). -/
def Xlat.insert (x : Xlat) (e : XEntry) (ahead : Bool) : Xlat :=
  let s := xset e.lg e.va
  let cs := x.sets.getD s {}
  let same := cs.ways.find? fun (_, o) => o.job == e.job && o.lg == e.lg && o.va == e.va
  match (match same with | some (w, _) => some w | none => chooseVictim cs.tree (fun w => cs.ways.has w) (fun _ => true)) with
  | none => x
  | some w => { x with sets := x.sets.put s { tree := if ahead then plruToward cs.tree w else plruTouch cs.tree w, ways := cs.ways.put w e } }

/-! ## In-flight uses (R120, R311) -/

/-- A use of a page begins: it takes the next number. -/
def Block.useOf (b : Block) (pg : Page) : Page × Block :=
  ({ pg with use := b.eng.nextUse }, b.onEng fun e => { e with nextUse := e.nextUse + 1 })

/-- Pages that a slot in flight holds (R311): those of its header, operand, record and flag until these are written, and those of its unit. An
update batch holds none while it waits at the gate, and those of its work only once it has started. -/
def Work.held (w : Work) : List Page :=
  let recs := if w.recorded then [] else w.slotPages ++ w.recPages
  match w.data with
  | .update u => if u.started then w.pages ++ recs else if u.distributed then [] else recs
  | _ => w.pages ++ recs

/-- Every in-flight use, with its job slot: those of slots, and those of batches until their shares retire (R120). -/
def Block.uses (b : Block) : List (Nat × Page) :=
  b.works.vals.flatMap (fun w => w.held.map fun p => (w.job, p)) ++
  b.dies.vals.flatMap fun d => d.shares.vals.flatMap fun s => s.pages.map fun p => (s.job, p)

/-- No use below a count that a test picks stands any more. -/
def Block.usesGone (b : Block) (cut : Nat) (p : Nat → Page → Bool) : Bool := b.uses.all fun (j, pg) => !(decide (pg.use < cut) && p j pg)

/-- A page lies in a job slot's range of addresses. -/
def inRange (job va n : Nat) (j : Nat) (p : Page) : Bool := j == job && decide (va ≤ 65536 * p.vpn) && decide (65536 * p.vpn < va + n)

/-- New translations that need write or update wait while a migration holds their page (R326): the piece that it moves next, whole page and
run, and the piece moved last until its remaining uses have ended. -/
def Block.migrating (b : Block) (job : Nat) (n : Need) : Bool :=
  (n.write || n.update) && b.eng.migrations.any fun g =>
    let off := n.va - g.va
    g.job == job && decide (g.va ≤ n.va) &&
    ((decide (g.next < 65536 * g.pages) && decide (g.next ≤ off) && decide (off < g.next + g.span))
     || (decide (g.last ≤ off) && decide (off < g.next) && !b.usesGone g.drain (inRange job (g.va + g.last) (g.next - g.last))))

/-- A hub's cached translation for an access; an entry that covers the page but does not serve the access is dropped (R307). -/
def Block.cached (b : Block) (h job : Nat) (n : Need) : Option Page × Block :=
  match (b.hub h).xlat.find job n.va with
  | none => (none, b)
  | some (s, w, e) =>
    let p := e.page n.va
    if b.migrating job n then (none, b)
    else if !b.leafRetired e n.va && p.grants n && p.placed n && p.inDomain n then (some p, b.onXlat h fun x => x.touch s w)
    else (none, b.onXlat h fun x => x.dropWay s w)

/-- Entries that a whole walk reads, as far as it gets (R308). -/
def trail (st : Store) (b : Block) (job : Nat) (n : Need) : Nat → Nat → Nat → List Nat
  | 0, _, _ => []
  | fuel + 1, lv, table =>
    let pa := entryAddr table lv n.va
    if entryStatus st b pa ≠ OK then []
    else match entryOf b job lv n.va (rdNat st b pa 8) with
      | .table t => pa :: trail st b job n fuel (lv + 1) t
      | _ => [pa]

/-- Entries that walks have read stand in the entry caches of the row dies that own them, newest first (R308). -/
def Block.keepEntry (b : Block) (pa : Nat) : Block :=
  match b.stackOf pa with
  | none => b
  | some s => b.onDie s fun d => { d with entries := (pa :: d.entries.filter (· != pa)).take Config.entryCache }

/-- A whole walk's reads fill the entry caches. -/
def Block.walked (st : Store) (b : Block) (job : Nat) (n : Need) : Block :=
  match b.jobs.get? job with
  | none => b
  | some j => (trail st b job n 4 0 j.root).foldl Block.keepEntry b

/-- Translate at once: the hub's cache, else a whole walk whose leaf is cached. -/
def translateNow (st : Store) (b : Block) (h job : Nat) (n : Need) : XOut × Block :=
  match b.cached h job n with
  | (some p, b) => (.page p, b)
  | (none, b) =>
    match walkAll st b job n with
    | (o, some e) => (o, (Block.walked st b job n).onXlat h fun x => x.insert e false)
    | (o, none) => (o, Block.walked st b job n)

/-- Pages of 64 KiB that [va, va + n) touches, as page addresses. -/
def pagesOf (va n : Nat) : List Nat :=
  if n = 0 then [] else (List.range ((va + n - 1) / 65536 - va / 65536 + 1)).map fun i => (va / 65536 + i) * 65536

/-! ## Outbound window accesses (R322, R323) -/

/-- What an access of a window carries: `addr` is the offset in the window. -/
def Block.winHead (b : Block) (port win addr : Nat) : WinHead :=
  { port := port, x := (Config.torus 0).toNat, y := (Config.torus 1).toNat, z := (Config.torus 2).toNat
    peerWin := bits (b.eng.windows.getD win 0).toNat 56 12, page := addr / 65536, offset := addr % 65536 }

/-- Outbound writes and signals of a DUP window go to both twins. -/
def Block.winDup (b : Block) (win : Nat) : Bool := bit (b.eng.windows.getD win 0).toNat 30

/-- An access through a window is sent, and stays in flight until each receiver has answered. The answer counts the receivers. -/
def Block.sendWin (b : Block) (ring p win : Nat) (read : Bool) (o : Out) : Block × Nat :=
  let n := if !read && b.winDup win then 2 else 1
  ((b.send o).onEng fun e => { e with winOut := e.winOut ++ List.replicate n { use := e.nextUse, ring := ring, p := p, win := win, read := read }
                                      nextUse := e.nextUse + 1 }, n)

/-- Nothing that used a window before a moment is left: no access in flight, no arrival unacknowledged, no held page (R322). -/
def Block.windowFree (b : Block) (win cut : Nat) : Bool :=
  b.eng.winOut.all (fun o => o.win != win || !decide (o.use < cut)) && b.eng.unacked.all (fun u => u.win != some win || !decide (u.use < cut))
  && b.usesGone cut fun _ p => p.target == 2 && p.addr / 2 ^ 64 == win

/-! ## Accesses that a message makes (R364) -/

/-- What a message's access to a range finds: each page's place, or the failing page with a status. -/
def msgPages (st : Store) (b : Block) (job va n : Nat) (write : Bool) : Except (Nat × Nat) (List Page) :=
  (pagesOf va n).foldl (fun acc v =>
    match acc with
    | .error e => .error e
    | .ok ps =>
      match walkAll st b job { va := v, read := !write, write := write } with
      | (.page p, _) => if p.target = 1 && b.hostLostNow then .error (ADDRESS_FAULT, v / 65536 - va / 65536) else .ok (ps ++ [p])
      | (.fault _ _ _, _) => .error (ADDRESS_FAULT, v / 65536 - va / 65536)
      | (.stop s, _) => .error (s, v / 65536 - va / 65536)) (.ok [])

/-- Bytes of [va, va + n) through pages that hold it. -/
def Page.span (p : Page) (va n : Nat) : Nat × Nat × Nat :=
  let lo := Nat.max va (p.vpn * 65536)
  let hi := Nat.min (va + n) (p.vpn * 65536 + 65536)
  (p.addr + lo % 65536, lo - va, hi - lo)

/-- What a message's read of memory comes to: the bytes, a failing page, or bytes that are still on their way. -/
inductive MsgIn where
  | ok (bytes : List Byte)
  | fail (status page : Nat)
  | wait
deriving DecidableEq, Repr

/-- One page of a message's read. A window's bytes are asked for once and stand among the message's reads; host memory is read while its
link is up. -/
def msgPiece (st : Store) (b : Block) (m : Msg) (port page : Nat) (p : Page) (a n : Nat) : Block × MsgIn :=
  if p.target = 0 then (b, if rdStatus st b a n = OK then .ok (rdMem st b a n) else .fail (rdStatus st b a n) page)
  else if p.target = 1 then (b, if !b.hostUp then .wait else if hostBad st b a n then .fail MEMORY_POISONED page else .ok (rdHost st b a n))
  else
    let win := a / 2 ^ 64
    let off := a % 2 ^ 64
    if b.winDup win then (b, .fail WINDOW_REFUSED page)
    else match b.eng.msgReads.find? fun r => r.hub == m.hub && r.key == m.key && r.win == win && r.off == off && r.len == n with
      | some r => (b, if r.status ≠ OK then .fail r.status page else match r.got with | some bs => .ok bs | none => .wait)
      | none =>
        let b := (b.sendWin (1024 + m.hub) m.key win true (.winRead (1024 + m.hub) m.key win (b.winHead port win off) n)).1
        (b.onEng fun e => { e with msgReads := e.msgReads ++ [{ hub := m.hub, key := m.key, win := win, off := off, len := n }] }, .wait)

/-- A message reads memory through the hub that works on it (R364): the pages in order, the first failing one reported. While some bytes
are on their way the message waits, PENDING, and is taken up again (log 91). -/
def msgRead (st : Store) (b : Block) (m : Msg) (port va n : Nat) : Block × MsgIn :=
  match msgPages st b m.job va n false with
  | .error (s, page) => (b, .fail s page)
  | .ok ps => ps.foldl (fun (b, acc) p =>
      let (a, _, k) := p.span va n
      match acc, msgPiece st b m port (p.vpn - va / 65536) p a k with
      | .fail s g, _ => (b, .fail s g)
      | .wait, (b, _) => (b, .wait)
      | .ok _, (b, .fail s g) => (b, .fail s g)
      | .ok _, (b, .wait) => (b, .wait)
      | .ok old, (b, .ok bs) => (b, .ok (old ++ bs))) (b, .ok [])

/-- A message whose bytes are on their way waits with its object. -/
def Ans.later (b : Block) (o : Obj) : Ans := { b := b, pend := some { obj := o, behind := true } }

/-- A message writes memory (R364). It does not wait for a receiver's answer to a write through a window (DESIGN CHOICE, log 91). -/
def msgWrite (st : Store) (b : Block) (m : Msg) (hub va : Nat) (data : List Byte) : Except (Nat × Nat) Block :=
  match msgPages st b m.job va data.length true with
  | .error e => .error e
  | .ok ps =>
    .ok (ps.foldl (fun b p =>
      let (a, off, n) := p.span va data.length
      let piece := (data.drop off).take n
      if p.target = 0 then b.wrMem hub a piece 1
      else if p.target = 1 then b.wrHost hub a piece
      else
        let win := a / 2 ^ 64
        (b.sendWin (1024 + m.hub) m.key win false (.winWrite (1024 + m.hub) m.key win (b.winHead hub win (a % 2 ^ 64)) piece)).1) b)

/-! ## Harvest records (R317 to R319) -/

/-- NEED of a record: bit 0 read, bit 1 write, bit 2 update. -/
def Need.code (n : Need) : Nat := b2n n.read + 2 * b2n n.write + 4 * b2n n.update

/-- Open or join a record for a fault, or hold the fault until one closes (R317). -/
def HarvestStore.fault (hs : HarvestStore) (age job vpn kind level : Nat) (retired : Bool) (need : Nat) (q : Requester) : HarvestStore :=
  let fits := fun (r : Harvest) => r.opened && r.job == job && r.vpn == vpn && decide (r.reqs.length < 16)
  match (hs.records.filter fits).getLast? with
  | some t =>
    { hs with records := hs.records.map fun r => if r.hseq = t.hseq then { r with need := r.need ||| need, reqs := r.reqs ++ [q] } else r }
  | none =>
    if (hs.records.countP (·.opened)) < Config.harvestOpen then
      { hs with nextSeq := hs.nextSeq + 1
                records := hs.records ++ [{ hseq := hs.nextSeq, job := job, vpn := vpn, kind := kind, level := level, retired := retired
                                            need := need, reqs := [q], age := age }] }
    else { hs with waiting := hs.waiting ++ [{ job := job, vpn := vpn, kind := kind, level := level, retired := retired, need := need, req := q }] }

/-- The fault of a requester reaches the leader (R314, R317). -/
def Block.harvestFault (b : Block) (job va kind level : Nat) (retired : Bool) (n : Need) (q : Requester) : Block :=
  let age := b.age b.eng.leader
  b.onEng fun e => { e with harvest := e.harvest.fault age job (va / 65536) kind level retired n.code q }

/-- Held faults whose record can now be opened, in the order latched (R317). -/
def HarvestStore.admitWaiting (hs : HarvestStore) (age : Nat) : Nat → HarvestStore
  | 0 => hs
  | fuel + 1 =>
    match hs.waiting with
    | [] => hs
    | f :: fs =>
      if (hs.records.countP (·.opened)) < Config.harvestOpen then
        ({ hs with waiting := fs }.fault age f.job f.vpn f.kind f.level f.retired f.need f.req).admitWaiting age fuel
      else hs

/-- A Harvest record's 128 bytes (Tables 11-7, 11-8), with VPAGE the address of its page. -/
def Harvest.bytes (r : Harvest) : List Byte :=
  let entries := r.reqs.zipIdx.map fun (q, k) => (256 + 48 * k, 48, pack [(0, 32, q.sseq), (32, 12, q.id), (46, 2, q.kind)])
  toBytes 128 (pack ([(0, 8, 0x20), (8, 2, r.kind), (12, 3, r.need), (15, 1, b2n r.retired), (16, 2, r.level), (24, 6, r.job),
    (32, 32, r.hseq), (64, 56, r.vpn * 65536), (128, 16, 2 ^ r.reqs.length - 1)] ++ entries))

end Sys2Proof.Machine
end

