-- ==== Sys2Proof/Machine/Rings.lean ====
section
/-! DEFINITION. Stream rings: descriptors, status blocks, halts, semaphores and signals, completion records, window and host traffic of
slots (R189 to R207, R224, R323, R348). -/
namespace Sys2Proof.Machine

/-! ## The ring descriptor (Tables 7-1, 7-2) -/

def Ring.x (r : Ring) : Nat := r.desc.toNat
def Ring.job (r : Ring) : Nat := bits r.x 16 6
def Ring.cls (r : Ring) : Nat := bits r.x 22 2
/-- N, the ring's slots. -/
def Ring.n (r : Ring) : Nat := bits r.x 24 16 + 1
def Ring.out (r : Ring) : Nat := bits r.x 40 12 + 1
def Ring.merge (r : Ring) : Bool := bit r.x 52
def Ring.lookahead (r : Ring) : Nat := bits r.x 56 8
def Ring.timeout (r : Ring) : Nat := bits r.x 64 32
def Ring.deadline (r : Ring) : Nat := bits r.x 96 32
def Ring.fillSem (r : Ring) : Nat := bits r.x 128 16
def Ring.freeSem (r : Ring) : Nat := bits r.x 144 16
def Ring.doneSem (r : Ring) : Option Nat := if bit r.x 176 then some (bits r.x 160 16) else none
def Ring.xprog (r : Ring) : Nat := bits r.x 192 16
def Ring.rbase (r : Ring) : Nat := bits r.x 256 56
def Ring.cbase (r : Ring) : Nat := bits r.x 320 56
def Ring.xpbase (r : Ring) : Nat := bits r.x 384 56
/-- Addresses of slot p and of its completion record (R192). -/
def Ring.slotVa (r : Ring) (p : Nat) : Nat := r.rbase + 256 * (p % r.n)
def Ring.recVa (r : Ring) (p : Nat) : Nat := r.cbase + 64 + 128 * (p % r.n)
def Ring.rt (r : Ring) : Bool := r.cls == 0

/-! ## The slot header (Table 7-6) -/

def Work.x (w : Work) : Nat := w.slot.toNat
def Work.opcode (w : Work) : Nat := bits w.x 8 8
def Work.sseq (w : Work) : Nat := bits w.x 32 32
def Work.flagVa (w : Work) : Nat := bits w.x 72 56
def Work.fence (w : Work) : Bool := bit w.x 20
/-- A field of the operand, by its bit numbers in the slot. -/
def Work.f (w : Work) (lo n : Nat) : Nat := bits w.x lo n
/-- Whether the slot's flag is to be written (R200, R206). -/
def Work.hasFlag (w : Work) : Bool := w.flagVa != 0 && !w.noFlag

/-- OK, REPLAYED and LATE are the only statuses that do not halt the ring (R207). -/
def haltingStatus (s : Nat) : Bool := !(s == OK || s == REPLAYED || s == LATE)

/-- No slot: window writes of status blocks, records and flags, whose acceptance no slot waits for. -/
def noSlot : Nat := 2 ^ 64

/-! ## Walks (R309) -/

def Who.isRing (w : Who) (ring p : Nat) : Bool :=
  match w with
  | .unit r q => r == ring && q == p
  | .recPage r q => r == ring && q == p
  | _ => false

/-- A walk for this access is already running at the hub. -/
def Xlat.walking (x : Xlat) (who : Who) (vpn : Nat) : Bool :=
  x.walks.vals.any fun w => decide (w.who = who) && w.need.va / 65536 == vpn

/-- A walk may issue: 64 at once, 4 of them kept for real-time slots, in the order in which the walks began (R309). -/
def Xlat.mayIssue (x : Xlat) (id : Nat) (w : Walk) : Bool :=
  let before := x.walks.filter fun (k, _) => decide (k < id)
  let rts := before.countP fun (_, y) => y.rt
  let others := before.length - rts
  let most := Config.walkers - Config.walkersKept
  if w.rt then decide (rts + Nat.min others most < Config.walkers) else decide (others + (rts - Config.walkersKept) < most)

/-- The row die that owns an entry has it in its entry cache (R308). -/
def Block.entryCached (b : Block) (pa : Nat) : Bool :=
  match b.stackOf pa with
  | none => true
  | some s => (b.die s).entries.contains pa

/-- Class of a ring's traffic (R189, R245). -/
def Block.ringClass (b : Block) (rid : Nat) : Nat := match b.rings.get? rid with | some x => x.cls | none => 1

/-- Class of the traffic of a walk: its ring's (R309); a prefetch walk reads as PREFETCH_ROWS traffic (R310). -/
def Block.walkClass (b : Block) (w : Walk) : Nat :=
  match w.who with
  | .slotBytes r | .recPage r _ | .status r | .unit r _ => b.ringClass r
  | .ahead => 3
  | .inbound _ => 1

/-- A walk issues its next read: on the narrow path for a real-time slot, else in the wide queue. An entry that the entry cache holds
needs no channel access (R308, R309). -/
def Block.issueWalk (b : Block) (h id : Nat) : Block :=
  match (b.hub h).xlat.walks.get? id with
  | none => b
  | some w =>
    let pa := entryAddr w.table w.level w.need.va
    if w.asked || !(b.hub h).xlat.mayIssue id w || b.entryCached pa then b
    else
      let b := b.onXlat h fun x => { x with walks := x.walks.modify id fun w => { w with asked := true } }
      b.requestAtoms w.rt { what := .walk h id, prio := if w.rt then 0 else b.walkClass w } [pa / 64]

/-- Start a walk from a job slot's root (R300, R309). -/
def Block.startWalk (b : Block) (h : Nat) (who : Who) (job : Nat) (n : Need) (rt : Bool) : Block :=
  match b.jobs.get? job with
  | none => b
  | some j =>
    if (b.hub h).xlat.walking who (n.va / 65536) then b
    else
      let id := (b.hub h).xlat.nextWalk
      (b.onXlat h fun x =>
        { x with walks := x.walks.put x.nextWalk { who := who, job := job, need := n, level := 0, table := j.root, rt := rt }, nextWalk := x.nextWalk + 1 }).issueWalk h id

/-- Cancel the walks that a test picks. -/
def Block.dropWalks (b : Block) (h : Nat) (p : Walk → Bool) : Block := b.onXlat h fun x => { x with walks := x.walks.keep fun _ w => !p w }

/-! ## Halts (R224) -/

/-- Slots that reasons in force concern: (slot, tile). -/
def Block.concerned (b : Block) (rid : Nat) (r : Ring) : List (Nat × Nat) :=
  let faults := if hasReason r.halt haltFAULT then
      ((b.ringWorks rid).filter fun w => w.phase == .faulted || w.recFault).map (fun w => (w.p, w.tile))
        ++ (if r.headFault || r.statusHeld then [(r.head, 0)] else [])
    else []
  let err := if hasReason r.halt haltERROR then
      (match r.err with
       | .slot p => [(p, 0)]
       | .recPage p => [(p, 0)]
       | _ => [(r.head, 0)])
    else []
  let req := if hasReason r.halt haltOVERRUN || hasReason r.halt haltREQUEST then [(r.head, 0)] else []
  let hl := match r.hostLost with | some (f, _, _) => if hasReason r.halt haltHOSTLOST then [(f, 0)] else [] | none => []
  faults ++ err ++ req ++ hl

/-- The lowest slot of a list, with its tile; (0, 0) when no reason is in force (DEDUCED, log 23). -/
def lowestSlot : List (Nat × Nat) → Nat × Nat
  | [] => (0, 0)
  | x :: xs => xs.foldl (fun a y => if y.1 < a.1 then y else a) x

/-- Bring HALTPOS, HALTTILE and HALTSTATUS up to date. -/
def Block.haltFields (b : Block) (rid : Nat) : Block :=
  b.onRing rid fun r =>
    let (pos, tile) := lowestSlot (b.concerned rid r)
    { r with haltPos := pos, haltTile := tile, haltStatus := if hasReason r.halt haltERROR then r.haltStatus else 0 }

/-- The status block's bytes (Table 7-5). -/
def Ring.statusBytes (r : Ring) : List Byte :=
  toBytes 64 (pack [(0, 8, 0x20), (8, 5, r.halt), (16, 16, r.haltStatus), (64, 64, r.head), (128, 64, r.tail), (192, 64, r.done),
    (256, 64, r.haltPos), (320, 32, r.haltTile)])

/-! ## Host-lost rings (R348) -/

/-- WHAT of Table 12-5: outputs, records or status blocks, flags, masters. -/
def whatOUT : Nat := 1
def whatREC : Nat := 2
def whatFLAG : Nat := 4
def whatMASTER : Nat := 8

/-- A ring becomes host-lost, or a host-lost ring loses one more kind of access (R348). -/
def Block.hostLose (b : Block) (rid what : Nat) : Block :=
  match b.rings.get? rid with
  | none => b
  | some r =>
    match r.hostLost with
    | some (f, l, w) => b.onRing rid fun r => { r with hostLost := some (f, l, w ||| what) }
    | none =>
      let aff := (b.ringWorks rid).filter fun w => decide (r.done ≤ w.p) && !w.recorded
      let what := what ||| (if aff.isEmpty then 0 else whatREC) ||| (if aff.any (·.hasFlag) then whatFLAG else 0)
      let b := b.onRing rid fun r => { r with hostLost := some (r.done, r.head - 1, what), halt := setReason r.halt haltHOSTLOST }
      let now := b.age (ringHub rid)
      let b := { b with works := b.works.mapVal fun _ w =>
        if w.ring == rid && decide (r.done ≤ w.p) && !w.recorded then
          { w with hostAffected := true, stoppedSince := if w.stoppedSince.isNone then some now else w.stoppedSince } else w }
      (b.haltFields rid).raise (ringHub rid) intHOSTLOST

/-! ## Writes of a ring through a page (R323, R330, R346 to R348) -/

/-- A piece of a write through one page: stack memory, host memory, or a window. A write toward a lost host is dropped and makes the
ring host-lost. -/
def Block.pageWriteRaw (b : Block) (rid p : Nat) (pg : Page) (off : Nat) (data : List Byte) (what : Nat) : Block :=
  let a := pg.addr + off
  if pg.target = 0 then b.wrMem (ringHub rid) a data 1 (match b.work? rid p with | some w => w.cls | none => b.ringClass rid)
  else if pg.target = 1 then
    (if b.hostLostNow then (b.hostLose rid what).onWork rid p fun x => { x with hostWhat := x.hostWhat ||| what }
     else (b.wrHost (ringHub rid) a data).onWork rid p fun x =>
       { x with hostHeld := x.hostHeld || !b.hostUp, hostMute := x.hostMute || b.hostMute a data.length })
  else
    let win := a / 2 ^ 64
    let (b, n) := b.sendWin rid p win false (.winWrite rid p win (b.winHead (ringHub rid) win (a % 2 ^ 64)) data)
    b.onWork rid p fun x => { x with outstanding := x.outstanding + n }

/-! ## The status block (R197, R316) -/

/-- Write the status block of a ring, or start the walk that its page needs; while a write is held, later changes ride on it. -/
def Block.statusWrite (b : Block) (rid : Nat) : Block :=
  let b := b.haltFields rid
  match b.rings.get? rid with
  | none => b
  | some r =>
    if r.statusHeld || r.err == .status then b
    else
      let h := ringHub rid
      let n : Need := { va := r.cbase, write := true }
      match b.cached h r.job n with
      | (some pg, b) =>
        if pg.target = 1 && b.hostLostNow then (if r.hostLost.isSome then b.hostLose rid whatREC else b)
        else b.pageWriteRaw rid noSlot pg (r.cbase % 65536) r.statusBytes whatREC
      | (none, b) => b.startWalk h (.status rid) r.job n r.rt

/-- The status block follows when HOSTLOST has come into force on a ring (R197). -/
def Block.hostLostWritten (before b : Block) (rid : Nat) : Block :=
  let lost := fun (b : Block) => match b.rings.get? rid with | some r => r.hostLost.isSome | none => false
  if lost b && !lost before then b.statusWrite rid else b

/-- A slot must write or read host memory while the host link is lost (R348). -/
def Block.hostNeeded (b : Block) (rid p what : Nat) : Block :=
  Block.hostLostWritten b ((b.hostLose rid what).onWork rid p fun x => { x with hostWhat := x.hostWhat ||| what }) rid

/-- A piece of a write through one page. -/
def Block.pageWrite (b : Block) (rid p : Nat) (pg : Page) (off : Nat) (data : List Byte) (what : Nat) : Block :=
  Block.hostLostWritten b (b.pageWriteRaw rid p pg off data what) rid

/-- A write of [va, va + n) through pages held; pages not held are skipped. -/
def Block.vaWrite (b : Block) (rid p : Nat) (pages : List Page) (va : Nat) (data : List Byte) (what : Nat) : Block :=
  (pagesOf va data.length).foldl (fun b v =>
    match pages.find? fun pg => pg.vpn * 65536 == v && pg.rights.testBit 1 with
    | none => b
    | some pg =>
      let lo := Nat.max va v
      let hi := Nat.min (va + data.length) (v + 65536)
      b.pageWrite rid p pg (lo - v) ((data.drop (lo - va)).take (hi - lo)) what) b

/-- Put a halt reason in force. -/
def Block.haltRing (b : Block) (rid reason : Nat) : Block := (b.onRing rid fun r => { r with halt := setReason r.halt reason }).statusWrite rid

/-- ERROR comes into force, or a lower slot takes over what it concerns (R224). -/
def Block.errorRing (b : Block) (rid : Nat) (e : ErrOf) (status : Nat) : Block :=
  let pos := fun (r : Ring) (x : ErrOf) => match x with | .slot p => p | .recPage p => p | _ => r.head
  (b.onRing rid fun r =>
    if hasReason r.halt haltERROR && decide (pos r r.err ≤ pos r e) then r
    else { r with halt := setReason r.halt haltERROR, err := e, haltStatus := status }).statusWrite rid

/-! ## Semaphores and signals (R193 to R195, R345) -/

def Block.sem (b : Block) (h sem : Nat) : BitVec 64 := (b.hub h).sems.getD sem 0
def Block.semSet (b : Block) (h sem : Nat) (v : BitVec 64) : Block := b.onHub h fun x => { x with sems := x.sems.put sem v }
def Block.semAdd (b : Block) (h sem c : Nat) : Block := b.semSet h sem (b.sem h sem + BitVec.ofNat 64 c)

/-- Rings held by a hub. -/
def Block.ringsOf (b : Block) (h : Nat) : List (Nat × Ring) := b.rings.filter fun (r, _) => ringHub r == h
/-- The ring whose fill semaphore this is. -/
def Block.fillRing (b : Block) (h sem : Nat) : Option (Nat × Ring) := (b.ringsOf h).find? fun (_, r) => r.fillSem == sem
/-- A free or done semaphore of a ring (R195). -/
def Block.freeOrDone (b : Block) (h sem : Nat) : Bool := (b.ringsOf h).any fun (_, r) => r.freeSem == sem || r.doneSem == some sem
/-- A semaphore is allotted to a job slot on a hub (R193). -/
def Block.allotted (b : Block) (h job sem : Nat) : Bool :=
  match b.jobs.get? job with
  | none => false
  | some j => decide (j.semBase.getD h 0 ≤ sem) && decide (sem < j.semBase.getD h 0 + j.semCount.getD h 0)
/-- A region's arrival semaphore (R341). -/
def Block.arrivalSem (b : Block) (h sem : Nat) : Bool :=
  b.eng.regions.vals.any fun r => bits r.toNat 46 2 == h && bits r.toNat 48 16 == sem

/-- A signal is latched at a semaphore (R194): at a fill semaphore it is judged against HEAD, and refused when TAIL would exceed
HEAD + N, which halts the ring as overrun. The answer tells whether it was applied. -/
def Block.latch (b : Block) (h sem c : Nat) : Block × Bool :=
  match b.fillRing h sem with
  | none => (b.semAdd h sem c, true)
  | some (rid, r) =>
    if r.head + r.n < r.tail + c then (b.haltRing rid haltOVERRUN, false)
    else
      let now := b.age h
      let b := (b.semAdd h sem c).onRing rid fun r => { r with tail := r.tail + c, fills := r.fills ++ [(r.tail, now)] }
      (b.statusWrite rid, true)

/-- A signal that arrives at a hub, through a window entry or not: to a region's arrival semaphore it is latched and applied later (R345). -/
def Block.signal (b : Block) (h sem c job : Nat) (win : Option Nat := none) : Block × Bool :=
  if b.arrivalSem h sem then (b.onEng fun e => { e with arrivals := e.arrivals ++ [{ hub := h, sem := sem, count := c, job := job, win := win }] }, true)
  else b.latch h sem c

/-! ## Completion (R204 to R207) -/

/-- The completion record (Tables 7-8, 7-9). -/
def Work.recordBytes (w : Work) (elapsed : Nat) : List Byte :=
  let counts := w.counters.zipIdx.map fun (c, k) => (128 + 32 * k, 32, sat32 c)
  toBytes 128 (pack ([(0, 8, 0x20), (8, 8, w.opcode), (16, 16, w.status), (32, 32, w.sseq), (64, 1, b2n w.deadline), (65, 1, b2n w.group.isSome),
    (66, 1, b2n w.retried), (96, 32, sat32 elapsed), (640, 64, w.position)] ++ counts))

/-- The flag (Table 7-11). -/
def Work.flagBytes (w : Work) : List Byte := toBytes 8 (pack [(0, 32, w.sseq), (32, 16, w.status), (48, 1, b2n w.deadline)])

/-- DONE and the slots written beyond it, after slot p's record has been written (R192, R206). -/
def advanceDone (done : Nat) (written : List Nat) : Nat → Nat × List Nat
  | 0 => (done, written)
  | fuel + 1 => if written.contains done then advanceDone (done + 1) (written.filter (· != done)) fuel else (done, written)

/-- Slot p's record counts once in DONE; the done semaphore is signalled by the same amount (R206, R225). -/
def Block.countDone (b : Block) (rid p : Nat) : Block :=
  match b.rings.get? rid with
  | none => b
  | some r =>
    if p < r.done || r.written.contains p then b
    else
      let ws := r.written ++ [p]
      let (d, ws) := advanceDone r.done ws (ws.length + 1)
      let b := b.onRing rid fun r => { r with done := d, written := ws }
      if d = r.done then b
      else match r.doneSem with
        | some s => (b.latch (ringHub rid) s (d - r.done)).1
        | none => b

/-- Pages of a slot's record and flag that are not held yet, in order (R316). -/
def Work.recNeeds (w : Work) (r : Ring) : List Need :=
  ((pagesOf (r.recVa w.p) 128 ++ (if w.hasFlag then pagesOf w.flagVa 8 else [])).filter fun v =>
    !w.recPages.any fun pg => pg.vpn * 65536 == v).map fun v => { va := v, write := true }

/-- A page of a slot's record or flag is held (R311). -/
def Block.holdRec (b : Block) (rid p : Nat) (pg : Page) : Block :=
  let (pg, b) := b.useOf pg
  b.onWork rid p fun x => { x with recPages := x.recPages ++ [pg] }

/-- The page of a slot's record or flag has faulted, or given a halting status that stands (R316): its translation waits for FAULT_RESUME or
RING_RESUME. -/
def Block.recBarred (b : Block) (rid p : Nat) : Bool :=
  match b.rings.get? rid, b.work? rid p with
  | some r, some w => w.recFault || (hasReason r.halt haltERROR && r.err == .recPage p)
  | _, _ => true

/-- Translate the record and flag pages, starting walks for those not cached; true when all are held (R316). -/
def Block.ensureRec (b : Block) (rid p : Nat) : Block × Bool :=
  match b.rings.get? rid, b.work? rid p with
  | some r, some w =>
    if b.recBarred rid p then (b, false)
    else (w.recNeeds r).foldl (fun (b, ok) n =>
      match b.cached (ringHub rid) r.job n with
      | (some pg, b) => (b.holdRec rid p pg, ok)
      | (none, b) => (b.startWalk (ringHub rid) (.recPage rid p) r.job n r.rt, false)) (b, true)
  | _, _ => (b, false)

/-- Steps 2 to 5 of R206 for a slot whose pages are held, and the halt of a halting status (R207). The record, then the flag, then
DONE, then the status block. -/
def Block.writeCompletion (b : Block) (rid p : Nat) : Block :=
  match b.rings.get? rid, b.work? rid p with
  | some r, some w =>
    let h := ringHub rid
    let elapsed := b.age h - w.startAge
    let b := b.vaWrite rid noSlot w.recPages (r.recVa p) (w.recordBytes elapsed) whatREC
    let b := if w.hasFlag then b.vaWrite rid noSlot w.recPages w.flagVa w.flagBytes whatFLAG else b
    let b := (b.sample 0x02 rid elapsed).onWork rid p fun x => { x with recorded := true }
    let b := (b.countDone rid p).statusWrite rid
    if haltingStatus w.status then b.errorRing rid (.slot p) w.status else b
  | _, _ => b

/-- A slot leaves; when it led a merged group, the lowest slot left of the group leads it and holds the pages of the group's tile (R210). -/
def Block.retireWork (b : Block) (rid p : Nat) : Block :=
  let held := match b.work? rid p with | some w => w.pages | none => []
  let b := b.delWork rid p
  match ((b.ringWorks rid).filter fun w => w.group == some p).map (·.p) with
  | [] => b
  | q :: qs =>
    let l := qs.foldl Nat.min q
    { b with works := b.works.mapVal fun _ w => if w.ring == rid && w.group == some p then
        { w with group := some l, pages := if w.p = l then w.pages ++ held else w.pages } else w }

/-- Whether one of the pages of a slot's record or flag lies in host memory. -/
def Work.hostRec (w : Work) : Bool := w.recPages.any (·.target == 1)

end Sys2Proof.Machine
end

