-- ==== Sys2Proof/Machine/Session.lean ====
section
/-! DEFINITION. The messages of Table 13-10: HELLO, ALMANAC_READ, EVENT_READ, MONITOR_READ (R372, R374). -/
namespace Sys2Proof.Machine

/-- A reply body from fields (first byte, bytes, value). -/
def bodyOf (fs : List (Nat × Nat × Nat)) : Nat := pack (fs.map fun (lo, n, v) => (8 * lo, 8 * n, v))

def cardHello : Card := { code := 0x0001, mg := true, wide := true, req := 32, rep := 48, fields := [byteF 16 1, byteF 24 8] }

/-- HELLO (R372): while a job slot is open, a later HELLO only reports. -/
def msgHello (_ : Store) (b : Block) (m : Msg) : Ans :=
  let b := if !b.eng.hello || b.jobs.isEmpty then
      b.onEng fun e => { e with hello := true, minor := Nat.min (m.at 16 1) 0, features := m.at 24 8 &&& b.featAvail }
    else b
  let lost := b.rings.vals.any fun r => r.hostLost.isSome
  let flags := pack [(0, 1, b2n lost), (1, 1, b2n b.eng.dump.ready), (2, 1, b2n (b.eng.twin.state == .paired)),
    (3, 1, (b.hub b.eng.leader).regs.bank)]
  .ok b (bodyOf [(16, 1, 0x20), (17, 1, 0x20), (18, 1, b.eng.leader), (19, 1, flags), (20, 4, b.eng.fwver), (24, 8, b.eng.features),
    (32, 8, b.featAvail), (40, 4, b.eng.almGen)])

def execHello (hub : Nat) (mb : Mbox) (pair : Nat) (s : State) : Result := message cardHello msgHello hub mb pair s

def cardAlmanacRead : Card := { code := 0x0002, mg := true, req := 24, rep := 256, fields := [byteF 16 4, byteF 20 4] }

/-- ALMANAC_READ (R374). -/
def msgAlmanacRead (_ : Store) (b : Block) (m : Msg) : Ans :=
  let off := m.at 16 4
  let want := m.at 20 4
  let gen := (16, 4, b.eng.almGen)
  if off % 8 ≠ 0 then .fail b MESSAGE_INVALID
  else if want ≠ 0 ∧ want ≠ b.eng.almGen then { b := b, status := ALMANAC_CHANGED, body := bodyOf [gen] }
  else
    let a := b.almanac
    let n := Nat.min 224 (a.length - off)
    .ok b (bodyOf [gen, (20, 4, a.length), (24, 4, n), (32, 224, ofBytes ((a.drop off).take n))])

def execAlmanacRead (hub : Nat) (mb : Mbox) (pair : Nat) (s : State) : Result := message cardAlmanacRead msgAlmanacRead hub mb pair s

def cardEventRead : Card := { code := 0x0004, mg := true, wide := true, req := 24, rep := 256, fields := [byteF 16 8] }

/-- ESEQ of a record (Table 14-9). -/
def eseqOf (r : BitVec 256) : Nat := bits r.toNat 16 48

/-- EVENT_READ (R374): up to seven records with ESEQ from FROMSEQ on. NEXTSEQ follows the last one returned, or is FROMSEQ when
there is none (DEDUCED, log 24). -/
def msgEventRead (_ : Store) (b : Block) (m : Msg) : Ans :=
  let from_ := m.at 16 8
  let rs := (b.eng.events.filter fun r => decide (from_ ≤ eseqOf r)).take 7
  let next := match rs.getLast? with | some r => eseqOf r + 1 | none => from_
  let lost := match b.eng.events with | [] => false | r :: _ => decide (Nat.max from_ 1 < eseqOf r)
  .ok b (bodyOf ([(16, 8, next), (24, 2, rs.length), (26, 1, b2n lost)] ++ rs.zipIdx.map fun (r, k) => (32 + 32 * k, 32, r.toNat)))

def execEventRead (hub : Nat) (mb : Mbox) (pair : Nat) (s : State) : Result := message cardEventRead msgEventRead hub mb pair s

def cardMonitorRead : Card :=
  { code := 0x0005, mg := true, req := 24, rep := 176, fields := [byteF 16 2, byteF 18 2, bitF 20 0 2] }

/-- MONITOR_READ (R374, R435): CLEAR clears the monitor once the reply has been composed. -/
def msgMonitorRead (_ : Store) (b : Block) (m : Msg) : Ans :=
  let mon := m.at 16 2
  let inst := m.at 18 2
  let half := b2n (m.flag 20 0)
  match monInstances mon with
  | none => .fail b UNKNOWN_ENCODING
  | some n =>
    if n ≤ inst then .fail b MESSAGE_INVALID
    else
      let x := b.eng.monitors.getD (monKey mon inst) {}
      let body := bodyOf ([(16, 8, x.min), (24, 8, x.max), (32, 8, x.samples)]
        ++ (List.range 32).map fun k => (48 + 4 * k, 4, x.bins.getD (32 * half + k) 0))
      .ok (if m.flag 20 1 then b.onEng fun e => { e with monitors := e.monitors.del (monKey mon inst) } else b) body

def execMonitorRead (hub : Nat) (mb : Mbox) (pair : Nat) (s : State) : Result := message cardMonitorRead msgMonitorRead hub mb pair s

end Sys2Proof.Machine
end

