-- ==== Sys2Proof/Machine/Waskaob.lean ====
section
/-! DEFINITION. Waskaob: instruction fields, the checks of PROGRAM_LOAD, step bounds, and the chain that runs a program on a row or on
a group of indices (R155 to R188). -/
namespace Sys2Proof.Machine

/-! ## Instruction words (Tables 6-3 to 6-7) -/

def wOp (w : Word) : Nat := bits w.toNat 26 6
def wRd (w : Word) : Nat := bits w.toNat 22 4
def wRa (w : Word) : Nat := bits w.toNat 18 4
def wRb (w : Word) : Nat := bits w.toNat 14 4
def wRc (w : Word) : Nat := bits w.toNat 10 4
def wFn (w : Word) : Nat := bits w.toNat 0 4
def wImm (w : Word) : Nat := bits w.toNat 0 18
def wCount (w : Word) : Nat := bits w.toNat 10 8
def wN (w : Word) : Nat := bits w.toNat 0 10

/-- Opcodes of Table 6-6. -/
def wDefined (op : Nat) : Bool :=
  (decide (1 ≤ op) && decide (op ≤ 0x26)) || (decide (0x28 ≤ op) && decide (op ≤ 0x2E)) || (decide (0x30 ≤ op) && decide (op ≤ 0x36))

def fRd : Nat × Nat := (22, 4)
def fRa : Nat × Nat := (18, 4)
def fRb : Nat × Nat := (14, 4)
def fRc : Nat × Nat := (10, 4)
def fFn : Nat × Nat := (0, 4)

/-- Reserved fields of an instruction (R169): fields it does not read, and reserved bits inside FN and IMM. -/
def wReserved (w : Word) : List (Nat × Nat) :=
  let op := wOp w
  if 0x20 ≤ op ∧ op ≤ 0x26 then
    if op = 0x20 then []
    else if op = 0x24 then [(5, 11)]
    else if op = 0x25 then [fRa, (16, 2)]
    else if op = 0x26 then [fRa]
    else [(16, 2)]
  else if op = 0x34 then [(4, 6), fRb, fRc]
  else if op = 0x35 then [(4, 6), fRb, fRc, fFn]
  else if 0x30 ≤ op then
    (22, 4) :: (if op = 0x32 || op = 0x33 then [] else [fRa]) ++ (if op = 0x31 then [] else [(10, 8)])
  else
    (4, 6) ::
      (if op = 0x04 then [(2, 2)]
       else if op = 0x0A || op = 0x1F then [fFn]
       else if op = 0x06 || op = 0x0D || op = 0x0E then [fRb, fRc, fFn]
       else if op = 0x09 then (if wFn w ≤ 1 then [fRb, fRc] else [fRc])
       else if op = 0x0B then [fRb, fRc]
       else if op = 0x0C || op = 0x1E then [fRc]
       else if op = 0x28 || op = 0x29 || op = 0x2B || op = 0x2C then [fRa, fRc, fFn]
       else if op = 0x2A || op = 0x2D || op = 0x2E then [fRd, fRc, fFn]
       else [fRc, fFn])

/-- FN and IX take a value of Table 6-7. -/
def wValuesOk (w : Word) : Bool :=
  let op := wOp w
  let fn := wFn w
  let ix := wRb w
  if op = 0x09 then decide (fn ≤ 2)
  else if op = 0x0B || op = 0x34 then decide (fn ≤ 7)
  else if op = 0x0C || op = 0x1E then decide (fn ≤ 3)
  else if op = 0x29 || op = 0x2A || op = 0x2E then decide (ix ≤ 3)
  else if op = 0x2C || op = 0x2D then decide (ix ≤ 5)
  else if op = 0x2B then decide (ix ≤ 9)
  else true

/-! ## Structure rules (R176) and step bounds (R177) -/

def isBeat (w : Word) : Bool := wOp w == 0x30
def isRep (w : Word) : Bool := wOp w == 0x31
def isSkip (w : Word) : Bool := wOp w == 0x32 || wOp w == 0x33
def isExit (w : Word) : Bool := wOp w == 0x36

/-- Rules that concern one instruction where it stands (R176, rules 3 to 5, 7 to 9). -/
def instrOk (kind : Nat) (inBeat : Bool) (reps : Nat) (w : Word) : Bool :=
  let op := wOp w
  let port := op == 0x2C || op == 0x2D
  !(inBeat && (isBeat w || isSkip w || isExit w || op == 0x2A || op == 0x35))
  && !(isBeat w && decide (0 < reps))
  && !((port || (op == 0x2E && wRb w == 2)) && !inBeat)
  && !(op == 0x2E && wRb w != 2 && inBeat)
  && !(isExit w && decide (0 < reps))
  && !(isRep w && decide (2 ≤ reps))
  && !(kind == 0 && ((port && decide (4 ≤ wRb w)) || op == 0x2E))
  && !(kind == 1 && ([0x29, 0x2A, 0x2C, 0x2D, 0x2E, 0x30, 0x34, 0x35, 0x32, 0x33].contains op || (isExit w && wN w != 0)))
  && !(isExit w && decide (1 < wN w))

/-- The first instruction at or after `pc` and below `stop` that breaks a rule; spans are checked inside themselves. -/
def structFrom (code : List Word) (kind : Nat) : Nat → Nat → Nat → Bool → Nat → Option Nat
  | 0, _, _, _, _ => none
  | fuel + 1, pc, stop, inBeat, reps =>
    if stop ≤ pc then none
    else
      let w := code.getD pc 0
      if !instrOk kind inBeat reps w then some pc
      else if isBeat w || isRep w || isSkip w then
        let n := wN w
        if n = 0 || stop < pc + 1 + n || code.length ≤ pc + n + 1 then some pc
        else
          match structFrom code kind fuel (pc + 1) (pc + 1 + n) (inBeat || isBeat w) (if isRep w then reps + 1 else reps) with
          | some x => some x
          | none => structFrom code kind fuel (pc + 1 + n) stop inBeat reps
      else structFrom code kind fuel (pc + 1) stop inBeat reps

/-- The first instruction that breaks the structure rules (R176). -/
def structFail (code : List Word) (kind : Nat) : Option Nat :=
  match structFrom code kind (2 * code.length + 2) 0 code.length false 0 with
  | some x => some x
  | none => if isExit (code.getLastD 0) then none else some (code.length - 1)

/-- Steps of one instruction (Table 6-6). -/
def wSteps (w : Word) : Nat :=
  let op := wOp w
  if op = 0x05 || op = 0x06 then 8 else if op = 0x34 || op = 0x35 then 32 else 1

/-- (S, P) of the instructions from `pc` to `stop`, each counted `mult` times (R177). -/
def boundFrom (code : List Word) : Nat → Nat → Nat → Bool → Nat → Nat × Nat
  | 0, _, _, _, _ => (0, 0)
  | fuel + 1, pc, stop, inBeat, mult =>
    if stop ≤ pc then (0, 0)
    else
      let w := code.getD pc 0
      let c := mult * wSteps w
      let own : Nat × Nat := if inBeat then (0, c) else (c, 0)
      let n := wN w
      if isBeat w || isRep w then
        let x := boundFrom code fuel (pc + 1) (pc + 1 + n) (inBeat || isBeat w) (if isRep w then mult * (wCount w + 1) else mult)
        let y := boundFrom code fuel (pc + 1 + n) stop inBeat mult
        (own.1 + x.1 + y.1, own.2 + x.2 + y.2)
      else
        let y := boundFrom code fuel (pc + 1) stop inBeat mult
        (own.1 + y.1, own.2 + y.2)

def boundOf (code : List Word) : Nat × Nat := boundFrom code (2 * code.length + 2) 0 code.length false 1

/-! ## Loading (R165 to R167) -/

/-- Reserved fields of the image header (Table 6-2). -/
def imgReserved : List (Nat × Nat) := [(256, 256), (224, 32), (64, 64), (42, 6), (12, 20)]

/-- Stages 1 to 4 of R167 on an image: status and the offset of the failing instruction. The offset is the instruction's number in
the program (DEDUCED, log 17). -/
def imageCheck (minor : Nat) (hdr : Nat) (code : List Word) : Nat × Nat :=
  let kind := bits hdr 8 4
  let len := bits hdr 32 10
  let words := code.flatMap fun w => toBytes 4 w.toNat
  if !versionOk (bits hdr 0 8) minor then (VERSION_UNSUPPORTED, 0)
  else if rsvSet hdr imgReserved then (RESERVED_NONZERO, 0)
  else if 2 < kind then (UNKNOWN_ENCODING, 0)
  else match code.findIdx? fun w => wDefined (wOp w) && rsvSet w.toNat (wReserved w) with
    | some i => (RESERVED_NONZERO, i)
    | none =>
      match code.findIdx? fun w => !wDefined (wOp w) || !wValuesOk w with
      | some i => (UNKNOWN_ENCODING, i)
      | none =>
        if kind = 2 || bits hdr 48 16 = 0 || len = 0 || 512 < len || bits hdr 192 32 != crc32c words then (PROGRAM_INVALID, 0)
        else match structFail code kind with
          | some i => (PROGRAM_INVALID, i)
          | none => (OK, 0)

/-- Free runs of program memory: the lowest address of 256 to 1,023 at which `len` addresses are free (R166). -/
def progSpace (used : List (Nat × Nat)) (len : Nat) : Option Nat :=
  ((List.range 768).map (256 + ·)).find? fun a =>
    decide (a + len ≤ 1024) && used.all fun (u, n) => decide (a + len ≤ u) || decide (u + n ≤ a)

/-! ## The chain (R157 to R163, R170 to R175) -/

/-- What a run is given besides its registers. -/
structure Env where
  kind : Nat := 0
  width : Nat := 1
  params : List Word := []
  /-- Values of GETS 4 to 8. -/
  grow : Nat := 0
  table : Nat := 0
  bseq : Nat := 0
  tidx : Nat := 0
  /-- Indices of the group, for an index transform. -/
  nidx : Nat := 32
  /-- MFMT is bfloat16: a store to M is rounded (R180). -/
  mbf : Bool := false
  /-- Bits of a code that an encode program stores to port O (R188). -/
  obits : Nat := 32
deriving DecidableEq, Repr

/-- A context with the row stage: registers by number then position, ports by number (empty: the row has none), state words. -/
structure Ctx where
  regs : List (List Word) := List.replicate 16 (List.replicate 32 0)
  ports : List (List Word) := []
  qs : List Word := []
  steps : Nat := 0
  done : Option Nat := none
  /-- Header fields that an encode program sets: SCALE, ZP, SATURATED and the E8M0 code of each block (R188). -/
  scale : Word := oneF
  zp : Nat := 0
  saturated : Bool := false
  blocks : List Nat := []
deriving DecidableEq, Repr

/-- Beats of a row (R157). -/
def beatsOf (width : Nat) : Nat := ceilDiv width 32

def Ctx.reg (c : Ctx) (r : Nat) : List Word := c.regs.getD r []
/-- Write lanes: inactive positions keep their value (R161). -/
def Ctx.setReg (c : Ctx) (r : Nat) (act : Nat → Bool) (v : Nat → Word) : Ctx :=
  { c with regs := c.regs.set r ((List.range 32).map fun p => if act p then v p else (c.reg r).getD p 0) }

/-- FADD and its like: a NaN result is canonical (R172). -/
def arith (v : Word) : Word := canonW v
where canonW (x : Word) : Word := if isNaN x then canonNaN else x

def fcmp (fn : Nat) (a b : Word) : Bool :=
  let x := fval a
  let y := fval b
  if fn = 0 then x.eqv y else if fn = 1 then x.lt y else if fn = 2 then x.lt y || x.eqv y else isNaN a || isNaN b

def icmp (fn : Nat) (a b : Word) : Bool :=
  if fn = 0 then a == b else if fn = 1 then a != b else if fn = 2 then a.slt b else a.ult b

def fcvt (fn : Nat) (a : Word) : Word :=
  if fn = 0 then ofIntF a.toInt else if fn = 1 then ofNatF a.toNat
  else if fn = 2 then toI32 (fval a) rint else if fn = 3 then toI32 (fval a) trunc
  else if fn = 4 then BitVec.ofNat 32 (toBf a) else if fn = 5 then widenBf a.toNat
  else if fn = 6 then BitVec.ofNat 32 (toH a) else widenH a.toNat

def shiftOp (sel : Nat) (a : Word) (n : Nat) : Word :=
  if sel = 0 then a <<< n else if sel = 1 then a >>> n else if sel = 2 then a.sshiftRight n else a.rotateLeft n

/-- One position's result of a register instruction (Table 6-6). -/
def aluOp (w : Word) (a b c : Word) : Word :=
  let op := wOp w
  let fn := wFn w
  let s := b.toNat % 32
  if op = 0x01 then fadd a b
  else if op = 0x02 then fsub a b
  else if op = 0x03 then fmul a b
  else if op = 0x04 then fma32 (if fn.testBit 1 then fneg a else a) b (if fn.testBit 0 then fneg c else c)
  else if op = 0x05 then fdiv a b
  else if op = 0x06 then fsqrt a
  else if op = 0x07 then arith (max32 a b)
  else if op = 0x08 then arith (min32 a b)
  else if op = 0x09 then
    if fn = 0 then fabs a else if fn = 1 then fneg a else fabs a ||| (b &&& 0x80000000#32)
  else if op = 0x0A then
    let t := fma32 (widenBf a.toNat) (widenBf b.toNat) c
    fma32 (widenBf (a.toNat / 65536)) (widenBf (b.toNat / 65536)) t
  else if op = 0x0B then fcvt fn a
  else if op = 0x0C then (if fcmp fn a b then 1 else 0)
  else if op = 0x0D then fclass a
  else if op = 0x0E then fexp a
  else if op = 0x0F then fscale a b
  else if op = 0x10 then a + b
  else if op = 0x11 then a - b
  else if op = 0x12 then a * b
  else if op = 0x13 then BitVec.ofNat 32 (a.toNat * b.toNat / 2 ^ 32)
  else if op = 0x14 then (if 2 ^ 32 ≤ a.toNat + b.toNat then 1 else 0)
  else if op = 0x15 then (if a.slt b then a else b)
  else if op = 0x16 then (if a.slt b then b else a)
  else if op = 0x17 then a &&& b
  else if op = 0x18 then a ||| b
  else if op = 0x19 then a ^^^ b
  else if op = 0x1A then shiftOp 0 a s
  else if op = 0x1B then shiftOp 1 a s
  else if op = 0x1C then shiftOp 2 a s
  else if op = 0x1D then shiftOp 3 a s
  else if op = 0x1E then (if icmp fn a b then 1 else 0)
  else if c = 0 then b else a

/-- One position's result of an immediate instruction. -/
def immOp (w : Word) (a : Word) : Word :=
  let op := wOp w
  let i16 := BitVec.ofNat 32 (bits w.toNat 0 16)
  let sx := BitVec.ofInt 32 (signed 18 (wImm w))
  if op = 0x20 then a + sx
  else if op = 0x21 then a ||| i16
  else if op = 0x22 then a ^^^ i16
  else if op = 0x23 then a &&& i16
  else if op = 0x24 then shiftOp (bits w.toNat 16 2) a (bits w.toNat 0 5)
  else if op = 0x25 then i16 <<< 16
  else sx

/-- One step of REDUCE (R175). -/
def reduceOp (fn : Nat) (r x : Word) : Word :=
  if fn = 0 then fadd r x else if fn = 1 then arith (max32 r x) else if fn = 2 then arith (min32 r x)
  else if fn = 3 then r + x
  else if fn = 4 then (if r.slt x then x else r)
  else if fn = 5 then (if r.ult x then x else r)
  else if fn = 6 then r ||| x else r &&& x

/-- System values (GETS, R173); `beat` is none outside beat bodies. -/
def sysVal (e : Env) (beat : Option Nat) (pos ix : Nat) : Nat :=
  let upd := e.kind != 1
  if ix = 0 then e.width
  else if ix = 1 then (match beat with | some b => 32 * b + pos | none => 0)
  else if ix = 2 then beat.getD 0
  else if ix = 3 then pos
  else if ix = 4 then (if upd then e.grow % 2 ^ 32 else 0)
  else if ix = 5 then (if upd then e.grow / 2 ^ 32 else 0)
  else if ix = 6 then e.table
  else if ix = 7 then (if upd then e.bseq % 2 ^ 32 else 0)
  else if ix = 8 then (if e.kind = 0 then min e.tidx 0xFFFFFFFF else 0)
  else beatsOf e.width

/-- Active positions (R161). -/
def activePos (e : Env) (beat : Option Nat) (p : Nat) : Bool :=
  if e.kind = 1 then decide (p < e.nidx)
  else match beat with
    | some b => decide (32 * b + p < e.width)
    | none => true

/-- SETH: a header field takes register a at position 0 (Table 6-7, R188). -/
def Ctx.setHeader (c : Ctx) (beat ix : Nat) (v : Word) : Ctx :=
  if ix = 0 then { c with scale := v }
  else if ix = 1 then { c with zp := v.toNat % 65536 }
  else if ix = 2 then { c with blocks := c.blocks.set beat (v.toNat % 256) }
  else { c with saturated := v.getLsbD 0 }

/-- What a store to a port leaves there: an element of M rounded to the master format (R180), a code of the low bits in O (R188). -/
def Env.stored (e : Env) (port : Nat) (x : Word) : Word :=
  if port = 1 && e.mbf then widenBf (toBf x)
  else if port = 5 && e.kind = 2 then BitVec.ofNat 32 (x.toNat % 2 ^ e.obits)
  else x

/-- One instruction other than BEAT, REP, skips and EXIT. -/
def stepInstr (e : Env) (beat : Option Nat) (w : Word) (c : Ctx) : Ctx :=
  let op := wOp w
  let act := activePos e beat
  let at_ := fun (r p : Nat) => (c.reg r).getD p 0
  let elem := fun (p : Nat) => 32 * beat.getD 0 + p
  let c := { c with steps := c.steps + wSteps w }
  if 0x20 ≤ op ∧ op ≤ 0x26 then c.setReg (wRd w) act fun p => immOp w (at_ (wRa w) p)
  else if op = 0x28 then c.setReg (wRd w) act fun _ => e.params.getD (wRb w) 0
  else if op = 0x29 then c.setReg (wRd w) act fun _ => c.qs.getD (wRb w) 0
  else if op = 0x2A then { c with qs := c.qs.set (wRb w) (at_ (wRa w) 0) }
  else if op = 0x2B then c.setReg (wRd w) act fun p => BitVec.ofNat 32 (sysVal e beat p (wRb w))
  else if op = 0x2C then c.setReg (wRd w) act fun p => (c.ports.getD (wRb w) []).getD (elem p) 0
  else if op = 0x2D then
    let old := c.ports.getD (wRb w) []
    { c with ports := c.ports.set (wRb w) ((List.range old.length).map fun i =>
        if 32 * beat.getD 0 ≤ i ∧ i < 32 * beat.getD 0 + 32 then e.stored (wRb w) (at_ (wRa w) (i % 32)) else old.getD i 0) }
  else if op = 0x2E then c.setHeader (beat.getD 0) (wRb w) (at_ (wRa w) 0)
  else if op = 0x34 then
    let xs := ((List.range 32).filter act).map (at_ (wRa w))
    let r := match xs with | [] => 0 | x :: t => t.foldl (reduceOp (wFn w)) x
    c.setReg (wRd w) (fun _ => true) fun _ => r
  else if op = 0x35 then c.setReg (wRd w) (fun _ => true) fun _ => at_ (wRa w) 0
  else c.setReg (wRd w) act fun p => aluOp w (at_ (wRa w) p) (at_ (wRb w) p) (at_ (wRc w) p)

/-- Run the instructions from `pc` to `stop` (R174). -/
def runFrom (e : Env) (code : List Word) : Nat → Nat → Nat → Option Nat → Ctx → Ctx
  | 0, _, _, _, c => c
  | fuel + 1, pc, stop, beat, c =>
    if stop ≤ pc then c
    else match c.done with
      | some _ => c
      | none =>
        let w := code.getD pc 0
        let n := wN w
        let tick := { c with steps := c.steps + 1 }
        if isExit w then { tick with done := some n }
        else if isSkip w then
          let z := (c.reg (wRa w)).getD 0 0 == 0
          let skip := if wOp w = 0x32 then z else !z
          runFrom e code fuel (if skip then pc + 1 + n else pc + 1) stop beat tick
        else if isBeat w then
          let c' := (List.range (beatsOf e.width)).foldl (fun c b => runFrom e code fuel (pc + 1) (pc + 1 + n) (some b) c) tick
          runFrom e code fuel (pc + 1 + n) stop beat c'
        else if isRep w then
          let c' := (List.range (wCount w + 1)).foldl (fun c _ => runFrom e code fuel (pc + 1) (pc + 1 + n) beat c) tick
          runFrom e code fuel (pc + 1 + n) stop beat c'
        else runFrom e code fuel (pc + 1) stop beat (stepInstr e beat w c)

def runProg (e : Env) (code : List Word) (c : Ctx) : Ctx := runFrom e code (2 * code.length + 2) 0 code.length none c

/-- An update program on a row (R180, R182): the updated master values and states, the exit code and the steps taken. -/
def runUpdate (e : Env) (code : List Word) (g : List Word) (m : Master) : Master × Nat × Nat :=
  let ports := [g, m.vals, m.vecs.getD 0 [], m.vecs.getD 1 [], [], []]
  let c := runProg e code { ports := ports, qs := m.words }
  let vecs := (List.range m.vecs.length).map fun k => c.ports.getD (2 + k) []
  (⟨c.ports.getD 1 [], vecs, c.qs⟩, c.done.getD 0, c.steps)

/-- An encode program on a row's updated values (R188): X holds the values and O takes the codes, packed under R62, behind the block scales of
an MX format; none on EXIT 1, which keeps the working copy. -/
def runEncode (e : Env) (f : Nat) (code : List Word) (xs : List Word) : Option Enc :=
  let n := fmtBits f
  let w := xs.length
  let c := runProg { e with kind := 2, obits := n } code
    { ports := [[], [], [], [], xs, List.replicate w 0], blocks := List.replicate (beatsOf e.width) 127 }
  if c.done ≠ some 0 then none
  else
    let pre := if fmtMX f then toBytes (mxPrefix f w) (packCodes 8 c.blocks) else []
    some ⟨pre ++ toBytes (ceilDiv (n * w) 8) (packCodes n ((c.ports.getD 5 []).map (·.toNat))), c.scale, c.zp, c.saturated⟩

/-- The REQUANT pass as an encode program runs it: EXIT 0 hands codes and header to the commit, EXIT 1 keeps the copy and sets NONFINITE
(R188). For the engine's resident programs this is `requantRow` (R187). -/
def requantBy (e : Env) (f : Nat) (code : List Word) (old : WorkRow) (touch : Nat) (nonfinite : Bool) (xs : List Word) : WorkRow :=
  match runEncode e f code xs with
  | some e =>
    { hdr := RowHdr.sealed { scale := e.scale, zp := e.zp, touch := touch, fmt := f, nonfinite := nonfinite, saturated := e.saturated } e.payload
      payload := e.payload }
  | none => { old with hdr := RowHdr.sealed { old.hdr with touch := touch, nonfinite := true, poison := false } old.payload }

/-- Whether every value a program left is finite (R108). -/
def Master.finite (m : Master) : Bool := allFinite m.vals && m.vecs.all allFinite && allFinite m.words

/-- An index transform on a list of raw indices (R159, R184, R185): the global index, or none for padding. Raw padding is left out
by the caller. Groups of 32 run together, but no instruction of a transform mixes positions. -/
def runTransform (width table : Nat) (params : List Word) (code : List Word) (raws : List Nat) : List (Option Nat) :=
  (chunks 32 raws.length raws).flatMap fun g =>
    let lane := fun (f : Nat → Nat) => (List.range 32).map fun p => BitVec.ofNat 32 (f (g.getD p 0))
    let regs := [lane (· % 2 ^ 32), lane (· / 2 ^ 32)] ++ List.replicate 14 (List.replicate 32 0)
    let c := runProg { kind := 1, width := width, table := table, params := params, nidx := g.length } code { regs := regs }
    (List.range g.length).map fun p =>
      if ((c.reg 15).getD p 0).getLsbD 0 then none
      else some (((c.reg 1).getD p 0).toNat * 2 ^ 32 + ((c.reg 0).getD p 0).toNat)

/-- Step bound charged for the REQUANT pass (Table 6-9). -/
def requantBound (fmt : Nat) (zpmode : Bool) : Nat × Nat :=
  if fmt = 0x01 then (40, 4)
  else if fmt = 0x02 || fmt = 0x03 then (44, 9)
  else if fmt = 0x10 || fmt = 0x11 then (61, 31)
  else if fmt = 0x20 || fmt = 0x21 then (if zpmode then (112, 22) else (61, 17))
  else if fmt = 0x35 then (40, 56)
  else (40, 62)

end Sys2Proof.Machine
end

