-- ==== Sys2Proof/Machine/Jobs.lean ====
section
/-! DEFINITION. The messages of Table 13-11: job slots, tables, programs (R49 to R53, R123, R154, R165 to R168, R375), and what a
pending message waits for. -/
namespace Sys2Proof.Machine

/-! ## What a pending message waits for -/

/-- How a message's work ends: its DONE answer, or none while it still waits. -/
abbrev Finish := Store → Block → Msg → PendMsg → Option Ans

/-- The table that a slot names. -/
def Work.table (w : Work) : Option Nat :=
  if w.opcode = 0x01 || w.opcode = 0x02 then some (w.f 140 20)
  else if [0x03, 0x10, 0x11, 0x12, 0x13, 0x20, 0x21].contains w.opcode then some (w.f 236 20)
  else none

/-- The program that a slot names. -/
def Work.prog (w : Work) : Option Nat :=
  if (w.opcode = 0x10 || w.opcode = 0x11) && w.f 220 16 != 0 then some (w.f 220 16) else none

/-- Slots in flight that a test picks, as pickups. -/
def Block.inFlight (b : Block) (p : Work → Bool) : List Nat := (b.works.vals.filter p).map (·.order)
/-- None of these pickups is in flight any more. -/
def Block.allGone (b : Block) (orders : List Nat) : Bool := orders.all fun o => b.works.vals.all fun w => w.order != o

/-- Forget translations that a batch has made and does not hold, so that its start makes them again (R119, R311). -/
def Work.forget (w : Work) (p : Nat → Page → Bool) : Work :=
  match w.data with
  | .update u =>
    if u.started then w
    else { w with pages := w.pages.filter (!p w.job ·), recPages := if u.distributed then w.recPages.filter (!p w.job ·) else w.recPages }
  | _ => w

def Block.forget (b : Block) (p : Nat → Page → Bool) : Block := { b with works := b.works.mapVal fun _ w => w.forget p }

/-- Answer with PENDING unless the work can end at once. -/
def Ans.await (fin : Finish) (st : Store) (b : Block) (m : Msg) (pm : PendMsg) : Ans :=
  match fin st b m pm with
  | some a => a
  | none => { b := b, pend := some pm }

/-! ## Job slots (R375) -/

def cardJobOpen : Card :=
  { code := 0x0010, wide := true, req := 56
    fields := [byteF 24 8, byteF 32 1] ++ (List.range 8).map fun k => byteF (40 + 2 * k) 2 }

/-- The semaphore ranges of a JOB_OPEN on each hub. -/
def Msg.semBases (m : Msg) : List Nat := (List.range 4).map fun h => m.at (40 + 4 * h) 2
def Msg.semCounts (m : Msg) : List Nat := (List.range 4).map fun h => m.at (42 + 4 * h) 2

/-- A range of semaphores is bad: it ends beyond 65,535 or meets another job slot's on the hub. -/
def Block.semRangeBad (b : Block) (h base count : Nat) : Bool :=
  decide (65536 < base + count) ||
  (count != 0 && b.jobs.vals.any fun j =>
    let s := j.semBase.getD h 0
    let n := j.semCount.getD h 0
    n != 0 && decide (base < s + n) && decide (s < base + count))

def msgJobOpen (_ : Store) (b : Block) (m : Msg) : Ans :=
  let root := m.at 24 8
  let bad := root % 2 ^ 20 != 0 || !b.eng.layout.inCap root (2 ^ 20) || m.at 32 1 == 0
    || (List.range 4).any fun h => b.semRangeBad h (m.semBases.getD h 0) (m.semCounts.getD h 0)
  if b.jobs.has m.job then .fail b JOB_EXISTS
  else if bad then .fail b JOB_INVALID
  else .ok { b with jobs := b.jobs.put m.job { root := root, weight := m.at 32 1, semBase := m.semBases, semCount := m.semCounts } }

def execJobOpen (hub : Nat) (mb : Mbox) (pair : Nat) (s : State) : Result := message cardJobOpen msgJobOpen hub mb pair s

/-- A work's clock runs again (R220). -/
def Work.clockOn (w : Work) (now : Nat) : Work :=
  { w with stopped := w.stopped + (match w.stoppedSince with | some a => now - a | none => 0), stoppedSince := none }

/-- End the slots that wait halted on a fault of slot p's unit (R226, R320): the status is fixed and the unit commits nothing. -/
def Block.endFaulted (b : Block) (ring p status : Nat) : Block :=
  b.onGroup ring p fun w => { w.clockOn (b.age (ringHub ring)) with phase := .visible, status := if w.late then LATE else status, pages := [] }

/-- RING_DESTROY begins (R226): no new pickups, and slots halted on a fault end with RING_DESTROYED. -/
def Block.destroyRing (b : Block) (rid : Nat) : Block :=
  let b := b.onRing rid fun r => { r with destroying := true, retry := [], headFault := false }
  let b := (b.ringWorks rid).foldl (fun b w => if w.phase == .faulted then b.endFaulted rid w.p RING_DESTROYED else b) b
  b.dropWalks (ringHub rid) fun w => decide (w.who = .slotBytes rid)

/-- The ring leaves service once every picked-up slot has retired. -/
def Block.dropRing (b : Block) (rid : Nat) : Block :=
  let b := { b with rings := b.rings.del rid }
  b.dropWalks (ringHub rid) fun w => decide (w.who = .status rid)

/-- No operation on a table stands in a scoreboard, so that dropping it waits behind none (R135). -/
def Block.tableQuiet (b : Block) (t : Nat) : Bool := b.dies.vals.all fun d => d.board.all (·.table != t)

/-- Retire a table: its pending accumulators, in the overflow logs too, are discarded and counted (R53, R107, R126). -/
def Block.dropTable (b : Block) (t : Nat) : Block × Nat :=
  let mine := fun (k : Nat) => k / 2 ^ 40 == t
  let n := (b.dies.vals.map fun d => d.accs.countP (fun (k, _) => mine k) + d.log.countP (·.table == t)).sum
  let b := { b with
    tables := b.tables.del t
    dies := b.dies.mapVal fun _ d =>
      { d with accs := d.accs.keep fun k _ => !mine k, lostAccs := d.lostAccs.keep fun k _ => !mine k, replay := d.replay.del t, log := d.log.filter (·.table != t)
               journals := d.journals.filter (·.table != t), twinJournal := d.twinJournal.filter (·.1 != t) } }
  (b.onEng fun e => { e with twin := { e.twin with fences := e.twin.fences.filter (·.table != t), resyncs := e.twin.resyncs.filter (·.table != t)
                                                   sweeps := e.twin.sweeps.filter (·.1 != t), mismatched := e.twin.mismatched.filter (·.1 != t) } }, n)

def jobOf (r : BitVec 256) (lo : Nat) : Nat := bits r.toNat lo 6

/-- Drop every cached translation and walk that tests pick, in every hub. -/
def Block.dropXlat (b : Block) (p : XEntry → Bool) (pw : Walk → Bool) : Block :=
  { b with hubs := b.hubs.mapVal fun _ h =>
    { h with xlat := let x := h.xlat.dropIf p; { x with walks := x.walks.keep fun _ w => !pw w } } }

/-- JOB_CLOSE ends once the job slot's rings hold no slot, its regions no latched signal, and none of its pages is migrating: rings,
tables, programs, regions and windows, then translations (R375). -/
def finJobClose : Finish := fun _ b m _ =>
  let j := m.job
  let rings := (b.rings.filter fun (_, r) => r.job == j).map (·.1)
  let regions := (b.eng.regions.filter fun (_, r) => jobOf r 36 == j).map (·.1)
  let windows := (b.eng.windows.filter fun (_, w) => jobOf w 20 == j).map (·.1)
  let sems := (b.eng.regions.filter fun (_, r) => jobOf r 36 == j).map fun (_, r) => (bits r.toNat 46 2, bits r.toNat 48 16)
  if b.works.vals.any (fun w => rings.contains w.ring) || b.eng.migrations.any (·.job == j)
      || b.eng.arrivals.any (fun a => a.sol.isNone && sems.contains (a.hub, a.sem)) || b.tables.any (fun (t, x) => (tdOf x.desc).job == j && !b.tableQuiet t) then none
  else
    let b := rings.foldl Block.dropRing b
    let tables := (b.tables.filter fun (_, t) => (tdOf t.desc).job == j).map (·.1)
    let b := tables.foldl (fun b t => (b.dropTable t).1) b
    let progs := b.progs.countP (·.job == j)
    let b := { b with progs := b.progs.filter (·.job != j), jobs := b.jobs.del j }
    let b := b.onEng fun e => { e with regions := e.regions.keep fun k _ => !regions.contains k
                                       windows := e.windows.keep fun k _ => !windows.contains k
                                       barriers := e.barriers.filter (·.job != j) }
    let b := b.dropXlat (·.job == j) (·.job == j)
    some (.ok b (bodyOf [(16, 4, rings.length), (20, 4, tables.length), (24, 4, progs), (28, 2, regions.length), (30, 2, windows.length)]))

def cardJobClose : Card := { code := 0x0011, jobScope := true, wide := true, req := 16, rep := 32 }

def msgJobClose (st : Store) (b : Block) (m : Msg) : Ans :=
  let b := b.onJob m.job fun j => { j with closing := true }
  let rings := (b.rings.filter fun (_, r) => r.job == m.job).map (·.1)
  let b := rings.foldl Block.destroyRing b
  let b := { b with
    tables := b.tables.mapVal fun _ t => if (tdOf t.desc).job == m.job then { t with retiring := true } else t
    progs := b.progs.map fun p => if p.job == m.job then { p with unloading := true } else p }
  .await finJobClose st b m { obj := .job m.job }

def execJobClose (hub : Nat) (mb : Mbox) (pair : Nat) (s : State) : Result := message cardJobClose msgJobClose hub mb pair s

/-! ## Tables (R49, R53, R123, R154) -/

def cardTableDefine : Card := { code := 0x0020, jobScope := true, wide := true, req := 80, fields := [byteF 16 64] }

/-- TABLE_DEFINE: R17 on the descriptor, then Table 2-5. A defined table has APPLIED 0 at every stack. -/
def msgTableDefine (_ : Store) (b : Block) (m : Msg) : Ans :=
  let d := BitVec.ofNat 512 (m.struct 16 64)
  let t := tdOf d
  .guard b (tdStages d b.eng.minor) fun _ =>
    let mine := b.tables.vals.countP fun x => (tdOf x.desc).job == m.job
    let st := firstFail
      [ (t.job != m.job, TABLE_INVALID)
      , (b.tables.has t.table, TABLE_EXISTS)
      , (decide (Config.tablesPerJob ≤ mine) || decide (Config.tablesAll ≤ b.tables.length), TABLE_LIMIT)
      , ((t.mirror && !b.feat featTWIN) || (t.chclass == 1 && b.eng.layout.priv.isEmpty) || (t.place == 1 && !b.feat featCAPACITY), FEATURE_ABSENT)
      , (!t.fieldsOk, TABLE_INVALID) ]
    .guard b st fun _ =>
      .ok { b with tables := b.tables.put t.table { desc := d }
                   dies := b.dies.mapVal fun _ x => { x with replay := x.replay.put t.table {} } }

def execTableDefine (hub : Nat) (mb : Mbox) (pair : Nat) (s : State) : Result := message cardTableDefine msgTableDefine hub mb pair s

/-- A table of a job slot; one of another job slot is as if it did not exist (R50). -/
def Block.tableOf (b : Block) (job t : Nat) : Option TableSt :=
  match b.tables.get? t with
  | some x => if (tdOf x.desc).job == job then some x else none
  | none => none

/-- A table that a slot may name as it is picked up: one whose retirement has been accepted is none (R53). -/
def Block.tableUse (b : Block) (job t : Nat) : Option TableSt := (b.tableOf job t).filter fun x => !x.retiring

def cardTableRetire : Card := { code := 0x0021, jobScope := true, wide := true, req := 24, rep := 24, fields := [byteF 16 4] }

/-- The retirement ends when every slot that named the table before it was accepted has retired (R53), and with them every operation on it. -/
def finTableRetire : Finish := fun _ b m pm =>
  if !b.allGone pm.waits || !b.tableQuiet (m.at 16 4) then none
  else
    let (b, n) := b.dropTable (m.at 16 4)
    some (.ok b (bodyOf [(16, 8, n)]))

def msgTableRetire (st : Store) (b : Block) (m : Msg) : Ans :=
  let t := m.at 16 4
  if (b.tableOf m.job t).isNone then .fail b TABLE_UNDEFINED
  else
    let b := b.onTable t fun x => { x with retiring := true }
    .await finTableRetire st b m { obj := .table t, waits := b.inFlight fun w => w.table == some t }

def execTableRetire (hub : Nat) (mb : Mbox) (pair : Nat) (s : State) : Result := message cardTableRetire msgTableRetire hub mb pair s

def cardTableStats : Card :=
  { code := 0x0022, jobScope := true, wide := true, req := 24, rep := 40, fields := [byteF 16 4, bitF 20 0 1] }

/-- TABLE_STATS: the drift counters of R154, cleared in the same unit when CLEAR is set (R375). -/
def msgTableStats (_ : Store) (b : Block) (m : Msg) : Ans :=
  let t := m.at 16 4
  match b.tableOf m.job t with
  | none => .fail b TABLE_UNDEFINED
  | some x =>
    .ok (if m.flag 20 0 then b.onTable t fun x => { x with recodes := 0, satRows := 0, stagnant := 0 } else b)
      (bodyOf [(16, 8, x.recodes), (24, 8, x.satRows), (32, 8, x.stagnant)])

def execTableStats (hub : Nat) (mb : Mbox) (pair : Nat) (s : State) : Result := message cardTableStats msgTableStats hub mb pair s

def cardUpdateStatus : Card := { code := 0x0023, jobScope := true, wide := true, req := 24, rep := 224, fields := [byteF 16 4] }

/-- Bytes of a table's pending accumulators in every stack, those in the overflow logs included (R107, R375). -/
def Block.accBytesOf (b : Block) (t : Nat) : Nat :=
  (b.dies.vals.map fun d => ((d.accs.filter fun (k, _) => k / 2 ^ 40 == t).map fun (_, a) => accBytes a.vec.length).sum
    + ((d.log.filter (·.table == t)).map fun e => accBytes e.acc.vec.length).sum).sum

/-- UPDATE_STATUS (R123, R375). -/
def msgUpdateStatus (_ : Store) (b : Block) (m : Msg) : Ans :=
  let t := m.at 16 4
  if (b.tableOf m.job t).isNone then .fail b TABLE_UNDEFINED
  else
    let at_ := fun (s : Nat) => (b.die s).replay.getD t {}
    let per := (List.range 12).flatMap fun s =>
      [(16 + 8 * s, 8, if b.dieUp s then (at_ s).applied else 2 ^ 64 - 1),
       (112 + 8 * s, 8, if b.dieUp s then (match (at_ s).inprog with | some r => r.bseq | none => 0) else 0)]
    .ok b (bodyOf (per ++ [(208, 8, b.accBytesOf t), (216, 4, sat32 (b.jobs.getD m.job {}).nfCount)]))

def execUpdateStatus (hub : Nat) (mb : Mbox) (pair : Nat) (s : State) : Result := message cardUpdateStatus msgUpdateStatus hub mb pair s

/-! ## Programs (R165 to R168) -/

def Block.progOf (b : Block) (job handle : Nat) : Option Prog := b.progs.find? fun p => p.job == job && p.handle == handle

def cardProgramLoad : Card := { code := 0x0030, jobScope := true, wide := true, req := 24, rep := 24, fields := [byteF 16 8] }

/-- The object of PROGRAM_LOAD is the handle that its image header carries (R366). -/
def objProgramLoad (st : Store) (b : Block) (m : Msg) : Obj :=
  match (msgRead st b m b.eng.leader (m.at 16 8) 64).2 with
  | .ok bs => .prog m.job (bits (ofBytes bs) 48 16)
  | _ => .none

/-- Stages 1 to 3 of R17 on an image header, which come before its instructions are read. -/
def imageHeaderCheck (minor hdr : Nat) : Nat :=
  firstFail [(!versionOk (bits hdr 0 8) minor, VERSION_UNSUPPORTED), (rsvSet hdr imgReserved, RESERVED_NONZERO), (decide (2 < bits hdr 8 4), UNKNOWN_ENCODING)]

/-- PROGRAM_LOAD (R167, R168): DETAIL carries the failing instruction or page. -/
def msgProgramLoad (st : Store) (b : Block) (m : Msg) : Ans :=
  let va := m.at 16 8
  if va % 64 ≠ 0 then .fail b MESSAGE_INVALID
  else match msgRead st b m b.eng.leader va 64 with
    | (b, .fail s pg) => .fail b s pg
    | (b, .wait) => .later b .none
    | (b, .ok head) =>
      let hdr := ofBytes head
      .guard b (imageHeaderCheck b.eng.minor hdr) fun _ =>
        let len := bits hdr 32 10
        match msgRead st b m b.eng.leader (va + 64) (4 * len) with
        | (b, .fail s pg) => .fail b s (pg + (va + 64) / 65536 - va / 65536)
        | (b, .wait) => .later b (.prog m.job (bits hdr 48 16))
        | (b, .ok bs) =>
          let code := words32 len bs
          let (s, off) := imageCheck b.eng.minor hdr code
          if s ≠ OK then .fail b s off
          else
            let handle := bits hdr 48 16
            if (b.progOf m.job handle).isSome then .fail b PROGRAM_EXISTS
            else match progSpace (b.progs.map fun p => (p.base, p.code.length)) len with
              | none =>
                if (progSpace ((b.progs.filter (!·.unloading)).map fun p => (p.base, p.code.length)) len).isSome then
                  { b := b, pend := some { obj := .prog m.job handle, behind := true } }
                else .fail b PROGRAM_SPACE
              | some base =>
                let (bs_, bp) := boundOf code
                .ok { b with progs := b.progs ++ [{ job := m.job, handle := handle, kind := bits hdr 8 4, base := base, code := code,
                                                    tag := bits hdr 128 64, boundS := bs_, boundP := bp }] }
                  (bodyOf [(16, 4, bs_), (20, 4, bp)])

def execProgramLoad (hub : Nat) (mb : Mbox) (pair : Nat) (s : State) : Result :=
  run (messageAt cardProgramLoad msgProgramLoad objProgramLoad hub mb pair) s

def cardProgramUnload : Card := { code := 0x0031, jobScope := true, wide := true, req := 24, fields := [byteF 16 2] }

/-- The unload ends when every slot that named the program before has retired (R168). -/
def finProgramUnload : Finish := fun _ b m pm =>
  if !b.allGone pm.waits then none
  else some (.ok { b with progs := b.progs.filter fun p => !(p.job == m.job && p.handle == m.at 16 2) })

def msgProgramUnload (st : Store) (b : Block) (m : Msg) : Ans :=
  let h := m.at 16 2
  match b.progOf m.job h with
  | none => .fail b PROGRAM_UNDEFINED
  | some _ =>
    if b.rings.vals.any fun r => r.job == m.job && r.xprog == h then .fail b PROGRAM_IN_USE
    else
      let b := { b with progs := b.progs.map fun p => if p.job == m.job && p.handle == h then { p with unloading := true } else p }
      .await finProgramUnload st b m
        { obj := .prog m.job h, waits := b.inFlight fun w => w.job == m.job && w.prog == some h }

def execProgramUnload (hub : Nat) (mb : Mbox) (pair : Nat) (s : State) : Result := message cardProgramUnload msgProgramUnload hub mb pair s

end Sys2Proof.Machine
end

