-- ==== Sys2Proof/Machine/Units.lean ====
section
/-! DEFINITION. The translation unit of a slot and what a slot reads and writes through it (R264, R270, R311, R315, R323, R346), the
end of a slot, and the tasks that its work is cut into (R227, R228). -/
namespace Sys2Proof.Machine

/-! ## Units -/

/-- The slot that leads a work's merged group, or the slot itself (R210). -/
def Work.lead (w : Work) : Nat := w.group.getD w.p

/-- Pages that the unit of slot p holds: its own, and those of the slot that leads its group. -/
def Block.unitPages (b : Block) (rid p : Nat) : List Page :=
  match b.work? rid p with
  | some w => w.pages ++ (if w.lead = p then [] else match b.work? rid w.lead with | some l => l.pages | none => [])
  | none => []

def Page.serves (pg : Page) (n : Need) : Bool := pg.vpn == n.va / 65536 && pg.grants n && pg.placed n && pg.inDomain n

/-- Hold a page in slot p's unit, in place of one of the same number. -/
def Block.holdPage (b : Block) (rid p : Nat) (pg : Page) : Block :=
  let (pg, b) := b.useOf pg
  b.onWork rid p fun w => { w with pages := w.pages.filter (·.vpn != pg.vpn) ++ [pg] }

/-- The record and flag pages of slot p, and of every slot of its group, are held: their translation is part of the first unit (R316). -/
def Block.recsHeld (b : Block) (rid p : Nat) : Block × Bool :=
  ((b.ringWorks rid).filter fun w => w.lead == p).foldl (fun (b, ok) w => let (b, o) := b.ensureRec rid w.p; (b, ok && o)) (b, true)

/-- Translate what a unit needs: pages held or cached are held, and a walk starts for every other one (R309, R315). The first unit also
holds the record and flag pages (R316). True when all are held. -/
def Block.ensure (b : Block) (rid p : Nat) (needs : List Need) : Block × Bool :=
  match b.rings.get? rid, b.work? rid p with
  | some r, some w =>
    needs.foldl (fun (b, ok) n =>
      if (b.unitPages rid w.lead).any fun pg => pg.serves n then (b, ok)
      else match b.cached (ringHub rid) r.job n with
        | (some pg, b) => (b.holdPage rid w.lead pg, ok)
        | (none, b) => (b.startWalk (ringHub rid) (.unit rid w.lead) r.job n (w.cls == 0), false)) (if w.tile = 0 then b.recsHeld rid w.lead else (b, true))
  | _, _ => (b, false)

/-- Needs of every page that [va, va + n) touches. -/
def needsOf (va n : Nat) (x : Need) : List Need := (pagesOf va n).map fun v => { x with va := v }

/-- A COPY_PERMUTE COMMIT of the slot's table, picked up before it, has not completed: the slot's work waits (R356). -/
def Block.commitAhead (b : Block) (w : Work) : Bool :=
  match w.table with
  | none => false
  | some t => b.works.vals.any fun x => x.opcode == 0x20 && x.f 234 2 == 1 && x.table == some t && x.phase == .active && decide (x.order < w.order)

/-! ## Ends of slots -/

/-- Row requests of a slot that still wait at a channel controller. -/
def Req.ofSlot (rid p : Nat) (q : Req) : Bool := match q.what with | .row r x _ => r == rid && x == p | _ => false

/-- Tasks of a slot that no chain has taken, and its requests that no channel has served, are dropped when the slot ends. -/
def Block.dropTasks (b : Block) (rid p : Nat) : Block :=
  let cut := fun (qs : List Req) => qs.filter (!·.ofSlot rid p)
  let chan := fun (c : Chan) =>
    if (c.narrow ++ c.narrowIn ++ c.wide ++ c.wideIn).any (·.ofSlot rid p) then
      { c with narrow := cut c.narrow, narrowIn := cut c.narrowIn, wide := cut c.wide, wideIn := cut c.wideIn } else c
  { b with
    dies := b.dies.mapVal fun _ d => { d with chans := d.chans.mapVal fun _ c => chan c }
    hubs := b.hubs.mapVal fun _ h =>
    { h with sched := { h.sched with ready := h.sched.ready.filter fun t => !(t.ring == rid && t.p == p) } } }

/-- A unit's pages are held until no slot of it is at work any more (R210, R311). -/
def Block.freePages (b : Block) (rid lead : Nat) : Block :=
  if (b.ringWorks rid).any fun w => w.lead == lead && w.phase == .active then b else b.onGroup rid lead fun w => { w with pages := [] }

/-- The work of a slot has ended: its status, the position it reports and its counters are fixed (R204 to R207). A slot whose expiry came
first keeps LATE (R407); that of a SOLSTICE slot counts only at release (R219, Table 7-18). -/
def Block.closeSlot (b : Block) (rid p status pos : Nat) (counters : List Nat) : Block :=
  let lead := match b.work? rid p with | some w => w.lead | none => p
  ((b.onWork rid p fun w =>
    { w with phase := .visible, status := if w.late && w.opcode != 0x30 then LATE else if w.winStatus = 0 then status else w.winStatus, position := pos
             counters := counters }).freePages rid lead).dropWalks (ringHub rid) fun w => decide (w.who = .unit rid p)

/-- The slot ends, and nothing of it is left to do. -/
def Block.endSlot (b : Block) (rid p status pos : Nat) (counters : List Nat) : Block :=
  (b.closeSlot rid p status pos counters).dropTasks rid p

/-- A row's request still waits at its channel. -/
def Block.rowQueued (b : Block) (ch rid p lrow : Nat) : Bool := (b.chan ch).holds (.row rid p lrow)

/-- Add lists of counters position by position. -/
def addCounts : List Nat → List Nat → List Nat
  | [], ys => ys
  | xs, [] => xs
  | x :: xs, y :: ys => (x + y) :: addCounts xs ys

/-! ## Reads -/

/-- What a read of an operation's bytes finds: the bytes, a wait for data, or a status that ends the slot. -/
inductive Rd where
  | got (data : List Byte)
  | wait
  | stop (status : Nat)
deriving DecidableEq, Repr

/-- Bytes held of a window's contents. -/
def Work.remoteBytes (w : Work) (win off n : Nat) : Option (List Byte) :=
  (List.range n).foldr (fun k acc => match acc, w.remote.get? (win * 2 ^ 44 + off + k) with
    | some bs, some v => some (v :: bs)
    | _, _ => none) (some [])

/-- A read through one page: stack memory (R264, R270), host memory (R346, R348) or a window (R323). A read through a window of a
twin pair, or of an entry that has been cleared, is refused. -/
def readPage (st : Store) (b : Block) (rid p : Nat) (pg : Page) (off n : Nat) : Block × Rd :=
  let a := pg.addr + off
  if pg.target = 0 then
    let s := rdStatus st b a n
    (b, if s = OK then .got (rdMem st b a n) else .stop s)
  else if pg.target = 1 then
    match b.eng.host with
    | .up => (b, if hostBad st b a n then .stop MEMORY_POISONED else .got (rdHost st b a n))
    | .retraining _ _ => (b, .wait)
    | .lost => (b.hostNeeded rid p whatOUT, .stop HOST_LOST)
  else
    let win := a / 2 ^ 64
    let o := a % 2 ^ 64
    match b.eng.windows.get? win, b.work? rid p with
    | some e, some w =>
      if bit e.toNat 30 then (b, .stop WINDOW_REFUSED)
      else match w.remoteBytes win o n with
        | some bs => (b, .got bs)
        | none =>
          if w.reads.contains (win, o, n) then (b, .wait)
          else ((b.sendWin rid p win true (.winRead rid p win (b.winHead (ringHub rid) win o) n)).1.onWork rid p fun w =>
            { w with reads := w.reads ++ [(win, o, n)], outstanding := w.outstanding + 1 }, .wait)
    | _, _ => (b, .stop WINDOW_REFUSED)

/-- A read of [va, va + n) through the pages of slot p's unit. -/
def readVa (st : Store) (b : Block) (rid p va n : Nat) : Block × Rd :=
  let pages := b.unitPages rid p
  (pagesOf va n).foldl (fun (b, acc) v =>
    match acc with
    | .stop s => (b, .stop s)
    | _ =>
      let lo := Nat.max va v
      let hi := Nat.min (va + n) (v + 65536)
      match pages.find? fun pg => pg.vpn * 65536 == v with
      | none => (b, .wait)
      | some pg =>
        match readPage st b rid p pg (lo - v) (hi - lo), acc with
        | (b, .got bs), .got old => (b, .got (old ++ bs))
        | (b, .got _), _ => (b, .wait)
        | (b, .wait), _ => (b, .wait)
        | (b, .stop s), _ => (b, .stop s)) (b, .got [])

/-- Read [va, va + n) and go on with the bytes; a wait leaves the slot as it is, and a status ends it with the counters given. -/
def withBytes (st : Store) (b : Block) (rid p va n : Nat) (counters : List Nat) (k : Block → List Byte → Block) : Block :=
  match readVa st b rid p va n with
  | (b, .got bs) => k b bs
  | (b, .wait) => b
  | (b, .stop s) => b.endSlot rid p s 0 counters

/-- Write an output of slot p through its unit's pages (R80, R85). The status is that of R264, R270 or R323 for a write that fails. -/
def Block.outWrite (st : Store) (b : Block) (rid p va : Nat) (data : List Byte) : Block × Nat :=
  let pages := b.unitPages rid p
  let bad := (pagesOf va data.length).foldl (fun s v =>
    if s ≠ OK then s
    else match pages.find? fun pg => pg.vpn * 65536 == v with
      | some pg =>
        if pg.target = 0 then
          let lo := Nat.max va v
          wrStatus st b (pg.addr + (lo - v)) (Nat.min (va + data.length) (v + 65536) - lo)
        else if pg.target = 2 && !b.windowSet ((pg.addr) / 2 ^ 64) then WINDOW_REFUSED
        else OK
      | none => s) OK
  (b.vaWrite rid p pages va data whatOUT, bad)

/-! ## Tasks (R227, R228) -/

/-- A task of slot p joins hub h's list (Table 8-1). It is ready once the tasks of `after` have ended (R230); in Figures mode a hub's tasks
of one kind run on one chain (R91, R151). -/
def Block.addTask (b : Block) (h rid p : Nat) (kind : TaskKind) (stack : Option Nat) (ops : Nat) (row : Option Nat := none)
    (after : List (Nat × Nat) := []) (single : Bool := false) : Block :=
  match b.work? rid p with
  | none => b
  | some w =>
    let fill := match b.rings.get? rid with
      | some r => ((r.fills.filter fun f => decide (f.1 ≤ p)).getLast?.map (·.2)).getD 0
      | none => 0
    let now := b.age h
    b.onSched h fun x =>
      { x with nextTask := x.nextTask + 1
               ready := x.ready ++ [{ id := x.nextTask, kind := kind, ring := rid, p := p, cls := w.cls, job := w.job, stack := stack, row := row, ops := ops
                                      readyAge := now, fillAge := fill, pickOrder := w.order, after := after, single := single }] }

/-- The number that hub h's next task takes, as others name it in `after`. -/
def Block.nextTask (b : Block) (h : Nat) : Nat × Nat := (h, (b.hub h).sched.nextTask)

/-- Tasks of slot p that a test picks and that have not ended, as (hub, number). -/
def Block.tasksOf (b : Block) (rid p : Nat) (f : Task → Bool) : List (Nat × Nat) :=
  b.hubs.flatMap fun (h, x) => ((x.sched.ready ++ x.sched.running).filter fun t => t.ring == rid && t.p == p && f t).map fun t => (h, t.id)

/-- A task of slot p for a stack, or for its hub, has not ended. -/
def Block.taskStands (b : Block) (rid p : Nat) (stack : Option Nat) : Bool :=
  b.hubs.vals.any fun h => (h.sched.ready ++ h.sched.running).any fun t => t.ring == rid && t.p == p && t.stack == stack

/-- A task of slot p for one local row has not ended. -/
def Block.rowTask (b : Block) (rid p lrow : Nat) : Bool :=
  b.hubs.vals.any fun h => (h.sched.ready ++ h.sched.running).any fun t => t.ring == rid && t.p == p && t.row == some lrow

/-- Decode cost d of a format (R228). -/
def decodeCost (f : Nat) : Nat := if f = 0x01 || f = 0x02 then 0 else 1

end Sys2Proof.Machine
end

