-- ==== Sys2Proof/Machine/RingMsgs.lean ====
section
/-! DEFINITION. The messages of Table 13-12: creating, destroying, halting and resuming rings, and reading host-lost records
(R191, R225, R226, R350, R376). -/
namespace Sys2Proof.Machine

/-! ## RING_CREATE (R191) -/

/-- Reserved fields of a ring descriptor (Tables 7-1, 7-2). -/
def ringReserved : List (Nat × Nat) := [(448, 64), (440, 8), (376, 8), (312, 8), (208, 48), (177, 15), (53, 3)]

/-- R17 on a ring descriptor, with DONESEM reserved while DONEEN is 0 (R191). -/
def ringStages (x minor : Nat) : Nat :=
  firstFail
    [ (!versionOk (bits x 0 8) minor, VERSION_UNSUPPORTED)
    , (rsvSet x ringReserved || (!bit x 176 && bits x 160 16 != 0), RESERVED_NONZERO)
    , (bits x 22 2 == 3, UNKNOWN_ENCODING) ]

/-- Order 3 of Table 7-3. -/
def Ring.paramsBad (r : Ring) : Bool :=
  decide (r.n < 3) || decide (r.n < r.out) || (r.timeout != 0 && decide (r.timeout < 1200)) || (!r.rt && r.deadline != 0)
  || (r.rt && (r.merge || r.xprog != 0))

/-- Order 4 of Table 7-3, on hub h. -/
def Block.ringSemsBad (b : Block) (h : Nat) (r : Ring) : Bool :=
  let own := [r.fillSem, r.freeSem] ++ r.doneSem.toList
  own.any (fun s => !b.allotted h r.job s)
  || (b.fillRing h r.fillSem).isSome || b.freeOrDone h r.freeSem
  || (match r.doneSem with | some s => b.freeOrDone h s | none => false)
  || (distinct own).length != own.length

/-- Order 6 of Table 7-3, but for the parameter block's mapping. -/
def Ring.basesBad (r : Ring) : Bool :=
  r.rbase == 0 || r.rbase % 256 != 0 || r.cbase == 0 || r.cbase % 128 != 0 || r.xpbase % 64 != 0 || ((r.xpbase == 0) != (r.xprog == 0))
  || decide (2 ^ 56 < r.rbase + 256 * r.n) || decide (2 ^ 56 < r.cbase + 64 + 128 * r.n) || decide (2 ^ 56 < r.xpbase + 64)

def cardRingCreate : Card := { code := 0x0040, jobScope := true, req := 80, fields := [byteF 16 64] }

/-- The transform parameter block, copied at creation; one that is not mapped gives RING_INVALID. -/
def ringParams (st : Store) (b : Block) (m : Msg) (r : Ring) : Block × MsgIn :=
  if r.xprog = 0 then (b, .ok [])
  else match msgRead st b m m.hub r.xpbase 64 with
    | (b, .fail s pg) => (b, .fail (if s = ADDRESS_FAULT then RING_INVALID else s) pg)
    | x => x

/-- RING_CREATE: the ring's semaphores become 0. A free or done semaphore that is the fill semaphore of another ring becomes 0 too, and that
ring's TAIL keeps its value, since R191 names no other effect (DESIGN CHOICE, log 92). -/
def msgRingCreate (st : Store) (b : Block) (m : Msg) : Ans :=
  let x := m.struct 16 64
  let r : Ring := { desc := BitVec.ofNat 512 x }
  .guard b (ringStages x b.eng.minor) fun _ =>
    let rid := 256 * m.hub + bits x 8 8
    let c := firstFail
      [ (r.job != m.job, RING_INVALID)
      , (b.rings.has rid, RING_EXISTS)
      , (r.paramsBad, RING_INVALID)
      , (b.ringSemsBad m.hub r, SEM_INVALID)
      , (r.xprog != 0 && !(match b.progOf r.job r.xprog with | some p => p.kind == 1 && !p.unloading | none => false), PROGRAM_UNDEFINED)
      , (r.basesBad, RING_INVALID) ]
    .guard b c fun _ =>
      match ringParams st b m r with
      | (b, .fail s _) => .fail b s
      | (b, .wait) => .later b (objOf m)
      | (b, .ok bs) =>
        let b := { b with rings := b.rings.put rid { r with xparam := words32 16 bs } }
        let b := ([r.fillSem, r.freeSem] ++ r.doneSem.toList).foldl (fun b s => b.semSet m.hub s 0) b
        .ok (b.statusWrite rid)

def execRingCreate (hub : Nat) (mb : Mbox) (pair : Nat) (s : State) : Result := message cardRingCreate msgRingCreate hub mb pair s

/-! ## RING_DESTROY, RING_HALT, RING_RESUME (R225, R226, R376) -/

/-- The ring that a message names, in service on the posting hub and the job slot's own (R376). -/
def Block.ringNamed (b : Block) (m : Msg) : Option Ring :=
  let rid := m.at 16 2
  if 1024 ≤ rid || ringHub rid != m.hub then none
  else match b.rings.get? rid with
    | some r => if r.job == m.job then some r else none
    | none => none

def cardRingDestroy : Card := { code := 0x0041, jobScope := true, req := 24, rep := 24, fields := [byteF 16 2] }

/-- The destruction ends when every picked-up slot has retired (R226). -/
def finRingDestroy : Finish := fun _ b m pm =>
  let rid := m.at 16 2
  if (b.ringWorks rid).isEmpty then some (.ok (b.dropRing rid) (bodyOf [(16, 4, sat32 (pm.aux.getD 0 0))])) else none

def msgRingDestroy (st : Store) (b : Block) (m : Msg) : Ans :=
  match b.ringNamed m with
  | none => .fail b RING_UNDEFINED
  | some r => .await finRingDestroy st (b.destroyRing (m.at 16 2)) m { obj := .ring (m.at 16 2), aux := [r.tail - r.head] }

def execRingDestroy (hub : Nat) (mb : Mbox) (pair : Nat) (s : State) : Result := message cardRingDestroy msgRingDestroy hub mb pair s

def cardRingHalt : Card := { code := 0x0042, jobScope := true, req := 24, fields := [byteF 16 2] }

def msgRingHalt (_ : Store) (b : Block) (m : Msg) : Ans :=
  match b.ringNamed m with
  | none => .fail b RING_UNDEFINED
  | some _ => .ok (b.haltRing (m.at 16 2) haltREQUEST)

def execRingHalt (hub : Nat) (mb : Mbox) (pair : Nat) (s : State) : Result := message cardRingHalt msgRingHalt hub mb pair s

/-- Clear ERROR, OVERRUN and REQUEST (R225). ERROR about HEAD or the status block needs no more than the pickup or the write made
again; ERROR about a record or flag page picks the slot up again with either choice (R316). -/
def Block.resumeRing (b : Block) (rid : Nat) (retry : Bool) : Block :=
  match b.rings.get? rid with
  | none => b
  | some r =>
    let again := match r.err with
      | .slot p => if retry && hasReason r.halt haltERROR then some p else none
      | .recPage p => if hasReason r.halt haltERROR then some p else none
      | _ => none
    let b := match r.err with
      | .recPage p => ((b.dropTasks rid p).delWork rid p).dropWalks (ringHub rid) fun w => w.who.isRing rid p
      | _ => b
    (b.onRing rid fun r =>
      { r with halt := clearReason r.halt (haltERROR ||| haltOVERRUN ||| haltREQUEST), err := .none, haltStatus := 0
               retry := r.retry ++ again.toList }).statusWrite rid

def ringResume (retry : Bool) (_ : Store) (b : Block) (m : Msg) : Ans :=
  match b.ringNamed m with
  | none => .fail b RING_UNDEFINED
  | some r =>
    if !hasReason r.halt (haltERROR ||| haltOVERRUN ||| haltREQUEST) || (retry && !hasReason r.halt haltERROR) then .fail b RING_STATE
    else .ok (b.resumeRing (m.at 16 2) retry)

def cardRingResume (retry : Bool) : Card :=
  { code := 0x0043, sel := some (144, 1, b2n retry), first := !retry, top := 1, jobScope := true, req := 24
    fields := [byteF 16 2, bitF 18 0 1] }

def execRingResumeContinue (hub : Nat) (mb : Mbox) (pair : Nat) (s : State) : Result :=
  message (cardRingResume false) (ringResume false) hub mb pair s

def execRingResumeRetry (hub : Nat) (mb : Mbox) (pair : Nat) (s : State) : Result :=
  message (cardRingResume true) (ringResume true) hub mb pair s

/-! ## HOSTLOST_READ (R350) -/

/-- A host-lost record (Table 12-5). -/
def hostLostRecord (rid job : Nat) (r : Nat × Nat × Nat) : Nat :=
  pack [(0, 8, 0x20), (32, 10, rid), (42, 6, job), (48, 4, r.2.2), (64, 64, r.1), (128, 64, r.2.1)]

/-- An affected slot's clock goes on, and its record is due (R348, R350). -/
def Work.hostBack (w : Work) (now : Nat) : Work :=
  { w with hostAcked := true
           stopped := w.stopped + (match w.stoppedSince with | some a => now - a | none => 0)
           stoppedSince := if w.phase == .faulted then w.stoppedSince.map fun _ => now else none }

/-- The record of an affected slot is written once those of the affected slots before it are: with HOST_LOST when a host access of it was
lost, else with its own status (R350). -/
def Block.writeAffected (b : Block) (rid p : Nat) : Block :=
  let earlier := (b.ringWorks rid).any fun w => w.hostAffected && !w.recorded && decide (w.p < p)
  match b.work? rid p with
  | none => b
  | some w =>
    if earlier || !w.hostAcked || w.phase != .visible || w.recorded || w.outstanding != 0 || w.hostMute || !b.hostUp then b
    else
      let (b, ready) := b.ensureRec rid p
      if !ready then b
      else ((b.onWork rid p fun w => { w with status := if w.hostWhat != 0 then HOST_LOST else w.status }).writeCompletion rid p).retireWork rid p

/-- ACK on one host-lost ring (R350): HOSTLOST is cleared, and its affected slots are written in slot order, those that still run once their
work has ended. -/
def Block.ackHostLost (b : Block) (rid : Nat) : Block :=
  let now := b.age (ringHub rid)
  let b := b.onRing rid fun r => { r with hostLost := none, halt := clearReason r.halt haltHOSTLOST }
  let b := { b with works := b.works.mapVal fun _ w => if w.ring == rid && w.hostAffected then w.hostBack now else w }
  (((b.ringWorks rid).filter (·.hostAffected)).foldl (fun b w => b.writeAffected rid w.p) b).statusWrite rid

def cardHostlostRead : Card := { code := 0x0044, wide := true, req := 24, rep := 256, fields := [byteF 16 2, bitF 18 0 1] }

def msgHostlostRead (_ : Store) (b : Block) (m : Msg) : Ans :=
  let lost := b.rings.filterMap fun (rid, r) =>
    match r.hostLost with | some x => if m.at 16 2 ≤ rid then some (rid, r.job, x) else none | none => none
  let take := lost.take 7
  let b := if m.flag 18 0 then take.foldl (fun b (rid, _, _) => b.ackHostLost rid) b else b
  .ok b (bodyOf ([(16, 2, take.length), (18, 1, b2n (decide (7 < lost.length)))]
    ++ take.zipIdx.map fun ((rid, job, x), k) => (32 + 32 * k, 32, hostLostRecord rid job x)))

def execHostlostRead (hub : Nat) (mb : Mbox) (pair : Nat) (s : State) : Result := message cardHostlostRead msgHostlostRead hub mb pair s

end Sys2Proof.Machine
end

