-- ==== Sys2Proof/Machine/Pickup.lean ====
section
/-! DEFINITION. Pickup of slots (R198 to R203, R208, R316), and the commands that concern a slot before and after its work:
SLOT_STALE, SLOT_COMPLETE (R200, R206, R207). -/
namespace Sys2Proof.Machine

/-! ## Conditions of R201 -/

/-- Transfers outstanding on a ring; a slot halted on a fault counts until it resumes (R208, R321). -/
def Block.outstanding (b : Block) (rid : Nat) : Nat := (distinct (((b.ringWorks rid).filter fun w => !w.recorded || w.phase == .faulted).map Work.lead)).length

/-- The completion record of slot p - N has been written. -/
def Ring.recFree (r : Ring) (p : Nat) : Bool := decide (p < r.n) || decide (p - r.n < r.done) || r.written.contains (p - r.n)

/-- The slot that the ring picks up next: one that RETRY asked for, else slot HEAD (R201, R225). -/
def Ring.nextSlot (r : Ring) : Nat := r.retry.headD r.head

/-- R201 but for FENCE, which the slot's own bytes give, and the scheduler's choice. -/
def Block.mayPick (b : Block) (rid : Nat) (r : Ring) : Bool :=
  let h := ringHub rid
  b.hubUp h && (b.fw h == .run || b.fw h == .handover) && !r.destroying && r.halt == 0 && !r.headFault
  && (!r.retry.isEmpty || (decide (r.head < r.tail) && r.recFree r.head))
  && decide (b.outstanding rid < r.out)
  && !(b.ringWorks rid).any fun w => w.opcode == 0x30 && decide (w.p < r.nextSlot) && !(w.phase == .visible) && !w.recorded

/-! ## Reading the slot -/

/-- The bytes of slot p, read through the hub's translation of their page; a read that waits, faults or fails gives none (R316). -/
def slotFetch (st : Store) (b : Block) (rid : Nat) (r : Ring) (p : Nat) : Block × Option Nat :=
  let h := ringHub rid
  let n : Need := { va := r.slotVa p, read := true }
  match b.cached h r.job n with
  | (none, b) => (b.startWalk h (.slotBytes rid) r.job n r.rt, none)
  | (some pg, b) =>
    let a := pg.addr + r.slotVa p % 65536
    if pg.target = 0 then
      let s := rdStatus st b a 256
      if s = OK then (b, some (rdNat st b a 256)) else (b.errorRing rid .head s, none)
    else if pg.target = 1 then
      match b.eng.host with
      | .up => if hostBad st b a 256 then (b.errorRing rid .head MEMORY_POISONED, none) else (b, some (ofBytes (rdHost st b a 256)))
      | .retraining _ _ => (b, none)
      | .lost => (b.hostNeeded rid noSlot whatREC, none)
    else
      let win := a / 2 ^ 64
      match b.eng.windows.get? win with
      | none => (b.errorRing rid .head WINDOW_REFUSED, none)
      | some e =>
        if bit e.toNat 30 then (b.errorRing rid .head WINDOW_REFUSED, none)
        else match r.slotBytes with
          | some bs => (b, some (ofBytes bs))
          | none =>
            if r.slotAsked then (b, none)
            else ((b.sendWin rid p win true (.winRead rid p win (b.winHead h win (a % 2 ^ 64)) 256)).1.onRing rid fun r => { r with slotAsked := true }, none)

/-- Forget the bytes read through a window, so that the slot is read again. -/
def Ring.reread (r : Ring) : Ring := { r with slotAsked := false, slotBytes := none }

/-- The slot that the ring would pick up next: its number and bytes, when it meets R201 and its SSEQ matches (R200 step 1). -/
def tryPick (st : Store) (b : Block) (rid : Nat) : Block × Option (Nat × Nat) :=
  match b.rings.get? rid with
  | none => (b, none)
  | some r =>
    if !b.mayPick rid r then (b, none)
    else
      let p := r.nextSlot
      let now := b.age (ringHub rid)
      match slotFetch st b rid r p with
      | (b, none) => (b, none)
      | (b, some x) =>
        if bits x 32 32 ≠ p % 2 ^ 32 then
          (b.onRing rid fun r => { r.reread with staleSince := if r.staleSince.isNone then some now else r.staleSince }, none)
        else if bit x 20 && (b.ringWorks rid).any fun w => decide (w.p < p) then (b, none)
        else (b, some (p, x))

/-! ## Taking a slot (R202) -/

/-- FLAGADDR breaks step 4 of R200. -/
def flagBad (x : Nat) : Bool := bits x 72 56 % 8 != 0 || decide (2 ^ 56 < bits x 72 56 + 8)

/-- Ages of fill signals that still concern slots from `head` on. -/
def fillsFrom (head : Nat) (fs : List (Nat × Nat)) : List (Nat × Nat) :=
  let past := fs.filter fun f => decide (f.1 ≤ head)
  past.drop (past.length - 1) ++ fs.filter fun f => decide (head < f.1)

/-- Copy slot p: HEAD and the free semaphore advance, but for a RETRY (R202, R225). The page of its bytes is held until its record and flag
have been written (R311). -/
def Block.takeSlot (b : Block) (rid p x : Nat) (group : Option Nat) (stale : Bool) : Block :=
  match b.rings.get? rid with
  | none => b
  | some r =>
    let h := ringHub rid
    let now := b.age h
    let again := r.retry.head? == some p
    let fill := ((r.fills.filter fun f => decide (f.1 ≤ p)).getLast?.map (·.2)).getD 0
    let w : Work := { ring := rid, p := p, slot := BitVec.ofNat 2048 x, cls := bits x 16 2, job := r.job, order := b.eng.order, startAge := now
                      deadlineAge := Nat.max fill (r.eligible.getD now), group := group, retried := again, noFlag := stale || flagBad x }
    let (slotPages, b) := match b.cached h r.job { va := r.slotVa p, read := true } with
      | (some pg, b) => let (pg, b) := b.useOf pg; ([pg], b)
      | (none, b) => ([], b)
    let b := (b.putWork { w with slotPages := slotPages }).onEng fun e => { e with order := e.order + 1 }
    if again then b.onRing rid fun r => { r.reread with retry := r.retry.drop 1, staleSince := none }
    else
      let b := b.sample 0x04 rid (r.tail - r.head)
      let b := b.onRing rid fun r =>
        { r.reread with head := r.head + 1, eligible := none, staleSince := none, fills := fillsFrom (r.head + 1) r.fills }
      (b.latch h r.freeSem 1).1

/-! ## The checks of R200 -/

/-- Stream opcodes (Table 7-7), and those permitted on a real-time ring. -/
def opcodes : List Nat := [0x01, 0x02, 0x03, 0x10, 0x11, 0x12, 0x13, 0x20, 0x21, 0x30, 0x31]
def rtOpcodes : List Nat := [0x01, 0x02, 0x31]

/-- CLASS or the opcode does not suit the ring's class (R200 step 3). -/
def classBad (ringClass cls op : Nat) : Bool :=
  (ringClass == 0 && (cls != 0 || !rtOpcodes.contains op)) || (ringClass == 1 && cls == 0) || (ringClass == 2 && cls != 2)

/-- Reserved fields of the slot header (Table 7-6), and the inline area where the opcode does not use it (R198). -/
def hdrReserved : List (Nat × Nat) := [(64, 8), (24, 8), (21, 3), (18, 1)]
def inlineArea : Nat × Nat := (512, 1536)

/-- Steps 2 to 4 of R200: R17 on header and operand, class and opcode, flag address. -/
def headCheck (minor ringClass x : Nat) (rsv : List (Nat × Nat)) (unknown : Bool) : Nat :=
  let op := bits x 8 8
  firstFail
    [ (!versionOk (bits x 0 8) minor, VERSION_UNSUPPORTED)
    , (rsvSet x (hdrReserved ++ rsv), RESERVED_NONZERO)
    , (bits x 16 2 == 3 || !opcodes.contains op || unknown, UNKNOWN_ENCODING)
    , (classBad ringClass (bits x 16 2) op || flagBad x, SLOT_INVALID) ]

/-- What a slot command does: the slot is picked up when its opcode is the command's, and its own checks and start follow. -/
def pickup (mine : Nat → Bool) (start : Store → Block → Ring → Nat → Nat → Block) (rid : Nat) (st : Store) (b : Block) : Block :=
  match tryPick st b rid with
  | (b, none) => b
  | (b, some (p, x)) =>
    match b.rings.get? rid with
    | none => b
    | some r =>
      if !mine x then b
      else
        let b := (b.takeSlot rid p x none false).statusWrite rid
        let b := start st b r p x
        (b.ensureRec rid p).1

/-! ## SLOT_STALE (R200 step 1) -/

/-- The SSEQ has differed for 200 age units: the slot ends with SLOT_STALE and no flag. -/
def slotStale (rid : Nat) (st : Store) (b : Block) : Block :=
  match b.rings.get? rid with
  | none => b
  | some r =>
    if !b.mayPick rid r then b
    else
      let p := r.nextSlot
      let now := b.age (ringHub rid)
      match slotFetch st b rid r p with
      | (b, none) => b
      | (b, some x) =>
        if bits x 32 32 = p % 2 ^ 32 then b.onRing rid fun r => { r with staleSince := none }
        else match r.staleSince with
          | none => b.onRing rid fun r => { r.reread with staleSince := some now }
          | some a =>
            if now < a + 200 then b.onRing rid Ring.reread
            else
              let b := ((b.takeSlot rid p x none true).statusWrite rid).endSlot rid p SLOT_STALE 0 []
              (b.ensureRec rid p).1

def execSlotStale (ring : Nat) (s : State) : Result := run (slotStale ring) s

/-! ## SLOT_COMPLETE (R206, R207, R348) -/

/-- A slot whose record or flag lies in lost host memory makes its ring host-lost. -/
def Block.hostRecLost (b : Block) (rid : Nat) (w : Work) : Block :=
  let flagHost := w.hasFlag && w.recPages.any fun pg => pg.target == 1 && pg.vpn == w.flagVa / 65536
  (b.hostLose rid (whatREC ||| (if flagHost then whatFLAG else 0))).statusWrite rid

/-- SLOT_COMPLETE: every output and commit has reached visibility (R337: not while host writes are held), so the record, flag, DONE and status block are written, and the slot
retires. A slot already written LATE retires without effect (R407). -/
def slotComplete (rid p : Nat) (b : Block) : Block :=
  match b.work? rid p with
  | none => b
  | some w =>
    if w.phase != .visible || w.outstanding != 0 || w.hostMute then b
    else if w.recorded then (b.sample 0x0B rid (b.age (ringHub rid) - w.lateAge)).retireWork rid p
    else if w.recFault then b
    else if w.hostAffected then b.writeAffected rid p
    else
      let (b, ready) := b.ensureRec rid p
      match b.work? rid p with
      | none => b
      | some w =>
        if !ready then b
        else if w.hostRec && b.hostLostNow then b.hostRecLost rid w
        else if (w.hostRec || w.hostHeld) && !b.hostUp then b
        else
          let b := if w.late then b.sample 0x0B rid (b.age (ringHub rid) - w.lateAge) else b
          (b.writeCompletion rid p).retireWork rid p

def execSlotComplete (ring p : Nat) (s : State) : Result := live (fun _ b => slotComplete ring p b) s

end Sys2Proof.Machine
end

