-- ==== Sys2Proof/Machine/Walks.lean ====
section
/-! DEFINITION. Walks and faults: TRANSLATION_WALK and HARVEST_DELIVER (R300 to R319). -/
namespace Sys2Proof.Machine

/-- A slot's work put back to where its unit begins (R84, R121, R315). -/
def WorkData.restart : WorkData → WorkData
  | .lookup l => .lookup { l with running := false, transformed := false, fetches := [], bags := [], tileCounts := [], early := [] }
  | .update _ => .update {}
  | d => d

/-- A fault in a unit halts the slot, or its whole group, at the unit (R210, R224, R315); its other walks are given up. -/
def Block.faultUnit (b : Block) (rid p : Nat) : Block :=
  let now := b.age (ringHub rid)
  let b := b.onGroup rid p fun w =>
    if w.phase == .active then
      { w with phase := .faulted, pages := [], stoppedSince := if w.stoppedSince.isNone then some now else w.stoppedSince, data := w.data.restart }
    else w
  b.dropWalks (ringHub rid) fun w => decide (w.who = .unit rid p)

/-- Every slot of a unit ends with a status. -/
def Block.endUnit (b : Block) (rid p status : Nat) : Block :=
  ((b.ringWorks rid).filter fun w => w.p == p || w.group == some p).foldl (fun b w => b.endSlot rid w.p status 0 w.counters) b

/-- The requester entry of a stream's slot (Table 11-8). -/
def slotRequester (rid p : Nat) (who : Who) : Requester := { kind := 0, id := rid, sseq := p % 2 ^ 32, who := who }

/-- A walk's fault reaches its requester and the leader (R314 to R317). -/
def Block.walkFault (b : Block) (h : Nat) (w : Walk) (kind level : Nat) (retired : Bool) : Block :=
  let report := fun (b : Block) (rid p : Nat) => b.harvestFault w.job w.need.va kind level retired w.need (slotRequester rid p w.who)
  match w.who with
  | .slotBytes r =>
    let p := match b.rings.get? r with | some x => x.nextSlot | none => 0
    report ((b.onRing r fun x => { x with headFault := true }).haltRing r haltFAULT) r p
  | .recPage r p =>
    let now := b.age h
    let b := b.onWork r p fun x => { x with recFault := true, stoppedSince := if x.stoppedSince.isNone then some now else x.stoppedSince }
    report (b.haltRing r haltFAULT) r p
  | .status r =>
    let p := match b.rings.get? r with | some x => x.head | none => 0
    report ((b.onRing r fun x => { x with statusHeld := true }).haltRing r haltFAULT) r p
  | .unit r p => report ((b.faultUnit r p).haltRing r haltFAULT) r p
  | .inbound _ => b
  | .ahead => b

/-- A walk ends with a halting status (R17, R264, R270, R303, R316). -/
def Block.walkStop (b : Block) (w : Walk) (status : Nat) : Block :=
  match w.who with
  | .slotBytes r => b.errorRing r .head status
  | .recPage r p => b.errorRing r (.recPage p) status
  | .status r => b.errorRing r .status status
  | .unit r p => b.endUnit r p status
  | .inbound _ => b
  | .ahead => b

/-- A walk ends at a leaf that serves its access: the leaf is cached, and the requester holds the page (R307, R311). -/
def Block.walkPage (b : Block) (h : Nat) (w : Walk) (e : XEntry) (pg : Page) : Block :=
  let ahead := decide (w.who = .ahead)
  let b := if ahead && w.discard then b else b.onXlat h fun x => x.insert e ahead
  match w.who with
  | .recPage r p => b.holdRec r p pg
  | .unit r p => b.holdPage r p pg
  | .status r => b.statusWrite r
  | _ => b

/-- What the atom code found on a read of one atom (R261, R262, R264, R266). -/
def Block.atomRead (st : Store) (b : Block) (hub a : Nat) (err : ReadErr) : Block :=
  if (view st b).poison.contains a then b
  else if err.failed then (b.poisonAtoms hub (64 * a) 64 0).pageError hub (64 * a)
  else if err.any (·.corrects) then b.correctAtom hub a else b

/-- TRANSLATION_WALK: a walk's read returns, or a walk that waited for a walker issues its read. A read that fails is not entered in the entry
cache. -/
def translationWalk (h id : Nat) (err : ReadErr) (st : Store) (b : Block) : Block :=
  match (b.hub h).xlat.walks.get? id with
  | none => b
  | some w =>
    let pa := entryAddr w.table w.level w.need.va
    let cached := b.entryCached pa
    let queued := match b.locate pa with | some (ch, _) => (b.chan ch).holds (.walk h id) | none => false
    if !(b.hub h).xlat.mayIssue id w || b.migrating w.job w.need then b
    else if !cached && !w.asked then b.issueWalk h id
    else if !cached && queued then b
    else
      let b := if cached then b else Block.atomRead st b h (pa / 64) err
      let close := fun (b : Block) => b.onXlat h fun x => { x with walks := x.walks.del id }
      let s := if cached then OK else entryStatus st b pa
      let b := if s = OK then b.keepEntry pa else b
      if s ≠ OK then (close b).walkStop w s
      else match entryOf b w.job w.level w.need.va (rdNat st b pa 8) with
        | .bad s => (close b).walkStop w s
        | .absent => (close b).walkFault h w fNOTPRESENT w.level false
        | .table t => (b.onXlat h fun x => { x with walks := x.walks.put id { w with level := w.level + 1, table := t, asked := false } }).issueWalk h id
        | .leaf e =>
          match judge b e w.level w.need with
          | .page pg => (close b).walkPage h w e pg
          | .fault kind level retired => (close b).walkFault h w kind level retired
          | .stop s => (close b).walkStop w s

def execTranslationWalk (hub walk : Nat) (err : ReadErr) (s : State) : Result := run (translationWalk hub walk err) s

/-! ## HARVEST_DELIVER (R319) -/

/-- Records not yet delivered, in HSEQ order. -/
def HarvestStore.due (hs : HarvestStore) : List Harvest := hs.records.filter (!·.delivered)

/-- Deliver one record at its place in the buffer. -/
def Block.deliver (b : Block) (r : Harvest) : Block :=
  let hs := b.eng.harvest
  let b := b.wrMem b.eng.leader (hs.base + 128 + 128 * (hs.hprod % 2 ^ hs.lgN)) r.bytes 1
  b.onEng fun e =>
    { e with harvest := { e.harvest with
        hprod := hs.hprod + 1
        records := if r.opened then e.harvest.records.map fun x => if x.hseq = r.hseq then { x with delivered := true } else x
                   else e.harvest.records.filter (·.hseq != r.hseq) } }

/-- HARVEST_DELIVER: after GDELAY age units, or with 32 ready, the leader writes the records that fit, advances HPROD, signals and sets
the HARVEST cause. -/
def harvestDeliver (st : Store) (b : Block) : Block :=
  let hs := b.eng.harvest
  let h := b.eng.leader
  let due := hs.due
  let gathered := match due with
    | [] => false
    | r :: _ => decide (r.age + hs.gdelay ≤ b.age h) || decide (32 ≤ due.length)
  if !hs.armed || !gathered then b
  else
    let hcons := rdNat st b (hs.base + 16) 8
    let room := 2 ^ hs.lgN - (hs.hprod - hcons)
    let out := due.take room
    if out.isEmpty then b
    else
      let b := out.foldl (fun b r => b.deliver r) b
      let b := b.wrMem h (hs.base + 8) (toBytes 8 b.eng.harvest.hprod) 1
      ((b.latch h hs.sem out.length).1).raise h intHARVEST

def execHarvestDeliver (s : State) : Result := live harvestDeliver s

end Sys2Proof.Machine
end

