-- ==== Sys2Proof/Machine/RowOps.lean ====
section
/-! DEFINITION. Rows in memory: where a slot lies (R45, R253), reading a row through the two cache levels (Table 10-1, R262, R278 to
R296), poisoning a row and re-deriving it (R264, Table 2-4). -/
namespace Sys2Proof.Machine

/-! ## Where a slot lies -/

/-- A row slot found in memory: its bytes as (offset, physical address, length), and its channel. -/
structure RowRef where
  td : TD
  lrow : Nat := 0
  parts : List (Nat × Nat × Nat) := []
  ch : Nat := 0
deriving DecidableEq, Repr, Inhabited

def RowRef.stack (r : RowRef) : Nat := r.ch / 64

/-- The parts of [va, va + n), each through the translation of its own page. -/
def partsVia (f : Nat → Option Nat) (va n : Nat) : Option (List (Nat × Nat × Nat)) :=
  (pagesOf va n).foldr (fun v acc =>
    match acc, f v with
    | some ps, some a => let lo := Nat.max va v; some ((lo - va, a + (lo - v), Nat.min (va + n) (v + 65536) - lo) :: ps)
    | _, _ => none) (some [])

/-- Granules that the first `n` bytes of parts touch. -/
def Block.locsOf (b : Block) (parts : List (Nat × Nat × Nat)) (n : Nat) : List (Nat × Nat) :=
  dedup ((parts.flatMap fun (off, a, m) => if off < n then granulesOf a (Nat.min m (n - off)) else []).filterMap b.locate)

/-- Locate every granule of a slot: a slot on two channels is split (R45, R253). -/
def Block.rowRef (b : Block) (td : TD) (lrow : Nat) (parts : List (Nat × Nat × Nat)) : RowRef × Nat :=
  let gs := parts.flatMap fun (_, a, m) => granulesOf a m
  let locs := gs.map b.locate
  match locs.head? with
  | some (some (ch, _)) =>
    ({ td := td, lrow := lrow, parts := parts, ch := ch },
     if locs.any Option.isNone then MEMORY_LOST
     else if locs.any (fun x => match x with | some (c, _) => c != ch | none => true) then ROW_SPLIT else OK)
  | _ => ({ td := td, lrow := lrow, parts := parts }, MEMORY_LOST)

/-- Bytes [lo, lo + n) of a slot. -/
def RowRef.read (r : RowRef) (st : Store) (b : Block) (lo n : Nat) : List Byte :=
  r.parts.flatMap fun (off, a, m) =>
    let s := Nat.max lo off
    let e := Nat.min (lo + n) (off + m)
    if s < e then rdMem st b (a + (s - off)) (e - s) else []

/-- Atoms under bytes [lo, lo + n) of a slot, in order. -/
def RowRef.atoms (r : RowRef) (lo n : Nat) : List Nat :=
  r.parts.flatMap fun (off, a, m) =>
    let s := Nat.max lo off
    let e := Nat.min (lo + n) (off + m)
    if s < e then atomsOf (a + (s - off)) (e - s) else []

/-- Bytes of the header and payload. -/
def TD.rowBytes (t : TD) : Nat := 16 + t.P

/-! ## Poisoning and reading -/

/-- What reading a row gives. -/
inductive RowIn where
  | row (h : RowHdr) (payload : List Byte)
  | poisoned
  | wait
  | stop (status : Nat)
deriving DecidableEq, Repr

/-- The atom that holds the header at an offset of the slot. -/
def RowRef.headAtom (r : RowRef) (off : Nat) : Nat := (r.atoms off 16).headD 0

/-- The header as a poisoned row keeps it (R264): the bytes of an atom that is poisoned are lost, so that TOUCH and NONFINITE read 0 there,
but for a header that the row die has written into it since. -/
def RowRef.keptHdr (r : RowRef) (st : Store) (b : Block) : RowHdr := hdrOf (r.read st b 0 16)

/-- Write a header with POISON at an offset of the slot, over the bytes that follow it; into an atom that stays poisoned too (R264). -/
def RowRef.markPoison (r : RowRef) (st : Store) (b : Block) (hub off len : Nat) (h : RowHdr) : Block :=
  let at_ := ((r.parts.find? fun x => decide (x.1 ≤ off) && decide (off < x.1 + x.2.2)).map fun x => x.2.1 + (off - x.1)).getD 0
  let bs := (RowHdr.sealed { h with poison := true } (r.read st b (off + 16) len)).bytes
  if (view st b).poison.contains (r.headAtom off) then b.push (.under at_ bs) else b.wrMem hub at_ bs 1

/-- A row that fails is poisoned as a row (R264): the atoms found bad take the poison pattern, and a new header with POISON is written,
with TOUCH and NONFINITE kept when the header's atom passed its code. -/
def poisonRow (st : Store) (b : Block) (hub : Nat) (r : RowRef) (bad : List Nat) (nonfinite : Bool) : Block :=
  let b := (bad.filter fun a => !(view st b).poison.contains a).foldl (fun b a => b.poisonAtoms hub (a * 64) 64 0) b
  let old := r.keptHdr st b
  r.markPoison st b hub 0 r.td.P { fmt := r.td.wfmt, touch := old.touch, nonfinite := old.nonfinite || nonfinite }

/-- The event of a row or record that fails its digest (R262, R264). -/
def Block.digestEvent (b : Block) (hub pa : Nat) : Block :=
  match b.locate pa with
  | some (ch, row) => b.event hub 0x01 none (pack [(0, 10, ch), (10, 1, 1), (16, 32, row * 256 + pa % 256), (48, 56, pa)])
  | none => b

/-- A class 0 master record that fails is poisoned as a row with its own header (R443), and its working row with it (Table 2-4). -/
def poisonMaster (st : Store) (b : Block) (hub : Nat) (r : RowRef) : Block :=
  if r.td.place ≠ 0 then poisonRow st b hub r [] false
  else
    let failed := (r.atoms r.td.auxOff r.td.M).any (view st b).poison.contains
    let old := hdrOf (r.read st b r.td.auxOff 16)
    let b := if failed || old.poison then b else (b.digestEvent hub (64 * r.headAtom r.td.auxOff)).pageError hub (64 * r.headAtom r.td.auxOff)
    let b := if old.poison && !failed then b else r.markPoison st b hub r.td.auxOff (r.td.M - 16) { fmt := r.td.mfmt }
    poisonRow st b hub r [] false

/-- Read a row as a row (R56, R262, R264, R270): `stack` tells that the bytes come from the stack, where `err` met them, and are checked.
The pages of atoms that fail become candidates and are listed (R266). -/
def readRow (st : Store) (b : Block) (hub : Nat) (r : RowRef) (stack : Bool) (err : ReadErr) : Block × RowIn :=
  if (b.chan r.ch).lost then (b, if r.td.hasSource then .wait else .poisoned)
  else
    let pa := (r.parts.headD (0, 0, 0)).2.1
    let atoms := r.atoms 0 r.td.rowBytes
    let met := fun (f : AtomErr → Bool) => if stack then (err.filter f).filterMap fun e => atoms[e.atom]? else []
    let held := atoms.filter (view st b).poison.contains
    let failed := (met (·.fails)).filter fun a => !held.contains a
    let b := ((met (·.corrects)).filter fun a => !held.contains a).foldl (fun b a => b.correctAtom hub a) b
    let bs := r.read st b 0 r.td.rowBytes
    let h := hdrOf bs
    if !failed.isEmpty then (failed.foldl (fun b a => b.pageError hub (64 * a)) (poisonRow st b hub r failed false), .poisoned)
    else if !held.isEmpty then (if h.poison && h.fmt == r.td.wfmt then b else poisonRow st b hub r [] false, .poisoned)
    else if hdrCheck bs r.td.wfmt ≠ OK then (b, .stop (hdrCheck bs r.td.wfmt))
    else if h.poison then (b, .poisoned)
    else if stack && rowDigest h (bs.drop 16) != h.digest then
      (((poisonRow st b hub r [] false).pageError hub pa).digestEvent hub pa, .poisoned)
    else (b, .row h (bs.drop 16))

/-! ## Commits -/

/-- Granules of the slot. -/
def Block.rowLocs (b : Block) (r : RowRef) : List (Nat × Nat) := b.locsOf r.parts r.td.S

/-- Whether a commit of the slot finds its lines' sets full (R117, R291). -/
def Block.rowBlocked (b : Block) (r : RowRef) : Bool := b.commitBlocked r.td.cpart (b.rowLocs r)

/-- Other slots that share a poisoned atom with a slot of less than 64 bytes: the commit of the slot writes the atom whole, and their rows
stay poisoned as rows, since their bytes are lost (R264; DEDUCED, log 61). -/
def RowRef.neighbours (r : RowRef) (st : Store) (b : Block) (b' : Block) : Block :=
  let pa := (r.parts.headD (0, 0, 0)).2.1
  let base := pa / 64 * 64
  if 64 ≤ r.td.S || !(view st b).poison.contains (pa / 64) then b'
  else
    (((List.range (64 / r.td.S)).map fun k => base + k * r.td.S).filter (· != pa)).foldl (fun b a =>
      b.push (.mem a (RowHdr.sealed { fmt := r.td.wfmt, poison := true } (List.replicate r.td.P 0)).bytes)) b'

/-- Commit a slot's bytes as one unit (R59): its poisoned atoms are written whole. The cache lines that the commit holds are returned. -/
def Block.commitRow (st : Store) (b : Block) (r : RowRef) (hub : Nat) (img : List Byte) (cls : Nat := 1) : Block × List (Nat × Nat) :=
  (r.neighbours st b (b.push (.heal (r.atoms 0 r.td.S)))).wrCommit hub r.td.cpart (b.rowLocs r) r.parts img cls

/-- An earlier operation that has not retired names the slot or one of its granules, or the scoreboard is full: the operation stalls
(R135, R137). -/
def Block.stalls (b : Block) (stack table lrow : Nat) (locs : List (Nat × Nat)) : Bool :=
  (b.die stack).board.any (fun e => e.table == table && e.lrow == lrow) || b.granStalls stack locs

/-- An operation on a row must wait: its row stalls, or its commit finds no way (R135, R137, R291). -/
def Block.rowStalls (b : Block) (r : RowRef) : Bool := b.stalls r.stack r.td.table r.lrow (b.rowLocs r) || b.rowBlocked r

/-- A row operation's commit, entered in the scoreboard: it has done its work, and SCOREBOARD_RETIRE retires it (R135). -/
def Block.commitEntry (st : Store) (b : Block) (r : RowRef) (hub : Nat) (img : List Byte) (cls : Nat := 1) : Block :=
  let (b, holds) := Block.commitRow st b r hub img cls
  b.enter r.stack { table := r.td.table, lrow := r.lrow, holds := holds, granules := b.rowLocs r }

/-! ## Frame errors (R296) -/

/-- An error counted on a frame: whether the frame has reached its limit, with two uncorrectable errors or eight corrections within 24
hours. -/
def Cache.countErr (c : Cache) (set w now : Nat) (bad : Bool) : Cache × Bool :=
  let k := set * 16 + w
  let (n, fixes) := c.errs.getD k (0, [])
  let n := n + b2n bad
  let fixes := if bad then fixes else now :: fixes.filter fun a => decide (now ≤ a + day)
  ({ c with errs := c.errs.put k (n, fixes) }, decide (2 ≤ n) || decide (8 ≤ fixes.length))

/-- The Almanac is published again when a whole way has been disabled (R296). -/
def Block.republished (b b' : Block) : Block :=
  if (b.hubs.vals.map fun h => h.slice.cache.disWays) == (b'.hubs.vals.map fun h => h.slice.cache.disWays)
      && (b.dies.vals.map fun d => d.buffer.disWays) == (b'.dies.vals.map fun d => d.buffer.disWays) then b' else b'.publish

/-- An error in a granule's line at a hub's slice or a row buffer; true when the line was lost and the read goes one level down. An
uncorrectable error in a tag or in tree bits drops every line of the set and counts on each of its frames; service copies are no lines
(DEDUCED, log 85). -/
def Block.lineErr (b : Block) (hub : Nat) (buffer : Option Nat) (ch row : Nat) (e : AtomErr) : Block × Bool :=
  let now := b.age hub
  let c := match buffer with | none => (b.hub hub).slice.cache | some s => (b.die s).buffer
  let setOf := match buffer with | none => cacheSet | some _ => bufferSet
  let set := setOf ch row
  let put := fun (c : Cache) => match buffer with
    | none => b.onSlice hub fun x => { x with cache := c }
    | some s => b.onDie s fun d => { d with buffer := c }
  let bad := decide (2 ≤ e.wrong) || e.place
  if e.wrong = 0 && !bad then (b, false)
  else if e.tag && bad then
    let lines := (c.set set).ways.vals.filter (!·.service)
    let c := lines.foldl (fun c l => c.drop setOf l.ch l.row) c
    let (c, full) := (List.range 16).foldl (fun (c, full) w => let (c, f) := Cache.countErr c set w now true; (c, if f then full ++ [w] else full)) (c, [])
    (b.republished (full.foldl (fun b w => b.disableFrame hub buffer set w 0) (put c)), true)
  else match (c.set set).find ch row with
    | none => (b, false)
    | some w =>
      let (c, full) := c.countErr set w now bad
      let c := if bad then c.drop setOf ch row else c
      (if full then b.republished ((put c).disableFrame hub buffer set w (b2n (!bad))) else put c, bad)

/-- The errors that a hit on a row's lines meets. -/
def Block.lineErrs (b : Block) (hub : Nat) (buffer : Option Nat) (locs : List (Nat × Nat)) (err : ReadErr) : Block × Bool :=
  err.foldl (fun (b, lost) e =>
    let x := locs.getD (e.atom / 4) (locs.headD (0, 0))
    let (b, l) := b.lineErr hub buffer x.1 x.2 e
    (b, lost || l)) (b, false)

/-- A read by a row program, REQUANT, re-derivation or scrub: the row buffer alone, filled on a miss with a stack read of the work's class
(Table 10-1, R245). A staged copy serves its own granules. True when the stack was read. -/
def Block.bufferRead (b : Block) (r : RowRef) (err : ReadErr) (cls : Nat := 1) : Block × Bool :=
  let s := r.stack
  let locs := b.rowLocs r
  if b.bufferHit s locs then
    let (b, lost) := (b.bufferTouch s locs).lineErrs (b.homeHub s) (some s) locs err
    (b, lost)
  else if locs.all fun x => b.staged x.1 x.2 then (b, false)
  else ((b.requestAtoms (cls == 0) { what := .work, prio := cls } (r.atoms 0 r.td.S)).bufferFill s r.td.cpart locs false, true)

/-- The read of a row must wait: its channel admits no request, and the row buffer does not hold it (R242). -/
def Block.readWaits (b : Block) (r : RowRef) : Bool := !b.admitsAt r.ch && !b.bufferHit r.stack (b.rowLocs r)

/-! ## Re-derivation (R264, Table 2-4, R349) -/

/-- The class 1 master record of a row, read through the home hub with the read right only: none while it cannot be reached, a wait
while the host link is not up. -/
def masterRead (st : Store) (b : Block) (td : TD) (hub lrow : Nat) : Block × Rd :=
  let va := td.masterVa lrow
  (pagesOf va td.M).foldl (fun (b, acc) v =>
    match acc with
    | .got old =>
      (match translateNow st b hub td.job { va := v, read := true, place := 2 } with
       | (.page pg, b) =>
         let lo := Nat.max va v
         if b.hostUp then (b, .got (old ++ rdHost st b (pg.addr + (lo - v)) (Nat.min (va + td.M) (v + 65536) - lo))) else (b, .wait)
       | (_, b) => (b, .stop MEMORY_POISONED))
    | x => (b, x)) (b, .got [])

/-- The master values of a row in class 0 or 1: none without a source. -/
def rowMaster (st : Store) (b : Block) (hub : Nat) (r : RowRef) : Block × Rd :=
  if r.td.place = 0 then
    let atoms := r.atoms r.td.auxOff r.td.M
    if atoms.any (view st b).poison.contains then (b, .stop MEMORY_POISONED) else (b, .got (r.read st b r.td.auxOff r.td.M))
  else if r.td.place = 1 then masterRead st b r.td hub r.lrow
  else (b, .stop MEMORY_POISONED)

/-- What re-deriving a poisoned row came to. -/
inductive Derived where
  | done
  | wait
  | noSource
  /-- The master record's header stops the operation (R56). -/
  | stop (status : Nat)
deriving DecidableEq, Repr

/-- Ask the twin for a row that cannot be re-derived here (R394): its table's repair fence will bring it. -/
def Block.askTwin (b : Block) (r : RowRef) : Block × Derived :=
  if r.td.mirror && b.eng.twin.state == .paired then
    (b.onEng fun e => { e with twin := { e.twin with
      mismatched := if e.twin.mismatched.any (fun m => m.1 == r.td.table && m.2.1 == r.lrow) then e.twin.mismatched
                    else e.twin.mismatched ++ [(r.td.table, r.lrow, 0)] } }, .wait)
  else (b, .noSource)

/-- A master record with the header that every commit of it writes (R443). -/
def TD.fixedMaster (t : TD) (rec_ : List Byte) : List Byte :=
  let rest := (rec_.take t.M).drop 16
  (masterHdr t.mfmt rest).bytes ++ rest

/-- Re-derive a poisoned row from its master, keeping TOUCH and writing the whole slot. Master values that are not finite leave it
poisoned with NONFINITE. -/
def rederiveRow (st : Store) (b : Block) (hub : Nat) (r : RowRef) (cls : Nat := 1) : Block × Derived :=
  if (b.chan r.ch).lost || b.rowStalls r || b.readWaits r then (b, .wait)
  else match rowMaster st (b.bufferRead r [] cls).1 hub r with
    | (b, .wait) => (b, .wait)
    | (b, .stop _) => b.askTwin r
    | (b, .got rec_) =>
      if hdrCheck rec_ r.td.mfmt ≠ OK then (b, .stop (hdrCheck rec_ r.td.mfmt))
      else if (hdrOf rec_).poison || (r.td.place == 0 && rowDigest (hdrOf rec_) (rec_.drop 16) != (hdrOf rec_).digest) then
        (if r.td.place = 0 then poisonMaster st b hub r else b).askTwin r
      else
        let m := masterOf r.td rec_
        let old := r.keptHdr st b
        if !allFinite m.vals then ((if old.nonfinite then b else poisonRow st b hub r [] true), .noSource)
        else
          let e := encodeRow r.td.wfmt r.td.zpmode m.vals
          let row : WorkRow :=
            { hdr := RowHdr.sealed { scale := e.scale, zp := e.zp, touch := old.touch, fmt := r.td.wfmt, nonfinite := old.nonfinite, saturated := e.saturated } e.payload
              payload := e.payload }
          let b := Block.commitEntry st b r hub (slotImage r.td row (if r.td.place = 0 then r.td.fixedMaster rec_ else [])) cls
          (b.journal r.td r.stack r.lrow 0, .done)

/-- Read a row, re-deriving it when it is poisoned and has a source that can be reached (R76, R125). -/
def readRowHealed (st : Store) (b : Block) (hub : Nat) (r : RowRef) (stack : Bool) (err : ReadErr) (cls : Nat := 1) : Block × RowIn :=
  match readRow st b hub r stack err with
  | (b, .poisoned) =>
    if !r.td.hasSource then (b, .poisoned)
    else match rederiveRow st b hub r cls with
      | (b, .done) => readRow st b hub r false []
      | (b, .wait) => (b, .wait)
      | (b, .noSource) => (b, .poisoned)
      | (b, .stop s) => (b, .stop s)
  | x => x

/-! ## The two levels (Table 10-1) -/

/-- The granule that follows a row in physical address, inside its domain (R294). -/
def Block.nextGranule (b : Block) (r : RowRef) : Option (Nat × Nat) :=
  match r.parts.getLast? with
  | none => none
  | some (_, a, m) =>
    let g := (a + m - 1) / 256 * 256 + 256
    if domainOf g = domainOf a && b.eng.layout.inCap g 256 then b.locate g else none

/-- A prefetch read into the row buffer, and on to the home hub when `up`: the first class that Snowplow holds (R213, R245, R294). -/
def Block.prefetchRead (b : Block) (part : Nat) (locs : List (Nat × Nat)) (toward up preload : Bool) : Block :=
  let w : ReqFor := .fill part locs toward up preload
  if locs.any fun x => (b.chan x.1).holds w then b
  else (pageRuns (locs.flatMap fun x => List.replicate 4 x)).foldl (fun b (ch, row, n) => b.request ch false { what := w, prio := 3, row := row, atoms := n }) b

/-- A wide-path fetch of a row: the row cache, then the row buffer, then the stack, with Mogul's count, admission and next-line
prefetch. The answer tells whether the stack was read; none while a held line makes the hit wait. -/
def Block.wideFetch (b : Block) (r : RowRef) (err : ReadErr) : Block × Option (Bool × ReadErr) :=
  let s := r.stack
  let locs := b.rowLocs r
  let count := fun (b : Block) => b.onGroupSlice s fun x => x.mogulCount r.td.table r.lrow
  match b.cacheHit s locs with
  | .wait => (b, none)
  | .hit =>
    let (b, lost) := (count (b.cacheTouch (s / 3) locs)).lineErrs (s / 3) none locs err
    if lost then
      let (b, stack) := b.bufferRead r []
      (b, some (stack, []))
    else (b, some (false, []))
  | .miss =>
    let b := count b
    let hit := b.bufferHit s locs
    let (b, stack) := if hit then b.bufferRead r err else (b.bufferFill s r.td.cpart locs false, !(locs.all fun x => b.staged x.1 x.2))
    let b := if !hit && (b.part r.td.cpart).nlp then
        (match b.nextGranule r with
         | some (ch, row) => if b.bufferHit (ch / 64) [(ch, row)] then b else b.prefetchRead r.td.cpart [(ch, row)] true false false
         | none => b)
      else b
    let b := match b.sliceOf s with
      | some h => if b.admits h r.td.cpart r.td.table r.lrow then b.startFill h r.td.cpart locs false else b
      | none => b
    (b, some (stack, if hit then [] else err))

end Sys2Proof.Machine
end

