-- ==== Sys2Proof/Machine/Indices.lean ====
section
/-! DEFINITION. Index lists, their classes, bag lengths and weights, and index transforms (R70 to R74, R100, R185). -/
namespace Sys2Proof.Machine

/-- Index size b in bytes (Table 3-3). -/
def idxSize (idxw : Nat) : Nat := if idxw = 0 then 4 else if idxw = 1 then 8 else if idxw = 2 then 3 else 6
/-- Padding value of an index form (Table 3-3). -/
def idxPad (idxw : Nat) : Nat := 2 ^ (8 * idxSize idxw) - 1

/-- Cut a number into n fields of w bits. -/
def fieldsOf (w n x : Nat) : List Nat := (List.range n).map fun k => bits x (w * k) w

/-- Classes of an index (Table 3-6). -/
inductive Idx where
  | padding
  | invalid
  | notHere
  | held (lrow : Nat)
deriving DecidableEq, Repr

/-- R74; none is an index that a transform made padding (R185). -/
def classify (td : TD) (idxw : Nat) : Option Nat → Idx
  | none => .padding
  | some v =>
    if v = idxPad idxw then .padding
    else match td.shard v with
      | .invalid => .invalid
      | .notHere => .notHere
      | .local l => .held l

/-- The ring's index transform on raw indices: raw padding stays padding and does not run it (R184, R185). -/
def Block.transform (b : Block) (r : Ring) (td : TD) (idxw : Nat) (raws : List Nat) : List (Option Nat) :=
  if r.xprog = 0 then raws.map some
  else match b.progOf r.job r.xprog with
    | none => raws.map some
    | some pr =>
      let live := raws.filter (· != idxPad idxw)
      let outs := runTransform td.width td.table r.xparam pr.code live
      (raws.foldl (fun (acc, rest) x =>
        if x = idxPad idxw then (acc ++ [some x], rest)
        else match rest with
          | o :: os => (acc ++ [o], os)
          | [] => (acc ++ [none], [])) (([] : List (Option Nat)), outs)).1

/-- A transform task of slot p has not ended. -/
def Block.transformStands (b : Block) (rid p : Nat) : Bool :=
  b.hubs.vals.any fun h => (h.sched.ready ++ h.sched.running).any fun t => t.ring == rid && t.p == p && t.kind == .transform

/-- The unit's indices have gone to the transform. -/
def WorkData.transforming : WorkData → WorkData
  | .lookup l => .lookup { l with transformed := true }
  | .update u => .update { u with transformed := true }
  | d => d

def WorkData.transformed : WorkData → Bool
  | .lookup l => l.transformed
  | .update u => u.transformed
  | _ => true

/-- Run slot p's raw indices through the ring's transform: one task for each group of up to 32 indices on the clusters of the stream's
hub, and nothing more until they have ended (R156, R157, R227). -/
def Block.transformReady (b : Block) (r : Ring) (rid p : Nat) (td : TD) (idxw : Nat) (raws : List Nat) : Block × Bool :=
  match (if r.xprog = 0 then none else b.progOf r.job r.xprog), b.work? rid p with
  | some pr, some w =>
    if w.data.transformed then (b, !b.transformStands rid p)
    else
      let n := (raws.countP (· != idxPad idxw) + 31) / 32
      let steps := pr.boundS + pr.boundP * beatsOf td.width
      let b := (List.range n).foldl (fun b _ => b.addTask (ringHub rid) rid p .transform none (steps * 32)) b
      (b.onWork rid p fun w => { w with data := w.data.transforming }, n == 0)
  | _, _ => (b, true)

/-- The bag number that R100 gives when lengths fail: the lowest bag longer than 2^24 or at which the sum first passes the total, or the
last bag when the sum falls short. -/
def badLength (total : Nat) : List Nat → Nat → Nat → Option Nat
  | [], j, sum => if sum < total then some (j - 1) else none
  | l :: ls, j, sum => if 2 ^ 24 < l || total < sum + l then some j else badLength total ls (j + 1) (sum + l)

/-- Bags and indices of the tile that begins with these bags (R82). -/
def tileOf : List Nat → Nat → Nat → Nat × Nat
  | [], n, c => (n, c)
  | l :: ls, n, c => if n != 0 && decide (2 ^ 24 < c + l) then (n, c) else tileOf ls (n + 1) (c + l)

/-- Weight k of a list: binary32, or bfloat16 widened exactly (R76). -/
def weightsOf (bf : Bool) (n : Nat) (bs : List Byte) : List Word :=
  if bf then (fieldsOf 16 n (ofBytes bs)).map widenBf else words32 n bs

/-- Domain that a table's working region needs (R254). -/
def TD.domain (t : TD) : Nat := t.chclass + 1

/-- What the translation of a row's slot needs (R305, Table 11-5). -/
def TD.rowNeed (t : TD) (read update : Bool) : Need := { read := read, update := update, place := 1, domain := t.domain }

/-- A row's slot through the pages of a unit. -/
def Block.rowVia (b : Block) (rid p : Nat) (td : TD) (lrow : Nat) : RowRef × Nat :=
  let pages := b.unitPages rid p
  match partsVia (fun v => (pages.find? fun pg => pg.vpn * 65536 == v && pg.target == 0).map (·.addr)) (td.slotVa lrow) td.S with
  | some parts => b.rowRef td lrow parts
  | none => ({ td := td, lrow := lrow }, MEMORY_LOST)

end Sys2Proof.Machine
end

