-- ==== Sys2Proof/Machine/Lookup.lean ====
section
/-! DEFINITION. Lookups: LOOKUP_POOL, LOOKUP_GATHER, their tiles, ROW_FETCH and PARTIAL_COMBINE (R69 to R96, R150, R151, R209, R210). -/
namespace Sys2Proof.Machine

/-! ## The operand (Tables 3-1, 3-2) -/

/-- The lookup operand's fields. -/
structure LOp where
  gather : Bool := false
  ostride : Nat := 0
  nidx : Nat := 0
  bags : Nat := 1
  table : Nat := 0
  mode : Nat := 0
  order : Nat := 0
  idxw : Nat := 0
  wbf : Bool := false
  invpol : Bool := false
  emptyMax : Bool := false
  inl : Bool := false
  uniform : Bool := false
  outBase : Nat := 0
  wtBase : Nat := 0
  lBase : Nat := 0
  outfmt : Nat := 0
  iBase : Nat := 0
deriving DecidableEq, Repr, Inhabited

def lop (x : Nat) : LOp :=
  { gather := bits x 8 8 == 0x02, ostride := bits x 225 24, nidx := bits x 192 33, bags := bits x 160 32 + 1, table := bits x 140 20
    mode := bits x 137 3, order := bits x 135 2, idxw := bits x 133 2, wbf := bit x 132, invpol := bit x 131, emptyMax := bit x 130
    inl := bit x 129, uniform := bit x 128, outBase := bits x 448 56, wtBase := bits x 384 56, lBase := bits x 320 56
    outfmt := bits x 312 8, iBase := bits x 256 56 }

/-- Reserved fields of the operand. -/
def lopReserved : List (Nat × Nat) := [(504, 8), (440, 8), (376, 8), (249, 7)]

/-- Bytes of one output element. -/
def LOp.e (o : LOp) : Nat := if o.outfmt = 0x01 then 4 else 2
def LOp.outRow (o : LOp) (w : Nat) : Nat := w * o.e
def LOp.wtSize (o : LOp) : Nat := if o.wbf then 2 else 4
/-- Weights lie in the inline area (R71). -/
def LOp.inlWeights (o : LOp) : Bool := o.inl && o.mode == 2 && o.wtBase == 0
def LOp.idxEnd (o : LOp) : Nat := o.nidx * idxSize o.idxw
def LOp.wtStart (o : LOp) : Nat := roundUp o.idxEnd 4
def LOp.inlEnd (o : LOp) : Nat := if o.inlWeights then o.wtStart + o.nidx * o.wtSize else o.idxEnd
/-- Outputs of the slot. -/
def LOp.outs (o : LOp) : Nat := if o.gather then o.nidx else o.bags
/-- Strict order: the hub reduces each bag's rows as one list; MAX always runs as ORDER 0 (R89). -/
def LOp.strict (o : LOp) : Bool := o.order != 0 && o.mode != 3 && !o.gather
def LOp.figures (o : LOp) : Bool := o.order == 2

/-- Stage 3 of R17 on the operand (R72). -/
def LOp.unknown (o : LOp) : Bool := decide (3 < o.mode) || o.order == 3 || !fmtKnown o.outfmt

/-- Some array or the output span ends beyond 2^56, or is misaligned (order 9 of Table 3-5). The manual does not say where the output span
ends: here at the last byte of the last output, and a gather of no index has no span (DESIGN CHOICE, log 93). -/
def LOp.spanBad (o : LOp) (w : Nat) : Bool :=
  o.iBase % 4 != 0 || o.lBase % 4 != 0 || o.wtBase % 4 != 0 || o.outBase % o.e != 0 || o.ostride % o.e != 0 || decide (o.ostride < o.outRow w)
  || decide (2 ^ 56 < o.iBase + o.idxEnd) || decide (2 ^ 56 < o.lBase + 4 * o.bags) || decide (2 ^ 56 < o.wtBase + o.nidx * o.wtSize)
  || (o.outs != 0 && decide (2 ^ 56 < o.outBase + (o.outs - 1) * o.ostride + o.outRow w))

/-- Reserved inline bytes (R71, order 10). -/
def LOp.inlineReserved (o : LOp) : List (Nat × Nat) :=
  if !o.inl then [inlineArea]
  else (if o.inlWeights then [(512 + 8 * o.idxEnd, 8 * (o.wtStart - o.idxEnd))] else []) ++ [(512 + 8 * o.inlEnd, 8 * (192 - o.inlEnd))]

/-- Table 3-5. -/
def Block.lookupCheck (b : Block) (job x : Nat) : Nat :=
  let o := lop x
  match b.tableUse job o.table with
  | none => TABLE_UNDEFINED
  | some t =>
    let td := tdOf t.desc
    firstFail
      [ (o.order == 2 && !b.feat featFIGURES, FEATURE_ABSENT)
      , (decide (3 < o.outfmt), LOOKUP_INVALID)
      , ((o.gather && (o.mode == 1 || o.mode == 3 || o.order == 2)) || (o.order == 2 && (o.mode == 3 || !fmtGen1 td.wfmt)), LOOKUP_INVALID)
      , ((o.mode == 2 && !o.inl && o.wtBase == 0) || (o.mode != 2 && o.wtBase != 0), LOOKUP_INVALID)
      , (if o.inl then o.iBase != 0 || decide (192 < o.inlEnd) else o.iBase == 0, LOOKUP_INVALID)
      , (if o.uniform then o.lBase != 0 || o.nidx % o.bags != 0 || decide (2 ^ 24 < o.nidx / o.bags) else o.lBase == 0, LOOKUP_INVALID)
      , (decide (2 ^ 32 < o.nidx), LOOKUP_INVALID)
      , (o.spanBad td.width, LOOKUP_INVALID)
      , (rsvSet x o.inlineReserved, RESERVED_NONZERO) ]

/-- All checks of a lookup slot at pickup. A slot whose OPCODE is undefined has no operand to speak of: its operand and inline bytes are under
no reserved list, and it ends with UNKNOWN_ENCODING (DESIGN CHOICE, log 94). -/
def Block.lookupStatus (b : Block) (r : Ring) (x : Nat) : Nat :=
  thenCheck (headCheck b.eng.minor r.cls x (if opcodes.contains (bits x 8 8) then lopReserved else []) (lop x).unknown) fun _ =>
    b.lookupCheck r.job x

/-! ## Pickup and merging (R209) -/

/-- What a lookup slot starts with. -/
def Block.startLookup (b : Block) (rid p x : Nat) : Block :=
  let desc := (b.tables.getD (lop x).table {}).desc
  b.onWork rid p fun w => { w with data := .lookup { desc := desc } }

/-- Header and operand without what may differ inside a group: SSEQ, FLAGADDR, NIDX and OUTBASE. Inline bytes belong to neither and are
not compared (DEDUCED, log 34). -/
def groupKey (x : Nat) : Nat := setBits (setBits (setBits (setBits (x % 2 ^ 512) 32 32 0) 72 56 0) 192 33 0) 448 56 0

/-- Whether the bytes x of slot q may join the group that slot p leads. -/
def Block.joins (b : Block) (r : Ring) (first x q : Nat) : Bool :=
  let o := lop x
  o.inl && o.uniform && o.bags == 1 && groupKey x == groupKey first && !bit x 20 && !bit x 19 && bits x 32 32 == q % 2 ^ 32
  && b.lookupStatus r x == OK

/-- The slots after p that the group takes, with as much fuel as slots (R209). -/
def takeGroup (st : Store) (rid p first : Nat) : Nat → Nat → Block → Block
  | 0, _, b => b
  | fuel + 1, q, b =>
    match b.rings.get? rid with
    | none => b
    | some r =>
      if r.tail ≤ q || !r.recFree q then b
      else match slotFetch st b rid r q with
        | (b, none) => b
        | (b, some x) =>
          if !b.joins r first x q then b
          else
            let b := ((b.takeSlot rid q x (some p) false).startLookup rid q x)
            takeGroup st rid p first fuel (q + 1) (b.ensureRec rid q).1

/-- A lookup slot picked up: its checks, or its start, and the slots merged with it. -/
def lookupStart (st : Store) (b : Block) (r : Ring) (p x : Nat) (rid : Nat) : Block :=
  let s := b.lookupStatus r x
  if s ≠ OK then b.endSlot rid p s 0 []
  else
    let b := b.startLookup rid p x
    let o := lop x
    if r.merge && r.retry.isEmpty && decide (r.head = p) && o.inl && o.uniform && o.bags == 1 then
      let n := b.works.length
      let b := takeGroup st rid p x 15 (p + 1) b
      if b.works.length = n then b else (b.onWork rid p fun w => { w with group := some p }).statusWrite rid
    else b

/-- A LOOKUP_POOL slot, or one whose opcode is undefined, which ends with UNKNOWN_ENCODING. -/
def execLookupPool (ring : Nat) (s : State) : Result :=
  run (pickup (fun x => bits x 8 8 == 0x01 || !opcodes.contains (bits x 8 8)) (fun st b r p x => lookupStart st b r p x ring) ring) s

def execLookupGather (ring : Nat) (s : State) : Result :=
  run (pickup (fun x => bits x 8 8 == 0x02) (fun st b r p x => lookupStart st b r p x ring) ring) s

/-! ## Tiles (R73, R75, R82, R84) -/

/-- A tile found and translated. -/
structure Tile where
  p : Nat := 0
  bags : List (Nat × Nat) := []
  first : Nat := 0
  classes : List Idx := []
  weights : List Word := []
deriving Inhabited

/-- Bag lengths from `bag0` on: as many of a uniform slot as one tile holds, or the whole array's rest. -/
def LOp.lengths (o : LOp) (lens : List Nat) (bag0 : Nat) : List Nat :=
  if o.uniform then
    let l := o.nidx / o.bags
    List.replicate (Nat.min (o.bags - bag0) (if l = 0 then o.bags else Nat.max 1 (2 ^ 24 / l))) l
  else lens.drop bag0

/-- Needs of index positions [k, k + n). -/
def LOp.idxNeeds (o : LOp) (k n : Nat) : List Need :=
  if o.inl then [] else needsOf (o.iBase + k * idxSize o.idxw) (n * idxSize o.idxw) { read := true }
def LOp.wtNeeds (o : LOp) (k n : Nat) : List Need :=
  if o.mode != 2 || o.inlWeights then [] else needsOf (o.wtBase + k * o.wtSize) (n * o.wtSize) { read := true }

/-- Read and classify index positions [k, k + n), from memory as the tile finds it, also where an earlier output of the slot has been written
over them, a case whose outputs R96 leaves undefined (DESIGN CHOICE, log 95); kept says that the transform has run on them for the check of INVPOL 1. -/
def readIndices (st : Store) (b : Block) (rid p : Nat) (r : Ring) (td : TD) (o : LOp) (x k n : Nat) (counters : List Nat) (kept : Bool)
    (next : Block → List Idx → Block × Option Tile) : Block × Option Tile :=
  let sz := idxSize o.idxw
  let give := fun (b : Block) (raw : Nat) =>
    let raws := fieldsOf (8 * sz) n raw
    match (if kept then (b, true) else b.transformReady r rid p td o.idxw raws) with
    | (b, false) => (b, none)
    | (b, true) => next b ((b.transform r td o.idxw raws).map (classify td o.idxw))
  if o.inl then give b (x >>> (512 + 8 * sz * k))
  else match readVa st b rid p (o.iBase + k * sz) (n * sz) with
    | (b, .got bs) => give b (ofBytes bs)
    | (b, .wait) => (b, none)
    | (b, .stop s) => (b.endSlot rid p s 0 counters, none)

/-- Offsets of the outputs that a tile writes. -/
def LOp.outIndexes (o : LOp) (bags : List (Nat × Nat)) (first : Nat) (classes : List Idx) : List Nat :=
  if o.gather then classes.zipIdx.filterMap fun (c, i) => match c with | .notHere => none | _ => some (first + i)
  else bags.map (·.1)

/-- Bags of a tile as (number, length). -/
def bagsFrom (bag0 : Nat) (lens : List Nat) : List (Nat × Nat) := lens.zipIdx.map fun (l, i) => (bag0 + i, l)

/-- A row that neither level holds is asked of its channel, once for the slots of a group: on the narrow path for a real-time slot
(R210, R255). -/
def Block.askRow (b : Block) (rid : Nat) (w : Work) (r : RowRef) : Block :=
  let locs := b.rowLocs r
  let hit := w.cls != 0 && ((match b.cacheHit r.stack locs with | .miss => false | _ => true) || b.bufferHit r.stack locs)
  if hit || b.rowQueued r.ch rid w.lead r.lrow || (b.chan r.ch).lost then b
  else b.requestAtoms (w.cls == 0) { what := .row rid w.lead r.lrow, prio := w.cls } (r.atoms 0 r.td.rowBytes)

/-- While some page of a tile is awaited or absent, the tile reads the rows that it reaches through the pages it holds (R84). -/
def Block.askEarly (b : Block) (rid p : Nat) (td : TD) (rows : List Nat) : Block :=
  rows.foldl (fun b lr =>
    match b.work? rid p with
    | some w =>
      (match w.data, b.rowVia rid p td lr with
       | .lookup l, (r, st) =>
         if st ≠ OK || l.early.contains lr then b
         else (b.askRow rid w r).onWork rid p fun w => { w with data := .lookup { l with early := l.early ++ [lr] } }
       | _, _ => b)
    | none => b) b

/-- The tile's rows, weights and outputs are translated; none while something is not. -/
def tileRest (st : Store) (b : Block) (rid p : Nat) (td : TD) (o : LOp) (w : Work) (bags : List (Nat × Nat)) (first n : Nat)
    (classes : List Idx) : Block × Option Tile :=
  let rows := distinct (classes.filterMap fun c => match c with | .held l => some l | _ => none)
  let rowNeeds := rows.flatMap fun l => needsOf (td.slotVa l) td.S (td.rowNeed true false)
  let outNeeds := (o.outIndexes bags first classes).flatMap fun j => needsOf (o.outBase + j * o.ostride) (o.outRow td.width) { write := true }
  match b.ensure rid p (o.wtNeeds first n ++ rowNeeds ++ outNeeds) with
  | (b, false) => (b.askEarly rid p td rows, none)
  | (b, true) =>
    let t : Tile := { p := p, bags := bags, first := first, classes := classes }
    if o.mode ≠ 2 then (b, some t)
    else if o.inlWeights then
      (b, some { t with weights := weightsOf o.wbf n (toBytes (n * o.wtSize) (w.x >>> (512 + 8 * (o.wtStart + first * o.wtSize)))) })
    else match readVa st b rid p (o.wtBase + first * o.wtSize) (n * o.wtSize) with
      | (b, .got bs) => (b, some { t with weights := weightsOf o.wbf n bs })
      | (b, .wait) => (b, none)
      | (b, .stop s) => (b.endSlot rid p s 0 w.counters, none)

/-- With INVPOL 1 every index is read before any output is written (R75). -/
def invCheck (st : Store) (b : Block) (rid p : Nat) (r : Ring) (td : TD) (o : LOp) (w : Work) (l : Lookup)
    (next : Block → Block × Option Tile) : Block × Option Tile :=
  if !o.invpol || l.checked then next b
  else match b.ensure rid p (o.idxNeeds 0 o.nidx) with
    | (b, false) => (b, none)
    | (b, true) =>
      readIndices st b rid p r td o w.x 0 o.nidx w.counters false fun b cs =>
        match cs.findIdx? (· == .invalid) with
        | some k => (b.endSlot rid p INDEX_INVALID k w.counters, none)
        | none => next b

/-- The whole length array is read before the first tile (R73). -/
def withLengths (st : Store) (b : Block) (rid p : Nat) (o : LOp) (w : Work) (l : Lookup)
    (next : Block → List Nat → Block × Option Tile) : Block × Option Tile :=
  if o.uniform then next b []
  else match b.ensure rid p (needsOf o.lBase (4 * o.bags) { read := true }) with
    | (b, false) => (b, none)
    | (b, true) =>
      match readVa st b rid p o.lBase (4 * o.bags) with
      | (b, .wait) => (b, none)
      | (b, .stop s) => (b.endSlot rid p s 0 w.counters, none)
      | (b, .got bs) =>
        let lens := fieldsOf 32 o.bags (ofBytes bs)
        match (if l.checked then none else badLength o.nidx lens 0 0) with
        | some j => (b.endSlot rid p LOOKUP_INVALID j w.counters, none)
        | none => next b lens

/-- Find and translate slot p's next tile. The lengths are checked before the indices, so that a slot which fails both R73 and R75 ends with
LOOKUP_INVALID; the manual gives the two no order (DESIGN CHOICE, log 96). -/
def planTile (st : Store) (b : Block) (rid p : Nat) : Block × Option Tile :=
  match b.rings.get? rid, b.work? rid p with
  | some r, some w =>
    match w.data with
    | .lookup l =>
      let o := lop w.x
      let td := tdOf l.desc
      withLengths st b rid p o w l fun b lens =>
        invCheck st b rid p r td o w l fun b =>
          let ls := o.lengths lens l.bag0
          let (nb, n) := tileOf ls 0 0
          let bags := bagsFrom l.bag0 (ls.take nb)
          match b.ensure rid p (o.idxNeeds l.pos0 n) with
          | (b, false) => (b, none)
          | (b, true) => readIndices st b rid p r td o w.x l.pos0 n w.counters (o.invpol && l.checked) fun b cs => tileRest st b rid p td o w bags l.pos0 n cs
    | _ => (b, none)
  | _, _ => (b, none)

/-! ## Outputs (R78, R80, R81) -/

/-- Write one output vector; the status of a write that fails stays with the slot (R264, R270), which finishes and counts this tile and runs its
later tiles before it ends: the manual does not say whether later tiles run (DESIGN CHOICE, log 97). -/
def putOutput (st : Store) (b : Block) (rid p : Nat) (o : LOp) (j : Nat) (v : List Word) : Block :=
  let (b, s) := b.outWrite st rid p (o.outBase + j * o.ostride) (v.flatMap (outBytes o.outfmt))
  b.onWork rid p fun w => if w.status = OK then { w with status := s } else w

/-- Counters of Table 3-7 with one position raised. -/
def count1 (k n : Nat) : List Nat := (List.range 9).map fun i => if i = k then n else 0
def NFOUT : Nat := 7

def nfOut (o : LOp) (v : List Word) : Nat := v.countP (outNonFinite o.outfmt)

/-- The running tile of a slot has ended when its rows are read and its bags finished; the next one begins, or the slot's work ends, with the
status of an output write that failed (log 97). -/
def tileEnd (b : Block) (rid p : Nat) : Block :=
  match b.work? rid p with
  | none => b
  | some w =>
    match w.data with
    | .lookup l =>
      let o := lop w.x
      if !l.running || !l.fetches.all (·.got) || !l.bags.all (·.finished) then b
      else
        let bad := fun (t : Term) => l.fetches.any fun f => f.lrow == t.lrow && f.poisoned
        let terms := l.bags.flatMap (·.terms)
        let own := [terms.countP (!bad ·), l.fetches.length, 0, 0, 0, terms.countP bad, l.fetches.countP (·.nonfinite)]
        let counters := addCounts w.counters (addCounts l.tileCounts own)
        if o.bags ≤ l.bag1 then b.endSlot rid p w.status 0 counters
        else b.onWork rid p fun w =>
          { w with counters := counters, tile := w.tile + 1, pages := []
                   data := .lookup { bag0 := l.bag1, pos0 := l.pos1, bag1 := l.bag1, pos1 := l.pos1, desc := l.desc, checked := true } }
    | _ => b

/-- A bag whose partials are combined: its result is written (R78, R80). -/
def writeBag (st : Store) (b : Block) (rid p : Nat) (o : LOp) (td : TD) (bag : Bag) (acc : Option (List Word)) : Block :=
  let v := bagResult o.mode o.emptyMax td.width bag.count acc
  let b := putOutput st b rid p o bag.j v
  b.onWork rid p fun w =>
    match w.data with
    | .lookup l =>
      { w with data := .lookup { l with
          tileCounts := addCounts l.tileCounts (addCounts (count1 NFOUT (nfOut o v)) (count1 8 (b2n acc.isNone)))
          bags := l.bags.map fun x => if x.j = bag.j then { x with finished := true, left := [], acc := acc } else x } }
    | _ => w

/-- One gathered output (R81). -/
def writeGather (st : Store) (b : Block) (rid p : Nat) (o : LOp) (k : Nat) (v : List Word) : Block :=
  let b := putOutput st b rid p o k v
  b.onWork rid p fun w =>
    match w.data with
    | .lookup l => { w with data := .lookup { l with tileCounts := addCounts l.tileCounts (count1 NFOUT (nfOut o v)) } }
    | _ => w

/-! ## TILE_START of a lookup -/

/-- Terms of the tile's positions, as (bag number, term). -/
def tileTerms (t : Tile) (o : LOp) : List (Nat × Term) :=
  let owner := t.bags.flatMap fun (j, l) => List.replicate l j
  (t.classes.zip owner).zipIdx.filterMap fun ((c, j), i) =>
    match c with
    | .held l => some (if o.gather then 0 else j, { k := t.first + i, lrow := l, weight := t.weights.getD i 0 })
    | _ => none

/-- Positions of each bag that count in the MEAN divisor. -/
def tileDivisor (t : Tile) (j : Nat) : Nat :=
  let owner := t.bags.flatMap fun (j, l) => List.replicate l j
  (t.classes.zip owner).countP fun (c, k) => k == j && (match c with | .notHere => true | .held _ => true | _ => false)

/-- Start a translated tile: fetches for its distinct rows, the bags' term lists, the outputs that need no row. -/
def startTile (st : Store) (b : Block) (rid : Nat) (t : Tile) : Block :=
  match b.work? rid t.p with
  | none => b
  | some w =>
    match w.data with
    | .lookup l =>
      let o := lop w.x
      let td := tdOf l.desc
      let terms := tileTerms t o
      let rows := distinct (terms.map (·.2.lrow))
      let refs := rows.map fun lr => b.rowVia rid t.p td lr
      match refs.find? fun (_, s) => s != OK with
      | some (_, s) => b.endSlot rid t.p s 0 w.counters
      | none =>
        let fetches := refs.map fun (r, _) => ({ lrow := r.lrow, pieces := r.parts, stack := r.stack, ch := r.ch } : Fetch)
        let stackOf := fun (lr : Nat) => ((fetches.find? (·.lrow == lr)).map (·.stack)).getD 0
        let mk := fun (j : Nat) =>
          let ts := (terms.filter (·.1 == j)).map (·.2)
          let stks := (List.range 12).filter fun s => ts.any fun x => stackOf x.lrow == s
          ({ j := j, count := tileDivisor t j, terms := ts, left := if o.strict then stks.take 1 else stks, finished := o.gather && ts.isEmpty } : Bag)
        let bags := if o.gather then [mk 0] else t.bags.map fun (j, _) => mk j
        let cls := fun (f : Idx → Bool) => t.classes.countP f
        let counts := [0, 0, cls (· == .padding), cls (· == .invalid), cls (· == .notHere)]
        let nb := t.bags.length
        let b := b.onWork rid t.p fun w =>
          { w with pages := b.unitPages rid t.p
                   data := .lookup { l with running := true, early := [], checked := true, fetches := fetches, bags := bags, tileCounts := counts
                                            bag1 := l.bag0 + nb, pos1 := l.pos0 + t.classes.length } }
        let zero := posZeros td.width
        let b := refs.foldl (fun b (r, _) => if l.early.contains r.lrow then b else b.askRow rid w r) b
        let b := if o.gather then
            t.classes.zipIdx.foldl (fun b (c, i) =>
              match c with
              | .padding => writeGather st b rid t.p o (t.first + i) zero
              | .invalid => writeGather st b rid t.p o (t.first + i) zero
              | _ => b) b
          else (bags.filter (·.terms.isEmpty)).foldl (fun b bag => writeBag st b rid t.p o td bag none) b
        tileEnd b rid t.p
    | _ => b

/-- The members of the group that slot p leads, in slot order. -/
def Block.members (b : Block) (rid p : Nat) : List Nat :=
  ((b.ringWorks rid).filter fun w => (w.p == p || w.group == some p) && w.phase == .active).map (·.p)

/-- Prefetch walks for pages that a ring's slots will need and that its hub has not cached (R310). -/
def Block.walkAhead (b : Block) (h job : Nat) (needs : List Need) : Block :=
  needs.foldl (fun b n => if ((b.hub h).xlat.find job n.va).isSome then b else b.startWalk h .ahead job n false) b

/-- Bytes that a hub can read through translations it has cached, with no effect on anything (R211). -/
def peek (st : Store) (b : Block) (h job va n : Nat) : Option (List Byte) :=
  (pagesOf va n).foldl (fun acc v =>
    match acc, (b.hub h).xlat.find job v with
    | some bs, some (_, _, e) =>
      let (a, _, m) := (e.page v).span va n
      if e.target = 0 && rdStatus st b a m = OK then some (bs ++ rdMem st b a m)
      else if e.target = 1 && b.hostUp && !hostBad st b a m then some (bs ++ rdHost st b a m) else none
    | _, _ => none) (some [])

/-- Pages of the rows that raw indices name; a transform's results are not known ahead. -/
def rowsAhead (r : Ring) (td : TD) (idxw n raw : Nat) : List Need :=
  if r.xprog ≠ 0 then []
  else (distinct ((fieldsOf (8 * idxSize idxw) n raw).filterMap fun v => match classify td idxw (some v) with | .held l => some l | _ => none)).flatMap
    fun l => needsOf (td.slotVa l) td.S (td.rowNeed true false)

/-- Walk ahead for pages of the next tile, which prefetch walks translate: its indices, weights, rows and outputs (R310). -/
def aheadTile (st : Store) (b : Block) (rid p : Nat) : Block :=
  match b.rings.get? rid, b.work? rid p with
  | some r, some w =>
    match w.data with
    | .lookup l =>
      let o := lop w.x
      let td := tdOf l.desc
      let h := ringHub rid
      if !l.running || o.bags ≤ l.bag1 then b
      else
        let n := Nat.min (l.pos1 - l.pos0) (o.nidx - l.pos1)
        let sz := idxSize o.idxw
        let outs := if o.gather then needsOf (o.outBase + l.pos1 * o.ostride) (n * o.ostride) { write := true }
          else needsOf (o.outBase + l.bag1 * o.ostride) (Nat.min (o.bags - l.bag1) (l.bag1 - l.bag0) * o.ostride) { write := true }
        let rows := match (if o.inl then some (toBytes (n * sz) (w.x >>> (512 + 8 * sz * l.pos1))) else peek st b h r.job (o.iBase + l.pos1 * sz) (n * sz)) with
          | some bs => rowsAhead r td o.idxw n (ofBytes bs)
          | none => []
        b.walkAhead h r.job (o.idxNeeds l.pos1 n ++ o.wtNeeds l.pos1 n ++ rows ++ outs)
    | _ => b
  | _, _ => b

/-- TILE_START of a lookup: the unit's slots are translated in full, then all begin. -/
def startLookupTile (st : Store) (b : Block) (rid p : Nat) : Block :=
  let working := fun (q : Nat) => match (b.work? rid q).map (·.data) with | some (.lookup l) => l.running | _ => false
  if (b.members rid p).any working then aheadTile st b rid p else
  let (b, ts, ready) := (b.members rid p).foldl (fun (b, ts, ok) q =>
    match planTile st b rid q with
    | (b, some t) => (b, ts ++ [t], ok)
    | (b, none) => (b, ts, ok && (match b.work? rid q with | some w => w.phase == .visible | none => true))) (b, ([] : List Tile), true)
  if !ready then b
  else aheadTile st (ts.foldl (fun b t => startTile st b rid t) b) rid p

/-! ## ROW_FETCH (R83) -/

/-- Take a fetched row into a slot's tile, and ready the tasks whose rows are all there. -/
def takeRow (b : Block) (rid p lrow : Nat) (v : Option (List Word)) : Block :=
  match b.work? rid p with
  | none => b
  | some w =>
    match w.data with
    | .lookup l =>
      match l.fetches.find? fun f => f.lrow == lrow && !f.got with
      | none => b
      | some f =>
        let o := lop w.x
        let td := tdOf l.desc
        let got : Fetch := match v with
          | some xs => { f with got := true, elems := xs, nonfinite := !xs.all isFin }
          | none => { f with got := true, poisoned := true }
        let fs := l.fetches.map fun g => if g.lrow = lrow then got else g
        let b := b.onWork rid p fun w => { w with data := .lookup { l with fetches := fs } }
        let terms := l.bags.flatMap (·.terms)
        let here := fun (t : Term) => fs.any fun g => g.lrow == t.lrow && g.stack == f.stack
        let per := (decodeCost td.wfmt + 1) * td.width
        let b := if !o.strict && (fs.filter (·.stack == f.stack)).all (·.got) then
            b.addTask (b.homeHub f.stack) rid p .pool (some f.stack) (per * terms.countP here) else b
        if !fs.all (·.got) then b
        else
          let b := if o.strict then b.addTask (ringHub rid) rid p .pool none (per * terms.length) (single := o.figures) else b
          if o.gather || o.strict then b
          else
            let stackOf := fun (t : Term) => ((fs.find? (·.lrow == t.lrow)).map (·.stack)).getD 0
            let partials := (l.bags.map fun g => (distinct (g.terms.map stackOf)).length).sum
            b.addTask (ringHub rid) rid p .combine none (td.width * partials + (if o.mode = 1 then 8 * td.width * l.bags.length else 0))
              (after := b.tasksOf rid p fun t => t.kind == .pool)
    | _ => b

/-- ROW_FETCH: a distinct row of the running tile is read once, from the cache, the buffer or the stack, and given to every slot of the
group that names it. -/
def rowFetch (rid p lrow : Nat) (err : ReadErr) (st : Store) (b : Block) : Block :=
  match b.work? rid p with
  | none => b
  | some w =>
    match w.data with
    | .lookup l =>
      match l.fetches.find? fun f => f.lrow == lrow && !f.got with
      | none => b
      | some f =>
        if w.phase != .active || b.rowQueued f.ch rid w.lead lrow then b
        else
          let o := lop w.x
          let td := tdOf l.desc
          let r : RowRef := { td := td, lrow := lrow, parts := f.pieces, ch := f.ch }
          let hub := b.homeHub r.stack
          let (b, how) := if w.cls = 0 then (b, some (true, err)) else b.wideFetch r err
          match how with
          | none => b
          | some (stack, err) =>
            let users := (b.members rid w.lead)
            match readRowHealed st b hub r stack err w.cls with
            | (b, .wait) => b
            | (b, .stop s) =>
              users.foldl (fun b q =>
                match b.work? rid q with
                | some x => (match x.data with
                  | .lookup l => if l.fetches.any fun g => g.lrow == lrow && !g.got then b.endSlot rid q s 0 x.counters else b
                  | _ => b)
                | none => b) b
            | (b, .poisoned) => users.foldl (fun b q => takeRow b rid q lrow none) b
            | (b, .row h pl) =>
              let xs := if o.figures then decodeFigures td.wfmt td.width h pl else decodeRow td.wfmt td.width h pl
              users.foldl (fun b q => takeRow b rid q lrow (some xs)) b
    | _ => b

def execRowFetch (ring p lrow : Nat) (err : ReadErr) (s : State) : Result := live (rowFetch ring p lrow err) s

/-! ## PARTIAL_COMBINE (R86 to R89) -/

/-- The terms' values: a poisoned row gives no term (R76). -/
def Lookup.values (l : Lookup) (ts : List Term) : List (Word × List Word) :=
  ts.filterMap fun t => match l.fetches.find? (·.lrow == t.lrow) with
    | some f => if f.poisoned then none else some (t.weight, f.elems)
    | none => none

/-- PARTIAL_COMBINE: a row die's partial of a bag, or under strict order the whole bag, or a stack's gathered rows. Partials of one bag
are combined in increasing stack index, once the tile's rows are all there and the hub's combining task has ended (R227, R230). -/
def partialCombine (rid p j stack : Nat) (st : Store) (b : Block) : Block :=
  match b.work? rid p with
  | none => b
  | some w =>
    match w.data with
    | .lookup l =>
      match l.bags.find? fun g => g.j == j && !g.finished with
      | none => b
      | some bag =>
        let o := lop w.x
        let td := tdOf l.desc
        let onStack := fun (t : Term) => l.fetches.any fun f => f.lrow == t.lrow && f.stack == stack
        let ts := if o.strict then bag.terms else bag.terms.filter onStack
        let ready := fun (f : Fetch) => f.got || (o.gather && !ts.any (·.lrow == f.lrow))
        let got := l.fetches.all ready
        if w.phase != .active || !l.running || bag.left.head? != some stack || !got
            || b.taskStands rid p (some stack) || (!o.gather && b.taskStands rid p none) then b
        else if o.gather then
          let b := ts.foldl (fun b t =>
            let v := match l.fetches.find? (·.lrow == t.lrow) with
              | some f => if f.poisoned then posZeros td.width else if o.mode = 2 then f.elems.map (fmul t.weight) else f.elems
              | none => posZeros td.width
            writeGather st b rid p o t.k v) b
          let left := bag.left.drop 1
          tileEnd (b.onWork rid p fun w =>
            match w.data with
            | .lookup l => { w with data := .lookup { l with bags := l.bags.map fun g => if g.j = j then { g with left := left, finished := left.isEmpty } else g } }
            | _ => w) rid p
        else
          let part := poolList o.mode o.figures td.width (l.values ts)
          let acc := if o.strict then part else match part with
            | none => bag.acc
            | some v => some (combinePartial o.mode bag.acc v)
          let left := bag.left.drop 1
          if left.isEmpty then tileEnd (writeBag st b rid p o td bag acc) rid p
          else b.onWork rid p fun w =>
            match w.data with
            | .lookup l => { w with data := .lookup { l with bags := l.bags.map fun g => if g.j = j then { g with left := left, acc := acc } else g } }
            | _ => w
    | _ => b

def execPartialCombine (ring p bag stack : Nat) (s : State) : Result := run (partialCombine ring p bag stack) s

end Sys2Proof.Machine
end

