-- ==== Sys2Proof/Machine/Mirror.lean ====
section
/-! DEFINITION. The digest exchange of mirrored tables at a home hub (R390, R391). -/
namespace Sys2Proof.Machine

/-- Two entries name the same commit. -/
def sameKey (a e : DigestEntry) : Bool := a.table == e.table && a.lrow == e.lrow && a.bseq == e.bseq
def equalTo (a e : DigestEntry) : Bool := a.digest == e.digest && a.mdigest == e.mdigest

/-- A row is mismatched and awaits a repair fence (R391, R393). -/
def Block.mismatch (b : Block) (table lrow bseq : Nat) : Block :=
  b.onEng fun e => { e with twin := { e.twin with
    mismatched := if e.twin.mismatched.any fun m => m.1 == table && m.2.1 == lrow then e.twin.mismatched
                  else e.twin.mismatched ++ [(table, lrow, bseq)] } }

/-- Entries beyond the hub's room are dropped, and the table is marked for a sweep (R391). -/
def Block.dropEntry (b : Block) (h table : Nat) : Block :=
  let job := (tdOf (b.tables.getD table {}).desc).job
  (b.onTable table fun t => { t with marked := true }).event h 0x13 (some job) (pack [(0, 20, table), (20, 2, 0)])

/-- Room for one more unsettled entry. -/
def Digests.room (d : Digests) : Bool := decide (d.own.length + d.theirs.length < Config.unsettledMax)

/-- An own entry: paired with the twin's, or kept until it can be; it is sent in the next DIGEST frame (R390, R391). -/
def Block.ownEntry (b : Block) (h : Nat) (e : DigestEntry) : Block :=
  let now := b.age h
  let d := (b.hub h).digests
  let send := fun (d : Digests) => { d with outgoing := d.outgoing ++ [e], firstAge := if d.outgoing.isEmpty then now else d.firstAge }
  match d.theirs.find? (sameKey e) with
  | some t =>
    let b := b.onHub h fun x => { x with digests := send { x.digests with theirs := x.digests.theirs.filter (!sameKey e ·) } }
    if equalTo e t then b else b.mismatch e.table e.lrow e.bseq
  | none =>
    if d.room then b.onHub h fun x => { x with digests := send { x.digests with own := x.digests.own ++ [e] } }
    else (b.onHub h fun x => { x with digests := send x.digests }).dropEntry h e.table

/-- A row commit of a mirrored table by an APPLY 1 batch while its digests are exchanged (R388, R390). -/
def Block.rowCommitted (b : Block) (td : TD) (stack lrow bseq digest mdigest : Nat) : Block :=
  if td.mirror && (b.tables.getD td.table {}).exchanging then
    b.ownEntry (b.homeHub stack) { table := td.table, lrow := lrow, bseq := bseq, digest := digest, mdigest := mdigest }
  else b

/-- The row die that owns a row, found through the tables as they stand. -/
def ownerOf (st : Store) (b : Block) (td : TD) (lrow : Nat) : Option Nat :=
  match walkAll st b td.job (({ read := true, place := 1, domain := td.domain, va := td.slotVa lrow } : Need)) with
  | (.page pg, _) => b.stackOf (pg.addr + td.slotVa lrow % 65536)
  | _ => none

/-- Twin's entries of a table up to an applied batch at a row die, without an entry here, are mismatches (R391). -/
def Block.absences (st : Store) (b : Block) (td : TD) (stack applied : Nat) : Block :=
  let h := b.homeHub stack
  let late := (b.hub h).digests.theirs.filter fun e =>
    e.table == td.table && decide (e.bseq ≤ applied) && ownerOf st b td e.lrow == some stack
  late.foldl (fun b e =>
    (b.onHub h fun x => { x with digests := { x.digests with theirs := x.digests.theirs.filter (!sameKey e ·) } }).mismatch e.table e.lrow e.bseq) b

/-! ## What holds batches at the gate (R393, R403, R404) -/

def Block.fence? (b : Block) (t : Nat) : Option Fence := b.eng.twin.fences.find? (·.table == t)
def Block.resync? (b : Block) (t : Nat) : Option Resync := b.eng.twin.resyncs.find? (·.table == t)

/-- H of a fence: the larger of the two highest BSEQs started (R393). -/
def fenceTop (f : Fence) : Option Nat :=
  match f.own, f.theirs with
  | some a, some c => some (Nat.max a c)
  | _, _ => none

/-- A fence, or the last step of a resynchronisation at the source, keeps a batch from starting or resuming. -/
def Block.startHeld (b : Block) (t bseq : Nat) : Bool :=
  (match b.fence? t with
   | some f => (match fenceTop f with | some h => decide (h < bseq) | none => true)
   | none => false)
  || (match b.resync? t with
      | some r => (match r.hold with | some h => decide (h < bseq) | none => false)
      | none => false)

/-- A table being resynchronised here, or left incomplete, has every batch wait. -/
def Block.tableHeld (b : Block) (t : Nat) : Bool :=
  (b.tables.getD t {}).incomplete || (b.eng.twin.receiver && (b.resync? t).isSome)

end Sys2Proof.Machine
end

