-- ==== Sys2Proof/Machine/Update.lean ====
section
/-! DEFINITION. Update batches at their stream's hub: SCATTER_ACCUM, APPLY_UPDATE, reading and sorting the contributions, and the gate
(R97 to R103, R107, R110 to R114, R119 to R121, R181). -/
namespace Sys2Proof.Machine

/-! ## The operand and the header (Tables 4-1 to 4-5) -/

structure UOp where
  apply : Bool := false
  table : Nat := 0
  prog : Nat := 0
  skipnf : Bool := false
  add : Bool := false
  bseq : Nat := 0
  params : Nat := 0
  hdr : Nat := 0
deriving DecidableEq, Repr, Inhabited

def uop (x : Nat) : UOp :=
  { apply := bit x 211, table := bits x 236 20, prog := bits x 220 16, skipnf := bit x 213, add := bit x 212, bseq := bits x 128 64
    params := bits x 384 56, hdr := bits x 320 56 }

def uopReserved : List (Nat × Nat) := [inlineArea, (440, 72), (376, 8), (256, 64), (214, 6), (192, 19)]

/-- The contribution stream header. -/
structure UHdr where
  bseq : Nat := 0
  bags : Nat := 1
  gstride : Nat := 0
  n : Nat := 0
  bmode : Nat := 0
  lscale : Nat := 0
  wbf : Bool := false
  idxw : Nat := 0
  uniform : Bool := false
  half : Bool := false
  form : Nat := 0
  wt : Nat := 0
  l : Nat := 0
  k : Nat := 0
  g : Nat := 0
deriving DecidableEq, Repr, Inhabited

def uhdr (x : Nat) : UHdr :=
  { bseq := bits x 128 64, bags := bits x 96 32 + 1, gstride := bits x 65 24, n := bits x 32 33, bmode := bits x 24 3, lscale := bits x 16 6
    wbf := bit x 14, idxw := bits x 12 2, uniform := bit x 11, half := bit x 10, form := bits x 8 2, wt := bits x 448 56
    l := bits x 384 56, k := bits x 320 56, g := bits x 256 56 }

/-- Reserved fields of the header; those of form 1 are reserved in form 0 (R98). -/
def uhdrReserved (x : Nat) : List (Nat × Nat) :=
  [(504, 8), (440, 8), (376, 8), (312, 8), (192, 64), (89, 7), (27, 5), (22, 2), (15, 1)]
  ++ (if bits x 8 2 = 0 then [(448, 56), (384, 56), (96, 32), (24, 3), (14, 1), (11, 3)] else [])

def UHdr.wtSize (h : UHdr) : Nat := if h.wbf then 2 else 4
def UHdr.keyBytes (h : UHdr) : Nat := h.n * (if h.form = 0 then 16 else idxSize h.idxw)
def UHdr.vectors (h : UHdr) : Nat := if h.form = 0 then h.n else h.bags

/-- Orders 9 and 10 of Table 4-6. -/
def UHdr.bad (h : UHdr) (w : Nat) : Bool :=
  let one := h.form = 1
  let live := h.n != 0
  decide (2 ^ 26 < h.n)
  || (one && live && (h.bmode == 2) != (h.wt != 0))
  || (one && (if h.uniform then h.l != 0 || h.n % h.bags != 0 || decide (2 ^ 24 < h.n / h.bags) else h.l == 0))
  || (live && (h.k == 0 || h.g == 0 || h.k % (if h.form = 0 then 16 else 4) != 0 || h.g % 4 != 0))
  || (one && (h.l % 4 != 0 || (live && h.wt % 4 != 0)))
  || h.gstride % 4 != 0 || decide (h.gstride < 2 * w)
  || (live && (decide (2 ^ 56 < h.k + h.keyBytes) || decide (2 ^ 56 < h.g + (h.vectors - 1) * h.gstride + 2 * w)
      || (one && decide (2 ^ 56 < h.wt + h.n * h.wtSize))))
  || (one && !h.uniform && decide (2 ^ 56 < h.l + 4 * h.bags))

/-- R17 on the header, then orders 7 to 10. -/
def uhdrCheck (minor x slotBseq w : Nat) : Nat :=
  let h := uhdr x
  firstFail
    [ (!versionOk (bits x 0 8) minor, VERSION_UNSUPPORTED)
    , (rsvSet x (uhdrReserved x), RESERVED_NONZERO)
    , (decide (1 < h.form) || decide (2 < h.bmode), UNKNOWN_ENCODING)
    , (h.bseq != slotBseq, UPDATE_INVALID)
    , (decide (40 < h.lscale) || (!h.half && decide (16 < h.lscale)), UPDATE_INVALID)
    , (h.bad w, UPDATE_INVALID) ]

/-- Orders 1 to 6 of Table 4-6. -/
def Block.updateCheck (b : Block) (job x : Nat) : Nat :=
  let o := uop x
  let scatter := bits x 8 8 == 0x10
  firstFail
    [ ((b.tableUse job o.table).isNone, TABLE_UNDEFINED)
    , (o.bseq == 0, UPDATE_INVALID)
    , (if scatter then o.hdr == 0 else !o.apply || o.add || o.hdr != 0, UPDATE_INVALID)
    , (!o.apply && (o.prog != 0 || o.skipnf || o.params != 0), UPDATE_INVALID)
    , (o.apply && !(match b.progOf job o.prog with | some p => p.kind == 0 && !p.unloading | none => false), PROGRAM_UNDEFINED)
    , (o.hdr % 64 != 0 || o.params % 64 != 0, UPDATE_INVALID) ]

/-! ## Reading the contributions (R99 to R103) -/

/-- Read [va, va + n) with the read right, or start what it waits for; a status ends the slot with counters zero. -/
def withRead (st : Store) (b : Block) (rid p va n : Nat) (k : Block → List Byte → Block) : Block :=
  match b.ensure rid p (needsOf va n { read := true }) with
  | (b, false) => b
  | (b, true) => withBytes st b rid p va n [] k

/-- One contribution: its class, sort key and value's origin. -/
structure Contrib where
  cls : Idx := .padding
  sample : Nat := 0
  pos : Nat := 0
  k : Nat := 0
  /-- Vector or bag gradient. -/
  g : Nat := 0
  weight : Word := 0
deriving DecidableEq, Repr, Inhabited

/-- Keys of form 0, up to the first that fails: (contributions, failure). -/
def keysFrom (td : TD) : List Nat → Nat → List Contrib × Option (Nat × Nat)
  | [], _ => ([], none)
  | x :: xs, k =>
    if bits x 104 24 ≠ 0 then ([], some (RESERVED_NONZERO, k))
    else
      let row := bits x 0 48
      let cls := if row = 2 ^ 48 - 1 then Idx.padding else classify td 1 (some row)
      if cls == .invalid then ([], some (INDEX_INVALID, k))
      else
        let (cs, e) := keysFrom td xs (k + 1)
        ({ cls := cls, sample := bits x 48 32, pos := bits x 80 24, k := k, g := k } :: cs, e)

/-- Contributions of form 1 from classes, lengths and weights. -/
def form1 (classes : List Idx) (lens : List Nat) (weights : List Word) : List Contrib :=
  let owner := lens.zipIdx.flatMap fun (l, j) => (List.range l).map fun i => (j, i)
  ((classes.zip owner).zipIdx).map fun ((c, j, i), k) => { cls := c, sample := j, pos := i, k := k, g := j, weight := weights.getD k 0 }

/-- The value of one element (R102). -/
def contribElem (h : UHdr) (cnt : Nat) (w : Word) (c : Nat) : Word :=
  let v := if h.half then widenH c else widenBf c
  let u := rne32 ((fval v).scale2 (-(h.lscale : Int)))
  if h.form = 0 || h.bmode = 0 then u else if h.bmode = 1 then fdiv u (ofNatF cnt) else fmul w u

/-- A contribution vector (R102). -/
def contribVec (h : UHdr) (width cnt : Nat) (w : Word) (bs : List Byte) : List Word :=
  (fieldsOf 16 width (ofBytes bs)).map (contribElem h cnt w)

/-- Order of R103. -/
def Contrib.before (a c : Nat × Contrib) : Bool :=
  decide (a.1 < c.1) || (a.1 == c.1 && (decide (a.2.sample < c.2.sample) || (a.2.sample == c.2.sample &&
    (decide (a.2.pos < c.2.pos) || (a.2.pos == c.2.pos && decide (a.2.k < c.2.k))))))

/-- Read several spans through held pages. -/
def readMany (st : Store) (b : Block) (rid p : Nat) (spans : List (Nat × Nat)) : Block × Rd × List (List Byte) :=
  spans.foldl (fun (b, s, acc) (va, n) =>
    match s with
    | .stop e => (b, .stop e, acc)
    | _ =>
      match readVa st b rid p va n with
      | (b, .got bs) => (b, s, acc ++ [bs])
      | (b, .wait) => (b, .wait, acc ++ [[]])
      | (b, .stop e) => (b, .stop e, acc)) (b, .got [], [])

/-! ## Distribution (R103, R119) -/

/-- Local rows with a pending accumulator of a table, at hand or in the overflow log, with their stacks. -/
def Block.pendingRows (b : Block) (table : Nat) : List (Nat × Nat) :=
  b.dies.flatMap fun (s, d) => (distinct ((d.accs.filter fun (k, _) => k / 2 ^ 40 == table).map (·.1 % 2 ^ 40)
    ++ (d.log.filter (·.table == table)).map (·.lrow))).map fun l => (l, s)

/-- Rows that the batch reads or commits. -/
def Block.batchRows (b : Block) (o : UOp) (rows : List Nat) : List Nat :=
  distinct (rows ++ (if o.apply then (b.pendingRows o.table).map (·.1) else []))

/-- Pages that the batch's rows, their masters and the parameter block need (R119). -/
def rowsNeeds (td : TD) (o : UOp) (rows : List Nat) : List Need :=
  rows.flatMap (fun l => needsOf (td.slotVa l) td.S (td.rowNeed false true)
    ++ (if td.place = 1 then needsOf (td.masterVa l) td.T { update := true, place := 2 } else []))
  ++ (if o.params = 0 then [] else needsOf o.params 64 { read := true })

/-- The sorted runs of each stack (R103), from contributions with values; a row that is split ends the batch. -/
def distribute (b : Block) (rid p : Nat) (td : TD) (cs : List (Nat × Contrib)) (vals : List (Nat × List Word)) : Except Nat (Tbl (List Run)) :=
  let rows := distinct ((cs.map (·.1)))
  let sorted := sortBy Contrib.before cs
  let vec := fun (k : Nat) => ((vals.find? (·.1 == k)).map (·.2)).getD []
  (sortBy (fun a c => decide (a < c)) rows).foldl (fun acc l =>
    match acc with
    | .error e => .error e
    | .ok t =>
      match b.rowVia rid p td l with
      | (r, 0) =>
        let run : Run := { lrow := l, contribs := (sorted.filter (·.1 == l)).map fun c => vec c.2.k }
        .ok (t.put r.stack (t.getD r.stack [] ++ [run]))
      | (_, s) => .error s) (.ok [])

/-- The batch is read, sorted and translated: its runs stand at the home hubs. -/
def finishPrep (st : Store) (b : Block) (rid p : Nat) (td : TD) (o : UOp) (h : UHdr) (cs : List Contrib) (digested : List Byte) : Block :=
  let held := cs.filterMap fun c => match c.cls with | .held l => some (l, c) | _ => none
  let span := fun (c : Contrib) => (h.g + c.g * h.gstride, 2 * td.width)
  match b.ensure rid p (held.flatMap (fun (_, c) => needsOf (span c).1 (span c).2 { read := true }) ++ rowsNeeds td o (b.batchRows o (held.map (·.1)))) with
  | (b, false) => b
  | (b, true) =>
    match readMany st b rid p (held.map fun (_, c) => span c) with
    | (b, .wait, _) => b
    | (b, .stop s, _) => b.endSlot rid p s 0 []
    | (b, .got _, vs) =>
      let cnt := fun (j : Nat) => cs.countP fun c => c.g == j && (match c.cls with | .held _ => true | .notHere => true | _ => false)
      let vals := (held.zip vs).map fun ((_, c), bs) => (c.k, contribVec h td.width (cnt c.g) c.weight bs)
      match distribute b rid p td held vals with
      | .error s => b.endSlot rid p s 0 []
      | .ok runs =>
        let u : Update :=
          { checked := true, distributed := true, digest := crc32c digested, runs := runs, padded := cs.countP (·.cls == .padding)
            notHere := cs.countP (·.cls == .notHere), weighted := h.form == 1 && h.bmode != 0 }
        b.onWork rid p fun w => { w with data := .update u }

/-- Form 1: index, length and weight arrays, in the order of Table 4-6's checks and of the digest (R114). -/
def prepForm1 (st : Store) (b : Block) (rid p : Nat) (r : Ring) (td : TD) (o : UOp) (h : UHdr) (head : List Byte) : Block :=
  let lensOf := fun (b : Block) (k : Block → List Byte → List Nat → Block) =>
    if h.uniform then k b [] (List.replicate h.bags (h.n / h.bags))
    else withRead st b rid p h.l (4 * h.bags) fun b bs => k b bs (fieldsOf 32 h.bags (ofBytes bs))
  let idxOf := fun (b : Block) (k : Block → List Byte → Block) => if h.n = 0 then k b [] else withRead st b rid p h.k h.keyBytes k
  let wtOf := fun (b : Block) (k : Block → List Byte → Block) =>
    if h.n = 0 || h.bmode ≠ 2 then k b [] else withRead st b rid p h.wt (h.n * h.wtSize) k
  lensOf b fun b lb lens =>
    match badLength h.n lens 0 0 with
    | some j => b.endSlot rid p UPDATE_INVALID j []
    | none =>
      idxOf b fun b ib =>
        let raws := fieldsOf (8 * idxSize h.idxw) h.n (ofBytes ib)
        match b.transformReady r rid p td h.idxw raws with
        | (b, false) => b
        | (b, true) =>
          let classes := (b.transform r td h.idxw raws).map (classify td h.idxw)
          match classes.findIdx? (· == .invalid) with
          | some k => b.endSlot rid p INDEX_INVALID k []
          | none =>
            wtOf b fun b wb =>
              finishPrep st b rid p td o h (form1 classes lens (weightsOf h.wbf h.n wb)) (head ++ ib ++ lb ++ wb)

/-- Checks of an update slot before it reads anything (R200, Table 4-6). -/
def Block.updateHead (b : Block) (cls job x : Nat) : Nat :=
  thenCheck (headCheck b.eng.minor cls x uopReserved false) fun _ => b.updateCheck job x

/-- Read, check and sort the whole batch: its unit is the batch (R100, R119, R315). A batch that starts again is checked again (R121). -/
def prepUpdate (st : Store) (b : Block) (rid p : Nat) : Block :=
  match b.rings.get? rid, b.work? rid p with
  | some r, some w =>
    match w.data with
    | .update u =>
      if u.distributed || w.phase != .active || b.commitAhead w then b
      else if !u.checked && b.updateHead r.cls r.job w.x ≠ OK then b.endSlot rid p (b.updateHead r.cls r.job w.x) 0 []
      else
        let b := b.onWork rid p fun w => { w with data := .update { u with checked := true } }
        let o := uop w.x
        let td := tdOf (b.tables.getD o.table {}).desc
        let operand := toBytes 48 (w.x >>> 128)
        if w.opcode = 0x11 then finishPrep st b rid p td o {} [] operand
        else withRead st b rid p o.hdr 64 fun b hb =>
          let x := ofBytes hb
          let s := uhdrCheck b.eng.minor x o.bseq td.width
          if s ≠ OK then b.endSlot rid p s 0 []
          else
            let h := uhdr x
            let head := operand ++ hb
            if h.form = 1 then prepForm1 st b rid p r td o h head
            else if h.n = 0 then finishPrep st b rid p td o h [] head
            else withRead st b rid p h.k h.keyBytes fun b kb =>
              match keysFrom td (fieldsOf 128 h.n (ofBytes kb)) 0 with
              | (_, some (s, k)) => b.endSlot rid p s k []
              | (cs, none) => finishPrep st b rid p td o h cs (head ++ kb)
    | _ => b
  | _, _ => b

/-- An update slot picked up. -/
def updateStart (st : Store) (b : Block) (r : Ring) (p x rid : Nat) : Block :=
  let s := b.updateHead r.cls r.job x
  if s ≠ OK then b.endSlot rid p s 0 []
  else prepUpdate st (b.onWork rid p fun w => { w with data := .update { checked := true } }) rid p

def execScatterAccum (ring : Nat) (s : State) : Result :=
  run (pickup (fun x => bits x 8 8 == 0x10) (fun st b r p x => updateStart st b r p x ring) ring) s
def execApplyUpdate (ring : Nat) (s : State) : Result :=
  run (pickup (fun x => bits x 8 8 == 0x11) (fun st b r p x => updateStart st b r p x ring) ring) s

/-! ## The gate (R112, R113) -/

/-- Table 4-7. During a re-layout a batch that would start or resume waits (R273). -/
def gateOf (rp : Replay) (bseq digest : Nat) (relayout : Bool) : Gate :=
  if bseq + 8 ≤ rp.applied then .stale
  else if bseq ≤ rp.applied then (if rp.last.any fun x => x.1 == bseq && x.2 == digest then .replay else .mismatch)
  else match rp.inprog with
    | some i =>
      if i.bseq ≠ bseq then .wait
      else if !i.orphan then .wait
      else if i.digest = digest then (if relayout then .wait else .resume) else .mismatch
    | none => if bseq = rp.applied + 1 && !relayout then .start else .wait

/-- Ask one row die (again); the hub reads the step non-finite count once, when it sends the first request (R110). -/
def Block.askGate (b : Block) (rid p stack : Nat) : Block :=
  match b.work? rid p with
  | none => b
  | some w =>
    match w.data with
    | .update u =>
      let o := uop w.x
      let g := if b.tableHeld o.table then .wait
        else gateOf ((b.die stack).replay.getD o.table {}) o.bseq u.digest (b.eng.relayout.isSome || b.startHeld o.table o.bseq)
      -- HUB_SERVICE ADMIT hands a group back: its row dies take no new batch (R433)
      let g := if g == .start && (b.hub (stack / 3)).admitting then .wait else g
      let nf := (b.jobs.getD w.job {}).nfCount
      b.onWork rid p fun w => { w with data := .update { u with
        gates := u.gates.put stack g, asked := true, skip := if u.asked then u.skip else o.skipnf && nf != 0 } }
    | _ => b

/-- GATE_REQUEST: a row die in service answers a batch that has been read and translated; a table that is re-sharding holds it (R354). -/
def gateRequest (rid p stack : Nat) (b : Block) : Block :=
  match b.work? rid p with
  | none => b
  | some w =>
    match w.data with
    | .update u =>
      if w.phase != .active || !u.distributed || u.started || !b.dieUp stack || (b.tables.getD (uop w.x).table {}).reshard then b
      else b.askGate rid p stack
    | _ => b

def execGateRequest (ring p stack : Nat) (s : State) : Result := live (fun _ b => gateRequest ring p stack b) s

/-- Half of a row die's overflow log (R107). -/
def accLimit : Nat := 268435456

/-- Bytes of a row die's pending accumulators, those that stand in its overflow log included (R107). -/
def RowDie.accBytesHeld (d : RowDie) : Nat := ((d.accs.vals ++ d.log.map (·.acc)).map fun a => accBytes a.vec.length).sum

/-- A row has a pending accumulator, at hand or in the overflow log. -/
def RowDie.isPending (d : RowDie) (table lrow : Nat) : Bool := d.accs.has (table * 2 ^ 40 + lrow) || d.log.any fun e => e.table == table && e.lrow == lrow

/-- Runs that a row die which starts or resumes will take. -/
def Block.runsFor (b : Block) (u : Update) (table stack : Nat) : List Run :=
  let cur := match ((b.die stack).replay.getD table {}).inprog with | some i => i.cursor | none => none
  (u.runs.getD stack []).filter fun r => match cur with | some c => decide (c < r.lrow) | none => true

/-- A batch with APPLY 0 would leave too much pending at some row die (R107). -/
def Block.accFull (b : Block) (u : Update) (o : UOp) (width : Nat) (ss : List Nat) : Bool :=
  !o.apply && ss.any fun s =>
    let d := b.die s
    let new := (b.runsFor u o.table s).countP fun r => !d.isPending o.table r.lrow
    decide (accLimit < d.accBytesHeld + new * accBytes width)

/-- Non-finite contributions of a list of runs. -/
def nfContribs (rs : List Run) : Nat := (rs.map fun r => r.contribs.countP fun v => !v.all isFin).sum

/-- A row's class 1 master record and its padding, through the unit's pages. -/
def Block.masterVia (b : Block) (rid p : Nat) (td : TD) (lrow : Nat) : List (Nat × Nat × Nat) :=
  let pages := b.unitPages rid p
  (partsVia (fun v => (pages.find? fun pg => pg.vpn * 65536 == v).map (·.addr)) (td.masterVa lrow) td.T).getD []

/-- Operations charged for one row's program and for its REQUANT pass (Table 8-1). -/
def applyOps (td : TD) (pr : Prog) : Nat := (pr.boundS + pr.boundP * beatsOf td.width) * 32
def requantOps (td : TD) : Nat :=
  let q := requantBound td.wfmt td.zpmode
  (q.1 + q.2 * beatsOf td.width) * 32

/-- Once a share's runs have been added, its rows' programs and REQUANT passes become tasks (R108, R227); the pass follows the program, whose
results it works on (R230). -/
def Block.applyTasks (b : Block) (stack : Nat) (td : TD) (sh : Share) : Block :=
  let rows := ((b.pendingRows td.table).filter (·.2 == stack)).map (·.1)
  let hub := b.homeHub stack
  match b.progOf sh.job sh.prog with
  | some pr =>
    if !sh.apply || sh.skip then b
    else rows.foldl (fun b l =>
      let t := b.nextTask hub
      (b.addTask hub sh.ring sh.p .program (if td.place = 1 then none else some stack) (applyOps td pr) (some l)).addTask hub sh.ring sh.p .requant
        (some stack) (requantOps td) (some l) (after := [t])) b
  | none => b

/-- One row die starts or resumes its share (R111, R112, R115). -/
def Block.startShare (b : Block) (rid p : Nat) (w : Work) (u : Update) (o : UOp) (td : TD) (params : List Word) (resume : Bool) (stack : Nat) : Block :=
  let rp := (b.die stack).replay.getD o.table {}
  let runs := b.runsFor u o.table stack
  let added := match rp.inprog with | some i => if resume then i.added else [] | none => []
  let cur := match rp.inprog with | some i => if resume then i.cursor else none | none => none
  let pend := if o.apply then ((b.pendingRows o.table).filter (·.2 == stack)).map (·.1) else []
  let rows := distinct (runs.map (·.lrow) ++ pend)
  let slots := rows.foldl (fun t l => Tbl.put t l (b.rowVia rid p td l).1.parts) ([] : Tbl (List (Nat × Nat × Nat)))
  let masters := if td.place = 1 then rows.foldl (fun t l => Tbl.put t l (b.masterVia rid p td l)) ([] : Tbl (List (Nat × Nat × Nat))) else []
  let runs' := runs.filter fun r => !added.contains r.lrow
  let nf := nfContribs runs'
  let hub := b.homeHub stack
  let rec_ : InProg := { bseq := o.bseq, digest := u.digest, cursor := cur, added := added, feedHub := hub }
  let share : Share :=
    { job := w.job, bseq := o.bseq, ring := rid, p := p, runs := runs', apply := o.apply, skip := u.skip, prog := o.prog, params := params
      addMode := o.add, passed := cur, counters := [0, 0, 0, 0, 0, 0, nf], slots := slots, masters := masters, pages := b.unitPages rid p }
  let b := b.onDie stack fun d => { d with replay := d.replay.put o.table { rp with inprog := some rec_ }, shares := d.shares.put o.table share }
  let b := b.onJob w.job fun j => { j with nfCount := sat32 (j.nfCount + nf) }
  let termsOf : Run → Nat := fun r => if o.add then (match (b.die stack).accs.get? (o.table * 2 ^ 40 + r.lrow) with | some a => a.tidx | none => 0) else 0
  let b := runs'.foldl (fun b r =>
    let n : Nat := r.contribs.length
    let combine := if 2 ^ 24 < termsOf r + n then td.width else 0
    b.addTask hub rid p .accumulate (some stack) ((if u.weighted then 3 else 2) * td.width * n + combine) (some r.lrow)) b
  if runs'.isEmpty && !(b.die stack).log.any (·.table == o.table) then b.applyTasks stack td share else b

/-- Accumulators and log entries of the table that are lost are found by the batch that would apply them, or that resumes the share whose
entry it was (R126, R270). -/
def Block.findLost (b : Block) (job table bseq : Nat) (apply : Bool) : Block × Nat :=
  b.dies.foldl (fun (b, n) (s, d) =>
    let mine := d.lostAccs.filter fun (k, cause) => k / 2 ^ 40 == table && (apply || cause == 1)
    let b := mine.foldl (fun b (k, cause) => b.event (b.homeHub s) 0x02 (some job)
      (pack [(0, 20, table), (20, 40, k % 2 ^ 40), (60, 2, cause), (64, 64, bseq)])) b
    (b.onDie s fun d => { d with lostAccs := d.lostAccs.keep fun k _ => !(mine.any fun (x, _) => x == k) }, n + mine.length)) (b, 0)

/-- Start or resume where the gate allows it (R113, R181). A row of the batch whose slot is split ends it (R45, R253). -/
def startBatch (st : Store) (b : Block) (rid p : Nat) (w : Work) (u : Update) (o : UOp) (td : TD) (go : List (Nat × Bool)) : Block :=
  let rows := b.batchRows o (u.runs.vals.flatMap fun rs => rs.map (·.lrow))
  match b.ensure rid p (rowsNeeds td o rows) with
  | (b, false) => b
  | (b, true) =>
    match (rows.map fun l => (b.rowVia rid p td l).2).find? (· ≠ OK) with
    | some s => b.endSlot rid p s 0 []
    | none =>
    if b.accFull u o td.width (go.map (·.1)) then b.endSlot rid p ACCUM_FULL 0 []
    else
      let begin_ := fun (b : Block) (params : List Word) =>
        let b := go.foldl (fun b (s, resume) => b.startShare rid p w u o td params resume s) b
        let (b, n) := if o.apply || go.any (·.2) then b.findLost w.job o.table o.bseq o.apply else (b, 0)
        b.onWork rid p fun w => { w with data := .update { u with
          started := true, open_ := go.map (·.1), runs := [], accLost := n != 0
          counters := [0, 0, 0, 0, u.padded, u.notHere, 0, 0, 0, 0, 0, 0, n] } }
      if o.params = 0 then begin_ b (List.replicate 16 0)
      else withBytes st b rid p o.params 64 [] fun b bs => begin_ b (words32 16 bs)

/-- A row die may start or resume. -/
def Gate.goes : Gate → Bool
  | .start => true
  | .resume => true
  | _ => false

/-- What the row dies in service have answered. -/
def Block.answers (b : Block) (rid p : Nat) : List (Nat × Gate) :=
  match (b.work? rid p).map fun (w : Work) => w.data with
  | some (.update u) => b.upDies.filterMap fun s => (u.gates.get? s).map fun g => (s, g)
  | _ => []

/-- GATE_DECISION: every row die in service has answered. A row die that would start or resume decides on its state as it is now, since
another submission of the batch, or a re-layout, may have come between (R111, R118, R273; DEDUCED, log 98). -/
def gateDecision (rid p : Nat) (st : Store) (b : Block) : Block :=
  let waits := match (b.work? rid p).map fun (w : Work) => (w.phase, w.data) with
    | some (.active, .update u) => u.distributed && !u.started
    | _ => false
  let b := if waits then ((b.answers rid p).filter (·.2.goes)).foldl (fun b (s, _) => b.askGate rid p s) b else b
  match b.work? rid p with
  | none => b
  | some w =>
    match w.data with
    | .update u =>
      let gs := b.answers rid p
      if w.phase != .active || !u.distributed || u.started || gs.length != b.upDies.length then b
      else if gs.any (·.2 == .mismatch) then b.endSlot rid p REPLAY_MISMATCH 0 []
      else if gs.any (·.2 == .wait) || u.runs.any (fun (s, rs) => !rs.isEmpty && !b.dieUp s) then b
      else
        let go := (gs.filter (·.2.goes)).map fun (s, g) => (s, g == .resume)
        if go.isEmpty then b.endSlot rid p REPLAYED 0 []
        else startBatch st b rid p w u (uop w.x) (tdOf (b.tables.getD (uop w.x).table {}).desc) go
    | _ => b

def execGateDecision (ring p : Nat) (s : State) : Result := live (gateDecision ring p) s

end Sys2Proof.Machine
end

