-- ==== Sys2Proof/Machine/Shares.lean ====
section
/-! DEFINITION. Shares of update batches at a row die: adding runs, the overflow log, applying rows, the journal of class 1, retirement
(R104 to R118, R124 to R126, R135 to R143, R154, R164, R444, R445). -/
namespace Sys2Proof.Machine

/-! ## Scoreboard (R135 to R137) -/

/-- Two operations meet: they name one slot, or one granule. -/
def SbEntry.conflicts (e x : SbEntry) : Bool := (e.table == x.table && e.lrow == x.lrow) || e.granules.any x.granules.contains

/-- SCOREBOARD_RETIRE: a finished entry retires, entries that name one slot or granule in issue order; the lines and the service copies that
it holds are released. -/
def scoreboardRetire (stack i : Nat) (b : Block) : Block :=
  let d := b.die stack
  match d.board[i]? with
  | none => b
  | some e =>
    if !e.finished || (d.board.take i).any e.conflicts then b
    else b.republished (((b.onDie stack fun d => { d with board := d.board.eraseIdx i }).release e.holds).unstage (b.homeHub stack) stack e.copies)

/-! ## Counters and the cursor (R115, R130) -/

def cCONTRIBS : Nat := 0
def cROWS : Nat := 1
def cUPDATED : Nat := 2
def cREPLACED : Nat := 3
def cNFROWS : Nat := 7
def cSKIPPED : Nat := 8
def cPOISONED : Nat := 9
def cSPILLED : Nat := 10
def cLONGSUM : Nat := 11
def cACCLOST : Nat := 12

def Share.count (sh : Share) (k n : Nat) : Share :=
  { sh with counters := addCounts sh.counters ((List.range 13).map fun i => if i = k then n else 0) }

def Block.onShare (b : Block) (stack table : Nat) (f : Share → Share) : Block :=
  b.onDie stack fun d => { d with shares := d.shares.modify table f }

def Block.onInProg (b : Block) (stack table : Nat) (f : InProg → InProg) : Block :=
  b.onDie stack fun d => { d with replay := d.replay.modify table fun r => { r with inprog := r.inprog.map f } }

def accKey (table lrow : Nat) : Nat := table * 2 ^ 40 + lrow

/-- The cursor of a share without an apply: the highest row added below every run that is still in the log (R115). -/
def Block.moveCursor (b : Block) (stack table : Nat) : Block :=
  let logged := ((b.die stack).log.filter (·.table == table)).map (·.lrow)
  b.onInProg stack table fun i =>
    let done := i.added.filter fun r => logged.all fun l => decide (r < l)
    match done with
    | [] => i
    | x :: xs =>
      let c := xs.foldl Nat.max x
      { i with cursor := some (match i.cursor with | some o => Nat.max o c | none => c), added := i.added.filter fun r => decide (c < r) }

/-- The cursor of a share with an apply moves with the row's commit. -/
def Block.passRow (b : Block) (stack table lrow : Nat) : Block :=
  (b.onInProg stack table fun i => { i with cursor := some lrow }).onShare stack table fun sh => { sh with passed := some lrow }

/-- ACCLOST event (R126). -/
def Block.accLost (b : Block) (stack : Nat) (job table lrow cause bseq : Nat) : Block :=
  (b.event (b.homeHub stack) 0x02 (some job) (pack [(0, 20, table), (20, 40, lrow), (60, 2, cause), (64, 64, bseq)])).onShare stack table fun sh =>
    { sh.count cACCLOST 1 with accLost := sh.accLost + 1 }

/-! ## RUN_ADD (R105, R117, R132 to R143) -/

/-- The accumulator after a run: kept pending, the long-sum event raised once (R142), counters and cursor moved. -/
def Block.keepAcc (b : Block) (stack : Nat) (td : TD) (lrow n : Nat) (a : Acc) : Block :=
  let long := decide (16777216 < a.tidx) && !a.long
  let b := b.onDie stack fun d => { d with accs := d.accs.put (accKey td.table lrow) { a with long := a.long || long } }
  let b := b.onShare stack td.table fun sh => (sh.count cCONTRIBS n).count cROWS 1
  let b := if long then
      (b.event (b.homeHub stack) 0x03 (some a.job) (pack [(0, 20, td.table), (20, 40, lrow), (64, 64, a.sbseq)])).onShare stack td.table
        (·.count cLONGSUM 1)
    else b
  let apply := match (b.die stack).shares.get? td.table with | some sh => sh.apply | none => false
  if apply then b else b.moveCursor stack td.table

/-- Log capacity of a row die in bytes (R117). -/
def logBytes : Nat := 2 * accLimit
def LogEntry.bytes (e : LogEntry) : Nat :=
  accBytes e.acc.vec.length + (match e.spill with | some v => 4 * v.length | none => 0) + (e.remain.map fun v => 4 * v.length).sum

/-- A share's tasks of one kind of place have ended. -/
def Block.shareTasks (b : Block) (stack : Nat) (sh : Share) : Bool :=
  b.taskStands sh.ring sh.p (some stack) || b.taskStands sh.ring sh.p none

/-- RUN_ADD: the share's next run enters the scoreboard. A full write-combining buffer or a set with no free way sends it to the
overflow log; a full log makes the share stall. `err` is what reading the pending accumulator finds. -/
def runAdd (stack table : Nat) (err : ReadErr) (b : Block) : Block :=
  let d := b.die stack
  match d.shares.get? table with
  | none => b
  | some sh =>
    match sh.runs with
    | [] => b
    | rn :: rest =>
      if b.rowTask sh.ring sh.p rn.lrow || b.stalls stack table rn.lrow [] then b
      else
        let td := tdOf (b.tables.getD table {}).desc
        let key := accKey table rn.lrow
        let pend := d.accs.get? key
        let lost := sh.addMode && pend.isSome && err.accLost
        let a := match pend with
          | some a => if sh.addMode && !lost then a else newAcc sh.job sh.bseq td.width
          | none => newAcc sh.job sh.bseq td.width
        let (r, _) := b.rowRef td rn.lrow (sh.slots.getD rn.lrow [])
        let room := pend.isSome || decide (d.wcbUsed + accBytes td.width ≤ Config.wcbBytes)
        let spill := !room || b.rowBlocked r
        let e : LogEntry := { table := table, lrow := rn.lrow, bseq := sh.bseq, acc := a, remain := rn.contribs }
        if spill && decide (logBytes < (d.log.map (·.bytes)).sum + e.bytes) then b
        else
          let b := if lost then b.accLost stack sh.job table rn.lrow 0 sh.bseq else b
          let b := b.onShare stack table fun sh =>
            { sh.count cREPLACED (b2n (!sh.addMode && pend.isSome)) with runs := rest }
          let b := b.onInProg stack table fun i => { i with added := i.added ++ [rn.lrow] }
          let b := if spill then
              ((b.onDie stack fun d => { d with log := d.log ++ [e], accs := d.accs.del key }).onShare stack table (·.count cSPILLED 1)).enter stack
                { table := table, lrow := rn.lrow, finished := false }
            else
              (b.keepAcc stack td rn.lrow rn.contribs.length (accRun table (td.globalRow rn.lrow) a none rn.contribs)).enter stack
                { table := table, lrow := rn.lrow }
          if rest.isEmpty && !(b.die stack).log.any (·.table == table) then b.applyTasks stack td sh else b

def execRunAdd (stack table : Nat) (err : ReadErr) (s : State) : Result := live (fun _ b => runAdd stack table err b) s

/-- The scoreboard entry of an operation in progress on a slot is finished, with the lines its commit holds. -/
def Block.finishEntry (b : Block) (stack table lrow : Nat) (holds : List (Nat × Nat)) : Block :=
  b.onDie stack fun d => { d with board := d.board.map fun e =>
    if e.table == table && e.lrow == lrow && !e.finished then { e with finished := true, holds := holds } else e }

/-- OVERFLOW_REPLAY: the oldest entry's sum goes on where it stood (R117); an entry that cannot be read is lost, to the share that wrote it or,
when that has ended, to the batch that finds the loss (R126). -/
def overflowReplay (stack : Nat) (err : ReadErr) (b : Block) : Block :=
  match (b.die stack).log with
  | [] => b
  | e :: es =>
    let td := tdOf (b.tables.getD e.table {}).desc
    let feeds := match (b.die stack).shares.get? e.table with | some sh => sh.bseq == e.bseq | none => false
    let b := b.onDie stack fun d => { d with log := es }
    let b := if err.failed then
        (if feeds then b.accLost stack e.acc.job e.table e.lrow 1 e.bseq
         else b.onDie stack fun d => { d with lostAccs := d.lostAccs.put (accKey e.table e.lrow) 1 })
      else b.keepAcc stack td e.lrow e.remain.length (accRun e.table (td.globalRow e.lrow) e.acc e.spill e.remain)
    let b := b.finishEntry stack e.table e.lrow []
    match (b.die stack).shares.get? e.table with
    | none => b
    | some sh => if sh.runs.isEmpty && !es.any (·.table == e.table) then b.applyTasks stack td sh else b

def execOverflowReplay (stack : Nat) (err : ReadErr) (s : State) : Result := live (fun _ b => overflowReplay stack err b) s

/-! ## ROW_APPLY (R108 to R110, R116, R125, R444, R445) -/

/-- The least local row with a pending accumulator that the apply has not passed. -/
def Block.nextApply (b : Block) (stack table : Nat) (sh : Share) : Option (Nat × Acc) :=
  ((b.die stack).accs.filter fun (k, _) => k / 2 ^ 40 == table && (match sh.passed with | some p => decide (p < k % 2 ^ 40) | none => true)).head?.map
    fun (k, a) => (k % 2 ^ 40, a)

/-- A row's accumulator is consumed, and the row counts in one counter. -/
def Block.consume (b : Block) (stack table lrow k : Nat) : Block :=
  ((b.onDie stack fun d => { d with accs := d.accs.del (accKey table lrow) }).onShare stack table (·.count k 1)).passRow stack table lrow

/-- The parts of the first 16 bytes of a slot. -/
def RowRef.headParts (r : RowRef) : List (Nat × Nat × Nat) :=
  (r.parts.filter fun x => decide (x.1 < 16)).map fun (off, a, m) => (off, a, Nat.min m (16 - off))

/-- A commit of a mirrored or journalled row is passed on (R129, R401). -/
def Block.committed (b : Block) (td : TD) (stack lrow bseq digest mdigest : Nat) : Block :=
  (b.journal td stack lrow bseq).rowCommitted td stack lrow bseq digest mdigest

/-- MDIGEST of a row: its master record's digest in class 0, else 0 when the engine holds none here. -/
def mdigestOf (td : TD) (rec_ : List Byte) : Nat := if td.place = 2 then 0 else recDigest rec_

/-- R109: only the header is committed, with NONFINITE set. -/
def Block.applyNonFinite (b : Block) (stack : Nat) (r : RowRef) (bseq : Nat) (h : RowHdr) (payload rec_ : List Byte) (cls : Nat) : Block :=
  let h' := RowHdr.sealed { h with nonfinite := true } payload
  let (b, holds) := b.wrCommit (b.homeHub stack) r.td.cpart (b.rowLocs r) r.headParts h'.bytes cls
  ((b.consume stack r.td.table r.lrow cNFROWS).committed r.td stack r.lrow bseq h'.digest (mdigestOf r.td rec_)).enter stack
    { table := r.td.table, lrow := r.lrow, holds := holds, granules := b.rowLocs r }

/-- Drift counters of a re-encoding (R154). -/
def Block.drift (b : Block) (td : TD) (sat : Bool) (stagnant : Nat) : Block :=
  let top := 2 ^ 64 - 1
  b.onTable td.table fun t =>
    { t with recodes := min (t.recodes + 1) top, satRows := min (t.satRows + b2n sat) top, stagnant := min (t.stagnant + stagnant) top }

/-- Commit an updated row (R57, R59, R65): the working row and what lies behind it in the slot. -/
def Block.applyCommit (st : Store) (b : Block) (stack : Nat) (r : RowRef) (bseq : Nat) (h : RowHdr) (payload : List Byte) (inp : List Word) (m : Master)
    (aux rec_ : List Byte) (cls : Nat) : Block × List (Nat × Nat) :=
  let td := r.td
  let row := requantRow td.wfmt td.zpmode { hdr := h, payload := payload } (min (h.touch + 1) 15) false m.vals
  let stag := if td.place = 2 then stagnantCount inp m.vals (decodeRow td.wfmt td.width row.hdr row.payload) else 0
  let (b, holds) := Block.commitRow st b r (b.homeHub stack) (slotImage td row aux) cls
  (((b.consume stack td.table r.lrow cUPDATED).drift td row.hdr.saturated stag).committed td stack r.lrow bseq row.hdr.digest (mdigestOf td rec_),
   holds)

/-- What the program works on besides the accumulator: the record or values, or why not. -/
inductive Inputs where
  | ready (m : Master) (rec_ : List Byte)
  | wait
  | hostLost
  | poisoned
  | bad (status : Nat)
deriving DecidableEq, Repr

/-- Master values and states of a row (R108 step 2). A class 1 record that the host system answers with an error or poison stops the row, and no
engine state but it (R446; DEDUCED, log 100). -/
def rowInputs (st : Store) (b : Block) (r : RowRef) (master : List (Nat × Nat × Nat)) (h : RowHdr) (payload : List Byte) : Inputs :=
  let td := r.td
  let auxBad := fun (n : Nat) => (r.atoms td.auxOff n).any (view st b).poison.contains
  let ofRec := fun (bs : List Byte) =>
    let s := hdrCheck bs td.mfmt
    let h := hdrOf bs
    if s ≠ OK then Inputs.bad s
    else if h.poison || (td.place == 0 && rowDigest h (bs.drop 16) != h.digest) then .poisoned
    else .ready (masterOf td bs) bs
  if td.place = 0 then (if auxBad td.M then .poisoned else ofRec (r.read st b td.auxOff td.M))
  else if td.place = 1 then
    (if b.hostLostNow then .hostLost else if !b.hostUp then .wait
     else if master.any fun (_, a, n) => hostBad st b a n then .bad MEMORY_POISONED
     else ofRec ((master.flatMap fun (_, a, n) => rdHost st b a n).take td.M))
  else if auxBad td.stateBytes then .poisoned
  else
    let s := statesOf td (r.read st b td.auxOff td.stateBytes)
    .ready ⟨decodeRow td.wfmt td.width h payload, s.1, s.2⟩ []

/-! ### Ends of shares (R111, R122, R126, R130) -/

/-- The counts of an update slot, with what its shares have counted so far (R130). -/
def Block.countsNow (b : Block) (w : Work) (u : Update) : List Nat :=
  let table := (uop w.x).table
  let live := u.open_.filterMap fun s => (b.die s).shares.get? table
  ((live.foldl (fun c sh => if sh.ring == w.ring && sh.p == w.p then addCounts c sh.counters else c) u.counters)).map sat32

/-- The batch has retired at every row die that carried it (R122, R126, R445). -/
def Block.batchEnd (b : Block) (w : Work) (u : Update) : Block :=
  if w.recorded then b.endSlot w.ring w.p w.status w.position w.counters
  else
    let (s, pos) := if u.accLost then (ACCUM_LOST, 0) else match u.failRow with | some (l, s) => (s, l) | none => (OK, 0)
    b.endSlot w.ring w.p s pos (u.counters.map sat32)

/-- A share's counts join its slot's, and the slot ends with its last share. -/
def Block.joinShare (b : Block) (stack : Nat) (sh : Share) : Block :=
  match b.work? sh.ring sh.p with
  | none => b
  | some w =>
    match w.data with
    | .update u =>
      if !u.started || (uop w.x).bseq != sh.bseq || w.phase != .active then b
      else
        let lower := match u.failRow, sh.failRow with
          | some x, some y => some (if y.1 < x.1 then y else x)
          | none, y => y
          | x, none => x
        let u := { u with open_ := dropN u.open_ stack, counters := addCounts u.counters sh.counters
                          accLost := u.accLost || sh.accLost != 0, failRow := lower }
        let b := b.onWork sh.ring sh.p fun w => { w with data := .update u }
        if u.open_.isEmpty then b.batchEnd w u else b
    | _ => b

/-- Entries of a table's operations that a share leaves behind have done their work, but for a run whose log entry stands: that entry is
replayed first (R117, R136). -/
def Block.finishShare (b : Block) (stack table : Nat) : Block :=
  b.onDie stack fun d => { d with board := d.board.map fun e =>
    if e.table == table && !(d.log.any fun x => x.table == table && x.lrow == e.lrow) then { e with finished := true } else e }

/-- A share of class 1 ends at a row when the host link was lost (R116, R349): its record can be resumed, its ring is host-lost, and its slot
goes on without it (R350). -/
def Block.hostEndShare (b : Block) (stack table : Nat) : Block :=
  match (b.die stack).shares.get? table with
  | none => b
  | some sh =>
    let b := (b.onDie stack fun d => { d with shares := d.shares.del table }).onInProg stack table fun i => { i with orphan := true }
    let b := b.onDie stack fun d => { d with journals := d.journals.map fun j => if j.table == table && !j.acked then { j with lost := true } else j }
    ((b.finishShare stack table).hostNeeded sh.ring sh.p whatMASTER).joinShare stack sh

/-- Write a class 1 record with its padding toward the capacity tier, through its parts, at the port of a hub (R47, R330). -/
def Block.wrMaster (b : Block) (hub : Nat) (td : TD) (parts : List (Nat × Nat × Nat)) (rec_ : List Byte) : Block :=
  let img := masterImage td rec_
  parts.foldl (fun b (off, a, n) => b.wrHost hub a ((img.drop off).take n)) b

/-- Whether the host system will never acknowledge some write of a record (R446). -/
def Block.masterMute (b : Block) (parts : List (Nat × Nat × Nat)) : Bool := parts.any fun (_, a, n) => b.hostMute a n

/-- Send a journalled record to the capacity tier, again when a share resumes (R116). -/
def Block.sendMaster (b : Block) (stack : Nat) (td : TD) (j : Journal) : Block :=
  if b.hostLostNow then b.hostEndShare stack j.table
  else
    (b.wrMaster (b.homeHub stack) td j.parts j.record).onDie stack fun d => { d with journals := d.journals.map fun x =>
      if x.table == j.table && x.lrow == j.lrow then { x with lost := false } else x }

/-- Class of a share's traffic: its slot's (R245). -/
def Block.shareClass (b : Block) (sh : Share) : Nat := match b.work? sh.ring sh.p with | some w => w.cls | none => b.ringClass sh.ring

/-- Run the program and commit, or journal and send the record. A share that runs on after its slot has ended, and whose program has been
unloaded in the meantime, runs no instruction and commits each row as exit 0 (R168; DESIGN CHOICE, log 99). -/
def Block.applyRow (st : Store) (b : Block) (stack : Nat) (sh : Share) (r : RowRef) (a : Acc) (h : RowHdr) (payload : List Byte) (m : Master)
    (rec_ : List Byte) : Block :=
  let td := r.td
  let cls := b.shareClass sh
  let code := match b.progOf sh.job sh.prog with | some p => p.code | none => []
  let env : Env := { kind := 0, width := td.width, params := sh.params, grow := td.globalRow r.lrow, table := td.table, bseq := sh.bseq
                     tidx := a.tidx, mbf := td.mfmt == 0x02 && td.place != 2 }
  if a.nf then b.applyNonFinite stack r sh.bseq h payload rec_ cls
  else
    let (m', exit, _) := runUpdate env code a.vec m
    if exit ≠ 0 || !m'.finite then b.applyNonFinite stack r sh.bseq h payload rec_ cls
    else if td.place = 1 then
      let rec' := masterBytes td m'
      let j : Journal := { table := td.table, lrow := r.lrow, bseq := sh.bseq, record := rec', parts := sh.masters.getD r.lrow [] }
      ((b.onDie stack fun d => { d with journals := d.journals ++ [j] }).enter stack
        { table := td.table, lrow := r.lrow, finished := false, granules := b.rowLocs r }).sendMaster stack td j
    else
      let aux := if td.place = 0 then masterBytes td m' else stateBytesOf m'.vecs m'.words
      let (b, holds) := Block.applyCommit st b stack r sh.bseq h payload m.vals m' aux (if td.place = 0 then aux else []) cls
      b.enter stack { table := td.table, lrow := r.lrow, holds := holds, granules := b.rowLocs r }

/-- The row's state behind the working copy cannot be read: the row is poisoned, and waits for the twin or is passed (Table 2-4, R125). -/
def applyPoisonAux (st : Store) (b : Block) (stack : Nat) (r : RowRef) : Block :=
  match (poisonMaster st b (b.homeHub stack) r).askTwin r with
  | (b, .noSource) => b.consume stack r.td.table r.lrow cPOISONED
  | (b, _) => b

/-- A share's row that the apply cannot read as a row: it is not updated, and its accumulator stays pending (R445). -/
def Block.failRow (b : Block) (stack table lrow status : Nat) : Block :=
  b.onShare stack table fun sh => { sh with passed := some lrow, failRow := match sh.failRow with | some f => some f | none => some (lrow, status) }

/-- The apply of one row whose accumulator is at hand (R108 to R110, R125, R444, R445). -/
def applyOne (st : Store) (b : Block) (stack table lrow : Nat) (sh : Share) (a : Acc) (err : ReadErr) : Block :=
  let td := tdOf (b.tables.getD table {}).desc
  let (r, _) := b.rowRef td lrow (sh.slots.getD lrow [])
  if b.stalls stack table lrow (b.rowLocs r) then b
  else if sh.skip then (b.consume stack table lrow cSKIPPED).enter stack { table := table, lrow := lrow }
  else if err.accLost then
    (((b.onDie stack fun d => { d with accs := d.accs.del (accKey table lrow) }).accLost stack sh.job table lrow 0 sh.bseq).passRow stack table
      lrow).enter stack { table := table, lrow := lrow }
  else if b.rowBlocked r || b.readWaits r then b
  else
    let cls := b.shareClass sh
    let (b, fromStack) := b.bufferRead r err cls
    match readRowHealed st b (b.homeHub stack) r fromStack err cls with
    | (b, .wait) => b
    | (b, .stop s) => b.failRow stack table lrow s
    | (b, .poisoned) => (b.consume stack table lrow cPOISONED).enter stack { table := table, lrow := lrow }
    | (b, .row h payload) =>
      match rowInputs st b r (sh.masters.getD lrow []) h payload with
      | .ready m rec_ => if b.rowStalls r then b else Block.applyRow st b stack sh r a h payload m rec_
      | .wait => b
      | .hostLost => b.hostEndShare stack table
      | .poisoned => applyPoisonAux st b stack r
      | .bad s => b.failRow stack table lrow s

/-- ROW_APPLY: the share's next pending row. A row whose record a resumed share finds in the journal does not run its program again: the record
is sent again, and the share goes on once it is acknowledged (R116). -/
def rowApply (stack table : Nat) (err : ReadErr) (st : Store) (b : Block) : Block :=
  let d := b.die stack
  match d.shares.get? table with
  | none => b
  | some sh =>
    if !sh.apply || !sh.runs.isEmpty || d.log.any (·.table == table) then b
    else match b.nextApply stack table sh with
      | none => b
      | some (lrow, a) =>
        if b.rowTask sh.ring sh.p lrow || d.journals.any fun j => j.table == table && !j.lost then b
        else match d.journals.find? fun j => j.table == table && j.lrow == lrow with
          | some j =>
            let td := tdOf (b.tables.getD table {}).desc
            let locs := b.rowLocs (b.rowRef td lrow (sh.slots.getD lrow [])).1
            if b.stalls stack table lrow locs then b
            else (b.enter stack { table := table, lrow := lrow, finished := false, granules := locs }).sendMaster stack td j
          | none => applyOne st b stack table lrow sh a err

def execRowApply (stack table : Nat) (err : ReadErr) (s : State) : Result := live (rowApply stack table err) s

/-- ROW_PROGRAM_RESTART: an uncorrectable error ends the run of a task, which starts again from its first instruction on another chain with
its inputs as first staged (R163, R164). What it has been charged stays charged, and the event names the cluster on which the run ended
(DESIGN CHOICE, log 101). -/
def rowProgramRestart (h id : Nat) (b : Block) : Block :=
  match (b.hub h).sched.running.find? (·.id == id) with
  | none => b
  | some t =>
    let spares := match t.stack with | some s => (b.die s).spares | none => (b.hub h).spares
    let b := b.onSched h fun x =>
      { x with running := x.running.filter (·.id != id), ready := x.ready ++ [{ t with avoid := some (t.cluster, t.chain), readyAge := b.age h }] }
    b.event h 0x09 none (pack [(0, 10, t.cluster), (10, 2, 2), (12, 3, spares)])

def execRowProgramRestart (hub task : Nat) (s : State) : Result := run (fun _ b => rowProgramRestart hub task b) s

/-- MASTER_WRITE_ACK: the capacity tier has acknowledged a record. That of a batch: the working row is re-encoded from it and committed, and the
journal entry retires in the same unit (R67, R116). That of a maintenance slot's row: the slot commits its working row next. A write that the
host system never acknowledges waits for ever (R446). -/
def masterWriteAck (stack table : Nat) (st : Store) (b : Block) : Block :=
  let d := b.die stack
  let td := tdOf (b.tables.getD table {}).desc
  match d.shares.get? table, d.journals.find? fun j => j.table == table && !j.lost with
  | some sh, some j =>
    let (r, _) := b.rowRef td j.lrow (sh.slots.getD j.lrow [])
    if !b.hostUp || b.rowBlocked r || b.masterMute j.parts then b
    else
      let h := r.keptHdr st b
      let payload := r.read st b 16 td.P
      let b := b.onDie stack fun d => { d with journals := d.journals.filter fun x => !(x.table == table && x.lrow == j.lrow) }
      let (b, holds) := Block.applyCommit st b stack r sh.bseq h payload [] (masterOf td j.record) [] j.record (b.shareClass sh)
      b.finishEntry stack table j.lrow holds
  | _, _ =>
    if !b.hostUp then b
    else { b with works := b.works.mapVal fun _ w =>
      match w.data with
      | .rows r =>
        (match r.sent with
         | some l => if w.table == some table && (b.rowVia w.ring w.p td l).1.stack == stack && !b.masterMute (b.masterVia w.ring w.p td l) then
             { w with data := .rows { r with acked := true } } else w
         | none => w)
      | _ => w }

/-! ## The end of a share (R111, R122, R126, R130) -/

/-- Ask again every gate of the table that answered Wait (R113). -/
def Block.reask (b : Block) (table : Nat) : Block :=
  b.works.vals.foldl (fun b w =>
    match w.data with
    | .update u =>
      if u.asked && !u.started && w.phase == .active && (uop w.x).table == table && !(b.tables.getD table {}).reshard then
        ((u.gates.filter (·.2 == .wait)).map (·.1)).foldl (fun b s => b.askGate w.ring w.p s) b
      else b
    | _ => b) b

/-! ## REDERIVE (R76, R125, R264) -/

/-- REDERIVE: the engine re-derives a poisoned row through its job's tables, when its master can be reached; otherwise it asks the twin. -/
def rederive (job table lrow : Nat) (st : Store) (b : Block) : Block :=
  match b.tableOf job table with
  | none => b
  | some t =>
    let td := tdOf t.desc
    if t.retiring || td.lrows ≤ lrow || !td.hasSource then b
    else
      let page := fun (v : Nat) => match walkAll st b job { va := v, read := true, place := 1, domain := td.domain } with
        | (.page pg, _) => some pg.addr
        | _ => none
      match partsVia page (td.slotVa lrow) td.S with
      | none => b
      | some parts =>
        match b.rowRef td lrow parts with
        | (r, 0) =>
          if !(hdrOf (r.read st b 0 16)).poison && !(r.atoms 0 td.rowBytes).any (view st b).poison.contains then b
          else (rederiveRow st b (b.homeHub r.stack) r).1
        | _ => b

def execRederive (job table lrow : Nat) (s : State) : Result := live (rederive job table lrow) s

end Sys2Proof.Machine
end

