-- ==== Sys2Proof/Machine/Maint.lean ====
section
/-! DEFINITION. Row maintenance, prefetch and re-sharding slots: REQUANT, ZERO_ROWS (R214), PREFETCH_ROWS (R212), COPY_PERMUTE (R351 to
R357), DIGEST_EXCHANGE's pickup (R398). -/
namespace Sys2Proof.Machine

/-- Fields that these operands share: the table at [255:236]. -/
def Work.tableId (w : Work) : Nat := w.f 236 20
def Work.rows (w : Work) : Rows := match w.data with | .rows r => r | _ => {}
def Block.setRows (b : Block) (rid p : Nat) (f : Rows → Rows) : Block :=
  b.onWork rid p fun w => match w.data with | .rows r => { w with data := .rows (f r) } | _ => w
def Block.addCounters (b : Block) (rid p : Nat) (cs : List Nat) : Block :=
  b.onWork rid p fun w => { w with counters := addCounts w.counters cs }
def Block.tdOfWork (b : Block) (w : Work) : TD := tdOf (b.tables.getD w.tableId {}).desc
/-- One in counter k. -/
def oneIn (k : Nat) : List Nat := (List.range (k + 1)).map fun i => if i = k then 1 else 0
/-- End a slot with the counters it has. -/
def Block.finish (b : Block) (rid p status pos : Nat) : Block :=
  match b.work? rid p with
  | some w => b.endSlot rid p status pos (w.counters.map sat32)
  | none => b

/-! ## Row ranges: REQUANT and ZERO_ROWS (Table 7-14) -/

def gFirst (x : Nat) : Nat := bits x 128 64
def gCount (x : Nat) : Nat := bits x 256 64
def rangeReserved : List (Nat × Nat) := [inlineArea, (320, 192), (192, 44)]

/-- Rows of a tile. -/
def tileRows : Nat := 65536

/-- Checks of a slot over a range of global rows. -/
def Block.rangeCheck (b : Block) (job x : Nat) : Nat :=
  match b.tableUse job (bits x 236 20) with
  | none => TABLE_UNDEFINED
  | some t => if gCount x = 0 || (tdOf t.desc).grows < gFirst x + gCount x then UPDATE_INVALID else OK

/-- A slot over rows [first, last) picked up. -/
def Block.startRows (b : Block) (rid p first last : Nat) : Block :=
  b.onWork rid p fun w => { w with data := .rows { next := first, last := last, desc := (b.tables.getD w.tableId {}).desc } }

def maintStart (b : Block) (r : Ring) (p x rid : Nat) : Block :=
  let s := thenCheck (headCheck b.eng.minor r.cls x rangeReserved false) fun _ => b.rangeCheck r.job x
  if s ≠ OK then b.endSlot rid p s 0 [] else b.startRows rid p (gFirst x) (gFirst x + gCount x)

/-- A table that is re-sharding makes REQUANT and ZERO_ROWS slots wait at pickup (R354). -/
def Block.resharding (b : Block) (x : Nat) : Bool := (b.tables.getD (bits x 236 20) {}).reshard

def execRequant (ring : Nat) (s : State) : Result :=
  run (fun st b => pickup (fun x => bits x 8 8 == 0x12 && !b.resharding x) (fun _ b r p x => maintStart b r p x ring) ring st b) s
def execZeroRows (ring : Nat) (s : State) : Result :=
  run (fun st b => pickup (fun x => bits x 8 8 == 0x13 && !b.resharding x) (fun _ b r p x => maintStart b r p x ring) ring st b) s

/-- Global rows of the slot's present tile: [first, end). -/
def Work.tileSpan (w : Work) : Nat × Nat :=
  let f := gFirst w.x + tileRows * w.tile
  (f, Nat.min (f + tileRows) (gFirst w.x + gCount w.x))

/-- Local rows of global rows [lo, hi) held here, each with its global row; and how many are not held. -/
def TD.heldIn (td : TD) (lo hi : Nat) : List (Nat × Nat) × Nat :=
  let gs := (List.range (hi - lo)).map (lo + ·)
  let held := gs.filterMap fun g => match td.shard g with | .local l => some (g, l) | _ => none
  (held, gs.length - held.length)

/-- Update right on each row's slot and master record (R214). -/
def updateNeeds (td : TD) (lrow : Nat) : List Need :=
  needsOf (td.slotVa lrow) td.S (td.rowNeed false true) ++ (if td.place = 1 then needsOf (td.masterVa lrow) td.T { update := true, place := 2 } else [])

/-- The next tile, or the end of the slot. -/
def Block.rowsTileEnd (b : Block) (rid p : Nat) : Block :=
  match b.work? rid p with
  | none => b
  | some w =>
    if w.tileSpan.2 ≥ gFirst w.x + gCount w.x then b.finish rid p w.status w.position
    else (b.onWork rid p fun w => { w with tile := w.tile + 1, pages := [] }).setRows rid p fun r => { r with next := w.tileSpan.2, started := false }

/-- What one row of a maintenance slot came to. -/
inductive RowStep where
  | done
  | wait
  | ended
deriving DecidableEq, Repr

/-- The row is poisoned: an atom holds the pattern, or its header says so. -/
def RowRef.isPoisoned (r : RowRef) (st : Store) (b : Block) : Bool :=
  (r.atoms 0 r.td.rowBytes).any (view st b).poison.contains || (hdrOf (r.read st b 0 16)).poison

/-- The zero row of R55 and R443. -/
def zeroWorkRow (td : TD) : WorkRow :=
  let payload := List.replicate td.P (0#8)
  { hdr := RowHdr.sealed { fmt := td.wfmt } payload, payload := payload }
def zeroMaster (td : TD) : List Byte :=
  let rest := List.replicate (td.M - 16) (0#8)
  (masterHdr td.mfmt rest).bytes ++ rest

/-- A slot that must reach the capacity tier while the host link is lost ends (R348). -/
def Block.hostEndSlot (b : Block) (rid p : Nat) : Block := (b.hostNeeded rid p whatMASTER).finish rid p HOST_LOST 0

/-- A class 1 row of a maintenance slot: its master record is written toward the capacity tier, and the working row waits for the
acknowledgement (R67). The answer tells whether the row may be committed now. -/
def Block.masterFirst (b : Block) (rid p : Nat) (td : TD) (hub lrow : Nat) (rec_ : List Byte) : Block × RowStep :=
  if td.place ≠ 1 then (b, .done)
  else if b.hostLostNow then (b.hostEndSlot rid p, .ended)
  else
    let r := match b.work? rid p with | some w => w.rows | none => {}
    if r.sent = some lrow then (b, if r.acked then .done else .wait)
    else if !b.hostUp then (b, .wait)
    else ((b.wrMaster hub td (b.masterVia rid p td lrow) rec_).setRows rid p fun r => { r with sent := some lrow, acked := false }, .wait)

/-- The row of a maintenance slot is committed. -/
def Block.rowDone (b : Block) (rid p : Nat) : Block := b.setRows rid p fun x => { x with committed := true, sent := none, acked := false }

/-- ZERO_ROWS on one row: a poisoned row with a source waits until it is re-derived; without one it is left, and counts in POISONED and not in
ROWS (DESIGN CHOICE, log 105). A header that fails its checks is written over: ZERO_ROWS makes such a row whole (R445). -/
def zeroRow (st : Store) (b : Block) (rid p : Nat) (r : RowRef) (cls : Nat) : Block × RowStep :=
  let td := r.td
  let hub := b.homeHub r.stack
  if (b.chan r.ch).lost && td.hasSource then (b, .wait)
  else
    let (b, ready, left) :=
      if (b.chan r.ch).lost then (b, true, true)
      else if !r.isPoisoned st b then (b, true, false)
      else if !td.hasSource then (b, true, true)
      else match rederiveRow st b hub r cls with
        | (b, .done) => (b, false, false)
        | (b, .wait) => (b, false, false)
        | (b, .noSource) => (b, true, true)
        | (b, .stop _) => (b, true, false)
    if !ready then (b, .wait)
    else if left then (b.addCounters rid p (oneIn 4), .done)
    else match b.masterFirst rid p td hub r.lrow (zeroMaster td) with
      | (b, .done) =>
        let b := Block.commitEntry st b r hub (slotImage td (zeroWorkRow td) (if td.place = 0 then zeroMaster td else [])) cls
        (((b.journal td r.stack r.lrow 0).addCounters rid p (oneIn 0)).rowDone rid p, .done)
      | x => x

/-- REQUANT on one row (R65, R66): from the master in classes 0 and 1, from the decoded working copy in class 2. ROWS counts neither a row that
counts in NFROWS nor one that counts in POISONED: the manual does not say (DESIGN CHOICE, log 105). -/
def requantOne (st : Store) (b : Block) (rid p : Nat) (r : RowRef) (cls : Nat) (err : ReadErr) : Block × RowStep :=
  let td := r.td
  let hub := b.homeHub r.stack
  if b.readWaits r then (b, .wait)
  else
  let (b, fromStack) := b.bufferRead r err cls
  match readRowHealed st b hub r fromStack err cls with
  | (b, .wait) => (b, .wait)
  | (b, .stop s) => (b.finish rid p s 0, .ended)
  | (b, .poisoned) => (b.addCounters rid p (oneIn 4), .done)
  | (b, .row h payload) =>
    if b.rowStalls r then (b, .wait)
    else match rowInputs st b r (b.masterVia rid p td r.lrow) h payload with
    | .wait => (b, .wait)
    | .hostLost => (b.hostEndSlot rid p, .ended)
    | .bad s => (b.finish rid p s 0, .ended)
    | .poisoned =>
      (match (poisonMaster st b hub r).askTwin r with
       | (b, .noSource) => (b.addCounters rid p (oneIn 4), .done)
       | (b, _) => (b, .wait))
    | .ready m rec_ =>
      let row := requantRow td.wfmt td.zpmode { hdr := h, payload := payload } h.touch h.nonfinite m.vals
      if !allFinite m.vals then
        let (b, holds) := b.wrCommit hub td.cpart (b.rowLocs r) r.headParts row.hdr.bytes cls
        let b := b.enter r.stack { table := td.table, lrow := r.lrow, holds := holds, granules := b.rowLocs r }
        (((b.journal td r.stack r.lrow 0).addCounters rid p (oneIn 3)).rowDone rid p, .done)
      else
        let aux := if td.place = 0 then td.fixedMaster rec_ else if td.place = 2 then stateBytesOf m.vecs m.words else []
        let b := ((Block.commitEntry st b r hub (slotImage td row aux) cls).drift td row.hdr.saturated 0).journal td r.stack r.lrow 0
        let b := (b.addCounters rid p (oneIn 0)).addCounters rid p (if row.hdr.saturated then oneIn 2 else [])
        (b.rowDone rid p, .done)

/-- Rows of the present tile in increasing order, until one waits: each enters the scoreboard of its row die. `err` is what the first row that is
read meets. -/
def rowsLoop (st : Store) (rid p : Nat) (zero : Bool) : List (Nat × Nat) → ReadErr → Block → Block × Bool
  | [], _, b => (b, true)
  | (g, l) :: rest, err, b =>
    match b.work? rid p with
    | none => (b, false)
    | some w =>
      let td := b.tdOfWork w
      let (r, _) := b.rowVia rid p td l
      if b.rowStalls r || b.rowTask rid p l then (b, false)
      else
        match (if zero then zeroRow st b rid p r w.cls else requantOne st b rid p r w.cls err) with
        | (b, .done) => rowsLoop st rid p zero rest [] (b.setRows rid p fun x => { x with next := g + 1 })
        | (b, _) => (b, false)

/-- REQUANT passes of a tile, as tasks on the row dies that own its rows (Table 8-1). -/
def Block.requantTasks (b : Block) (rid p : Nat) (td : TD) (held : List (Nat × Nat)) : Block :=
  held.foldl (fun b (_, l) =>
    let s := (b.rowVia rid p td l).1.stack
    b.addTask (b.homeHub s) rid p .requant (some s) (requantOps td) (some l)) b

/-- Prefetch walks for the pages of a maintenance slot's next tile (R310). -/
def Block.aheadRows (b : Block) (rid : Nat) (w : Work) (td : TD) : Block :=
  let hi := w.tileSpan.2
  let (held, _) := td.heldIn hi (Nat.min (hi + tileRows) (gFirst w.x + gCount w.x))
  b.walkAhead (ringHub rid) w.job (held.flatMap fun (_, l) => updateNeeds td l)

/-- TILE_START of a maintenance slot: the tile is translated whole, then its rows are worked in order. -/
def maintTile (st : Store) (b : Block) (rid p : Nat) (w : Work) (err : ReadErr) : Block :=
  let td := b.tdOfWork w
  let (lo, hi) := w.tileSpan
  let (held, away) := td.heldIn lo hi
  let go := fun (b : Block) =>
    match rowsLoop st rid p (w.opcode == 0x13) (held.filter fun (g, _) => decide ((match b.work? rid p with | some w => w.rows.next | none => 0) ≤ g)) err b with
    | (b, true) => b.rowsTileEnd rid p
    | (b, false) => b
  if w.rows.started then go b
  else match b.ensure rid p (held.flatMap fun (_, l) => updateNeeds td l) with
    | (b, false) => b
    | (b, true) =>
      let split := (held.map fun (_, l) => (b.rowVia rid p td l).2).find? (· ≠ OK)
      match split with
      | some s => b.finish rid p s 0
      | none =>
        let b := ((b.setRows rid p fun r => { r with started := true }).addCounters rid p [0, away]).aheadRows rid w td
        if w.opcode = 0x12 then b.requantTasks rid p td held else go b

/-! ## PREFETCH_ROWS (R212) -/

def prefetchReserved : List (Nat × Nat) := [(312, 200), (225, 6), (128, 64)]

def Block.prefetchCheck (b : Block) (job x : Nat) : Nat :=
  let inl := bit x 233
  let nidx := bits x 192 33
  let len := nidx * idxSize (bits x 234 2)
  let base := bits x 256 56
  firstFail
    [ ((b.tableUse job (bits x 236 20)).isNone, TABLE_UNDEFINED)
    , (if inl then base != 0 || decide (192 < len) else base == 0, LOOKUP_INVALID)
    , (decide (2 ^ 32 < nidx), LOOKUP_INVALID)
    , (base % 4 != 0 || decide (2 ^ 56 < base + len), LOOKUP_INVALID)
    , (rsvSet x (if inl then [(512 + 8 * len, 8 * (192 - len))] else [inlineArea]), RESERVED_NONZERO) ]

def prefetchStart (b : Block) (r : Ring) (p x rid : Nat) : Block :=
  let s := thenCheck (headCheck b.eng.minor r.cls x prefetchReserved (decide (1 < bits x 231 2))) fun _ => b.prefetchCheck r.job x
  if s ≠ OK then b.endSlot rid p s 0 [] else b.startRows rid p 0 0

def execPrefetchRows (ring : Nat) (s : State) : Result :=
  run (pickup (fun x => bits x 8 8 == 0x03) (fun _ b r p x => prefetchStart b r p x ring) ring) s

/-- What a prefetch finds of a page: no Harvest record and no halt for one that is not present or lacks the right, or whose TARGET does not
suit a row (R212; DEDUCED, log 102). An entry that fails R17 ends the slot with its status (R18). -/
inductive QuietPage where
  | page (pg : Page)
  | skip
  | stop (status : Nat)
deriving DecidableEq, Repr

def quietPage (st : Store) (b : Block) (rid job : Nat) (n : Need) : QuietPage × Block :=
  match translateNow st b (ringHub rid) job n with
  | (.page pg, b) => (.page pg, b)
  | (.fault _ _ _, b) => (.skip, b)
  | (.stop s, b) => (.stop s, b)

/-- Pages of a span: those that are mapped are held, and the status of a page that ends the slot. -/
def quietPages (st : Store) (b : Block) (rid p job va n : Nat) : Block × Nat :=
  (pagesOf va n).foldl (fun (b, s) v =>
    if s ≠ OK then (b, s)
    else match quietPage st b rid job { va := v, read := true } with
    | (.page pg, b) => (if (b.unitPages rid p).any fun x => x.vpn == pg.vpn && x.addr == pg.addr then b else b.holdPage rid p pg, s)
    | (.skip, b) => (b, s)
    | (.stop e, b) => (b, e)) (b, OK)

/-- Index k of an array: its value, or none where its bytes lie on a page that is not mapped. -/
def indexAt (st : Store) (b : Block) (rid p va size : Nat) : Block × Option Rd :=
  let pages := b.unitPages rid p
  if (pagesOf va size).all fun v => pages.any fun pg => pg.vpn * 65536 == v then
    let (b, r) := readVa st b rid p va size
    (b, some r)
  else (b, none)

/-- All indices of a prefetch: values, and how many could not be read; a wait or a status otherwise. -/
def prefetchIndices (st : Store) (b : Block) (rid p base size n : Nat) : Block × Rd × List Nat × Nat :=
  (List.range n).foldl (fun (b, s, vs, bad) k =>
    match s with
    | .stop e => (b, .stop e, vs, bad)
    | _ =>
      match indexAt st b rid p (base + k * size) size with
      | (b, none) => (b, s, vs, bad + 1)
      | (b, some (.got bs)) => (b, s, vs ++ [ofBytes bs], bad)
      | (b, some .wait) => (b, .wait, vs, bad)
      | (b, some (.stop e)) => (b, .stop e, vs, bad)) (b, .got [], [], 0)

/-- Where a row's slot lies for a prefetch. -/
def quietRow (st : Store) (b : Block) (rid : Nat) (td : TD) (lrow : Nat) : Block × Except Nat (Option RowRef) :=
  let (b, pages) := (needsOf (td.slotVa lrow) td.S (td.rowNeed true false)).foldl (fun (b, acc) n =>
    match acc with
    | .error s => (b, .error s)
    | .ok none => (b, .ok none)
    | .ok (some ps) =>
      match quietPage st b rid td.job n with
      | (.page pg, b) => (b, .ok (some (ps ++ [pg])))
      | (.skip, b) => (b, .ok none)
      | (.stop s, b) => (b, .error s)) (b, (.ok (some []) : Except Nat (Option (List Page))))
  match pages with
  | .error s => (b, .error s)
  | .ok none => (b, .ok none)
  | .ok (some ps) =>
    match partsVia (fun v => (ps.find? fun pg => pg.vpn * 65536 == v).map (·.addr)) (td.slotVa lrow) td.S with
    | none => (b, .ok none)
    | some parts =>
      match b.rowRef td lrow parts with
      | (r, s) => (b, if s = ROW_SPLIT then .error s else .ok (some r))

/-- What bringing a row in came to: it is settled, in a counter or in none; its read is under way; or the slot ends. -/
inductive Brought where
  | settled (k : Option Nat)
  | underWay
  | stop (status : Nat)
deriving DecidableEq, Repr

/-- Bring one row into the level asked for. `asked` tells that its read has been sent: the row counts in BROUGHT once it stands at that
level, and in no counter when no way was eligible (R212). A partition with ADMIT 0, or a slice that is lost, leaves the row buffer alone
(R290, R298). -/
def bringRow (st : Store) (b : Block) (rid : Nat) (td : TD) (level lrow : Nat) (asked : Bool) : Block × Brought :=
  match quietRow st b rid td lrow with
  | (b, .error s) => (b, .stop s)
  | (b, .ok none) => (b, .settled (some 3))
  | (b, .ok (some r)) =>
    let locs := b.rowLocs r
    let up := level != 0 && (match b.sliceOf r.stack with | some h => b.admitAt h td.cpart != 0 | none => false)
    let there := if up then b.cacheHit r.stack locs != .miss else b.bufferHit r.stack locs
    let coming := locs.any (fun x => (b.chan x.1).holds (.fill td.cpart locs false up true))
      || (up && match b.sliceOf r.stack with | some h => (b.hub h).slice.fills.any (·.granules == locs) | none => false)
    if (b.chan r.ch).lost then (b, .settled none)
    else if asked && coming then (b, .underWay)
    else if there then (b, .settled (some (if asked then 1 else 2)))
    else if asked then (b, .settled none)
    else if up && b.bufferHit r.stack locs then
      (match b.sliceOf r.stack with
       | some h => (b.startFill h td.cpart locs true, .underWay)
       | none => (b, .settled none))
    else (b.prefetchRead td.cpart locs false up true, .underWay)

/-- Rows of a prefetch that are not settled yet: each is asked for, or looked at again. -/
def bringRows (st : Store) (rid p : Nat) (td : TD) (level : Nat) (rows : List Nat) (b : Block) : Block × Option Nat :=
  rows.foldl (fun (b, stop) l =>
    match stop, b.work? rid p with
    | none, some w =>
      (match bringRow st b rid td level l (w.rows.asked.contains l) with
       | (b, .stop s) => (b, some s)
       | (b, .underWay) => (b.setRows rid p fun r => { r with asked := if r.asked.contains l then r.asked else r.asked ++ [l] }, none)
       | (b, .settled k) =>
         ((b.addCounters rid p (match k with | some k => oneIn k | none => [])).setRows rid p fun r => { r with todo := r.todo.filter (· != l) }, none))
    | _, _ => (b, stop)) (b, none)

/-- Every row of a prefetch is settled: the slot ends. -/
def prefetchEnd (st : Store) (b : Block) (rid p : Nat) (td : TD) (level : Nat) : Block :=
  match b.work? rid p with
  | none => b
  | some w =>
    match bringRows st rid p td level w.rows.todo b with
    | (b, some s) => b.finish rid p s 0
    | (b, none) => if (match b.work? rid p with | some w => w.rows.todo.isEmpty | none => false) then b.finish rid p OK 0 else b

/-- TILE_START of a PREFETCH_ROWS slot: it has no unit, but its record and flag pages come first (R316). Its rows' reads are prefetch-class
requests at their channels (R213). -/
def prefetchTile (st : Store) (b : Block) (rid p : Nat) (w : Work) : Block :=
  match b.rings.get? rid with
  | none => b
  | some r =>
    let x := w.x
    let td := b.tdOfWork w
    let level := bits x 231 2
    if w.rows.started then prefetchEnd st b rid p td level
    else match b.recsHeld rid p with
    | (b, false) => b
    | (b, true) =>
    let idxw := bits x 234 2
    let size := idxSize idxw
    let n := bits x 192 33
    let base := bits x 256 56
    let inl := bit x 233
    match (if inl then (b, OK) else quietPages st b rid p r.job base (n * size)) with
    | (b, s) =>
    if s ≠ OK then b.finish rid p s 0
    else
    let (b, rd, raws, bad) :=
      if inl then (b, Rd.got [], fieldsOf (8 * size) n (x >>> 512), 0) else prefetchIndices st b rid p base size n
    match rd with
    | .wait => b
    | .stop s => b.finish rid p s 0
    | .got _ =>
      let cls := raws.map fun v => classify td idxw (some v)
      let held := distinct (cls.filterMap fun c => match c with | .held l => some l | _ => none)
      let counts := [held.length, 0, 0, bad, cls.countP (· == .padding), cls.countP (· == .notHere)]
      let b := (b.addCounters rid p counts).setRows rid p fun r => { r with started := true, todo := held }
      prefetchEnd st b rid p td level

/-! ## COPY_PERMUTE (R351 to R357) -/

def phaseOf (x : Nat) : Nat := bits x 234 2
def permReserved : List (Nat × Nat) := [inlineArea, (504, 8), (440, 8), (297, 87), (169, 32)]
def planCount (x : Nat) : Nat := bits x 217 16
def newNum (x : Nat) : Nat := bits x 201 16
def lFirst (x : Nat) : Nat := bits x 128 41
def lCount (x : Nat) : Nat := bits x 256 41
def planBase (x : Nat) : Nat := bits x 448 56
def stageBase (x : Nat) : Nat := bits x 384 56

/-- A plan entry (Table 12-8): FIRST, LROWS, WINDOW, SELF. -/
def peFirst (e : BitVec 128) : Nat := bits e.toNat 0 48
def peRows (e : BitVec 128) : Nat := bits e.toNat 48 41
def peWin (e : BitVec 128) : Nat := bits e.toNat 92 12
def peSelf (e : BitVec 128) : Bool := bit e.toNat 104

/-- Modulo counts of R51. -/
def moduloRows (grows shcount shnum : Nat) : Nat := if shnum < grows then (grows - 1 - shnum) / shcount + 1 else 0

/-- A window is set for a job slot. -/
def Block.windowOf (b : Block) (job w : Nat) : Bool := match b.eng.windows.get? w with | some e => jobOf e 20 == job | none => false

/-- R17 on the plan's entries, then R353. A nonzero WINDOW in an entry with SELF 1 counts as a reserved field that is not zero: Table 12-8 says only
that it is zero then (DESIGN CHOICE, log 106). -/
def Block.permCheck (b : Block) (job x : Nat) (td : TD) (plan : List (BitVec 128)) : Nat :=
  let n := planCount x
  let rangeOk := (plan.foldl (fun (acc : Option Nat) e => match acc with
    | some g => if peFirst e = g then some (g + peRows e) else none
    | none => none) (some 0)) == some td.grows
  let modOk := plan.zipIdx.all fun (e, k) => peFirst e == 0 && peRows e == moduloRows td.grows n k
  firstFail
    [ (plan.any fun e => rsvSet e.toNat ([(105, 23), (89, 3)] ++ if peSelf e then [(92, 12)] else []), RESERVED_NONZERO)
    , (n == 0 || decide (n ≤ newNum x), RESHARD_INVALID)
    , (plan.countP peSelf != 1 || !peSelf (plan.getD (newNum x) 0), RESHARD_INVALID)
    , (plan.any fun e => !peSelf e && !b.windowOf job (peWin e), RESHARD_INVALID)
    , (if bit x 233 then !modOk else !rangeOk, RESHARD_INVALID)
    , (if phaseOf x = 0 then decide (td.lrows < lFirst x + lCount x) else lFirst x != 0 || lCount x != 0, RESHARD_INVALID)
    , (stageBase x % 65536 != 0 || planBase x % 16 != 0, RESHARD_INVALID) ]

/-- The plan is read at pickup with the read right; once it has been checked, the first SEND starts the re-sharding (R354). -/
def permPlan (st : Store) (b : Block) (rid p : Nat) : Block :=
  match b.rings.get? rid, b.work? rid p with
  | some r, some w =>
    if w.rows.verified || w.phase != .active then b
    else
      let n := 16 * planCount w.x
      let td := b.tdOfWork w
      let k := fun (b : Block) (bs : List Byte) =>
        let plan := (fieldsOf 128 (planCount w.x) (ofBytes bs)).map (BitVec.ofNat 128 ·)
        let s := b.permCheck r.job w.x td plan
        if s ≠ OK then b.endSlot rid p s 0 []
        else if phaseOf w.x = 2 then (b.onTable w.tableId fun t => { t with reshard := false }).endSlot rid p OK 0 []
        else
          let first := phaseOf w.x = 0 && !(b.tables.getD w.tableId {}).reshard
          let b := b.setRows rid p fun x => { x with verified := true, plan := plan, started := false, committed := false
                                                     todo := if first then [1] else [] }
          if first then b.onTable w.tableId fun t => { t with reshard := true } else b
      if n = 0 then k b [] else withRead st b rid p (planBase w.x) n k
  | _, _ => b

def permStart (st : Store) (b : Block) (r : Ring) (p x rid : Nat) : Block :=
  let s := thenCheck (headCheck b.eng.minor r.cls x permReserved (decide (phaseOf x = 3))) fun _ =>
    if (b.tableUse r.job (bits x 236 20)).isNone then TABLE_UNDEFINED else OK
  if s ≠ OK then b.endSlot rid p s 0 [] else permPlan st (b.startRows rid p (lFirst x) (lFirst x + lCount x)) rid p

/-- SEND; a PHASE that is undefined ends with UNKNOWN_ENCODING. -/
def execCopyPermuteSend (ring : Nat) (s : State) : Result :=
  run (pickup (fun x => bits x 8 8 == 0x20 && (phaseOf x == 0 || phaseOf x == 3)) (fun st b r p x => permStart st b r p x ring) ring) s
def execCopyPermuteCommit (ring : Nat) (s : State) : Result :=
  run (pickup (fun x => bits x 8 8 == 0x20 && phaseOf x == 1) (fun st b r p x => permStart st b r p x ring) ring) s
def execCopyPermuteAbandon (ring : Nat) (s : State) : Result :=
  run (pickup (fun x => bits x 8 8 == 0x20 && phaseOf x == 2) (fun st b r p x => permStart st b r p x ring) ring) s

/-- Where a global row goes under a plan: new shard and local row (R355). -/
def permTo (x : Nat) (plan : List (BitVec 128)) (g : Nat) : Nat × Nat :=
  if bit x 233 then (g % planCount x, g / planCount x)
  else match plan.findIdx? fun e => decide (peFirst e ≤ g) && decide (g < peFirst e + peRows e) with
    | some n => (n, g - peFirst (plan.getD n 0))
    | none => (0, 0)

/-- M0 of a holder (R352). -/
def stageM0 (td : TD) (e : BitVec 128) : Nat := roundUp (peRows e * td.S) 65536

/-- The SENDs that began the re-sharding have waited for the table's older updates and maintenance (R354). -/
def Block.quiesced (b : Block) (w : Work) : Bool :=
  let t := w.tableId
  !b.works.vals.any fun x =>
    x.table == some t && !(x.ring == w.ring && x.p == w.p) && decide (x.order < w.order) &&
      (if w.rows.todo == [1] then [0x10, 0x11, 0x12, 0x13].contains x.opcode else x.opcode == 0x20 && x.rows.todo == [1])

/-- Write one span toward a shard's holder: here, or through its window. -/
def sendSpan (st : Store) (b : Block) (rid p : Nat) (x : Nat) (e : BitVec 128) (off : Nat) (data : List Byte) : Block × Nat :=
  if peSelf e then b.outWrite st rid p (stageBase x + off) data
  else if !b.windowSet (peWin e) then (b, WINDOW_REFUSED)
  else
    let (b, n) := b.sendWin rid p (peWin e) false (.winWrite rid p (peWin e) (b.winHead (ringHub rid) (peWin e) off) data)
    (b.onWork rid p fun w => { w with outstanding := w.outstanding + n }, OK)

/-- The master record of a row that SEND carries: nothing outside class 1; its header is checked as every header read is (R56). -/
def sendMasterRead (st : Store) (b : Block) (rid p : Nat) (td : TD) (lrow : Nat) : Rd :=
  if td.place ≠ 1 then .got []
  else if !b.hostUp then .wait
  else
    let parts := b.masterVia rid p td lrow
    let bs := (parts.flatMap fun (_, a, m) => rdHost st b a m).take td.M
    if parts.any fun (_, a, m) => hostBad st b a m then .stop MEMORY_POISONED
    else if hdrCheck bs td.mfmt ≠ OK then .stop (hdrCheck bs td.mfmt)
    else .got bs

/-- SEND of one row (R355): read as a row, and a poisoned one with a source awaited; its slot goes as it stands, or without a source its header
with a payload of zeros. -/
def sendRow (st : Store) (b : Block) (rid p : Nat) (w : Work) (i : Nat) (err : ReadErr) : Block × RowStep :=
  let td := b.tdOfWork w
  let plan := w.rows.plan
  let g := td.globalRow i
  let (n, j) := permTo w.x plan g
  if n = newNum w.x && j = i then (b.addCounters rid p (oneIn 2), .done)
  else
    let (r, split) := b.rowVia rid p td i
    let e := plan.getD n 0
    if split = ROW_SPLIT then (b.finish rid p split 0, .ended)
    else if b.stalls r.stack td.table i (b.rowLocs r) || b.readWaits r then (b, .wait)
    else if td.place = 1 && b.hostLostNow then (b.hostEndSlot rid p, .ended)
    else
      let (b, fromStack) := b.bufferRead r err w.cls
      match readRowHealed st b (b.homeHub r.stack) r fromStack err w.cls with
      | (b, .wait) => (b, .wait)
      | (b, .stop s) => (b.finish rid p s 0, .ended)
      | (b, x) =>
        let lost := x == .poisoned
        match sendMasterRead st b rid p td i with
        | .wait => (b, .wait)
        | .stop s => (b.finish rid p s 0, .ended)
        | .got rec_ =>
          let img := if lost then r.read st b 0 16 ++ List.replicate (td.S - 16) 0 else r.read st b 0 td.S
          let (b, s1) := sendSpan st b rid p w.x e (j * td.S) img
          let (b, s2) := if td.place = 1 then sendSpan st b rid p w.x e (stageM0 td e + j * td.T) (masterImage td rec_) else (b, OK)
          let s := if s1 ≠ OK then s1 else s2
          if s ≠ OK then (b.finish rid p s 0, .ended)
          else (((b.enter r.stack { table := td.table, lrow := i, granules := b.rowLocs r }).addCounters rid p
            (oneIn (if peSelf e then 1 else 0))).addCounters rid p (if lost then oneIn 4 else []), .done)

def sendLoop (st : Store) (rid p : Nat) (w : Work) : List Nat → ReadErr → Block → Block × Bool
  | [], _, b => (b, true)
  | i :: rest, err, b =>
    match sendRow st b rid p w i err with
    | (b, .done) => sendLoop st rid p w rest [] (b.setRows rid p fun x => { x with next := i + 1 })
    | (b, _) => (b, false)

/-- Pages that a tile of SEND reads and writes. -/
def sendNeeds (td : TD) (x : Nat) (plan : List (BitVec 128)) (i : Nat) : List Need :=
  let (n, j) := permTo x plan (td.globalRow i)
  let e := plan.getD n 0
  if n = newNum x && j = i then []
  else needsOf (td.slotVa i) td.S (td.rowNeed true false)
    ++ (if td.place = 1 then needsOf (td.masterVa i) td.T { read := true, place := 2 } else [])
    ++ (if peSelf e then needsOf (stageBase x + j * td.S) td.S { write := true }
          ++ (if td.place = 1 then needsOf (stageBase x + stageM0 td e + j * td.T) td.T { write := true } else [])
        else [])

/-- TILE_START of a SEND. -/
def sendTile (st : Store) (b : Block) (rid p : Nat) (w : Work) (err : ReadErr) : Block :=
  let td := b.tdOfWork w
  let lo := lFirst w.x + tileRows * w.tile
  let hi := Nat.min (lo + tileRows) w.rows.last
  let rows := (List.range (hi - lo)).map (lo + ·)
  let go := fun (b : Block) =>
    match sendLoop st rid p w (rows.filter fun i => decide ((match b.work? rid p with | some w => w.rows.next | none => 0) ≤ i)) err b with
    | (b, true) =>
      if w.rows.last ≤ hi then b.finish rid p OK 0
      else (b.onWork rid p fun w => { w with tile := w.tile + 1, pages := [] }).setRows rid p fun r => { r with started := false }
    | (b, false) => b
  if w.rows.started then go b
  else if !b.quiesced w then b
  else if w.rows.todo == [1] && !(b.pendingRows w.tableId).isEmpty then b.endSlot rid p RESHARD_INVALID 0 []
  else
    let b := b.setRows rid p fun r => { r with todo := [] }
    match b.ensure rid p (rows.flatMap (sendNeeds td w.x w.rows.plan)) with
    | (b, false) => b
    | (b, true) => go (b.setRows rid p fun r => { r with started := true, next := lo })

/-- New local rows that are staged (R356): the old fields do not keep them in place. -/
def stagedRows (td : TD) (x : Nat) (e : BitVec 128) : List Nat :=
  let g := fun (j : Nat) => if bit x 233 then j * planCount x + newNum x else peFirst e + j
  (List.range (peRows e)).filter fun j => td.shard (g j) != .local j

/-- Slot and record of a staged row. -/
def stagedRead (st : Store) (b : Block) (rid p x : Nat) (td : TD) (e : BitVec 128) (j : Nat) : Block × Rd × Rd :=
  let (b, s) := readVa st b rid p (stageBase x + j * td.S) td.S
  if td.place = 1 then
    let (b, m) := readVa st b rid p (stageBase x + stageM0 td e + j * td.T) td.T
    (b, s, m)
  else (b, s, .got [])

/-- A staged row passes its checks: its header under R56 and its DIGEST under R58, and in class 1 its record's likewise (R356). A poisoned row
that was sent without its payload (R355) passes only when its DIGEST is that of its header and the payload of zeros (log 27). -/
def stagedOk (td : TD) (slot rec_ : List Byte) : Bool :=
  let h := hdrOf slot
  hdrCheck slot td.wfmt == OK && rowDigest h ((slot.take td.rowBytes).drop 16) == h.digest
  && (td.place != 1 || (hdrCheck rec_ td.mfmt == OK && rowDigest (hdrOf rec_) ((rec_.take td.M).drop 16) == (hdrOf rec_).digest))

/-- Verification of the staged rows in order: the first that fails, or a wait. -/
def verifyStaged (st : Store) (rid p x : Nat) (td : TD) (e : BitVec 128) : List Nat → Block → Block × Option (Option Nat)
  | [], b => (b, some none)
  | j :: rest, b =>
    match stagedRead st b rid p x td e j with
    | (b, .wait, _) => (b, none)
    | (b, _, .wait) => (b, none)
    | (b, .got s, .got m) => if stagedOk td s m then verifyStaged st rid p x td e rest b else (b, some (some j))
    | (b, _, _) => (b, some (some j))

/-- The slot that COMMIT writes for a staged row: its row, the record or states behind it with the header of R443, and zero padding (R47). The
record of a row that comes poisoned is lost with it, and says so. -/
def placedImage (td : TD) (slot : List Byte) : List Byte :=
  let h := hdrOf slot
  let aux := slot.drop td.auxOff
  let rest := (aux.take td.M).drop 16
  let behind := if td.place = 0 then
      (if h.poison then (RowHdr.sealed { fmt := td.mfmt, poison := true } rest).bytes ++ rest else td.fixedMaster aux)
    else if td.place = 2 then aux.take td.stateBytes else []
  slotImage td { hdr := h, payload := (slot.take td.rowBytes).drop 16 } behind

/-- Commits of the staged rows in order, through the scoreboard; a class 1 record goes first and is acknowledged (R67, R356 step 3). -/
def placeLoop (st : Store) (rid p x : Nat) (td : TD) (e : BitVec 128) (cls : Nat) : List Nat → Block → Block × Bool
  | [], b => (b, true)
  | j :: rest, b =>
    let (r, s) := b.rowVia rid p td j
    let hub := b.homeHub r.stack
    if s ≠ OK then (b.finish rid p s 0, false)
    else if b.rowStalls r then (b, false)
    else match stagedRead st b rid p x td e j with
      | (b, .got slot, .got m) =>
        (match b.masterFirst rid p td hub j (td.fixedMaster m) with
         | (b, .done) =>
           let b := ((Block.commitEntry st b r hub (placedImage td slot) cls).journal td r.stack j 0).addCounters rid p (oneIn 3)
           placeLoop st rid p x td e cls rest ((b.rowDone rid p).setRows rid p fun y => { y with next := j + 1 })
         | (b, _) => (b, false))
      | (b, _, _) => (b, false)

/-- New fields and the clearing of the staging (R356 steps 4 and 5); lookups that waited read the new fields. -/
def permEnd (st : Store) (b : Block) (rid p : Nat) (w : Work) (td : TD) (e : BitVec 128) (rows : List Nat) (same : Bool) : Block :=
  let x := w.x
  let m := bit x 233
  let b := if same then b else b.onTable w.tableId fun t => { t with
    desc := tdReshard t.desc (b2n m) (if m then planCount x else 0) (if m then 0 else peFirst e) (if m then newNum x else 0) td.grows (peRows e) }
  let desc := (b.tables.getD w.tableId {}).desc
  let b := b.onTable w.tableId fun t => { t with reshard := false }
  let b := { b with works := b.works.mapVal fun _ y => match y.data with
    | .lookup l => if y.table == some w.tableId && decide (w.order < y.order) && !l.running then { y with data := .lookup { l with desc := desc } } else y
    | _ => y }
  let zero := List.replicate 16 (0#8)
  let b := if same then b else rows.foldl (fun b j =>
    let b := (b.outWrite st rid p (stageBase x + j * td.S) zero).1
    if td.place = 1 then (b.outWrite st rid p (stageBase x + stageM0 td e + j * td.T) zero).1 else b) b
  let b := b.addCounters rid p [0, 0, if same then 0 else peRows e - rows.length]
  b.finish rid p OK 0

/-- Staging that a COMMIT reads, and what it writes (R356 steps 1 and 2). -/
def stageNeeds (td : TD) (x : Nat) (e : BitVec 128) (j : Nat) (write : Bool) : List Need :=
  needsOf (stageBase x + j * td.S) td.S { read := true, write := write }
  ++ (if td.place = 1 then needsOf (stageBase x + stageM0 td e + j * td.T) td.T { read := true, write := write } else [])

/-- TILE_START of a COMMIT: verification, translation, commits, new fields, clearing, in this order (R356). -/
def commitTile (st : Store) (b : Block) (rid p : Nat) (w : Work) : Block :=
  let td := b.tdOfWork w
  let x := w.x
  let e := w.rows.plan.getD (newNum x) 0
  let same := td.lrows == peRows e && td.shmode == bit x 233
    && (if bit x 233 then td.shcount == planCount x && td.shnum == newNum x else td.shfirst == peFirst e)
  let earlier := b.works.vals.any fun y => y.table == some w.tableId && decide (y.order < w.order)
  if earlier then b
  else if same then permEnd st b rid p w td e [] true
  else
    let rows := stagedRows td x e
    let go := fun (b : Block) =>
      match placeLoop st rid p x td e w.cls (rows.filter fun j => decide ((match b.work? rid p with | some w => w.rows.next | none => 0) ≤ j)) b with
      | (b, true) => permEnd st b rid p w td e rows false
      | (b, false) => b
    if w.rows.started then go b
    else match b.ensure rid p (rows.flatMap fun j => stageNeeds td x e j false) with
      | (b, false) => b
      | (b, true) =>
        match verifyStaged st rid p x td e rows b with
        | (b, none) => b
        | (b, some (some j)) => b.endSlot rid p RESHARD_INCOMPLETE j []
        | (b, some none) =>
          match b.ensure rid p (rows.flatMap fun j => stageNeeds td x e j true ++ updateNeeds td j) with
          | (b, false) => b
          | (b, true) => go (b.setRows rid p fun r => { r with started := true, next := 0 })

/-- TILE_START of a COPY_PERMUTE slot. -/
def permTile (st : Store) (b : Block) (rid p : Nat) (err : ReadErr) : Block :=
  let b := permPlan st b rid p
  match b.work? rid p with
  | none => b
  | some w => if w.phase != .active || !w.rows.verified then b else if phaseOf w.x = 0 then sendTile st b rid p w err else commitTile st b rid p w

/-! ## DIGEST_EXCHANGE (R398) -/

def exchangeReserved : List (Nat × Nat) := [inlineArea, (320, 192), (192, 43)]

def Block.exchangeCheck (b : Block) (job x : Nat) : Nat :=
  match b.tableUse job (bits x 236 20) with
  | none => TABLE_UNDEFINED
  | some t =>
    let td := tdOf t.desc
    if !td.mirror || gCount x = 0 || td.grows < gFirst x + gCount x then UPDATE_INVALID
    else if b.eng.twin.state != .paired then TWIN_STATE else OK

def exchangeStart (b : Block) (r : Ring) (p x rid : Nat) : Block :=
  let s := thenCheck (headCheck b.eng.minor r.cls x exchangeReserved false) fun _ => if b.feat featTWIN then b.exchangeCheck r.job x else FEATURE_ABSENT
  if s ≠ OK then b.endSlot rid p s 0 [] else b.startRows rid p (gFirst x) (gFirst x + gCount x)

def execDigestExchange (ring : Nat) (s : State) : Result :=
  run (pickup (fun x => bits x 8 8 == 0x21) (fun _ b r p x => exchangeStart b r p x ring) ring) s

/-- TILE_START of a DIGEST_EXCHANGE slot: with REPAIR, the held rows of its tile are translated with the update right (R214); the digest
sweep of the tile may then start. -/
def exchangeTile (b : Block) (rid p : Nat) (w : Work) : Block :=
  let td := b.tdOfWork w
  let (lo, hi) := w.tileSpan
  let (held, away) := td.heldIn lo hi
  if w.rows.started then b
  else match (if bit w.x 235 then b.ensure rid p (held.flatMap fun (_, l) => updateNeeds td l) else (b, true)) with
    | (b, false) => b
    | (b, true) => (b.setRows rid p fun r => { r with started := true }).addCounters rid p [0, away]

end Sys2Proof.Machine
end

