-- ==== Sys2Proof/Machine/Barriers.lean ====
section
/-! DEFINITION. Solstice barriers (R216 to R219), SIGNAL slots (R215), the start of a tile (R84, R315), and reading ahead (R211, R310). -/
namespace Sys2Proof.Machine

/-! ## SOLSTICE slots (Table 7-16) -/

def solReserved : List (Nat × Nat) := [inlineArea, (312, 200), (234, 13), (192, 20)]
def solId (x : Nat) : Nat := bits x 248 8
def solClear (x : Nat) : Bool := bit x 247
def solRings (x : Nat) : Nat := bits x 224 10 + 1
def solEng (x : Nat) : Nat := bits x 212 12
def solEpoch (x : Nat) : Nat := bits x 128 64
def solBase (x : Nat) : Nat := bits x 256 56

/-- The window list is the slot's unit: it is read at pickup, before any arrival is sent. A window that is not set refuses the
arrival (DEDUCED, log 28). -/
def readWindows (st : Store) (b : Block) (rid p : Nat) : Block :=
  match b.rings.get? rid, b.work? rid p with
  | some r, some w =>
    match w.data with
    | .solstice ws _ =>
      let n := solEng w.x
      if ws.length = n || w.phase != .active then b
      else withRead st b rid p (solBase w.x) (2 * n) fun b bs =>
        let ws := fieldsOf 16 n (ofBytes bs)
        if ws.any fun v => !b.windowOf r.job v then b.endSlot rid p WINDOW_REFUSED 0 []
        else b.onWork rid p fun w => { w with data := .solstice ws false }
    | _ => b
  | _, _ => b

def solStart (st : Store) (b : Block) (r : Ring) (p x rid : Nat) : Block :=
  let rsv := solReserved ++ (if solEng x = 0 then [(256, 56)] else [])
  let s := thenCheck (headCheck b.eng.minor r.cls x rsv false) fun _ => if solBase x % 2 ≠ 0 then SLOT_INVALID else OK
  if s ≠ OK then b.endSlot rid p s 0 []
  else readWindows st (b.onWork rid p fun w => { w with data := .solstice [] false }) rid p

def execSolstice (ring : Nat) (s : State) : Result :=
  run (pickup (fun x => bits x 8 8 == 0x30) (fun st b r p x => solStart st b r p x ring) ring) s

/-! ## Instances at the leader -/

def Barrier.is (x : Barrier) (job solid epoch : Nat) : Bool := x.job == job && x.solid == solid && x.epoch == epoch
/-- The epoch that a Solstice number is at (R219). -/
def Job.epochOf (j : Job) (solid : Nat) : Nat := j.epochs.getD solid 1
def Block.barrier (b : Block) (job solid epoch : Nat) : Barrier :=
  (b.eng.barriers.find? (·.is job solid epoch)).getD { job := job, solid := solid, epoch := epoch }
def Block.putBarrier (b : Block) (x : Barrier) : Block :=
  b.onEng fun e => { e with barriers := e.barriers.filter (!·.is x.job x.solid x.epoch) ++ [x] }

/-- SOLSTICE event (R219, R222). -/
def Block.solEvent (b : Block) (job solid win what epoch : Nat) : Block :=
  b.event b.eng.leader 0x0D (some job) (pack [(0, 8, solid), (8, 12, win), (20, 2, what), (64, 64, epoch)])

/-- An arrival goes through a window, and is sent again until it is acknowledged (R219). -/
def Block.sendArrival (b : Block) (w job solid epoch : Nat) : Block := b.send (.winArrival w (b.winHead b.eng.leader w 0) job solid epoch)

/-- Once the local count is complete, one arrival goes through each listed window (R217): two through a window that stands twice in the list
(DESIGN CHOICE, log 107). -/
def Block.sendArrivals (b : Block) (x : Barrier) : Block :=
  if x.sent || x.rings.length < x.nrings || !x.opened then b
  else
    let b := x.windows.foldl (fun b w =>
      (b.sendArrival w x.job x.solid x.epoch).onEng fun e =>
        { e with unacked := e.unacked ++ [{ job := x.job, solid := x.solid, epoch := x.epoch, win := some w, use := e.nextUse }], nextUse := e.nextUse + 1 }) b
    b.putBarrier { x with sent := true }

/-- Release (R218): the step non-finite count is cleared once, the participating hubs are told, and the slots complete. LOCALARR counts every
ring that has arrived and REMOTEARR is the length of the window list, duplicates and all (DESIGN CHOICE, log 107). -/
def Block.releaseBarrier (b : Block) (x : Barrier) : Block :=
  let b := b.onEng fun e => { e with barriers := e.barriers.filter (!·.is x.job x.solid x.epoch) }
  let b := b.onJob x.job fun j => { j with epochs := j.epochs.put x.solid (x.epoch + 1), nfCount := if x.clear then 0 else j.nfCount }
  let far := (distinct (x.rings.map fun r => ringHub r.1)).filter (· != b.eng.leader)
  let b := far.foldl (fun b h =>
    (b.send (.release h x.job x.solid x.epoch)).onEng fun e =>
      { e with unacked := e.unacked ++ [{ job := x.job, solid := x.solid, epoch := x.epoch, hub := h }] }) b
  x.rings.foldl (fun b (rid, p) =>
    match b.work? rid p with
    | some w => b.endSlot rid p (if w.late then LATE else OK) 0 [x.rings.length, x.windows.length]
    | none => b) b

/-- Release what is complete at the present epoch, then at the next. -/
def Block.tryRelease (b : Block) (job solid : Nat) : Nat → Block
  | 0 => b
  | fuel + 1 =>
    let epoch := (b.jobs.getD job {}).epochOf solid
    match b.eng.barriers.find? (·.is job solid epoch) with
    | none => b
    | some x =>
      if x.opened && x.sent && x.windows.all x.remote.contains then (b.releaseBarrier x).tryRelease job solid fuel else b

/-- SOLSTICE_ARRIVAL: every earlier slot of the ring has retired, and the pages of its record and flag are held (R316), so its hub's arrival
reaches the leader. An arrival beyond NRINGSM1 + 1 for an instance that is still open is added like the others (DESIGN CHOICE, log 107). -/
def solsticeArrival (rid : Nat) (b : Block) : Block :=
  match ((b.ringWorks rid).filter fun w => w.opcode == 0x30 && w.phase == .active).head? with
  | none => b
  | some w =>
    match w.data with
    | .solstice ws false =>
      if (b.ringWorks rid).any (fun v => decide (v.p < w.p)) || b.eng.passing || ws.length ≠ solEng w.x then b
      else match b.recsHeld rid w.p with
      | (b, false) => b
      | (b, true) =>
        let x := w.x
        let solid := solId x
        let epoch := solEpoch x
        let cur := (b.jobs.getD w.job {}).epochOf solid
        let i := b.barrier w.job solid epoch
        if !(epoch == cur || epoch == cur + 1) || (i.opened && (i.nrings != solRings x || i.windows != ws)) then
          (b.endSlot rid w.p SOLSTICE_MISMATCH 0 []).solEvent w.job solid 0 2 epoch
        else
          let b := b.onWork rid w.p fun w => { w with data := .solstice ws true }
          let i := { i with rings := if i.rings.contains (rid, w.p) then i.rings else i.rings ++ [(rid, w.p)]
                            windows := ws, nrings := solRings x, opened := true, clear := i.clear || solClear x }
          ((b.putBarrier i).sendArrivals i).tryRelease w.job solid 2
    | _ => b

def execSolsticeArrival (ring : Nat) (s : State) : Result := run (fun _ b => solsticeArrival ring b) s

/-- REMOTE_ARRIVAL: an arrival accepted through a window of the job slot reaches the leader, which acknowledges it; for another epoch it
is discarded and listed (R219). What came through the window behind it is taken from now on (R339). -/
def remoteArrival (win job solid epoch : Nat) (b : Block) : Block :=
  if b.eng.passing || !b.windowOf job win then b
  else
    let mine := fun (a : Arrival) => a.win == some win && a.job == job && a.sol == some (solid, epoch)
    let b := match b.eng.arrivals.findIdx? mine with
      | some i => b.onEng fun e => { e with arrivals := e.arrivals.eraseIdx i }
      | none => b
    let b := b.send (.arrivalAck win solid epoch)
    match b.jobs.get? job with
    | none => b.solEvent job solid win 0 epoch
    | some j =>
      if !(epoch == j.epochOf solid || epoch == j.epochOf solid + 1) then b.solEvent job solid win 0 epoch
      else
        let i := b.barrier job solid epoch
        (b.putBarrier { i with remote := addN i.remote win }).tryRelease job solid 2

def execRemoteArrival (win job solid epoch : Nat) (s : State) : Result := run (fun _ b => remoteArrival win job solid epoch b) s

/-- ARRIVAL_RESEND: an arrival or release that has not been acknowledged is sent again (R219). -/
def arrivalResend (i : Nat) (b : Block) : Block :=
  match b.eng.unacked[i]? with
  | none => b
  | some u => match u.win with
    | some w => b.sendArrival w u.job u.solid u.epoch
    | none => b.send (.release u.hub u.job u.solid u.epoch)

def execArrivalResend (index : Nat) (s : State) : Result := run (fun _ b => arrivalResend index b) s

/-- ARRIVAL_ACK: it is sent no more. -/
def execArrivalAck (index : Nat) (s : State) : Result :=
  run (fun _ b => b.onEng fun e => { e with unacked := e.unacked.eraseIdx index }) s

/-! ## SIGNAL (Table 7-15) -/

def sigSem (x : Nat) : Nat := bits x 240 16
def sigCount (x : Nat) : Nat := bits x 224 16 + 1
def sigWin (x : Nat) : Nat := bits x 212 12
def sigRemote (x : Nat) : Bool := bit x 211
def sigHub (x : Nat) : Nat := bits x 208 2
def sigReserved (x : Nat) : List (Nat × Nat) :=
  [inlineArea, (256, 256), (210, 1), (128, 80)] ++ (if sigRemote x then [] else [(212, 12), (208, 2)])

def signalStart (b : Block) (r : Ring) (p x rid : Nat) : Block :=
  let s := thenCheck (headCheck b.eng.minor r.cls x (sigReserved x) false) fun _ =>
    if !sigRemote x && !b.allotted (ringHub rid) r.job (sigSem x) then SEM_INVALID else OK
  if s ≠ OK then b.endSlot rid p s 0 [] else b

def execSignal (ring : Nat) (s : State) : Result :=
  run (pickup (fun x => bits x 8 8 == 0x31) (fun _ b r p x => signalStart b r p x ring) ring) s

/-- SIGNAL_FIRE: the completion record of every earlier slot of the ring has been written, and the pages of its own record and flag are held
(R316). -/
def signalFire (rid p : Nat) (b : Block) : Block :=
  match b.work? rid p with
  | none => b
  | some w =>
    if w.opcode ≠ 0x31 || w.phase != .active || (b.ringWorks rid).any (fun v => decide (v.p < p) && !v.recorded) then b
    else match b.recsHeld rid p with
    | (b, false) => b
    | (b, true) =>
      let x := w.x
      if sigRemote x then
        match b.eng.windows.get? (sigWin x) with
        | some e =>
          if jobOf e 20 ≠ w.job then b.endSlot rid p SEM_REFUSED 0 []
          else
            let (b, n) := b.sendWin rid p (sigWin x) false
              (.winSignal rid p (sigWin x) (b.winHead (ringHub rid) (sigWin x) 0) (sigHub x) (sigSem x) (sigCount x))
            (b.onWork rid p fun w => { w with outstanding := w.outstanding + n }).endSlot rid p OK 0 []
        | none => b.endSlot rid p SEM_REFUSED 0 []
      else if b.freeOrDone (ringHub rid) (sigSem x) then b.endSlot rid p SEM_REFUSED 0 []
      else
        match b.signal (ringHub rid) (sigSem x) (sigCount x) w.job with
        | (b, true) => b.endSlot rid p OK 0 []
        | (b, false) => b.endSlot rid p SEM_REFUSED 0 []

def execSignalFire (ring p : Nat) (s : State) : Result := live (fun _ b => signalFire ring p b) s

/-! ## TILE_START -/

/-- TILE_START: the unit of the slot is translated in full and its work begins; nothing happens while a page is awaited. `err` is what a
maintenance slot's first read of a row meets (R262). -/
def tileStart (rid p : Nat) (err : ReadErr) (st : Store) (b : Block) : Block :=
  match b.work? rid p with
  | none => b
  | some w =>
    if w.phase != .active || b.commitAhead w then b
    else match w.data with
      | .lookup _ => if w.lead = p then startLookupTile st b rid p else b
      | .update _ => prepUpdate st b rid p
      | .solstice _ _ => readWindows st b rid p
      | .rows _ =>
        if w.opcode = 0x12 || w.opcode = 0x13 then maintTile st b rid p w err
        else if w.opcode = 0x03 then prefetchTile st b rid p w
        else if w.opcode = 0x20 then permTile st b rid p err
        else exchangeTile b rid p w
      | .none => b

def execTileStart (ring : Nat) (slot : SlotRead) (s : State) : Result := live (tileStart ring slot.p slot.err) s

/-! ## SLOT_LOOKAHEAD (R211, R310) -/

/-- Pages that a slot names in its header and operand (R310): its arrays, its record and its flag, and for inline indices its rows. -/
def Block.namedNeeds (b : Block) (r : Ring) (p x : Nat) : List Need :=
  let op := bits x 8 8
  let rd := fun (lo n : Nat) => needsOf (bits x lo 56) n { read := true }
  let flag := bits x 72 56
  let inlineRows := fun (idxw n : Nat) => match b.tables.get? (bits x 236 20) with
    | some t => rowsAhead r (tdOf t.desc) idxw n (x >>> 512)
    | none => []
  let ops := if op = 0x01 || op = 0x02 then
      let o := lop x
      o.idxNeeds 0 o.nidx ++ (if o.uniform then [] else needsOf o.lBase (4 * o.bags) { read := true }) ++ o.wtNeeds 0 o.nidx
        ++ needsOf o.outBase (o.outs * o.ostride) { write := true } ++ (if o.inl then inlineRows o.idxw o.nidx else [])
    else if op = 0x03 then
      (if bit x 233 then inlineRows (bits x 234 2) (bits x 192 33) else rd 256 (bits x 192 33 * idxSize (bits x 234 2)))
    else if op = 0x10 then rd 320 64 ++ rd 384 (if (uop x).params = 0 then 0 else 64)
    else if op = 0x11 then rd 384 (if (uop x).params = 0 then 0 else 64)
    else if op = 0x20 then rd 448 (16 * planCount x)
    else if op = 0x30 then rd 256 (2 * solEng x)
    else []
  ops ++ needsOf (r.recVa p) 128 { write := true } ++ (if flag = 0 then [] else needsOf flag 8 { write := true })

/-- SLOT_LOOKAHEAD: slot HEAD + k is read early and prefetch walks start for the pages it names; nothing else changes. -/
def slotLookahead (rid k : Nat) (st : Store) (b : Block) : Block :=
  match b.rings.get? rid with
  | none => b
  | some r =>
    let q := r.head + k
    if k = 0 || r.lookahead < k || r.tail ≤ q || r.destroying then b
    else
      let h := ringHub rid
      let page := needsOf (r.slotVa q) 256 { read := true }
      if page.any fun n => ((b.hub h).xlat.find r.job n.va).isNone then b.walkAhead h r.job page
      else match peek st b h r.job (r.slotVa q) 256 with
        | none => b
        | some bs => b.walkAhead h r.job (b.namedNeeds r q (ofBytes bs))

def execSlotLookahead (ring k : Nat) (s : State) : Result := run (slotLookahead ring k) s

end Sys2Proof.Machine
end

