-- ==== Sys2Proof/Machine/XlateMsgs.lean ====
section
/-! DEFINITION. The translation and boundary messages: INVALIDATE, Harvest, migration, windows, regions (R312, R319, R320, R322, R326,
R327, R341 to R344, R379). -/
namespace Sys2Proof.Machine

/-- A range of a job slot's addresses meets a registered region or the dump region (R343, R345). -/
def Block.pinned (b : Block) (job va n : Nat) : Bool :=
  (b.eng.dump.armed && b.eng.dump.job == job && meets va n b.eng.dump.vbase (65536 * b.eng.dump.pages))
  || b.eng.regions.vals.any fun r => bits r.toNat 36 6 == job && meets va n (bits r.toNat 128 56) (65536 * bits r.toNat 192 28)

/-- A range given by VADDR and PAGES is misaligned or ends beyond 2^56. -/
def rangeBad (va pages : Nat) : Bool := va % 65536 != 0 || decide (2 ^ 56 < va + 65536 * pages)

/-! ## INVALIDATE (R312) -/

def cardInvalidate : Card :=
  { code := 0x0080, jobScope := true, wide := true, req := 40, fields := [bitF 16 0 1, byteF 24 8, byteF 32 4] }

def Msg.inRange (m : Msg) (va : Nat) : Bool := m.flag 16 0 || (decide (m.at 24 8 ≤ va) && decide (va < m.at 24 8 + 65536 * m.at 32 4))

def invUses (m : Msg) (job : Nat) (p : Page) : Bool := job == m.job && m.inRange (p.vpn * 65536)

/-- The uses taken before the message was accepted (R312). -/
def PendMsg.cut (pm : PendMsg) : Nat := pm.waits.headD 0

def finInvalidate : Finish := fun _ b m pm => if b.usesGone pm.cut (invUses m) then some (.ok b) else none

/-- Cached translations that meet the range are dropped, prefetch walks are discarded, demand walks start again from level 0. -/
def Block.invalidate (b : Block) (m : Msg) : Block :=
  let hit := fun (e : XEntry) => e.job == m.job && (m.flag 16 0 || meets e.va e.size (m.at 24 8) (65536 * m.at 32 4))
  let root := (b.jobs.getD m.job {}).root
  { b with hubs := b.hubs.mapVal fun _ h =>
    { h with xlat := let x := h.xlat.dropIf hit
                     { x with walks := x.walks.mapVal fun _ w =>
                         if w.job == m.job && m.inRange (w.need.va / 65536 * 65536) then
                           (match w.who with
                            | .ahead => { w with discard := true }
                            | _ => { w with level := 0, table := root, asked := false })
                         else w } } }

def msgInvalidate (st : Store) (b : Block) (m : Msg) : Ans :=
  let all := m.flag 16 0
  let va := m.at 24 8
  let pages := m.at 32 4
  if (all && (va != 0 || pages != 0)) || (!all && rangeBad va pages) then .fail b MESSAGE_INVALID
  else if !all && pages == 0 then .ok b
  else if b.pinned m.job (if all then 0 else va) (if all then 2 ^ 56 else 65536 * pages) then { b := b, pend := some { behind := true } }
  else .await finInvalidate st ((b.invalidate m).forget (invUses m)) m { waits := [b.eng.nextUse] }

def execInvalidate (hub : Nat) (mb : Mbox) (pair : Nat) (s : State) : Result := message cardInvalidate msgInvalidate hub mb pair s

/-! ## HARVEST_ARM and FAULT_RESUME (R319, R320) -/

def cardHarvestArm : Card :=
  { code := 0x0081, wide := true, req := 40, fields := [byteF 24 8, byteF 32 1, byteF 34 2, byteF 36 2] }

/-- HARVEST_ARM: HPROD counts from 0 and the buffer's header is written. -/
def msgHarvestArm (_ : Store) (b : Block) (m : Msg) : Ans :=
  let base := m.at 24 8
  let n := m.at 32 1
  if base % 256 ≠ 0 || n < 6 || 16 < n || 10000 < m.at 36 2 || !b.eng.layout.inCap base (128 + 128 * 2 ^ n) then .fail b MESSAGE_INVALID
  else
    let b := b.wrMem b.eng.leader base (toBytes 128 0x20) 1
    .ok (b.onEng fun e => { e with harvest := { e.harvest with
      armed := true, base := base, lgN := n, sem := m.at 34 2, gdelay := m.at 36 2, hprod := 0 } })

def execHarvestArm (hub : Nat) (mb : Mbox) (pair : Nat) (s : State) : Result := message cardHarvestArm msgHarvestArm hub mb pair s

/-- FAULT clears when nothing of the ring remains halted on a fault (R320). -/
def Block.clearFault (b : Block) (rid : Nat) : Block :=
  match b.rings.get? rid with
  | none => b
  | some r =>
    if r.headFault || r.statusHeld || (b.ringWorks rid).any (fun w => w.phase == .faulted || w.recFault) then b.statusWrite rid
    else (b.onRing rid fun r => { r with halt := clearReason r.halt haltFAULT }).statusWrite rid

/-- A slot halted at its unit goes on: it translates its unit again, and its clock runs (R210, R220, R320). A slot that
ended LATE while it was halted does not restart (R321). -/
def Block.resumeUnit (b : Block) (ring p : Nat) : Block :=
  b.onGroup ring p fun w =>
    if w.phase != .faulted then w
    else { w.clockOn (b.age (ringHub ring)) with phase := if w.late && (match w.data with | .lookup _ => true | _ => false) then .visible else .active }

/-- One requester of a closed record: resumed, or ended with FAULT_ABORTED. What is halted without a picked-up slot halts as a
halting status would (DEDUCED, log 25). -/
def Block.resumeOne (b : Block) (abort : Bool) (q : Requester) : Block :=
  match q.who with
  | .slotBytes r =>
    let b := b.onRing r fun x => { x with headFault := false }
    (if abort then b.errorRing r .head FAULT_ABORTED else b).clearFault r
  | .recPage r p =>
    let b := b.onWork r p fun w => { w.clockOn (b.age (ringHub r)) with recFault := false }
    (if abort then b.endSlot r p FAULT_ABORTED 0 [] else b).clearFault r
  | .status r =>
    let b := b.onRing r fun x => { x with statusHeld := false }
    (if abort then b.errorRing r .status FAULT_ABORTED else b).clearFault r
  | .unit r p =>
    let halted := match b.work? r p with | some w => w.phase == .faulted | none => false
    let b := if !halted then b else if abort then b.endFaulted r p FAULT_ABORTED else b.resumeUnit r p
    b.clearFault r
  | .inbound _ => b
  | .ahead => b

def cardFaultResume (abort : Bool) : Card :=
  { code := 0x0082, sel := some (160, 1, b2n abort), first := !abort, top := 1, wide := true, req := 24, rep := 24
    fields := [byteF 16 4, bitF 20 0 1] }

/-- FAULT_RESUME closes the record; one not yet delivered is still delivered once. -/
def faultResume (abort : Bool) (_ : Store) (b : Block) (m : Msg) : Ans :=
  match b.eng.harvest.records.find? fun r => r.hseq == m.at 16 4 && r.opened with
  | none => .fail b HARVEST_UNKNOWN
  | some r =>
    let age := b.age b.eng.leader
    let b := b.onEng fun e =>
      let rs := if r.delivered then e.harvest.records.filter (·.hseq != r.hseq)
                else e.harvest.records.map fun x => if x.hseq = r.hseq then { x with opened := false } else x
      { e with harvest := ({ e.harvest with records := rs }).admitWaiting age (e.harvest.waiting.length + 1) }
    .ok (r.reqs.foldl (Block.resumeOne · abort ·) b) (bodyOf [(16, 2, 2 ^ r.reqs.length - 1), (18, 1, r.need)])

def execFaultResume (hub : Nat) (mb : Mbox) (pair : Nat) (s : State) : Result := message (cardFaultResume false) (faultResume false) hub mb pair s
def execFaultResumeAbort (hub : Nat) (mb : Mbox) (pair : Nat) (s : State) : Result := message (cardFaultResume true) (faultResume true) hub mb pair s

/-! ## Migration (R326, R327) -/

/-- A present leaf of the range (walks need no right), or the status of an entry that R17 or R303 rejects (R18). -/
def leafAt (st : Store) (b : Block) (job va : Nat) : Except Nat (Option XEntry) :=
  match walkAll st b job { va := va } with
  | (.stop s, _) => .error s
  | (_, e) => .ok e

/-- The first failing page of a range to be migrated, as (status, byte offset): every leaf present, in memory, whole within the range, and
not pinned. -/
def migrateFail (st : Store) (b : Block) (job va len : Nat) : Nat → Nat → Option (Nat × Nat)
  | 0, _ => none
  | fuel + 1, off =>
    if len ≤ off then none
    else match leafAt st b job (va + off) with
      | .error s => some (s, off)
      | .ok none => some (MIGRATE_INVALID, off)
      | .ok (some e) =>
        if e.va != va + off || decide (va + len < e.va + e.size) || e.target == 2 || b.pinned job e.va (2 ^ e.lg) then some (MIGRATE_INVALID, off)
        else migrateFail st b job va len fuel (off + 2 ^ e.lg)

/-- A run or page that begins before the range reaches into it (R326). -/
def crossesStart (st : Store) (b : Block) (job va : Nat) : Bool :=
  if va = 0 then false
  else match leafAt st b job (va - 1) with
    | .ok (some e) => decide (va < e.va + e.size)
    | _ => false

/-- The largest page size in a range. -/
def largestPage (st : Store) (b : Block) (job va len : Nat) : Nat → Nat → Nat
  | 0, _ => 65536
  | fuel + 1, off =>
    if len ≤ off then 65536
    else match leafAt st b job (va + off) with
      | .ok (some e) => Nat.max (2 ^ e.lg) (largestPage st b job va len fuel (off + 2 ^ e.lg))
      | _ => 65536

/-- Bytes of the piece that a migration moves next: the page at an address, with the rest of its run. -/
def pieceSize (st : Store) (b : Block) (job va : Nat) : Nat :=
  match leafAt st b job va with
  | .ok (some e) => e.size
  | _ => 65536

def finMigrate : Finish := fun _ b m _ => if b.eng.migrations.any fun g => g.hub == m.hub && g.key == m.key then none else some (.ok b)

/-- PREFETCH (demote false) and ADVISE DEMOTE: the checks of R326, then the migration begins. -/
def msgMigrate (demote : Bool) (st : Store) (b : Block) (m : Msg) : Ans :=
  let va := m.at 24 8
  let pages := m.at 32 4
  let dest := m.at 40 8
  let len := 65536 * pages
  if rangeBad va pages then .fail b MESSAGE_INVALID
  else if pages = 0 then .ok b
  else
    let destOk := if demote then decide (dest + len ≤ Config.capTier.toNat) else b.eng.layout.inCap dest len
    if crossesStart st b m.job va then .fail b MIGRATE_INVALID 0
    else match migrateFail st b m.job va len (pages + 1) 0 with
      | some (s, off) => .fail b s (off / 65536)
      | none =>
        if !destOk || dest % largestPage st b m.job va len (pages + 1) 0 != 0 then .fail b MIGRATE_INVALID 0
        else
          let g : Migration := { job := m.job, va := va, pages := pages, dest := dest, demote := demote, hub := m.hub, key := m.key
                                 span := pieceSize st b m.job va }
          .await finMigrate st (b.onEng fun e => { e with migrations := e.migrations ++ [g] }) m { obj := .migration m.job va pages }

def cardPrefetch : Card :=
  { code := 0x0083, jobScope := true, wide := true, req := 48, fields := [byteF 24 8, byteF 32 4, byteF 40 8], needs := some featCAPACITY }

def execPrefetch (hub : Nat) (mb : Mbox) (pair : Nat) (s : State) : Result := message cardPrefetch (msgMigrate false) hub mb pair s

def cardAdvise (kind : Nat) : Card :=
  { code := 0x0084, sel := some (128, 8, kind), first := kind == 0, top := 1, jobScope := true, wide := true, req := 48
    fields := [byteF 16 1, byteF 24 8, byteF 32 4, byteF 40 8], enums := [(128, 8, 1)], needs := if kind = 1 then some featCAPACITY else none }

/-- ADVISE WARM: the translation caches of the hubs that the job slot's rings use are filled as prefetch walks fill them. -/
def msgWarm (st : Store) (b : Block) (m : Msg) : Ans :=
  let va := m.at 24 8
  let pages := m.at 32 4
  if rangeBad va pages || m.at 40 8 != 0 then .fail b MESSAGE_INVALID
  else
    let hs := (List.range 4).filter fun h => (b.ringsOf h).any fun (_, r) => r.job == m.job
    .ok ((pagesOf va (65536 * pages)).foldl (fun b v =>
      hs.foldl (fun b h =>
        if ((b.hub h).xlat.find m.job v).isSome then b
        else match walkAll st b m.job { va := v, read := true } with
          | (.page _, some e) => b.onXlat h fun x => x.insert e true
          | _ => b) b) b)

def execAdviseWarm (hub : Nat) (mb : Mbox) (pair : Nat) (s : State) : Result := message (cardAdvise 0) msgWarm hub mb pair s
def execAdviseDemote (hub : Nat) (mb : Mbox) (pair : Nat) (s : State) : Result := message (cardAdvise 1) (msgMigrate true) hub mb pair s

/-- The level and table address at which a walk finds the leaf of an address. -/
def leafPlace (st : Store) (b : Block) (job va : Nat) : Nat → Nat → Nat → Option (Nat × Nat)
  | 0, _, _ => none
  | fuel + 1, lv, table =>
    match entryOf b job lv va (rdNat st b (entryAddr table lv va) 8) with
    | .table t => leafPlace st b job va fuel (lv + 1) t
    | .leaf _ => some (lv, entryAddr table lv va)
    | _ => none

/-- Copy [src, src + n) of one memory to another; poisoned atoms arrive poisoned. -/
def Block.copyMem (st : Store) (b : Block) (hub srcTarget src dstTarget dst n : Nat) : Block :=
  let data := if srcTarget = 0 then rdMem st b src n else rdHost st b src n
  let bad := ((atomsOf src n).filter fun a =>
    if srcTarget = 0 then (view st b).poison.contains a else hostBad st b (64 * a) 64).map fun a => a - src / 64 + dst / 64
  let b := if dstTarget = 0 then b.wrMem hub dst data 1 else b.wrHost hub dst data
  if bad.isEmpty then b else b.push (if dstTarget = 0 then .poison bad else .hostPoison bad)

/-- Rewrite the leaf of an address: frame and TARGET, keeping RIGHTS and RUN (R326 step 3). -/
def rewriteLeaf (st : Store) (b : Block) (hub job va addr target : Nat) : Block :=
  match leafPlace st b job va 4 0 (b.jobs.getD job {}).root with
  | some (_, ea) =>
    let x := rdNat st b ea 8
    b.wrMem hub ea (toBytes 8 (setBits (setBits x 8 48 (addr / 256)) 2 2 target)) 1
  | none => b

/-- MIGRATE_PAGE: the next page of a migration, with the rest of its run, is moved once its write and update uses and the last uses of
the page moved before it have ended (R326). -/
def migratePage (job vpage : Nat) (st : Store) (b : Block) : Block :=
  match b.eng.migrations.find? fun g => g.job == job && g.va + g.next == 65536 * vpage && decide (g.next < 65536 * g.pages) with
  | none => b
  | some g =>
    let va := g.va + g.next
    match leafAt st b job va with
    | .error _ => b
    | .ok none => b
    | .ok (some e) =>
      let writers := b.uses.any fun (j, p) => inRange job va e.size j p && (p.rights.testBit 1 || p.rights.testBit 2)
      let hostNeeded := e.target == 1 || g.demote
      if writers || !b.usesGone g.drain (inRange job (g.va + g.last) (g.next - g.last)) || (hostNeeded && !b.hostUp) then b
      else
        let hub := b.eng.leader
        let target := if g.demote then 1 else 0
        let dst := g.dest + g.next
        let b := Block.copyMem st b hub e.target e.addr target dst e.size
        let b := (List.range (e.run + 1)).foldl (fun b k => rewriteLeaf st b hub job (va + k * 2 ^ e.lg) (dst + k * 2 ^ e.lg) target) b
        let b := (b.dropXlat (fun x => x.job == job && meets x.va x.size va e.size) (fun _ => false)).forget (inRange job va e.size)
        let span := pieceSize st b job (va + e.size)
        b.onEng fun en => { en with migrations := en.migrations.map fun x =>
          if x.hub == g.hub && x.key == g.key then { x with next := x.next + e.size, span := span, last := g.next, drain := en.nextUse } else x }

/-- Migrations whose last page has moved and drained are over. -/
def Block.endMigrations (b : Block) : Block :=
  let ended := fun (g : Migration) => decide (65536 * g.pages ≤ g.next) && b.usesGone g.drain (inRange g.job (g.va + g.last) (g.next - g.last))
  b.onEng fun e => { e with migrations := e.migrations.filter fun g => !ended g }

def execMigratePage (job vpage : Nat) (s : State) : Result := firmware (fun st b => (migratePage job vpage st b).endMigrations) s

/-! ## Windows (R322) -/

def cardWindowSet : Card :=
  { code := 0x0085, jobScope := true, wide := true, req := 48, fields := [byteF 16 32], needs := some featWINDOWS }

/-- R17 on a window-table entry (Table 11-10); its RIGHTS is a code of Table 11-4. -/
def windowStages (x minor : Nat) : Nat :=
  firstFail [(!versionOk (bits x 0 8) minor, VERSION_UNSUPPORTED), (rsvSet x [(220, 36), (184, 8), (68, 60), (31, 1)], RESERVED_NONZERO),
    (!rightsKnown (bits x 26 3), UNKNOWN_ENCODING)]

def msgWindowSet (_ : Store) (b : Block) (m : Msg) : Ans :=
  let x := m.struct 16 32
  .guard b (windowStages x b.eng.minor) fun _ =>
    let win := bits x 8 12
    let rights := bits x 26 3
    if b.windowSet win || bits x 20 6 != m.job || (rights != 1 && rights != 3) then .fail b WINDOW_INVALID
    else if bits x 192 28 = 0 || rangeBad (bits x 128 56) (bits x 192 28) then .fail b MESSAGE_INVALID
    else .ok (b.onEng fun e => { e with windows := e.windows.put win (BitVec.ofNat 256 x) })

def execWindowSet (hub : Nat) (mb : Mbox) (pair : Nat) (s : State) : Result := message cardWindowSet msgWindowSet hub mb pair s

def cardWindowClear : Card :=
  { code := 0x0086, jobScope := true, wide := true, req := 24, fields := [byteF 16 2], needs := some featWINDOWS }

/-- The clear ends when every access that used the entry before it was accepted has ended (R322). -/
def finWindowClear : Finish := fun _ b m pm => if b.windowFree (m.at 16 2) pm.cut then some (.ok b) else none

def msgWindowClear (st : Store) (b : Block) (m : Msg) : Ans :=
  let win := m.at 16 2
  if 4095 < win then .fail b MESSAGE_INVALID
  else match b.eng.windows.get? win with
    | none => .fail b WINDOW_INVALID
    | some x =>
      if jobOf x 20 ≠ m.job then .fail b WINDOW_INVALID
      else
        let b := (b.onEng fun e => { e with windows := e.windows.del win }).dropXlat (fun x => x.target == 2 && x.addr / 2 ^ 64 == win) fun _ => false
        .await finWindowClear st b m { obj := .window win, waits := [b.eng.nextUse] }

def execWindowClear (hub : Nat) (mb : Mbox) (pair : Nat) (s : State) : Result := message cardWindowClear msgWindowClear hub mb pair s

/-! ## Registered regions (R341 to R344) -/

def cardRegionRegister : Card := { code := 0x0087, jobScope := true, wide := true, req := 48, fields := [byteF 16 32] }

/-- R17 on a region record (Table 12-4). -/
def regionStages (x minor : Nat) : Nat :=
  firstFail [(!versionOk (bits x 0 8) minor, VERSION_UNSUPPORTED), (rsvSet x [(220, 36), (184, 8), (64, 64), (42, 4), (8, 16)], RESERVED_NONZERO)]

/-- The first page of a range that is not present in stack memory with the write right, with the status: `invalid`, or that of an entry
which R17 or R303 rejects (R18). -/
def firstUnwritable (st : Store) (b : Block) (job va pages invalid : Nat) : Option (Nat × Nat) :=
  (List.range pages).findSome? fun k =>
    match walkAll st b job { va := va + 65536 * k, write := true } with
    | (.page p, _) => if p.target = 0 then none else some (invalid, k)
    | (.stop s, _) => some (s, k)
    | _ => some (invalid, k)

def msgRegionRegister (st : Store) (b : Block) (m : Msg) : Ans :=
  let x := m.struct 16 32
  .guard b (regionStages x b.eng.minor) fun _ =>
    let reg := bits x 24 12
    let h := bits x 46 2
    let sem := bits x 48 16
    let va := bits x 128 56
    let pages := bits x 192 28
    if pages = 0 || rangeBad va pages then .fail b MESSAGE_INVALID
    else if b.eng.regions.has reg || bits x 36 6 != m.job || !b.allotted h m.job sem || b.arrivalSem h sem || b.freeOrDone h sem
        || b.eng.regions.vals.any (fun r => bits r.toNat 36 6 == m.job && meets va (65536 * pages) (bits r.toNat 128 56) (65536 * bits r.toNat 192 28)) then
      .fail b REGION_INVALID
    else match firstUnwritable st b m.job va pages REGION_INVALID with
      | some (s, k) => .fail b s k
      | none => .ok (b.onEng fun e => { e with regions := e.regions.put reg (BitVec.ofNat 256 x) })

def execRegionRegister (hub : Nat) (mb : Mbox) (pair : Nat) (s : State) : Result := message cardRegionRegister msgRegionRegister hub mb pair s

def cardRegionRelease : Card := { code := 0x0088, jobScope := true, wide := true, req := 24, fields := [byteF 16 2] }

/-- The release ends when the signals latched before it was accepted have been applied; `aux` counts those left. -/
def finRegionRelease : Finish := fun _ b m pm =>
  if pm.aux.getD 0 0 = 0 then some (.ok (b.onEng fun e => { e with regions := e.regions.del (m.at 16 2) })) else none

def msgRegionRelease (st : Store) (b : Block) (m : Msg) : Ans :=
  match b.eng.regions.get? (m.at 16 2) with
  | none => .fail b REGION_INVALID
  | some r =>
    if jobOf r 36 ≠ m.job then .fail b REGION_INVALID
    else
      let n := b.eng.arrivals.countP fun a => a.sol.isNone && a.hub == bits r.toNat 46 2 && a.sem == bits r.toNat 48 16
      .await finRegionRelease st b m { obj := .region (m.at 16 2), aux := [n] }

def execRegionRelease (hub : Nat) (mb : Mbox) (pair : Nat) (s : State) : Result := message cardRegionRelease msgRegionRelease hub mb pair s

end Sys2Proof.Machine
end

