-- ==== Sys2Proof/Machine/MemMsgs.lean ====
section
/-! DEFINITION. The messages of Table 13-13: budgets and scheduler parameters, layouts and map-outs, page retirement, the repair
ledger, channel tests (R235, R236, R252, R266, R268, R271, R275, R377, R378). -/
namespace Sys2Proof.Machine

/-! ## LEDGER_SET and SCHED_SET (R235, R236, R377) -/

/-- Energy that a hub earns each age unit, in fJ, for a budget in 0.125 W (R233). -/
def creditOf (budget : Nat) : Nat := budget * 1250000
/-- The cap of the main balance: 10,000 age units of credit (R233). -/
def capOf (budget : Nat) : Nat := 10000 * creditOf budget

/-- The budget in force: a hub's own and those it has added for lost hubs (R236). -/
def Sched.inForce (x : Sched) : Nat := x.budget + (x.adopted.map (·.2)).sum

def cardLedgerSet : Card :=
  { code := 0x0050, f := false, pm := true, mg := true, wide := true, req := 32, rep := 32
    fields := [bitF 16 0 4] ++ (List.range 4).map fun h => byteF (24 + 2 * h) 2 }

/-- LEDGER_SET: a budget added for a lost hub ends with the next LEDGER_SET for either hub. -/
def msgLedgerSet (_ : Store) (b : Block) (m : Msg) : Ans :=
  let named := fun (h : Nat) => m.flag 16 h
  let want := fun (h : Nat) => m.at (24 + 2 * h) 2
  let after := fun (h : Nat) => if named h then want h else (b.hub h).sched.budget
  let hs := List.range 4
  if hs.any (fun h => named h && decide (4000 < want h)) || decide (4000 < (hs.map after).sum) then .fail b BUDGET_INVALID
  else
    let b := hs.foldl (fun b h =>
      b.onHub h fun x =>
        { x with rebudgeted := x.rebudgeted || (named h && !x.inService)
                 sched := { x.sched with budget := after h
                                         newBudget := x.sched.newBudget || named h || x.sched.adopted.any fun (l, _) => named l
                                         adopted := if named h then [] else x.sched.adopted.filter fun (l, _) => !named l } }) b
    .ok b (bodyOf (hs.map fun h => (24 + 2 * h, 2, if b.hubUp h then (b.hub h).sched.inForce else 0)))

def execLedgerSet (hub : Nat) (mb : Mbox) (pair : Nat) (s : State) : Result := message cardLedgerSet msgLedgerSet hub mb pair s

def cardSchedSet : Card :=
  { code := 0x0051, mg := true, wide := true, req := 32
    fields := [bitF 16 0 4, bitF 17 0 3, byteF 20 4, byteF 24 4, byteF 28 1, byteF 29 1, byteF 30 1] }

/-- A value of SCHED_SET lies out of its range of Table 8-2 for hub h. -/
def Block.schedBad (b : Block) (m : Msg) (h : Nat) : Bool :=
  let rtres := m.at 20 4
  let hz := m.at 24 4
  let shares := [m.at 28 1, m.at 29 1, m.at 30 1]
  (m.flag 17 0 && (decide (1000000 < rtres) || decide (capOf (b.hub h).sched.inForce < rtres * 1000000)))
  || (m.flag 17 1 && (decide (hz < 1000) || decide (100000 < hz)))
  || (m.flag 17 2 && (shares.any (fun x => decide (x < 4) || decide (56 < x)) || shares.sum != 64))

def msgSchedSet (_ : Store) (b : Block) (m : Msg) : Ans :=
  let hs := (List.range 4).filter fun h => m.flag 16 h
  if hs.any (b.schedBad m) then .fail b BUDGET_INVALID
  else .ok (hs.foldl (fun b h => b.onSched h fun x =>
    { x with rtres := if m.flag 17 0 then m.at 20 4 else x.rtres
             horizon := if m.flag 17 1 then m.at 24 4 else x.horizon
             shareRead := if m.flag 17 2 then m.at 28 1 else x.shareRead
             shareWrite := if m.flag 17 2 then m.at 29 1 else x.shareWrite
             shareRemote := if m.flag 17 2 then m.at 30 1 else x.shareRemote }) b)

def execSchedSet (hub : Nat) (mb : Mbox) (pair : Nat) (s : State) : Result := message cardSchedSet msgSchedSet hub mb pair s

/-! ## Plans (R249, R252, R271, R377, R432) -/

/-- A message of engine scope that names device memory needs an open job slot (R364). -/
def Block.jobFor (b : Block) (m : Msg) (addrs : List Nat) : Nat := if addrs.any (· != 0) && !b.jobOpen m.job then JOB_CLOSED else OK

/-- Active pseudo-channels of each stack. -/
def Block.actives (b : Block) : List Nat := (List.range 12).map fun s => (b.die s).active

/-- Channels that a plan of LAYOUT_SET places: those of the present layout and every trained channel (R432). -/
def Block.trained (b : Block) : List Nat :=
  let now := b.eng.layout.ord ++ b.eng.layout.priv
  (List.range 768).filter fun c => now.contains c || (b.dieUp (c / 64) && (b.die (c / 64)).active.testBit (c % 64))

/-- DRAM pages retired for good, as (channel, bank, page) (R267). -/
def Block.gonePages (b : Block) : List (Nat × Nat × Nat) :=
  b.dies.flatMap fun (_, d) => d.chans.flatMap fun (c, x) => x.gone.map fun k => (c, k / 2 ^ 24, k % 2 ^ 24)

/-- The layout that a map-out makes: the present one less some channels. -/
def Layout.less (L : Layout) (out : List Nat) : Layout :=
  { L with ord := L.ord.filter fun c => !out.contains c, priv := L.priv.filter fun c => !out.contains c
           privMask := (List.range 12).map fun s => pack ((List.range 64).map fun p =>
             (p, 1, b2n ((L.privMask.getD s 0).testBit p && !out.contains (64 * s + p)))) }

/-- A plan's vacate list and the plan itself, kept as the latest (R271, R377). -/
def Block.keepPlan (b : Block) (hub : Nat) (p : Plan) (cause : Nat) : Block × List (Nat × Nat) :=
  let v := vacateList b.eng.layout p.layout b.gonePages
  let b := b.onEng fun e => { e with plan := some p }
  (b.event hub 0x0A none (pack [(0, 32, p.id), (32, 4, cause), (36, 1, b2n p.posted), (64, 32, v.length)]), v)

/-- Figures of a plan's reply. -/
def planBody (p : Plan) (nvac nvacAll : Nat) : Nat :=
  bodyOf [(16, 4, p.id), (24, 8, p.layout.cap 0), (32, 8, p.layout.cap 1), (40, 4, nvac), (44, 4, nvacAll)]

/-- Check a planned layout, keep it, and write the vacate list. -/
def planAnswer (st : Store) (b : Block) (m : Msg) (p : Plan) (actives : List Nat) (cause : Nat) : Ans :=
  if !layoutOk actives p.layout then .fail b LAYOUT_INVALID
  else
    let (b', v) := b.keepPlan b.eng.leader p cause
    let out := if m.at 32 8 = 0 then [] else v.take (m.at 40 4)
    match msgWrite st b' m b.eng.leader (m.at 32 8) (vacateBytes out) with
    | .error (s, pg) => .fail b s pg
    | .ok b' => .ok b' (planBody p out.length v.length)

/-- The zones of a layout record. -/
def recordZones (x first n : Nat) : List (Nat × Nat) :=
  (List.range n).map fun k => (2097152 * bits x (8 * (112 + 8 * (first + k))) 32, bits x (8 * (112 + 8 * (first + k)) + 32) 9)

def fieldsLayoutSet : List (Nat × Nat) := [bitF 16 0 1, byteF 20 4, byteF 24 8, byteF 32 8, byteF 40 4]

def cardLayoutSet (phase : Nat) : Card :=
  { code := 0x0060, sel := some (128, 1, phase), first := phase == 0, top := 1, wide := true, req := 48, rep := 48, fields := fieldsLayoutSet }

/-- LAYOUT_SET PLAN: the record at RECADDR under R17 (Table 13-14), then R252. -/
def msgLayoutPlan (st : Store) (b : Block) (m : Msg) : Ans :=
  let rec_ := m.at 24 8
  .guard b (b.jobFor m [rec_, m.at 32 8]) fun _ =>
    if rec_ = 0 then .fail b MESSAGE_INVALID
    else match msgRead st b m b.eng.leader rec_ 112 with
      | (b, .wait) => .later b .layout
      | (b, .fail s pg) => .fail b s pg
      | (b, .ok head) =>
        let h := ofBytes head
        .guard b (firstFail [(!versionOk (bits h 0 8) b.eng.minor, VERSION_UNSUPPORTED), (rsvSet h [(24, 104)], RESERVED_NONZERO)]) fun _ =>
          let no := bits h 8 8
          let np := bits h 16 8
          if no = 0 || 64 < no || np = 0 || 64 < np then .fail b LAYOUT_INVALID
          else match msgRead st b m b.eng.leader (rec_ + 112) (8 * (no + np)) with
            | (b, .wait) => .later b .layout
            | (b, .fail s pg) => .fail b s (pg + ((rec_ + 112) / 65536 - rec_ / 65536))
            | (b, .ok zones) =>
              let x := ofBytes (head ++ zones)
              let masks := (List.range 12).map fun s => bits x (8 * (16 + 8 * s)) 64
              if (List.range (no + np)).any (fun k => bits x (8 * (112 + 8 * k) + 41) 23 != 0) then .fail b RESERVED_NONZERO
              else if masks.any (· != 0) && !b.feat featPRIVILEGED then .fail b FEATURE_ABSENT
              else
                let L := formLayout b.trained masks (recordZones x 0 no) (recordZones x no np)
                planAnswer st b m { layout := L, id := layoutId L } b.actives 0

def execLayoutSetPlan (hub : Nat) (mb : Mbox) (pair : Nat) (s : State) : Result := message (cardLayoutSet 0) msgLayoutPlan hub mb pair s

/-- The plan computed again when its COMMIT starts (R271). -/
def Block.replan (b : Block) (p : Plan) : Nat :=
  if p.mapout then layoutId (b.eng.layout.less p.out)
  else layoutId (formLayout b.trained p.layout.privMask p.layout.zord p.layout.zpriv)

/-- The message completes when its re-layout has finished (R271). -/
def finCommit : Finish := fun _ b _ pm =>
  match b.eng.relayout with
  | some _ => none
  | none => some (.ok b (bodyOf [(16, 4, pm.aux.getD 0 0), (24, 8, pm.aux.getD 1 0), (32, 8, pm.aux.getD 2 0)]))

/-- A re-layout starts: the gate answers Wait for every batch that has not started, whatever it answered before (R273). -/
def Block.unanswer (b : Block) : Block :=
  { b with works := b.works.mapVal fun _ w => match w.data with
    | .update u => if u.started then w else { w with data := .update { u with gates := u.gates.mapVal fun _ g => if g == .start || g == .resume then .wait else g } }
    | _ => w }

/-- COMMIT of the latest plan, named by its LAYOUTID, with every other field zero (R271, R377). -/
def msgCommit (zeros : Msg → Bool) (st : Store) (b : Block) (m : Msg) : Ans :=
  match b.eng.plan with
  | none => .fail b LAYOUT_INVALID
  | some p =>
    let ok := layoutOk (if p.mapout then (List.range 12).map fun _ => 2 ^ 64 - 1 else b.actives) p.layout
    if m.at 20 4 ≠ p.id || !zeros m || b.replan p ≠ p.id || !ok || b.eng.relayout.isSome then .fail b LAYOUT_INVALID
    else
      let b := (b.onEng fun e => { e with relayout := some { plan := p, old := e.layout, left := p.layout.stripes } }).unanswer
      .await finCommit st b m { obj := .layout, aux := [p.id, p.layout.cap 0, p.layout.cap 1] }

def zerosLayoutSet (m : Msg) : Bool := m.at 24 8 == 0 && m.at 32 8 == 0 && m.at 40 4 == 0

def execLayoutSetCommit (hub : Nat) (mb : Mbox) (pair : Nat) (s : State) : Result :=
  message (cardLayoutSet 1) (msgCommit zerosLayoutSet) hub mb pair s

def cardMapout (phase : Nat) : Card :=
  { code := 0x0061, sel := some (128, 1, phase), first := phase == 0, top := 1, wide := true, req := 48, rep := 48
    fields := [bitF 16 0 1, byteF 17 1, bitF 18 0 1, byteF 20 4, byteF 24 8, byteF 32 8, byteF 40 4] }

/-- Channels that a CHANNEL_MAPOUT PLAN takes out. -/
def Msg.mapoutChans (m : Msg) : List Nat :=
  (List.range 64).filterMap fun p => if m.flag 18 0 || (m.at 24 8).testBit p then some (64 * m.at 17 1 + p) else none

/-- CHANNEL_MAPOUT PLAN: the present layout less the named pseudo-channels, or less the whole stack (R377). -/
def msgMapoutPlan (st : Store) (b : Block) (m : Msg) : Ans :=
  .guard b (b.jobFor m [m.at 32 8]) fun _ =>
    if 11 < m.at 17 1 then .fail b MESSAGE_INVALID
    else
      let out := m.mapoutChans
      let L := b.eng.layout.less out
      planAnswer st b m { layout := L, id := layoutId L, mapout := true, out := out } ((List.range 12).map fun _ => 2 ^ 64 - 1) 1

def execChannelMapoutPlan (hub : Nat) (mb : Mbox) (pair : Nat) (s : State) : Result := message (cardMapout 0) msgMapoutPlan hub mb pair s

def zerosMapout (m : Msg) : Bool := m.at 17 1 == 0 && !m.flag 18 0 && m.at 24 8 == 0 && m.at 32 8 == 0 && m.at 40 4 == 0

def execChannelMapoutCommit (hub : Nat) (mb : Mbox) (pair : Nat) (s : State) : Result :=
  message (cardMapout 1) (msgCommit zerosMapout) hub mb pair s

/-! ## PAGE_RETIRE (R266, R313, R343) -/

/-- Frames of a registered region: where its pages are mapped (R343). -/
def Block.regionFrames (st : Store) (b : Block) (r : BitVec 256) : List Nat :=
  let x := r.toNat
  (List.range (bits x 192 28)).filterMap fun k =>
    match walkAll st b (bits x 36 6) { va := bits x 128 56 + 65536 * k, write := true } with
    | (.page p, _) => if p.target = 0 then some p.addr else none
    | _ => none

/-- A frame is pinned by a region or by the dump region (R343, R414). -/
def Block.framePinned (st : Store) (b : Block) (f : Nat) : Bool :=
  (b.eng.dump.armed && b.eng.dump.frames.contains f) || b.eng.regions.vals.any fun r => (b.regionFrames st r).contains f

def Page.onFrame (p : Page) (f : Nat) : Bool := p.target == 0 && p.addr == f

/-- The DRAM page that a retirement is recorded by: that of the latest event that listed the frame, else the one of its first granule. -/
def Block.pageOfFrame (b : Block) (f : Nat) : Nat × Nat × Nat :=
  match b.eng.listed.find? (·.1 == f) with
  | some (_, ch, bank, page) => (ch, bank, page)
  | none =>
    match b.locate f with
    | some (ch, row) => (ch, (pageBank row).1, (pageBank row).2)
    | none => (0, 0, 0)

def cardPageRetire : Card := { code := 0x0062, wide := true, req := 24, fields := [byteF 16 8] }

/-- The retirement completes when the frame is not pinned and its in-flight uses have ended. -/
def finPageRetire : Finish := fun st b m pm =>
  let f := m.at 16 8
  if b.framePinned st f || !b.usesGone pm.cut (fun _ p => p.onFrame f) then none
  else
    let (ch, bank, page) := b.pageOfFrame f
    let rec_ := ledgerRecord b ch bank page 4 0 ((b.chan ch).fixes (bank * 2 ^ 24 + page))
    let b := b.event b.eng.leader 0x06 none (pack [(0, 56, f), (56, 16, 1), (72, 6, bank), (78, 10, ch), (88, 24, page), (112, 2, 2)])
    some (.ok ((b.ledgerPut ch rec_).onEng fun e => { e with retired := addN e.retired f }))

def msgPageRetire (st : Store) (b : Block) (m : Msg) : Ans :=
  let f := m.at 16 8
  if f % 65536 ≠ 0 then .fail b MESSAGE_INVALID
  else if !b.eng.layout.inCap f 65536 then .fail b LAYOUT_INVALID
  else if b.eng.retired.contains f then .ok b
  else if Config.retiredMax ≤ b.eng.retired.length then .fail b RETIRE_FULL
  else
    let b := (b.dropXlat (fun e => e.target == 0 && decide (e.addr ≤ f) && decide (f < e.addr + e.size)) (fun _ => false)).forget fun _ p => p.onFrame f
    .await finPageRetire st b m { obj := .layout, waits := [b.eng.nextUse] }

def execPageRetire (hub : Nat) (mb : Mbox) (pair : Nat) (s : State) : Result := message cardPageRetire msgPageRetire hub mb pair s

/-! ## REPAIR_READ and CHANNEL_TEST (R268, R275, R378) -/

def cardRepairRead : Card := { code := 0x0063, mg := true, req := 24, rep := 256, fields := [byteF 16 1, byteF 20 4] }

def msgRepairRead (_ : Store) (b : Block) (m : Msg) : Ans :=
  if 11 < m.at 16 1 then .fail b MESSAGE_INVALID
  else
    let all := (b.die (m.at 16 1)).ledger
    let rs := (all.drop (m.at 20 4)).take 14
    .ok b (bodyOf ([(16, 4, all.length), (20, 4, rs.length)] ++ rs.zipIdx.map fun (r, k) => (32 + 16 * k, 16, r.toNat)))

def execRepairRead (hub : Nat) (mb : Mbox) (pair : Nat) (s : State) : Result := message cardRepairRead msgRepairRead hub mb pair s

def cardChannelTest (mode : Nat) : Card :=
  { code := 0x0064, sel := some (144, 8, mode), first := mode == 0, top := 3, mg := true, req := 48
    fields := [byteF 16 2, byteF 18 1, bitF 19 0 4, byteF 24 8, byteF 32 8, byteF 40 4], enums := [(144, 8, 3)] }


/-- Table 9-6: where each mode is permitted. -/
def Block.testPermitted (b : Block) (ch mode first : Nat) : Bool :=
  let inLayout := (b.eng.layout.ord ++ b.eng.layout.priv).contains ch
  if mode = 0 then true
  else if mode = 1 then b.dieUp (ch / 64) && (b.die (ch / 64)).active.testBit (ch % 64)
  else !inLayout || (!b.dieUp (ch / 64) && decide (chanSoft ≤ first))

/-- Start a test: SCAN, MARCH or PATTERN. It replies DONE once the generator has started. -/
def msgTestStart (mode : Nat) (_ : Store) (b : Block) (m : Msg) : Ans :=
  let ch := m.at 16 2
  let first := m.at 24 8
  let last := m.at 32 8
  if 767 < ch || last < first || chanBytesAll ≤ last then .fail b MESSAGE_INVALID
  else if (b.chan ch).test.isSome || !b.testPermitted ch mode first then .fail b CHANNEL_INVALID
  else .ok (b.onChan ch fun c =>
    { c with test := some { mode := mode, first := first, last := last, pattern := m.at 40 4, reads := bits (m.at 19 1) 0 4, next := first } })

/-- STOP ends a running test at an atom boundary; a MARCH step is a command of its own, so none is under way. -/
def msgTestStop (_ : Store) (b : Block) (m : Msg) : Ans :=
  if 767 < m.at 16 2 then .fail b MESSAGE_INVALID else .ok (b.onChan (m.at 16 2) fun c => { c with test := none })

def execChannelTestScan (hub : Nat) (mb : Mbox) (pair : Nat) (s : State) : Result := message (cardChannelTest 0) (msgTestStart 0) hub mb pair s
def execChannelTestMarch (hub : Nat) (mb : Mbox) (pair : Nat) (s : State) : Result := message (cardChannelTest 1) (msgTestStart 1) hub mb pair s
def execChannelTestPattern (hub : Nat) (mb : Mbox) (pair : Nat) (s : State) : Result := message (cardChannelTest 2) (msgTestStart 2) hub mb pair s
def execChannelTestStop (hub : Nat) (mb : Mbox) (pair : Nat) (s : State) : Result := message (cardChannelTest 3) msgTestStop hub mb pair s

end Sys2Proof.Machine
end

