-- ==== Sys2Proof/Machine/Sched.lean ====
section
/-! DEFINITION. The scheduler, its ledger, operating points and heat of the stacks (R227 to R242). Energies in femtojoules. -/
namespace Sys2Proof.Machine

/-! ## Clusters -/

/-- The row die of a row-die cluster (R19): clusters 64s to 64s + 63. Clusters 768 + 64h to 768 + 64h + 63 are hub h's. -/
def clusterDie (c : Nat) : Option Nat := if c < 768 then some (c / 64) else none
def Block.clusterHub (b : Block) (c : Nat) : Nat := if c < 768 then b.homeHub (c / 64) else (c - 768) / 64

/-- A real-time ring is in service in the engine. -/
def Block.rtRings (b : Block) : Bool := b.rings.vals.any (·.rt)

/-- A real-time cluster (R237). -/
def Block.rtCluster (b : Block) (c : Nat) : Bool :=
  b.rtRings && (if c < 768 then b.eng.layout.priv.contains c else (c - 768) % 64 == 0)

/-- The cluster is in service. -/
def Block.clusterUp (b : Block) (c : Nat) : Bool :=
  match clusterDie c with
  | some s => b.dieUp s && !(b.die s).deadClusters.testBit (c % 64)
  | none => b.hubUp ((c - 768) / 64) && !(b.hub ((c - 768) / 64)).deadClusters.testBit (c % 64)

/-- Energy per operation at a point (Table 1-6). -/
def rateOf (point : Nat) : Nat := if point = 0 then 180 else if point = 1 then 320 else 550

/-- Rate charged on a cluster: Sprint on a real-time cluster; during a change of point, the higher of the two (R237, R239). -/
def Block.rateAt (b : Block) (c : Nat) : Nat :=
  if b.rtCluster c then rateOf 2
  else
    let p := (b.hub (b.clusterHub c)).sched.points.getD c {}
    rateOf (Nat.max p.point p.target)

/-! ## Choosing the next task (R230 to R234) -/

/-- A hub reports zero hub clusters (R42). -/
def Block.bare (b : Block) (h : Nat) : Bool := (b.hub h).clusters == 0

/-- A task of hub h runs on the clusters of its row die, or for a hub's own work on the hub's clusters, which on a hub without any are the
row-die clusters of its group (R42); on the kept contexts only real-time ones (R237). -/
def Task.runsOn (t : Task) (h c : Nat) (kept bare : Bool) : Bool :=
  (!kept || t.cls == 0) && match t.stack with
    | some s => clusterDie c == some s
    | none => if bare then decide (c < 768) && c / 192 == h else decide (768 ≤ c)

/-- A context of a cluster that is kept for real-time tasks (R237). -/
def Block.keptCtx (b : Block) (c chain ctx : Nat) : Bool := b.rtCluster c && chain < 8 && ctx == 1

/-- The cluster takes tasks: it is in service, and its stack is below level 4 (R242). -/
def Block.takes (b : Block) (c : Nat) : Bool :=
  b.clusterUp c && match clusterDie c with | some s => (b.die s).level != 4 | none => true

/-- A cluster that takes tasks has a context free for one of a class. -/
def Block.roomOn (b : Block) (h c cls : Nat) : Bool :=
  let used := (b.hub h).sched.running.filter (·.cluster == c)
  let open_ := if b.rtCluster c && cls != 0 then used.countP (fun t => !(decide (t.chain < 8) && t.ctx == 1)) else used.length
  b.takes c && decide (open_ < if b.rtCluster c && cls != 0 then 56 else 64)

/-- On a hub without clusters, its work fills the row-die clusters of its group in increasing number (R42); Figures mode runs on one chain, of
the lowest-numbered one (R91, R151): a task of it joins the chain on which others of it run. -/
def Block.mayPlace (b : Block) (h : Nat) (t : Task) (c chain : Nat) : Bool :=
  let lower := (List.range (c - 192 * h)).map (192 * h + ·)
  t.stack.isSome
  || ((!b.bare h || !lower.any fun c' => if t.single then b.clusterUp c' else b.roomOn h c' t.cls)
      && (!t.single || ((b.hub h).sched.running.filter (·.single)).all fun o => o.cluster == c && o.chain == chain))

/-- A task is ready once those whose results it works on have ended (R230). -/
def Block.isReady (b : Block) (t : Task) : Bool :=
  t.after.all fun (h, id) => !((b.hub h).sched.ready ++ (b.hub h).sched.running).any (·.id == id)

/-- The class at which a task is chosen (R231). -/
def Task.rank (t : Task) : Nat := if t.cls = 2 && t.promoted then 1 else t.cls

/-- Order of choice of R230, rules 1 to 3. -/
def Block.taskBefore (b : Block) (a t : Task) : Bool :=
  let ja := b.jobs.getD a.job {}
  let jt := b.jobs.getD t.job {}
  let x := ja.charged * jt.weight
  let y := jt.charged * ja.weight
  if a.rank ≠ t.rank then decide (a.rank < t.rank)
  else if a.rank = 0 then decide (a.fillAge < t.fillAge)
  else decide (x < y) || (x == y && (decide (a.job < t.job) || (a.job == t.job && decide (a.pickOrder < t.pickOrder))))

/-- One sixteenth of the cap (R234). -/
def Sched.instalment (x : Sched) : Nat := x.capNow / 16

/-- What is charged when the task is chosen; a task that starts again keeps its charge (R164; DESIGN CHOICE, log 101). -/
def Sched.firstCharge (x : Sched) (t : Task) (rate : Nat) : Nat :=
  let est := t.ops * rate
  if t.charged != 0 then 0
  else if t.cls != 0 && decide (x.instalment < est) then x.instalment else est

/-- Rule 4, with the dispatch scoreboard of R232. A cap of zero gives instalments of nothing, which start no work (DEDUCED, log 35). -/
def Sched.fits (x : Sched) (t : Task) (rate : Nat) : Bool :=
  let rt := x.running.countP (·.cls == 0)
  let others := x.running.length - rt
  if t.cls = 0 then (t.charged != 0 || decide (t.ops * rate ≤ x.reserve + x.mainBal)) && decide (x.running.length < Config.dispatchEntries)
  else decide (x.firstCharge t rate ≤ x.mainBal) && (decide (0 < x.firstCharge t rate) || t.ops * rate == 0 || t.charged != 0) && decide (others + (rt - Config.dispatchKept) < Config.dispatchEntries - Config.dispatchKept)

/-- Take a charge from the balances: a real-time one from the reserve first (R233). -/
def Sched.charge (x : Sched) (rt : Bool) (n : Nat) : Sched :=
  if rt then { x with reserve := x.reserve - n, mainBal := x.mainBal - (n - x.reserve) } else { x with mainBal := x.mainBal - n }

/-- New credit: to the reserve up to its set size, the rest to the main balance up to its cap (R233). -/
def Sched.credit (x : Sched) (n : Nat) : Sched :=
  let want := x.rtres * 1000000 - x.reserve
  let r := Nat.min n want
  { x with reserve := x.reserve + r, mainBal := Nat.max x.mainBal (Nat.min (x.mainBal + (n - r)) x.capNow) }

/-- TASK_DISPATCH: a chain context is free, and the scheduler chooses and charges the next ready task. -/
def taskDispatch (h c chain ctx : Nat) (b : Block) : Block :=
  let x := (b.hub h).sched
  let busy := x.running.any fun t => t.cluster == c && t.chain == chain && t.ctx == ctx
  if b.clusterHub c ≠ h || !b.hubUp h || !b.takes c || busy || 1024 ≤ c || 32 ≤ chain || 2 ≤ ctx then b
  else
    let fit := fun (t : Task) => t.runsOn h c (b.keptCtx c chain ctx) (b.bare h) && b.isReady t && t.avoid != some (c, chain) && b.mayPlace h t c chain
    let rate := b.rateAt c
    match (sortBy b.taskBefore (x.ready.filter fit)).find? fun t => x.fits t rate with
    | none => b
    | some t =>
      let n := x.firstCharge t rate
      let t' := { t with cluster := c, chain := chain, ctx := ctx, charged := t.charged + n
                         rate := if t.charged = 0 then rate else t.rate, estimate := if t.charged = 0 then t.ops * rate else t.estimate }
      (b.onSched h fun x => { x.charge (t.cls == 0) n with ready := x.ready.filter (·.id != t.id), running := x.running ++ [t'] }).onJob t.job fun j =>
        { j with charged := j.charged + n }

def execTaskDispatch (hub cluster chain ctx : Nat) (s : State) : Result := run (fun _ b => taskDispatch hub cluster chain ctx b) s

/-- A task has ended: those that worked on its result may be ready now. -/
def Block.taskGone (b : Block) (h id : Nat) : Block :=
  let free := fun (now : Nat) (t : Task) =>
    if t.after.contains (h, id) then { t with after := t.after.filter (· != (h, id)), readyAge := now } else t
  { b with hubs := b.hubs.mapVal fun _ x => { x with sched := { x.sched with ready := x.sched.ready.map (free x.regs.age) } } }

/-- TASK_END: a task that took fewer steps than it was charged for is refunded the difference (R229), a task in instalments that ends before
its last one too. A task whose steps exceed the instalments charged so far waits for the next (R234). -/
def taskEnd (h id steps : Nat) (b : Block) : Block :=
  match (b.hub h).sched.running.find? (·.id == id) with
  | none => b
  | some t =>
    let cost := Nat.min (32 * steps) t.ops * t.rate
    if t.charged < cost then b
    else
      let back := t.charged - cost
      ((b.onSched h fun x => { x.credit back with running := x.running.filter (·.id != id) }).onJob t.job fun j =>
        { j with charged := j.charged - back }).taskGone h id

def execTaskEnd (hub task steps : Nat) (s : State) : Result := run (fun _ b => taskEnd hub task steps b) s

/-- INSTALMENT_CHARGE: a paused task goes on once its next instalment fits (R234). -/
def instalmentCharge (h id : Nat) (b : Block) : Block :=
  let x := (b.hub h).sched
  match x.running.find? (·.id == id) with
  | none => b
  | some t =>
    let n := Nat.min x.instalment (t.estimate - t.charged)
    if n = 0 || x.mainBal < n then b
    else
      (b.onSched h fun x => { x.charge false n with running := x.running.map fun y => if y.id == id then { y with charged := y.charged + n } else y }).onJob t.job
        fun j => { j with charged := j.charged + n }

def execInstalmentCharge (hub task : Nat) (s : State) : Result := run (fun _ b => instalmentCharge hub task b) s

/-! ## The age unit (R7, R233, R236) -/

/-- FENCE of slot HEAD, as far as its bytes can be read, while an earlier slot of the ring is in flight (R201). -/
def Block.fenceHolds (st : Store) (b : Block) (rid : Nat) (r : Ring) : Bool :=
  let bytes := if r.slotBytes.isSome then r.slotBytes else peek st b (ringHub rid) r.job (r.slotVa r.head) 256
  (b.ringWorks rid).any (fun w => decide (w.p < r.head)) && match bytes with
    | some bs => bit (ofBytes bs) 20
    | none => false

/-- Slots at HEAD that meet R201, its condition on FENCE included, are eligible from now (R221). -/
def Block.markEligible (st : Store) (b : Block) (h : Nat) : Block :=
  (b.ringsOf h).foldl (fun b (rid, r) =>
    if r.cls = 0 && r.eligible.isNone && r.retry.isEmpty && b.mayPick rid r && !b.fenceHolds st rid r then
      b.onRing rid fun r => { r with eligible := some (b.age h) }
    else b) b

/-- LEDGER_CREDIT: one age unit of a hub passes: its age count advances, and the ledger earns its credit while the hub's firmware has been
started. A balance above a new cap is cut to it when the new budget takes effect (R236). -/
def ledgerCredit (h : Nat) (st : Store) (b : Block) : Block :=
  if !b.hubUp h then b
  else
    let b := (Block.markEligible st b h).onRegs h fun r => { r with age := r.age + 1 }
    if b.fw h == .boot || b.fw h == .fatal then b
    else b.onSched h fun x =>
      let cap := capOf x.inForce
      let y := if x.newBudget then { x with newBudget := false, capNow := cap, mainBal := Nat.min x.mainBal cap, reserve := Nat.min x.reserve cap } else x
      y.credit (creditOf x.inForce)

def execLedgerCredit (hub : Nat) (s : State) : Result := run (ledgerCredit hub) s

/-- BACKGROUND_PROMOTION: ready for more than 100,000 age units (R231). -/
def backgroundPromotion (h id : Nat) (b : Block) : Block :=
  let now := b.age h
  b.onSched h fun x => { x with ready := x.ready.map fun t => if t.id == id && t.cls == 2 && decide (t.readyAge + 100000 < now) then { t with promoted := true } else t }

def execBackgroundPromotion (hub task : Nat) (s : State) : Result := run (fun _ b => backgroundPromotion hub task b) s

/-! ## Operating points (R238, R239) -/

/-- Highest point that heat allows a cluster (Table 8-3): compute on privileged channels is left alone at every level below 4. -/
def Block.thermalCap (b : Block) (c : Nat) : Nat :=
  match clusterDie c with
  | none => 2
  | some s => let l := (b.die s).level; if l = 0 || (l < 4 && b.eng.layout.priv.contains c) then 2 else if l = 1 then 1 else 0

/-- Ready tasks that may run on the cluster. -/
def Block.queued (b : Block) (c : Nat) : List Task := ((b.hub (b.clusterHub c)).sched.ready).filter fun t =>
  t.runsOn (b.clusterHub c) c false (b.bare (b.clusterHub c)) && b.isReady t

/-- Tenths of a step in one age unit at a point. -/
def stepRate (p : Nat) : Nat := if p = 0 then 30 else if p = 1 then 75 else 120

/-- OPERATING_POINT_CHOICE, R238: the longest queue of ready steps at one chain is the model's free value up to all the steps that may run
there, because the manual does not say how ready tasks queue to chains (log 2). -/
def pointChoice (h c : Nat) (b : Block) : Block :=
  let x := (b.hub h).sched
  let pt := x.points.getD c {}
  let now := b.age h
  if b.clusterHub c ≠ h || 1024 ≤ c || !b.hubUp h || b.rtCluster c || pt.point ≠ pt.target || (x.points.has c && decide (now < pt.chosenAge + 100)) then b
  else
    let q := b.queued c
    let total := (q.map fun t => t.ops / 32).sum
    let (v, b) := if total = 0 then (0#64, b) else b.free
    let s := v.toNat % (total + 1)
    let p := pt.point
    let extra := (q.map (·.ops)).sum * (rateOf (p + 1) - rateOf p)
    let p' := if p < 2 && x.horizon * stepRate p < 10 * s && extra ≤ x.mainBal then p + 1
      else if 0 < p && 20 * s ≤ x.horizon * stepRate (p - 1) then p - 1 else p
    let want := Nat.min p' (b.thermalCap c)
    let next := if want < p then p - 1 else want
    b.onSched h fun x => { x with points := x.points.put c { point := p, target := next, chosenAge := now, changeAge := now } }

def execOperatingPointChoice (hub cluster : Nat) (s : State) : Result := run (fun _ b => pointChoice hub cluster b) s

/-- OPERATING_POINT_CHANGE_DONE (R239). -/
def execOperatingPointChangeDone (hub cluster : Nat) (s : State) : Result :=
  run (fun _ b => b.onSched hub fun x => { x with points := x.points.modify cluster fun p => { p with point := p.target } }) s

/-! ## Engine-posted plans (R271) -/

/-- The dump region's service area takes the vacate list: a header of 64 bytes, then 16-byte entries (R414). -/
def Block.serviceArea (b : Block) (hub id : Nat) (v : List (Nat × Nat)) : Block :=
  let d := b.eng.dump
  if !d.armed then b
  else
    let frames := d.frames.drop (d.pages - d.svcPages)
    let all := (toBytes 64 (pack [(0, 8, 0x20), (64, 32, id), (96, 32, v.length)]) ++ vacateBytes v).take (65536 * frames.length)
    (chunks 65536 frames.length all).zip frames |>.foldl (fun b (bs, f) => b.wrMem hub f bs 1) b

/-- Channels still in the layout that are lost, or whose cluster is (R28). -/
def Block.lostChans (b : Block) : List Nat :=
  (b.eng.layout.ord ++ b.eng.layout.priv).filter fun c => (b.chan c).lost || (b.die (c / 64)).deadClusters.testBit (c % 64)

/-- The engine posts a plan without some channels, and without every lost one (R271). While a re-layout runs, it waits for its end
(R269, R274). A layout that R252 refuses makes no plan. -/
def Block.postPlan (b : Block) (cause : Nat) (out : List Nat) : Block :=
  if b.eng.relayout.isSome then b.onEng fun e => { e with plansDue := e.plansDue ++ [(cause, out)] }
  else
    let gone := distinct (out ++ b.lostChans)
    let L := b.eng.layout.less gone
    let id := layoutId L
    if !layoutOk ((List.range 12).map fun _ => 2 ^ 64 - 1) L then b else
    let (b, v) := b.keepPlan b.eng.leader { layout := L, id := id, mapout := true, out := gone, posted := true } cause
    b.serviceArea b.eng.leader id v

/-! ## Losing channels and stacks (Table 9-5, R270) -/

/-- A channel is lost: its queued requests and any test go, and its lines leave both levels. -/
def Block.loseChan (b : Block) (ch : Nat) : Block :=
  let keep := fun (c : Cache) => { c with sets := c.sets.mapVal fun _ x => { x with ways := x.ways.keep fun _ l => l.ch != ch } }
  let b := b.onChan ch fun c => { c with lost := true, narrow := [], wide := [], narrowIn := [], wideIn := [], serving := none, test := none }
  let b := b.onGroupSlice (ch / 64) fun x =>
    { x with cache := keep x.cache, fills := x.fills.map fun f => if f.granules.any (·.1 == ch) then { f with stale := true } else f }
  b.onDie (ch / 64) fun d => { d with buffer := keep d.buffer }

/-- Accumulators pending on a row die, in its buffer or in its overflow log: (table, local row). -/
def RowDie.heldAccs (d : RowDie) : List (Nat × Nat) := d.accs.keys.map (fun k => (k / 2 ^ 40, k % 2 ^ 40)) ++ d.log.map fun e => (e.table, e.lrow)

/-- The shares of a lost stack end: their accumulators and runs are lost to their batches (R126, R270). -/
def Block.endShares (b : Block) (s : Nat) : Block :=
  (b.die s).shares.foldl (fun b (t, sh) =>
    let b := ((b.die s).heldAccs.filter (·.1 == t)).foldl (fun b (_, l) => b.accLost s sh.job t l 2 sh.bseq) b
    let sh := ((b.die s).shares.getD t sh)
    let b := b.onDie s fun d => { d with shares := d.shares.del t, accs := d.accs.keep fun k _ => k / 2 ^ 40 != t, log := d.log.filter (·.table != t) }
    b.joinShare s { sh with accLost := sh.accLost + (if sh.runs.isEmpty then 0 else 1) }) b

/-- A whole stack is lost: its channels, its shares and its accumulators go, and the engine posts the map-out. With its row die it also
leaves service; a stack too hot keeps STATE 1 until it is released (Table 9-5, Worked example 15-1). -/
def Block.loseStack (b : Block) (s cause : Nat) : Block :=
  let b := (List.range 64).foldl (fun b p => if (b.die s).chans.has (64 * s + p) then b.loseChan (64 * s + p) else b) b
  let b := (b.onDie s fun d => { d with st := if cause = 5 then d.st else 0, failed := true, board := [], wcb := [] }).endShares s
  let b := b.onDie s fun d => { d with accs := [], log := []
                                       lostAccs := d.heldAccs.foldl (fun t (k, l) => Tbl.put t (accKey k l) 2) d.lostAccs }
  b.postPlan cause ((List.range 64).map (64 * s + ·))

/-! ## Heat (R240 to R242) -/

def entryTemp (trep : Nat) (l : Nat) : Int :=
  let t : Int := (trep : Int)
  if l = 1 then min 85 (t - 10) else if l = 2 then min 92 (t - 3) else if l = 3 then t else t + 10
def exitTemp (trep : Nat) (l : Nat) : Int :=
  if l = 4 then (trep : Int) else entryTemp trep l - 3

/-- Highest level, up to a bound, whose entry threshold a reading meets. -/
def levelMet (trep : Nat) (reading : Int) : Nat → Nat
  | 0 => 0
  | l + 1 => if entryTemp trep (l + 1) ≤ reading then l + 1 else levelMet trep reading l

/-- Table 8-3 with its hysteresis. -/
def nextLevel (trep : Nat) (reading : Int) (l : Nat) : Nat :=
  let up := levelMet trep reading 4
  if l < up then up
  else if l = 0 then 0
  else if exitTemp trep l ≤ reading then l
  else levelMet trep reading (l - 1)

/-- THERMAL event. -/
def Block.thermal (b : Block) (s what : Nat) : Block :=
  let d := b.die s
  b.event (b.homeHub s) 0x05 none (pack [(0, 4, s), (4, 3, d.level), (7, 1, b2n d.gap), (8, 8, (d.reading % 256).toNat), (16, 8, d.trep), (24, 2, what)])

/-- The stack's level follows its reading. -/
def Block.heat (b : Block) (s : Nat) (reading : Int) : Block :=
  let d := b.die s
  let l := nextLevel d.trep reading d.level
  let now := b.age (b.homeHub s)
  let b := b.onDie s fun d => { d with reading := reading, level := l, level4Age := if l = 4 && d.level != 4 then now else d.level4Age
                                       chans := if d.level = 4 && l != 4 then d.chans.mapVal fun _ c => c.takeIn else d.chans }
  if l = d.level then b
  else
    let b := b.thermal s 0
    if l = 4 || d.level = 4 then b.send (.pmReport 0x05 (pack [(0, 4, s), (4, 3, l)])) else b

/-- STACK_TEMP_READ: a reading arrives. -/
def tempRead (s : Nat) (reading : Int) (reported : Nat) (b : Block) : Block :=
  if !b.dieOn s then b
  else
    let now := b.age (b.homeHub s)
    let gap := (b.die s).gap
    let b := b.onDie s fun d => { d with trep := if reported = 0 || 105 < reported then 95 else reported, readAge := now, gap := false }
    let b := b.heat s reading
    let b := if gap then b.thermal s 2 else b
    (b.sample 0x05 s reading.toNat).sample 0x06 s (b.die s).level

def execStackTempRead (stack : Nat) (reading : Int) (reported : Nat) (s : State) : Result := run (fun _ b => tempRead stack reading reported b) s

/-- TEMP_READING_GAP: no reading has arrived for 10 periods, so the reading is taken as TREP. -/
def tempGap (s : Nat) (b : Block) : Block :=
  let d := b.die s
  if !b.dieOn s || d.gap || b.age (b.homeHub s) < d.readAge + 10000 then b
  else ((b.onDie s fun d => { d with gap := true }).heat s d.trep).thermal s 1

def execTempReadingGap (stack : Nat) (s : State) : Result := run (fun _ b => tempGap stack b) s

/-- LEVEL4_TIMEOUT: 100 ms at level 4, so the stack is handled as a stack map-out (R242, Table 9-5). -/
def level4Timeout (s : Nat) (b : Block) : Block :=
  let d := b.die s
  if !b.dieUp s || d.level ≠ 4 || b.age (b.homeHub s) < d.level4Age + 10000000 then b else (b.thermal s 3).loseStack s 5

def execLevel4Timeout (stack : Nat) (s : State) : Result := run (fun _ b => level4Timeout stack b) s

/-- THROTTLE_IDLE: at level 3 a privileged channel that has transferred for 1.0 µs is held idle; a request group of a real-time slot that has
started transferring runs to its end first (R241). -/
def throttleIdle (ch : Nat) (b : Block) : Block :=
  if (b.die (ch / 64)).level = 3 && b.eng.layout.priv.contains ch then
    b.onChan ch fun c => if c.serving.isSome then { c with idleDue := true } else { c with idle := true }
  else b
def execThrottleIdle (channel : Nat) (s : State) : Result := run (fun _ b => throttleIdle channel b) s
/-- THROTTLE_IDLE_END: the idle period has passed. -/
def execThrottleIdleEnd (channel : Nat) (s : State) : Result := run (fun _ b => b.onChan channel fun c => { c with idle := false, idleDue := false }) s

end Sys2Proof.Machine
end

