-- ==== Sys2Proof/Machine/Channels.lean ====
section
/-! DEFINITION. Channel controllers, Snowplow, the write-combining buffer's drain, scrub, repair, tests, map-out and re-layout, lanes, and
the fills and offers of the row cache (R243 to R299, R431). -/
namespace Sys2Proof.Machine

/-! ## Snowplow (R243, R244) -/

/-- Atom slots of a frame that heat leaves (Table 8-3). Level 4 withholds none: it admits no new request, and those admitted run to their
end (R242; DEDUCED, log 87). -/
def Block.frameSlots (b : Block) (ch : Nat) : Nat :=
  let l := (b.die (ch / 64)).level
  if l = 4 then 64
  else if b.eng.layout.priv.contains ch || l = 0 then 64
  else if l = 1 then 48 else if l = 2 then 32 else 16

/-- SNOWPLOW_FRAME: a new frame is divided; READ takes the slots left over. -/
def snowplowFrame (ch : Nat) (b : Block) : Block :=
  let n := b.frameSlots ch
  let x := (b.hub (b.homeHub (ch / 64))).sched
  let w := x.shareWrite * n / 64
  let r := x.shareRemote * n / 64
  b.onChan ch fun c => { c with leftRead := n - w - r, leftWrite := w, leftRemote := r }

def execSnowplowFrame (channel : Nat) (s : State) : Result := run (fun _ b => snowplowFrame channel b) s

def Chan.left (c : Chan) : Traffic → Nat
  | .read => c.leftRead
  | .write => c.leftWrite
  | .remote => c.leftRemote

/-- Use n slots of one part. -/
def Chan.use (c : Chan) (t : Traffic) (n : Nat) : Chan :=
  match t with
  | .read => { c with leftRead := c.leftRead - n }
  | .write => { c with leftWrite := c.leftWrite - n }
  | .remote => { c with leftRemote := c.leftRemote - n }

/-- The rotation of R244, starting after a class. -/
def Traffic.after : Traffic → List Traffic
  | .read => [.write, .remote, .read]
  | .write => [.remote, .read, .write]
  | .remote => [.read, .write, .remote]

/-- Requests of a kind of traffic in the wide queue. -/
def Chan.waiting (c : Chan) (t : Traffic) : List Req := c.wide.filter (·.traffic == t)

/-- The kind of traffic served next and the part its slots come from: a kind with slots of its own, or one that borrows (R244). -/
def Chan.serve (c : Chan) : Option (Traffic × Traffic × Bool) :=
  let all := [Traffic.read, .write, .remote]
  match all.find? fun t => c.left t != 0 && !(c.waiting t).isEmpty with
  | some t => some (t, t, false)
  | none =>
    match all.find? fun t => c.left t != 0, c.lastBorrow.after.find? fun t => !(c.waiting t).isEmpty with
    | some lender, some t => some (t, lender, true)
    | _, _ => none

/-- The request of a kind that Snowplow holds last: the first of the first class that waits (R245). -/
def Chan.lead (c : Chan) (t : Traffic) : Option Req :=
  match c.waiting t with
  | [] => none
  | q :: qs => some (qs.foldl (fun m x => if x.prio < m.prio then x else m) q)

/-- The burst group of a kind: from its leading request, those of one direction and one open page, up to 32 atoms and the slots left. -/
def Chan.group (c : Chan) (t : Traffic) (room : Nat) : List Req :=
  match c.lead t with
  | none => []
  | some q =>
    let same := (c.waiting t).filter fun x => x.isWrite == q.isWrite && pageBank x.row == pageBank q.row && x.prio == q.prio
    (same.foldl (fun (acc : List Req × Nat) x => if acc.2 + x.atoms ≤ Nat.min groupAtoms room then (acc.1 ++ [x], acc.2 + x.atoms) else acc)
      ([], 0)).1

def eraseAll (xs : List Req) : List Req → List Req
  | [] => xs
  | y :: ys => eraseAll (xs.erase y) ys

/-- Take n atoms from the first request like q. -/
def cutFirst (q : Req) (n : Nat) : List Req → List Req
  | [] => []
  | y :: ys => if y == q then { y with atoms := y.atoms - n } :: ys else y :: cutFirst q n ys

/-- The real-time slot that a narrow request serves. -/
def Req.slot (q : Req) : Option (Nat × Nat) := match q.what with | .row r p _ => some (r, p) | _ => none

/-- A narrow request is issued: the group of its slot has started, and ends with its last request; an idle period that waited for that begins
(R241). -/
def Chan.issueNarrow (c : Chan) (q : Req) (rest : List Req) : Chan :=
  let c := (c.use q.traffic q.atoms)
  let more := q.slot.isSome && (rest ++ c.narrowIn).any fun x => x.slot == q.slot
  { c with narrow := rest, serving := if more then q.slot else none, idle := c.idle || (c.idleDue && !more), idleDue := c.idleDue && more }

/-- The request that a narrow queue issues next: while a group that has started holds off an idle period, only one of its own. -/
def Chan.nextNarrow (c : Chan) : Option (Req × List Req) :=
  match (if c.idleDue then c.narrow.find? fun q => q.slot == c.serving else c.narrow.head?) with
  | none => none
  | some q => some (q, c.narrow.erase q)

/-- A prefetch read whose last atoms have come fills its row into the row buffer, and then on its way to the home hub (R213, R290, R294). -/
def Block.fillDone (b : Block) (ch : Nat) (q : Req) : Block :=
  match q.what with
  | .fill part locs toward up preload =>
    if (b.chan ch).holds q.what then b
    else
      let b := if b.bufferHit (ch / 64) locs then b else b.bufferFill (ch / 64) part locs toward
      match b.sliceOf (ch / 64) with
      | some h => if up then b.startFill h part locs preload else b
      | none => b
  | _ => b

/-- BURST_GROUP: narrow requests are issued before any new burst group; otherwise Snowplow chooses the next group (R256). A request larger
than the slots left takes those, and the rest of it waits on. -/
def burstGroup (ch : Nat) (b : Block) : Block :=
  let b := if b.admitsAt ch then b.onChan ch Chan.takeIn else b
  let c := b.chan ch
  if c.lost || c.idle then b
  else match c.nextNarrow with
    | some (q, rest) => b.onChan ch fun c => c.issueNarrow q rest
    | none =>
      if c.idleDue then b.onChan ch fun c => { c with idle := true, idleDue := false, serving := none }
      else match c.serve with
      | none => b
      | some (t, lender, borrowed) =>
        let room := c.left lender
        let took := fun (c : Chan) (n : Nat) => { c.use lender n with lastBorrow := if borrowed then t else c.lastBorrow }
        match c.group t room, c.lead t with
        | [], some q => let n := Nat.min groupAtoms room; b.onChan ch fun c => took { c with wide := cutFirst q n c.wide } n
        | g, _ =>
          let b := b.onChan ch fun c => took { c with wide := eraseAll c.wide g } (g.map (·.atoms)).sum
          g.foldl (fun b q => b.fillDone ch q) b

def execBurstGroup (channel : Nat) (s : State) : Result := run (fun _ b => burstGroup channel b) s

/-- BANK_REFRESH: once in 3.9 µs, or in 1.95 µs at 85 °C or more (R257). -/
def bankRefresh (ch bank : Nat) (b : Block) : Block :=
  let now := b.age (b.homeHub (ch / 64))
  let due := if (b.die (ch / 64)).reading < 85 then 390 else 195
  b.onChan ch fun c => if 64 ≤ bank || (c.refreshes.has bank && decide (now < c.refreshes.getD bank 0 + due)) then c
    else { c with refreshes := c.refreshes.put bank now }

def execBankRefresh (channel bank : Nat) (s : State) : Result := run (fun _ b => bankRefresh channel bank b) s

/-- WCB_DRAIN: the oldest accepted write goes to its channel, merged first where it covers part of an atom (R258, R259). -/
def execWcbDrain (stack : Nat) (s : State) : Result := run (fun _ b => (b.drainOne stack).1) s

/-! ## Scrub and tests (R263, R275, R276) -/

/-- The slot of some table's working region that covers a physical address, found through its job's page tables. -/
def Block.slotAt (st : Store) (b : Block) (pa : Nat) : Option RowRef :=
  b.tables.vals.findSome? fun t =>
    let td := tdOf t.desc
    let page := fun (v : Nat) => match walkAll st b td.job { va := v, read := true, place := 1, domain := td.domain } with
      | (.page pg, _) => some pg.addr
      | _ => none
    (List.range (ceilDiv (td.lrows * td.S) 65536)).findSome? fun k =>
      if page (td.slotVa 0 + 65536 * k) = some (pa / 65536 * 65536) then
        let lrow := (65536 * k + pa % 65536) / td.S
        if td.lrows ≤ lrow then none
        else (partsVia page (td.slotVa lrow) td.S).bind fun parts => match b.rowRef td lrow parts with | (r, 0) => some r | _ => none
      else none

/-- What a checker finds in an atom of the reserve: a page that errs becomes a candidate there too, and a copy that stood in the atom is
rewritten elsewhere (R265, R267). -/
def Block.checkedReserve (b : Block) (hub ch loc : Nat) (err : ReadErr) : Block :=
  if err.failed then
    ((b.event hub 0x01 none (pack [(0, 10, ch), (11, 1, b2n (decide (chanSoft ≤ loc))), (16, 32, loc)])).pageErrorAt hub ch (loc / 256)).copyFailed ch loc
  else if err.any (·.corrects) then
    (b.pageCorrectionAt hub ch (loc / 256)).request ch false { what := .work, traffic := .write, prio := 2, row := loc / 256, isWrite := true }
  else b

/-- What a checker finds in an atom of a row: the row buffer is looked up, and filled on a miss; an atom that fails poisons its row, and the
row's last atom completes a read of the whole row, whose DIGEST is then checked (R262, R264, Table 10-1). -/
def checkedRow (st : Store) (b : Block) (hub : Nat) (r : RowRef) (a : Nat) (err : ReadErr) : Block :=
  let atoms := r.atoms 0 r.td.rowBytes
  let locs := b.rowLocs r
  if b.bufferHit r.stack locs then ((b.bufferTouch r.stack locs).lineErrs hub (some r.stack) locs err).1
  else
    let b := b.bufferFill r.stack r.td.cpart locs false
    if (view st b).poison.contains a then b
    else if err.failed then
      (if atoms.contains a then poisonRow st b hub r [a] false else b.poisonAtoms hub (64 * a) 64 0).pageError hub (64 * a)
    else
      let b := if err.any (·.corrects) then b.correctAtom hub a else b
      if atoms.getLast? == some a && (match readRow st b hub r true [] with | (_, .poisoned) => true | _ => false) then (readRow st b hub r true []).1 else b

/-- An error that a checker finds in an atom of a channel: as ordinary traffic would have found it. -/
def Block.checkedAtom (st : Store) (b : Block) (ch loc : Nat) (err : ReadErr) : Block :=
  let hub := b.homeHub (ch / 64)
  match b.unlocate ch (loc / 256) with
  | some g =>
    let pa := g + loc % 256 / 64 * 64
    match Block.slotAt st b pa with
    | some r => checkedRow st b hub r (pa / 64) err
    | none => Block.atomRead st b hub (pa / 64) err
  | none => b.checkedReserve hub ch loc err

/-- A running SCAN goes past the atom that the checker has read. -/
def Block.scanned (b : Block) (ch loc : Nat) : Block :=
  match (b.chan ch).test with
  | some t =>
    if t.mode = 0 && loc / 64 = t.next / 64 then
      if t.last < t.next / 64 * 64 + 64 then
        (b.sample 0x11 ch (t.last / 64 - t.first / 64 + 1)).onChan ch fun c => { c with test := none }
      else b.onChan ch fun c => { c with test := some { t with next := t.next / 64 * 64 + 64 } }
    else b
  | none => b

/-- PATROL_SCRUB: one atom of an active channel, or of one with a running SCAN, is read and checked (R263, R275). -/
def patrolScrub (ch loc : Nat) (err : ReadErr) (st : Store) (b : Block) : Block :=
  let c := b.chan ch
  let scan := match c.test with | some t => t.mode == 0 && loc / 64 == t.next / 64 | none => false
  if !b.dieUp (ch / 64) || c.lost || chanBytesAll ≤ loc || !b.admitsAt ch || !((b.die (ch / 64)).active.testBit (ch % 64) || scan) then b
  else
    let b := b.request ch false { what := .scrub, prio := 2, row := loc / 256 }
    let b := Block.checkedAtom st b ch loc err
    (if err.failed then b.sample 0x12 ch 0 else b).scanned ch loc

def execPatrolScrub (channel loc : Nat) (err : ReadErr) (s : State) : Result := run (patrolScrub channel loc err) s

/-- Four rows of a DRAM page as places. -/
def pagePlaces (ch bank page : Nat) : List (Nat × Nat) := (pageRows bank page).map fun r => (ch, r)

/-- A page's rows can be taken into the row buffer: no earlier operation names them, and their sets have room (R135, R297). -/
def Block.pageFree (b : Block) (ch bank page : Nat) : Bool :=
  let rows := pagePlaces ch bank page
  !b.granStalls (ch / 64) rows && b.stageRoom (ch / 64) rows && b.admitsAt ch

/-- A page's four rows are copied into the row buffer and written back, as one operation of the scoreboard: reads and writes of them are
served from the copy until it retires (R267, R276, R297). The traffic is background-class. -/
def Block.servePage (b : Block) (ch bank page : Nat) : Block :=
  let rows := pagePlaces ch bank page
  let q : Req := { what := .work, prio := 2, row := (rows.headD (ch, 0)).2, atoms := 16 }
  (((b.stage (ch / 64) rows).request ch false q).request ch false { q with traffic := .write, isWrite := true }).enter (ch / 64)
    { granules := rows, copies := rows }

/-- One pass of PATTERN over a DRAM page: the pattern is written, and read `reads` times for each write (R275). -/
def patternStep (ch : Nat) (t : ChanTest) (pass : Bool) (b : Block) : Block :=
  let row := t.next / 256
  let q : Req := { what := .work, prio := 2, row := row / 4 * 4, atoms := 16 }
  let b := b.request ch false { q with traffic := .write, isWrite := true }
  let b := (List.range t.reads).foldl (fun b _ => b.request ch false q) b
  let b := b.onChan ch fun c => { c with patterns := c.patterns.put (pageKey row) t.pattern }
  let b := if pass then b else (b.sample 0x12 ch 0).pageErrorAt (b.homeHub (ch / 64)) ch row
  let next := t.next / 1024 * 1024 + 1024
  let b := if t.last < next then b.sample 0x11 ch (t.last / 64 - t.first / 64 + 1) else b
  b.onChan ch fun c => { c with test := some { t with next := if t.last < next then t.first else next, errors := t.errors + b2n (!pass) } }

/-- MARCH_STEP: the next page of a running MARCH is copied, tested and written back with its contents unchanged; a page that fails becomes a
repair candidate as an uncorrectable error does. Of a running PATTERN it is the next page of the range, again and again until STOP. -/
def marchStep (ch : Nat) (pass : Bool) (b : Block) : Block :=
  match (b.chan ch).test with
  | none => b
  | some t =>
    if t.mode = 2 then patternStep ch t pass b
    else if t.mode ≠ 1 then b
    else
      let row := t.next / 256
      let (bank, page) := pageBank row
      if !b.pageFree ch bank page then b
      else
        let b := b.servePage ch bank page
        let b := if pass then b else (b.sample 0x12 ch 0).pageErrorAt (b.homeHub (ch / 64)) ch row
        let next := t.next / 1024 * 1024 + 1024
        if t.last < next then (b.sample 0x11 ch (t.last / 64 - t.first / 64 + 1)).onChan ch fun c => { c with test := none }
        else b.onChan ch fun c => { c with test := some { t with next := next, errors := t.errors + b2n (!pass) } }

def execMarchStep (channel : Nat) (pass : Bool) (s : State) : Result := run (fun _ b => marchStep channel pass b) s

/-! ## Repair (R267, R268) -/

/-- Four pages with uncorrectable errors within 24 hours, or no repair left in the channel, make the engine post a map-out (Table 9-5). -/
def Block.pageCauses (b : Block) (ch : Nat) : Block :=
  let c := b.chan ch
  let now := b.age (b.homeHub (ch / 64))
  let four := 4 ≤ (c.badPages.countP fun x => decide (now ≤ x.2 + day))
  let empty := !c.gone.isEmpty && (List.range 64).all fun k => c.spareRows.getD k 0 == 0
  let planned := (match b.eng.plan with | some p => p.out.contains ch | none => false) || b.eng.plansDue.any fun p => p.2.contains ch
  if (four || empty) && !planned && (b.eng.layout.ord ++ b.eng.layout.priv).contains ch then b.postPlan 2 [ch] else b

/-- PAGE_REPAIR of a candidate: its rows are served from a copy while a soft repair is applied, and the copy is written back; or the page is
retired for good. -/
def pageRepair (ch bank page : Nat) (applied : Bool) (b : Block) : Block :=
  let c := b.chan ch
  let key := bank * 2 ^ 24 + page
  let hub := b.homeHub (ch / 64)
  if !c.candidates.contains key || c.lost || !b.dieUp (ch / 64) || !b.pageFree ch bank page then b
  else
    let spare := c.spareRows.getD bank 0
    let fixes := c.fixes key
    let again := c.repaired.contains key || (b.die (ch / 64)).ledger.any fun r =>
      bits r.toNat 16 10 == ch && bits r.toNat 32 6 == bank && bits r.toNat 40 24 == page && decide (bits r.toNat 8 4 < 2)
    let full := decide (Config.repairLedgerMax ≤ (b.die (ch / 64)).ledger.length)
    let b := b.onChan ch fun c => { c with candidates := c.candidates.filter (· != key) }
    let b := if applied && spare != 0 && !again && !full then
        let b := b.servePage ch bank page
        let rec_ := ledgerRecord b ch bank page 0 1 fixes
        let b := b.onChan ch fun c => { c with spareRows := c.spareRows.put bank (spare - 1), repaired := c.repaired ++ [key] }
        let b := b.ledgerAdd hub ch bank page 0 1 fixes
        b.onEng fun e => { e with boot := { e.boot with repairQueue := e.boot.repairQueue ++ [BitVec.ofNat 128 rec_] } }
      else
        let b := b.onChan ch fun c => { c with gone := if c.gone.contains key then c.gone else c.gone ++ [key] }
        (b.ledgerAdd hub ch bank page 3 0 fixes).listFrames hub ch bank page 1
    b.pageCauses ch

def execPageRepair (channel bank page : Nat) (applied : Bool) (s : State) : Result := live (fun _ b => pageRepair channel bank page applied b) s

/-! ## Losses (Table 9-5) -/

/-- The other pseudo-channel of an HBM4 channel (PRESUMED: pseudo-channels 2n and 2n + 1, log 29). -/
def chanPair (ch : Nat) : Nat := ch ^^^ 1

/-- CHANNEL_LOSS: lanes beyond the spares or the controller fail, for one pseudo-channel or for the HBM4 pair. -/
def channelLoss (ch : Nat) (pairToo : Bool) (b : Block) : Block :=
  let chs := (if pairToo then [ch, chanPair ch] else [ch]).filter fun c => !(b.chan c).lost && b.dieUp (c / 64) && (b.die (c / 64)).chans.has c
  if chs.isEmpty then b else (chs.foldl Block.loseChan b).postPlan 4 chs

def execChannelLoss (channel : Nat) (pairToo : Bool) (s : State) : Result := run (fun _ b => channelLoss channel pairToo b) s

def rowDieFailure (s : Nat) (b : Block) : Block := if !b.dieOn s then b else (b.loseStack s 6).publish
/-- ROW_DIE_FAILURE: the whole stack is lost. -/
def execRowDieFailure (stack : Nat) (s : State) : Result := run (fun _ b => rowDieFailure stack b) s

/-- LANE_RECALIBRATION: due after 10,000,000 age units, a move of 5 °C, or at RECALIBRATE. Each lane found below margin takes a spare, with
its ledger record; a channel that needs more spares than it has is lost (R260, R425, R431). `bad` lists (channel, lane); a lane of 64
or more is a command and address lane. -/
def recalLane (b : Block) (ch lane : Nat) : Block :=
  let hub := b.homeHub (ch / 64)
  let c := b.chan ch
  if 64 ≤ lane then
    if c.spareCa = 0 then channelLoss ch true b
    else
      let take := fun (c : Chan) => { c with spareCa := c.spareCa - 1 }
      ((b.onChan ch take).onChan (chanPair ch) take).ledgerAdd hub ch 0 lane 2 0 0
  else if c.spareLanes = 0 then channelLoss ch false b
  else (b.onChan ch fun c => { c with spareLanes := c.spareLanes - 1 }).ledgerAdd hub ch 0 lane 2 0 0

/-- The recalibration that is due: of every channel of the stack, or of those that RECALIBRATE names, which counts as the stack's own only
when it names them all (DEDUCED, log 118). -/
def laneRecalibration (s : Nat) (bad : List (Nat × Nat)) (b : Block) : Block :=
  let d := b.die s
  let now := b.age (b.homeHub s)
  let asked := fun (c : Chan) => c.recalAge == 1
  let whole := decide (d.recalAge + 10000000 ≤ now) || decide (5 ≤ (d.reading - d.recalReading).natAbs) || (!d.chans.isEmpty && d.chans.vals.all asked)
  if !b.dieUp s || !(whole || d.chans.vals.any asked) then b
  else
    let found := bad.filter fun x => x.1 / 64 == s && (b.die s).chans.has x.1 && !(b.chan x.1).lost && (whole || asked (b.chan x.1))
    let b := b.onDie s fun d =>
      { d with recalAge := if whole then now else d.recalAge, recalReading := if whole then d.reading else d.recalReading
               chans := d.chans.mapVal fun _ c => { c with recalAge := 0 } }
    found.foldl (fun b (ch, lane) => recalLane b ch lane) b

def execLaneRecalibration (stack : Nat) (bad : List (Nat × Nat)) (s : State) : Result := run (fun _ b => laneRecalibration stack bad b) s

/-! ## Re-layout (R271 to R274) -/

/-- Lines and fills of a granule's old place leave both levels (R298). -/
def Block.dropLine (b : Block) (ch row : Nat) : Block :=
  let b := b.onGroupSlice (ch / 64) fun x => x.dropGranule ch row
  b.onDie (ch / 64) fun d => { d with buffer := d.buffer.drop bufferSet ch row }

/-- One granule of a stripe: copied when its place changes, with training-class traffic; a lost one becomes poisoned atoms in its new
place. A granule of zeros may stand as a zero line where a table's region holds it (R272, R293). -/
def Block.moveGranule (b : Block) (old new : Layout) (g : Nat) : Block :=
  let a := old.locate g
  let z := new.locate g
  if a == z then b
  else
    let ask := fun (b : Block) (x : Option (Nat × Nat)) (t : Traffic) => match x with
      | some (ch, row) => b.request ch false { what := .work, traffic := t, row := row, atoms := 4, isWrite := t == .write }
      | none => b
    let b := match a with | some (ch, row) => b.dropLine ch row | none => b
    let b := match z with | some (ch, row) => b.dropLine ch row | none => b
    let hub := match z with | some (ch, _) => b.homeHub (ch / 64) | none => b.eng.leader
    match a with
    | some (ch, _) =>
      if (b.chan ch).lost then (List.range 4).foldl (fun b k => b.poisonAtoms hub (g + 64 * k) 64 0) (ask b z .write) else ask (ask b a .read) z .write
    | none => b

/-- Places of a stripe's granules that move, in the old layout and in the new one. -/
def movedPlaces (old new : Layout) (gs : List Nat) : List (Nat × Nat) × List (Nat × Nat) :=
  let moved := gs.filter fun g => old.locate g != new.locate g
  (moved.filterMap old.locate, moved.filterMap new.locate)

/-- The row dies that a stripe touches stage its sources, and enter its copy as one operation (R272, R297). -/
def Block.stageStripe (b : Block) (src dst : List (Nat × Nat)) : Block :=
  (distinct ((src ++ dst).map fun x => x.1 / 64)).foldl (fun b s =>
    let mine := src.filter fun x => x.1 / 64 == s && !(b.chan x.1).lost
    (b.stage s mine).enter s { granules := dedup (mine ++ dst.filter fun x => x.1 / 64 == s), copies := mine }) b

/-- Pending accumulators go to the row dies that own their rows now, with their control words (R273). -/
def Block.moveAccs (st : Store) (b : Block) : Block :=
  let all := b.dies.flatMap fun (s, d) => d.accs.map fun (k, a) => (s, k, a)
  all.foldl (fun b (s, k, a) =>
    let td := tdOf (b.tables.getD (k / 2 ^ 40) {}).desc
    match ownerOf st b td (k % 2 ^ 40) with
    | some t => if t = s then b else (b.onDie s fun d => { d with accs := d.accs.del k }).onDie t fun d => { d with accs := d.accs.put k a }
    | none => b) b

/-- Replay state of a row die that had none: that of any row die in service, which all agree (R273). -/
def Block.spreadReplay (b : Block) : Block :=
  match b.upDies.find? fun s => !(b.die s).replay.isEmpty with
  | none => b
  | some src =>
    let rp := (b.die src).replay
    b.upDies.foldl (fun b s => b.onDie s fun d => { d with replay := rp.foldl (fun t (k, v) => if Tbl.has t k then t else Tbl.put t k { v with inprog := none }) d.replay }) b

/-- The re-layout has copied every stripe: the new layout is in force. -/
def Block.endRelayout (b : Block) (r : Relayout) : Block :=
  let b := b.onEng fun e => { e with layout := r.plan.layout, relayout := none }
  let b := if r.plan.mapout then
      r.plan.out.foldl (fun b ch => b.onDie (ch / 64) fun d => { d with active := if d.active.testBit (ch % 64) then d.active - 2 ^ (ch % 64) else d.active }) b
    else b
  let b := b.spreadReplay
  let b := { b with works := b.works.mapVal fun _ w => match w.data with
    | .update u => if u.started then w else { w with data := .update { checked := u.checked, transformed := u.transformed } }
    | _ => w }
  let b := b.publish
  let due := b.eng.plansDue
  let b := b.onEng fun e => { e with plansDue := [] }
  let due := due.filter fun p => p.2.any (b.eng.layout.ord ++ b.eng.layout.priv).contains
  let lost := b.lostChans
  let all := distinct (due.flatMap (·.2) ++ lost)
  if all.isEmpty then b else b.postPlan (match due.head? with | some p => p.1 | none => 7) all

/-- RELAYOUT_STRIPE: once every started share has retired, the next stripe, from the highest down, is copied (R272, R273). -/
def relayoutStripe (st : Store) (b : Block) : Block :=
  match b.eng.relayout with
  | none => b
  | some r =>
    if b.dies.vals.any (fun d => !d.shares.isEmpty || !d.board.isEmpty) then b
    else match r.left with
      | 0 => b.endRelayout r
      | n + 1 =>
        let gs := r.plan.layout.stripeGranules n
        let (src, dst) := movedPlaces r.old r.plan.layout gs
        let b := b.stageStripe src dst
        let b := gs.foldl (fun b g => b.moveGranule r.old r.plan.layout g) b
        let r' := { r with left := n }
        let b := Block.moveAccs st (b.onEng fun e => { e with relayout := some r' })
        if n = 0 then b.endRelayout r' else b

def execRelayoutStripe (s : State) : Result := firmware relayoutStripe s

/-! ## Fills, offers, Mogul (R280, R289, R290, R292, R293) -/

/-- CACHE_FILL: a fill reaches its hub's slice. A stale one is discarded (R280), and a row is filled whole or not at all (R283); a preload
takes a free locked way where there is one (R290). Lines put out, with those of their rows, are offered where their partition offers
(R292). A granule that the row buffer holds as a zero line is one here too. -/
def cacheFill (h id : Nat) (b : Block) : Block :=
  match (b.hub h).slice.fills.find? (·.id == id) with
  | none => b
  | some f =>
    let b := b.onSlice h fun x => { x with fills := x.fills.filter (·.id != id) }
    let q := b.part f.part
    let free := fun (x : CSet) (w : Nat) => q.elig true w && q.locked.testBit w && !x.ways.has w
    let ways : List (CSet → Nat → Bool) := if f.preload then [free, fun _ => q.elig false] else [fun _ => q.elig false]
    let zero := fun (x : Nat × Nat) => match (b.die (x.1 / 64)).buffer.line? (bufferSet x.1 x.2) x.1 x.2 with
      | some l => l.zero && q.zeroLine
      | none => false
    let c := (b.hub h).slice.cache
    if f.stale || b.admitAt h f.part = 0 then b
    else match c.fillRow cacheSet ways (b.lineLocked c) false (rowLines f.part f.id zero 0 f.granules) with
      | some (c, out) => b.onSlice h fun x => { x with cache := c, offers := x.offers ++ b.offering out }
      | none => b

def execCacheFill (hub fill : Nat) (s : State) : Result := run (fun _ b => cacheFill hub fill b) s

/-- EVICTION_OFFER: the row die declines what it holds or has no way for (R292). The lines of a row of several granules were put out together and
are taken or declined together (R283). A zero line stays one (R293). -/
def evictionOffer (h i : Nat) (b : Block) : Block :=
  match (b.hub h).slice.offers[i]? with
  | none => b
  | some l =>
    let s := l.ch / 64
    let ls := if l.mates.isEmpty then [l] else (b.hub h).slice.offers.filter fun x => x.mates == l.mates
    let b := b.onSlice h fun x => { x with offers := if l.mates.isEmpty then x.offers.eraseIdx i else x.offers.filter fun y => y.mates != l.mates }
    let whole := l.mates.all fun m => ls.any fun x => x.ch == m.1 && x.row == m.2
    let got := if !whole || b.bufferHit s (ls.map fun x => (x.ch, x.row)) then none
      else (b.die s).buffer.fillRow bufferSet [fun _ _ => true] (fun _ _ => false) false (ls.map fun x => { x with held := 0, born := 0 })
    match got with
    | some (c, _) => (b.onDie s fun d => { d with buffer := c }).onSlice h fun x => { x with offersAccepted := x.offersAccepted + ls.length }
    | none => b.onSlice h fun x => { x with offersDeclined := x.offersDeclined + ls.length }

def execEvictionOffer (hub offer : Nat) (s : State) : Result := run (fun _ b => evictionOffer hub offer b) s

/-- MOGUL_HALVE. -/
def mogulHalve (h : Nat) (b : Block) : Block := if 4194304 ≤ (b.hub h).slice.fetches then b.onSlice h Slice.halve else b
def execMogulHalve (hub : Nat) (s : State) : Result := run (fun _ b => mogulHalve hub b) s

end Sys2Proof.Machine
end

