-- ==== Sys2Proof/Machine/Boundary.lean ====
section
/-! DEFINITION. The package boundary: signal words, the host-physical window, windows in both directions, arrival semaphores, and the
host link (R196, R323 to R325, R331 to R350). -/
namespace Sys2Proof.Machine

/-! ## Signal words (R196, Table 7-4) -/

/-- A refused signal word is counted and listed. -/
def Block.sigRefused (b : Block) (h job sem reason : Nat) : Block :=
  (b.sample 0x0D h 0).event h 0x0C (some job) (pack [(0, 16, sem), (16, 2, reason)])

/-- SIGNAL_WORD: a signal word written to the signal aperture of a hub. -/
def signalWord (h : Nat) (word : BitVec 64) (b : Block) : Block :=
  let x := word.toNat
  let job := bits x 40 6
  let sem := bits x 8 16
  if 3 < h || !b.hubUp h then b
  else if !versionOk (bits x 0 8) b.eng.minor || rsvSet x [(46, 18)] then b.sigRefused h job sem 0
  else if !b.allotted h job sem then b.sigRefused h job sem 1
  else if b.freeOrDone h sem then b.sigRefused h job sem 2
  else (b.signal h sem (bits x 24 16 + 1) job).1

def execSignalWord (hub : Nat) (word : BitVec 64) (s : State) : Result := run (fun _ b => signalWord hub word b) s

/-! ## ARRIVAL_SIGNAL_APPLY (R344, R345) -/

/-- The first element a test picks, removed. -/
def takeFirst {α : Type} (p : α → Bool) : List α → Option (α × List α)
  | [] => none
  | x :: xs =>
    if p x then some (x, xs)
    else match takeFirst p xs with
      | some (y, ys) => some (y, x :: ys)
      | none => none

/-- A release that counts the signals latched before it counts one fewer. -/
def Block.countArrival (b : Block) (h sem : Nat) : Block :=
  let mine := fun (p : PendMsg) => match p.obj with
    | .region r => p.code == 0x88 && bits (b.eng.regions.getD r 0).toNat 46 2 == h && bits (b.eng.regions.getD r 0).toNat 48 16 == sem
    | _ => false
  b.onEng fun e => { e with pend := e.pend.map fun p => if mine p then { p with aux := p.aux.map (· - 1) } else p }

/-- ARRIVAL_SIGNAL_APPLY: every write that entered any port before the oldest latched signal has reached its home point. -/
def arrivalSignalApply (h sem : Nat) (b : Block) : Block :=
  match takeFirst (fun a => a.sol.isNone && a.hub == h && a.sem == sem) b.eng.arrivals with
  | none => b
  | some (a, rest) =>
    let b := b.onEng fun e => { e with arrivals := rest }
    ((b.latch h sem a.count).1).countArrival h sem

def execArrivalSignalApply (hub sem : Nat) (s : State) : Result := run (fun _ b => arrivalSignalApply hub sem b) s

/-! ## The host-physical window (R331 to R333) -/

/-- Where an address of the package fabric lies. -/
inductive Aper where
  | window (p : Nat)
  | signals (hub : Nat)
  | elsewhere
deriving DecidableEq, Repr

def aperture (a : Nat) : Aper :=
  if Config.hpwBase ≤ a ∧ a < Config.hpwBase + 2 ^ 42 then .window (a - Config.hpwBase)
  else if Config.sigBase ≤ a ∧ a < Config.sigBase + 4 * 65536 then .signals ((a - Config.sigBase) / 65536)
  else .elsewhere

/-- An access of the window that the engine takes: 1 to 256 bytes of one granule, within the capacity of its domain. -/
def Block.hostAccess (b : Block) (p n : Nat) : Bool :=
  decide (1 ≤ n) && decide (p % 256 + n ≤ 256) && b.eng.layout.inCap p n

/-- A refusal of R332. -/
def Block.fabRefuse (b : Block) (port : Nat) (data : List Byte) : Block := (b.sample 0x0F port 0).send (.fabError port data)

/-- An inbound access joins its channels' queues as REMOTE traffic (R332). -/
def Block.outsideReq (b : Block) (pa n : Nat) : Block := b.requestAtoms false { what := .outside, traffic := .remote } (atomsOf pa n)

/-- HOST_WINDOW_WRITE: a write that enters at a port. -/
def hostWindowWrite (port addr : Nat) (data : List Byte) (posted : Bool) (b : Block) : Block :=
  if 3 < port || !b.hubUp port then b
  else match aperture addr with
    | .elsewhere => b
    | .signals h =>
      if posted && addr % 8 = 0 && data.length = 8 then signalWord h (BitVec.ofNat 64 (ofBytes data)) b else b.fabRefuse port []
    | .window p =>
      if !b.hostAccess p data.length then b.fabRefuse port []
      else
        let b := b.wrMem port p data 2
        if posted then b else if b.lostIn p data.length then b.send (.fabError port []) else b.send (.fabDone port)

def execHostWindowWrite (port addr : Nat) (data : List Byte) (posted : Bool) (s : State) : Result :=
  run (fun _ b => hostWindowWrite port addr data posted b) s

/-- Bytes and poisoned atoms that an outside reader receives: zeros on the atoms concerned (R333). -/
def outsideRead (st : Store) (b : Block) (pa n : Nat) : List Byte × List Nat :=
  let bad := (atomsOf pa n).filter fun a => poisonedIn st b (64 * a) 64 || b.lostAt (64 * a)
  (((rdMem st b pa n).zipIdx).map fun (v, i) => if bad.contains ((pa + i) / 64) then 0 else v, bad)

/-- The channels of [pa, pa + n) take a read: none of their stacks stands at thermal level 4 (R242). -/
def Block.outsideOpen (b : Block) (pa n : Nat) : Bool := (atomsOf pa n).all fun a => match b.locate (64 * a) with | some (ch, _) => b.admitsAt ch | none => true

/-- A read of stack memory from outside: what the atom code found on each of its atoms acts first (R261, R264). `err` numbers the atoms from
`first` on. -/
def outsideAtoms (st : Store) (b : Block) (hub pa n first : Nat) (err : ReadErr) : Block :=
  ((atomsOf pa n).zipIdx first).foldl (fun b (a, k) =>
    if b.lostAt (64 * a) then b else Block.atomRead st b hub a (err.filter (·.atom == k))) b

/-- HOST_WINDOW_READ: a read that enters at a port. -/
def hostWindowRead (port addr len : Nat) (err : ReadErr) (st : Store) (b : Block) : Block :=
  if 3 < port || !b.hubUp port then b
  else match aperture addr with
    | .elsewhere => b
    | .signals _ => b.fabRefuse port (List.replicate (min len 256) 0)
    | .window p =>
      if !b.hostAccess p len then b.fabRefuse port []
      else if !b.outsideOpen p len then b
      else
        let b := (outsideAtoms st b port p len 0 err).outsideReq p len
        let (data, bad) := outsideRead st b p len
        b.send (.fabData port data bad)

def execHostWindowRead (port addr len : Nat) (err : ReadErr) (s : State) : Result := run (hostWindowRead port addr len err) s

/-! ## Inbound window accesses (R324, R325, R339) -/

/-- The checks of R324 on a set entry. -/
def Block.winTakes (b : Block) (e : Nat) (a : WinAccess) : Bool :=
  bits e 32 8 == a.x && bits e 40 8 == a.y && bits e 48 8 == a.z && bits e 56 12 == a.fromWin
    && match a.op with
      | .read n _ => bit e 26 && decide (a.page * 65536 + a.offset + n ≤ bits e 192 28 * 65536)
      | .write d => bit e 27 && decide (a.page * 65536 + a.offset + d.length ≤ bits e 192 28 * 65536)
      | .signal h sem _ => bit e 29 && b.allotted h (bits e 20 6) sem
      | .arrival _ _ => bit e 29

/-- Translations of every page that an inbound access touches, or the first that fails. -/
def winPages (st : Store) (hub job : Nat) (write : Bool) : List Nat → Block → Block × Except (Nat × XOut) (List Page)
  | [], b => (b, .ok [])
  | va :: vas, b =>
    match translateNow st b hub job { va := va, read := !write, write := write } with
    | (.page pg, b) =>
      match winPages st hub job write vas b with
      | (b, .ok pgs) => (b, .ok (pg :: pgs))
      | r => r
    | (o, b) => (b, .error (va, o))

/-- One page's part of an inbound read. What the spec places by locate lies in stack memory; a page of the capacity tier is read through the
port of the hub that the access entered at (DEDUCED, log 30). None while the bytes are awaited. -/
def winRead (st : Store) (b : Block) (hub target a m first : Nat) (err : ReadErr) : Block × Option (List Byte × Bool) :=
  if target = 0 then
    if !b.outsideOpen a m then (b, none)
    else
      let b := (outsideAtoms st b hub a m first err).outsideReq a m
      let (data, bad) := outsideRead st b a m
      (b, some (data, !bad.isEmpty))
  else match b.eng.host with
    | .up => (b, some (rdHost st b a m, hostBad st b a m))
    | .retraining _ _ => (b, none)
    | .lost => (b, some (List.replicate m 0, true))

/-- An inbound read of pages in stack or host memory, answered once with all its bytes or with the poison indication. -/
def Block.winData (st : Store) (b : Block) (hub win va n : Nat) (pgs : List Page) (err : ReadErr) : Block :=
  let (b', got, _) := pgs.foldl (fun (acc : Block × Option (List Byte × Bool) × Nat) pg =>
    let (b, got, first) := acc
    let (a, _, m) := pg.span va n
    match got, winRead st b hub pg.target a m first err with
    | some (old, bad), (b, some (bs, worse)) => (b, some (old ++ bs, bad || worse), first + (atomsOf a m).length)
    | _, (b, _) => (b, none, first)) (b, some ([], false), 0)
  match got with
  | some (data, bad) => b'.send (.winAnswer win (if bad then .poisoned else .data data))
  | none => b

/-- Inbound accesses that go on through a window of ours stand under ring 2048 + w, w being the entry they came through (log 30). -/
def onward (win : Nat) : Nat := 2048 + win

/-- One page's part of an inbound write: to stack memory as REMOTE traffic, to host memory through the port of the hub it entered at, or on
through the window that the page names (log 30). -/
def Block.winPut (b : Block) (hub win : Nat) (pg : Page) (a : Nat) (data : List Byte) : Block :=
  if pg.target = 0 then b.wrMem hub a data 3
  else if pg.target = 1 then b.wrHost hub a data
  else
    let w := a / 2 ^ 64
    (b.sendWin (onward win) 0 w false (.winWrite (onward win) 0 w (b.winHead hub w (a % 2 ^ 64)) data)).1

/-- A page's part of an inbound read that goes on through a window of ours: its answer is passed back when it comes. A window of a twin pair
gives none (R323). -/
def Block.winOnward (b : Block) (hub win a m : Nat) : Block :=
  let w := a / 2 ^ 64
  if b.winDup w then b.send (.winAnswer win .refused)
  else (b.sendWin (onward win) 0 w true (.winRead (onward win) 0 w (b.winHead hub w (a % 2 ^ 64)) m)).1

/-- WINDOW_ACCESS on the data of a window. A read over several pages of which some lie behind a window is answered page by page (log 30). -/
def Block.winBytes (st : Store) (b : Block) (e : Nat) (a : WinAccess) (write : Bool) (n : Nat) (data : List Byte) (err : ReadErr) : Block :=
  let job := bits e 20 6
  let va := bits e 128 56 + a.page * 65536 + a.offset
  if write && (pagesOf va n).any (fun v => b.migrating job { va := v, write := true }) then b
  else match winPages st a.hub job write (pagesOf va n) b with
    | (b, .error (v, o)) =>
      let b := match o with
        | .fault kind level retired =>
          b.harvestFault job v kind level retired { va := v, read := !write, write := write } { kind := 1, id := a.win, who := .inbound a.win }
        | _ => b
      b.send (.winAnswer a.win .faulted)
    | (b, .ok pgs) =>
      if write then
        (pgs.foldl (fun b pg => let (pa, off, m) := pg.span va n; b.winPut a.hub a.win pg pa ((data.drop off).take m)) b).send (.winAnswer a.win .accepted)
      else if pgs.any (·.target == 2) then
        pgs.foldl (fun b pg =>
          let (pa, off, m) := pg.span va n
          if pg.target = 2 then b.winOnward a.hub a.win pa m else Block.winData st b a.hub a.win (va + off) m [pg] err) b
      else Block.winData st b a.hub a.win va n pgs err

/-- A refusal of an inbound access (R324). -/
def Block.winRefuse (b : Block) (a : WinAccess) : Block := (b.sample 0x0E a.hub 0).send (.winAnswer a.win .refused)

/-- WINDOW_ACCESS: checked against our entry, then done; an arrival accepted reaches the leader as REMOTE_ARRIVAL. While a signal or an arrival
accepted through the entry has still to be applied, a later write, signal or arrival stays at the port (R339; DESIGN CHOICE, log 108). -/
def windowAccess (a : WinAccess) (st : Store) (b : Block) : Block :=
  let reads := match a.op with | .read _ _ => true | _ => false
  if 3 < a.hub || !(b.hub a.hub).ringStop || (!reads && b.eng.arrivals.any (·.win == some a.win)) then b
  else match b.eng.windows.get? a.win with
    | none => b.winRefuse a
    | some e =>
      let e := e.toNat
      if !b.winTakes e a then b.winRefuse a
      else match a.op with
        | .read n err => Block.winBytes st b e a false n [] err
        | .write d => Block.winBytes st b e a true d.length d []
        | .arrival solid epoch =>
          (b.onEng fun x => { x with arrivals := x.arrivals ++ [{ job := bits e 20 6, win := some a.win, sol := some (solid, epoch) }] }).send
            (.winAnswer a.win .accepted)
        | .signal h sem c =>
          if b.freeOrDone h sem then b.winRefuse a
          else
            let (b, ok) := b.signal h sem c (bits e 20 6) (some a.win)
            if ok then b.send (.winAnswer a.win .accepted) else b.winRefuse a

def execWindowAccess (acc : WinAccess) (s : State) : Result := run (windowAccess acc) s

/-! ## WINDOW_RESPONSE (R323) -/

/-- A receiver's refusal or fault ends the slot, or the status it ends with when its work has ended already. -/
def Block.winEnd (b : Block) (ring p status : Nat) : Block :=
  match b.work? ring p with
  | none => b
  | some w =>
    let b := b.onWork ring p fun w => { w with winStatus := if w.winStatus = 0 then status else w.winStatus }
    match w.phase with
    | .active => b.endSlot ring p status w.position w.counters
    | .visible => b.onWork ring p fun w => { w with status := w.winStatus }
    | _ => b

/-- The oldest read sent takes the bytes that came for it. -/
def Work.takeRemote (w : Work) (win off : Nat) (bytes : List Byte) : Work :=
  { w with remote := (bytes.zipIdx.foldl (fun t (v, i) => t.put (win * 2 ^ 44 + off + i) v) w.remote), reads := w.reads.drop 1 }

/-- The access in flight that an answer belongs to: the oldest of its ring and slot that such an answer suits. -/
def Block.answered (b : Block) (ring p : Nat) (ans : WinAnswer) : Option WinOut :=
  b.eng.winOut.find? fun o => o.ring == ring && o.p == p && match ans with
    | .accepted => !o.read
    | .data _ => o.read
    | .poisoned => o.read
    | _ => true

/-- Status that a receiver's answer gives, other than bytes or acceptance (R264, R323). -/
def answerStatus : WinAnswer → Nat
  | .refused => WINDOW_REFUSED
  | .faulted => WINDOW_FAULT
  | .poisoned => MEMORY_POISONED
  | _ => OK

/-- The answer to the read of slot HEAD (R316). -/
def Block.slotAnswer (b : Block) (ring : Nat) (ans : WinAnswer) : Block :=
  match ans with
  | .data bs => if bs.length = 256 then b.onRing ring fun r => { r with slotBytes := some bs } else b
  | .accepted => b
  | _ => (b.onRing ring Ring.reread).errorRing ring .head (answerStatus ans)

/-- The answer to a read or write of hub h's messages: reads keep it until the message is taken up again (R364). -/
def Block.msgAnswer (b : Block) (h key : Nat) (o : WinOut) (ans : WinAnswer) : Block :=
  if !o.read then b
  else
    let mine := fun (r : MsgRead) => r.hub == h && r.key == key && r.win == o.win && r.got.isNone && r.status == OK
    match b.eng.msgReads.findIdx? mine with
    | none => b
    | some i => b.onEng fun e => { e with msgReads := e.msgReads.modify i fun r => match ans with
      | .data bs => { r with got := some bs }
      | _ => { r with status := answerStatus ans } }

/-- The answer to an access of slot p's work. -/
def Block.workAnswer (b : Block) (ring p : Nat) (w : Work) (o : WinOut) (ans : WinAnswer) : Block :=
  let b := b.onWork ring p fun w => { w with outstanding := w.outstanding - 1 }
  let unread := fun (b : Block) => if o.read then b.onWork ring p fun w => { w with reads := w.reads.drop 1 } else b
  match ans with
  | .accepted => b
  | .data bs =>
    match w.reads with
    | (win, off, _) :: _ => b.onWork ring p fun w => w.takeRemote win off bs
    | [] => b
  | .refused => (unread b).winEnd ring p (if w.opcode = 0x31 then SEM_REFUSED else WINDOW_REFUSED)
  | _ => (unread b).winEnd ring p (answerStatus ans)

/-- The bytes that came suit the oldest read they answer. -/
def Block.answerFits (b : Block) (ring p : Nat) (ans : WinAnswer) : Bool :=
  match ans, b.work? ring p with
  | .data bs, some w => match w.reads with | (_, _, n) :: _ => bs.length == n | [] => true
  | _, _ => true

/-- WINDOW_RESPONSE: what a receiver answered to an access of a slot, to the read of slot HEAD, to a message's access, or to an inbound access
that went on through a window. -/
def windowResponse (ring p : Nat) (ans : WinAnswer) (b : Block) : Block :=
  match b.answered ring p ans with
  | none => b
  | some o =>
    if !b.answerFits ring p ans then b
    else
      let b := b.onEng fun e => { e with winOut := e.winOut.erase o }
      if onward 0 ≤ ring then (if o.read then b.send (.winAnswer (ring - onward 0) ans) else b)
      else if 1024 ≤ ring then b.msgAnswer (ring - 1024) p o ans
      else match b.work? ring p with
        | some w => b.workAnswer ring p w o ans
        | none => match b.rings.get? ring with
          | some r => if o.read && r.slotAsked && r.slotBytes.isNone then b.slotAnswer ring ans else b
          | none => b

def execWindowResponse (ring p : Nat) (ans : WinAnswer) (s : State) : Result := run (fun _ b => windowResponse ring p ans b) s

/-! ## The host link (R346 to R350) -/

/-- HOST_LINK_RETRAIN: a retrain begins; writes toward host memory are held, and host reads wait. The 1,000,000 age units run in the age of the
hub that first sees it (R347), which the manual leaves open: any hub in service, a free value (log 2). -/
def hostLinkRetrain (b : Block) : Block :=
  if b.upHubs.isEmpty || !b.hostUp then b
  else
    let (x, b) := b.free
    let h := b.upHubs.getD (x.toNat % b.upHubs.length) 0
    b.onEng fun e => { e with host := .retraining h (b.age h) }

def execHostLinkRetrain (s : State) : Result := run (fun _ b => hostLinkRetrain b) s

/-- The output span of a lookup lies, as far as it is translated, in host memory. -/
def Work.hostOut (w : Work) : Bool :=
  match w.data with
  | .lookup _ =>
    let o := lop w.x
    let last := o.outBase + o.outs * o.ostride
    w.pages.any fun pg => pg.target == 1 && pg.rights.testBit 1 && decide (o.outBase / 65536 ≤ pg.vpn) && decide (pg.vpn * 65536 < last)
  | _ => false

/-- A started batch, a ZERO_ROWS slot or a COPY_PERMUTE COMMIT of a class 1 table has master writes left to make (R67, R116, R348). -/
def Block.masterWork (b : Block) (w : Work) : Bool :=
  let cls1 := match w.table with | some t => (tdOf (b.tables.getD t {}).desc).place == 1 | none => false
  cls1 && match w.data with
    | .update u => u.started
    | .rows _ => w.phase == .active && (w.opcode == 0x13 || (w.opcode == 0x20 && w.f 234 2 == 1))
    | _ => false

/-- A slot that has a write toward host memory unacknowledged or still to be made (R348). -/
def Block.hostWrites (b : Block) (w : Work) : Bool := !w.recorded && (w.hostHeld || w.hostMute || w.hostRec || w.hostOut || b.masterWork w)

/-- The host link is lost (R347 to R349). -/
def Block.loseHost (b : Block) (cause : Nat) : Block :=
  let b := { b.onEng fun e => { e with host := .lost } with heldHost := [] }
  let b := b.onEng fun e => { e with twin := { e.twin with rowsIn := e.twin.rowsIn.map fun x => { x with sent := false, acked := false } } }
  let before := b.rings.filter fun (_, r) => r.hostLost.isSome
  let b := b.works.vals.foldl (fun b w => if !w.recorded && (w.hostHeld || w.hostMute) then
      ((b.hostLose w.ring whatOUT).onWork w.ring w.p fun w => { w with hostWhat := w.hostWhat ||| whatOUT, hostHeld := false, hostMute := false })
    else if b.hostWrites w then b.hostLose w.ring 0 else b) b
  let b := b.dies.foldl (fun b (s, d) => d.shares.keys.foldl (fun b t =>
    if d.journals.any fun j => j.table == t && !j.acked then b.hostEndShare s t else b) b) b
  let now := (b.rings.filter fun (_, r) => r.hostLost.isSome).map (·.1)
  let fresh := now.filter fun r => !before.any fun (q, _) => q == r
  let b := fresh.foldl (fun b r => b.statusWrite r) b
  b.event b.eng.leader 0x14 none (pack [(0, 2, cause), (2, 11, fresh.length)])

/-- HOST_LINK_LOSS: a reset of the processor dies or a link-down is reported. -/
def hostLinkLoss (cause : HostLossCause) (b : Block) : Block :=
  if b.hostLostNow then b else b.loseHost (match cause with | .reset => 0 | .linkDown => 1)

def execHostLinkLoss (cause : HostLossCause) (s : State) : Result := run (fun _ b => hostLinkLoss cause b) s

/-- HOST_RETRAIN_TIMEOUT: a retrain has not ended within 1,000,000 age units. -/
def hostRetrainTimeout (b : Block) : Block :=
  match b.eng.host with
  | .retraining h since => if since + 1000000 ≤ b.age h then b.loseHost 2 else b
  | _ => b

def execHostRetrainTimeout (s : State) : Result := run (fun _ b => hostRetrainTimeout b) s

/-- HOST_LINK_RECONNECT: after a retrain the held writes go on; after a loss the rings stay host-lost until HOSTLOST_READ with ACK. -/
def hostLinkReconnect (b : Block) : Block :=
  match b.eng.host with
  | .up => b
  | .retraining _ _ =>
    let b := b.heldHost.foldl (fun b (port, a, d) => (b.push (.host a d)).send (.hostWrite port a d)) b
    { b.onEng fun e => { e with host := .up } with heldHost := [], works := b.works.mapVal fun _ w => { w with hostHeld := false } }
  | .lost => b.onEng fun e => { e with host := .up }

def execHostLinkReconnect (s : State) : Result := run (fun _ b => hostLinkReconnect b) s

end Sys2Proof.Machine
end

