-- ==== Sys2Proof/Machine/CacheMsgs.lean ====
section
/-! DEFINITION. The row-cache messages: CACHE_PARTITION, CACHE_FLUSH, CACHE_STATUS, MOGUL_READ (R284, R285, R289, R292, R296, R299,
R379). -/
namespace Sys2Proof.Machine

/-- All lines of a cache with their ways. -/
def Cache.lines (c : Cache) : List (Nat × Line) := c.sets.vals.flatMap fun x => x.ways

/-- Drop the lines that a test picks, with the other granules of their rows (R283), and offer those whose partition offers (R292). -/
def Slice.dropLines (x : Slice) (offer : Nat → Bool) (p : Nat → Line → Bool) : Slice :=
  let picked := x.cache.lines.filter fun (w, l) => p w l
  let c := picked.foldl (fun c (_, l) => c.drop cacheSet l.ch l.row) x.cache
  let gone := x.cache.lines.filter fun (_, l) => (c.line? (cacheSet l.ch l.row) l.ch l.row).isNone && offer l.part
  { x with cache := c, offers := x.offers ++ gone.map (·.2) }

/-- Whether a picked line is held by a commit in flight. -/
def Slice.anyHeld (x : Slice) (p : Nat → Line → Bool) : Bool := x.cache.lines.any fun (w, l) => p w l && l.held != 0

/-! ## CACHE_PARTITION (R284, R285) -/

def cardCachePartition : Card := { code := 0x0070, wide := true, req := 32, fields := [byteF 16 16] }

/-- R17 on a partition record (Table 10-2). -/
def partStages (x minor : Nat) : Nat :=
  firstFail [(!versionOk (bits x 0 8) minor, VERSION_UNSUPPORTED), (rsvSet x [(64, 64), (19, 5)], RESERVED_NONZERO),
    (bits x 14 2 == 3 || bits x 12 2 == 3, UNKNOWN_ENCODING)]

def partOf (x : Nat) : Partition :=
  { locked := bits x 48 16, ways := bits x 32 16, hot := bits x 24 8, zeroLine := bit x 18, nlp := bit x 17, offer := bit x 16
    wpol := bits x 14 2, admitPol := bits x 12 2 }

/-- Lines of a partition in ways that leave its mask are dropped in every slice; the record is set when that is done. -/
def finCachePartition : Finish := fun _ b m _ =>
  let x := m.struct 16 16
  let q := bits x 8 4
  let p := partOf x
  let leaves := fun (w : Nat) (l : Line) => l.part == q && !p.ways.testBit w
  if b.upHubs.any fun h => (b.hub h).slice.anyHeld leaves then none
  else
    let offer := (b.part q).offer
    let b := b.upHubs.foldl (fun b h => b.onSlice h fun s => s.dropLines (fun _ => offer) leaves) b
    some (.ok (b.onEng fun e => { e with partitions := e.partitions.put q p }))

def msgCachePartition (st : Store) (b : Block) (m : Msg) : Ans :=
  let x := m.struct 16 16
  let p := partOf x
  .guard b (partStages x b.eng.minor) fun _ =>
    if b.upHubs.any (fun h => decide ((b.hub h).slice.enabledIn p.ways < 2)) || p.locked &&& p.ways != p.locked || p.hot == 0 then
      .fail b CACHE_INVALID
    else .await finCachePartition st b m { obj := .partition (bits x 8 4) }

def execCachePartition (hub : Nat) (mb : Mbox) (pair : Nat) (s : State) : Result := message cardCachePartition msgCachePartition hub mb pair s

/-! ## CACHE_FLUSH (R299) -/

def cardCacheFlush : Card :=
  { code := 0x0071, wide := true, req := 24, fields := [byteF 16 1, bitF 17 0 1, bitF 18 0 4, byteF 19 1], enums := [(152, 8, 2)] }

/-- The lines that a CACHE_FLUSH names: WHICH 0 both, 1 locked, 2 unlocked. -/
def Block.flushes (b : Block) (m : Msg) (w : Nat) (l : Line) : Bool :=
  let lockedLine := (b.part l.part).locked.testBit w
  (m.flag 17 0 || l.part == m.at 16 1) && (m.at 19 1 == 0 || lockedLine == (m.at 19 1 == 1))

/-- A line that the flush drops in the slice of hub h: one it names that was filled, or on its way, when the message was accepted; `aux` holds what
each slice's fills were numbered from then on (R299). -/
def Block.flushLine (b : Block) (m : Msg) (pm : PendMsg) (h w : Nat) (l : Line) : Bool := b.flushes m w l && decide (l.born < pm.aux.getD h 0)

def finCacheFlush : Finish := fun _ b m pm =>
  let hs := b.upHubs.filter fun h => m.flag 18 h
  if hs.any fun h => (b.hub h).slice.anyHeld (b.flushLine m pm h) then none
  else
    let offer := fun q => (b.part q).offer
    let p := b.flushLine m pm
    some (.ok (hs.foldl (fun b h => b.onSlice h fun s => s.dropLines offer (p h)) b))

def msgCacheFlush (st : Store) (b : Block) (m : Msg) : Ans :=
  if 15 < m.at 16 1 || (m.flag 17 0 && m.at 16 1 != 0) then .fail b MESSAGE_INVALID
  else
    let named := fun (f : Fill) =>
      (m.flag 17 0 || f.part == m.at 16 1) && (m.at 19 1 == 0 || f.preload == (m.at 19 1 == 1))
    let b := (b.upHubs.filter fun h => m.flag 18 h).foldl (fun b h => b.onSlice h fun x =>
      { x with fills := x.fills.map fun f => if named f then { f with stale := true } else f }) b
    let cuts := (List.range 4).map fun h => (b.hub h).slice.nextFill
    .await finCacheFlush st b m { obj := if m.flag 17 0 then .allPartitions else .partition (m.at 16 1), aux := cuts }

def execCacheFlush (hub : Nat) (mb : Mbox) (pair : Nat) (s : State) : Result := message cardCacheFlush msgCacheFlush hub mb pair s

/-! ## CACHE_STATUS and MOGUL_READ (R289, R296, R379) -/

/-- HUB of a cache report: in range and in service. -/
def Block.hubCheck (b : Block) (h : Nat) : Nat := firstFail [(decide (3 < h), MESSAGE_INVALID), (!b.hubUp h, HUB_LOST)]

def cardCacheStatus : Card := { code := 0x0072, mg := true, req := 24, rep := 152, fields := [byteF 16 1] }

def msgCacheStatus (_ : Store) (b : Block) (m : Msg) : Ans :=
  let h := m.at 16 1
  .guard b (b.hubCheck h) fun _ =>
    let x := (b.hub h).slice
    let locked := fun (q : Nat) => x.cache.lines.countP fun (w, l) => l.part == q && (b.part q).locked.testBit w
    let ds := [3 * h, 3 * h + 1, 3 * h + 2].map b.die
    .ok b (bodyOf ([(16, 8, x.cache.disFrames.length), (24, 2, x.cache.disWays)]
      ++ (List.range 16).map (fun q => (32 + 4 * q, 4, locked q))
      ++ [(96, 8, x.hits), (104, 8, x.admissions), (112, 8, x.offersAccepted), (120, 8, x.offersDeclined), (128, 8, x.zeroLines),
          (136, 8, (ds.map fun d => d.buffer.disFrames.length).sum), (144, 2, ds.foldl (fun a d => a ||| d.buffer.disWays) 0)]))

def execCacheStatus (hub : Nat) (mb : Mbox) (pair : Nat) (s : State) : Result := message cardCacheStatus msgCacheStatus hub mb pair s

def cardMogulRead : Card := { code := 0x0073, req := 24, rep := 256, fields := [byteF 16 1, byteF 17 1, byteF 20 4] }

/-- Entries of at least a threshold, highest count first and among equals lowest key first, up to 4,096. -/
def Slice.mogulTop (x : Slice) (thresh : Nat) : List Mogul :=
  let key := fun (e : Mogul) => e.table * 2 ^ 40 + e.lrow
  (sortBy (fun a c => decide (c.count < a.count) || (a.count == c.count && decide (key a < key c)))
    ((x.mogul.vals.flatMap id).filter fun e => e.count != 0 && decide (thresh ≤ e.count))).take 4096

def msgMogulRead (_ : Store) (b : Block) (m : Msg) : Ans :=
  let h := m.at 16 1
  let from_ := m.at 20 4
  .guard b (b.hubCheck h) fun _ =>
    let b := if from_ = 0 then b.onSlice h fun x => { x with snapshot := some (x.mogulTop (m.at 17 1)) } else b
    match (b.hub h).slice.snapshot with
    | none => .fail b MESSAGE_INVALID
    | some es =>
      let out := (es.drop from_).take 14
      .ok b (bodyOf ([(16, 4, es.length), (20, 4, out.length)]
        ++ out.zipIdx.map fun (e, k) => (32 + 16 * k, 16, pack [(0, 40, e.lrow), (40, 20, e.table), (64, 8, e.count)])))

def execMogulRead (hub : Nat) (mb : Mbox) (pair : Nat) (s : State) : Result := message cardMogulRead msgMogulRead hub mb pair s

end Sys2Proof.Machine
end

