-- ==== Sys2Proof/Machine/Late.lean ====
section
/-! DEFINITION. The completion latch (R407): SLOT_TIMEOUT and SLOT_DEADLINE (R122, R220 to R222, Table 7-18). -/
namespace Sys2Proof.Machine

/-- Step 1 of R206 has ended, so that the latch would grant the completion. -/
def Block.latched (b : Block) (w : Work) : Bool := w.phase == .visible && w.outstanding == 0 && !w.hostMute && (!w.hostHeld || b.hostUp)

/-- Write the record of a slot whose expiry was granted, once its record and flag pages are held. -/
def Block.lateRecord (b : Block) (rid p : Nat) : Block :=
  let (b, ready) := b.ensureRec rid p
  match b.work? rid p with
  | none => b
  | some w => if !ready || w.recFault || w.recorded || w.hostAffected || (w.hostRec && !b.hostUp) then b else b.writeCompletion rid p

/-- The latch grants the expiry: the status becomes LATE, with the counts as they stand. -/
def Block.markLate (b : Block) (rid p : Nat) (deadline : Bool) (counters : List Nat) : Block :=
  let now := b.age (ringHub rid)
  b.onWork rid p fun w => { w with late := true, lateAge := now, deadline := deadline, status := LATE, position := 0, counters := counters }

/-- LATE written at once, and the work runs on to retirement. -/
def Block.lateRunsOn (b : Block) (rid p : Nat) (counters : List Nat) : Block := (b.markLate rid p false counters).lateRecord rid p

/-- LATE written at once, and the remaining work retired without effect. A slot halted on a fault stays halted (R321). -/
def Block.lateEnds (b : Block) (rid p : Nat) (deadline : Bool) (counters : List Nat) : Block :=
  let b := b.markLate rid p deadline counters
  let halted : Bool := match b.work? rid p with | some w => w.phase == .faulted | none => false
  (if halted then b else b.endSlot rid p LATE 0 counters).lateRecord rid p

/-- The update waits at the gate: some row die answered Wait, or the table is re-sharding (R122, R354). -/
def Block.atGate (b : Block) (w : Work) (u : Update) : Bool :=
  u.distributed && (u.gates.any (fun g => g.2 == .wait) || (b.tables.getD (uop w.x).table {}).reshard)

/-- The expiry of a SOLSTICE slot: nothing is written, and it stays armed (R407). -/
def Block.lateArmed (b : Block) (w : Work) (deadline : Bool) : Block :=
  (b.onWork w.ring w.p fun x => { x with late := true, lateAge := b.age (ringHub w.ring), deadline := deadline }).solEvent w.job (solId w.x) 0 1
    (solEpoch w.x)

/-- The expiry of a slot's timeout, as Table 7-18, R122 and R357 give it for its opcode. -/
def Block.expire (b : Block) (w : Work) : Block :=
  let (rid, p) := (w.ring, w.p)
  match w.data with
  | .update u =>
    if u.started then b.lateRunsOn rid p (b.countsNow w u)
    else if b.atGate w u then b.endSlot rid p SEQ_GAP 0 (b.countsNow w u)
    else b.lateEnds rid p false (b.countsNow w u)
  | .solstice _ _ => b.lateArmed w false
  | .rows r => if r.committed then b.lateRunsOn rid p (w.counters.map sat32) else b.lateEnds rid p false (w.counters.map sat32)
  | _ => b.lateEnds rid p false (w.counters.map sat32)

/-- SLOT_TIMEOUT: the timeout of a slot passes; a completion latched first counts, and a SIGNAL slot is never late (R215). -/
def slotTimeout (rid p : Nat) (b : Block) : Block :=
  match b.rings.get? rid, b.work? rid p with
  | some r, some w =>
    let now := b.age (ringHub rid)
    if w.late && !w.recorded && w.opcode != 0x30 then b.lateRecord rid p
    else if w.late || w.recorded || w.opcode = 0x31 || r.timeout = 0 || w.stoppedSince.isSome || now < w.startAge + w.stopped + r.timeout
        || b.latched w then b
    else b.expire w
  | _, _ => b

def execSlotTimeout (ring p : Nat) (s : State) : Result := live (fun _ b => slotTimeout ring p b) s

/-- SLOT_DEADLINE: the deadline of a real-time slot passes, fault halts included (R221, R321). -/
def slotDeadline (rid p : Nat) (b : Block) : Block :=
  match b.rings.get? rid, b.work? rid p with
  | some r, some w =>
    let now := b.age (ringHub rid)
    if w.late && !w.recorded && w.opcode != 0x30 then b.lateRecord rid p
    else if !r.rt || r.deadline = 0 || w.late || w.recorded || w.opcode = 0x31 || w.hostAffected || now < w.deadlineAge + r.deadline || b.latched w then b
    else
      let h := ringHub rid
      let elapsed := now - w.startAge
      let b := (b.sample 0x0C rid elapsed).event h 0x04 (some w.job) (pack [(0, 10, rid), (16, 32, w.sseq), (48, 32, elapsed)])
      if w.opcode = 0x30 then b.lateArmed w true else b.lateEnds rid p true (w.counters.map sat32)
  | _, _ => b

def execSlotDeadline (ring p : Nat) (s : State) : Result := live (fun _ b => slotDeadline ring p b) s

end Sys2Proof.Machine
end

