-- ==== Sys2Proof/Machine/Telemark.lean ====
section
/-! DEFINITION. Telemark (R383 to R385), the repair of rows under a fence (R393 to R397), and how the twin is lost (R399, R404). -/
namespace Sys2Proof.Machine

/-! ## Frames (R383, R384, Tables 14-1 and 14-2) -/

def Block.linkUp (b : Block) (h : Nat) : Bool := (b.hub h).regs.tlmUp && (b.hub h).ringStop && b.hubUp h

/-- The link a frame leaves through: its hub's own, else that of the next hub in service (R384). -/
def Block.linkFor (b : Block) (h : Nat) : Option Nat := [h, (h + 1) % 4, (h + 2) % 4, (h + 3) % 4].find? b.linkUp

/-- A frame leaves through a link; one for which no link is up is lost. -/
def Block.sendOn (b : Block) (link shub dhub : Nat) (f : TFrame) : Block :=
  let n := (b.hub link).fseq + 1
  let now := b.age link
  (b.onHub link fun x => { x with fseq := n, lastSent := now }).send
    (.frame link { link := link, pairId := b.eng.twin.pairId, fseq := n, shub := shub, dhub := dhub, version := 0x20 + b.eng.minor } f)

def Block.sendFrame (b : Block) (shub dhub : Nat) (f : TFrame) : Block :=
  match b.linkFor shub with
  | some l => b.sendOn l shub dhub f
  | none => b

/-- A frame through every link that is up. -/
def Block.sendAll (b : Block) (f : TFrame) : Block := ((List.range 4).filter b.linkUp).foldl (fun b l => b.sendOn l l l f) b

/-- TELEMARK, CAUSE 2: a frame is discarded and listed (R385). -/
def Block.discardFrame (b : Block) (hdr : FrameHdr) (kind why : Nat) : Block :=
  b.event hdr.link 0x10 none (pack [(0, 2, hdr.link), (2, 2, 2), (4, 4, kind), (8, 32, hdr.fseq), (40, 2, why)])

/-- A frame that arrives: from another pair it is discarded, and otherwise its link has been heard (R385, R399). -/
def Block.withFrame (b : Block) (hdr : FrameHdr) (kind : Nat) (f : Block → Block) : Block :=
  if 3 < hdr.link || !b.linkUp hdr.link || b.fatal then b
  else if hdr.pairId ≠ b.eng.twin.pairId || hdr.pairId = 0 then b.discardFrame hdr kind 1
  else f (let now := b.age hdr.link; b.onHub hdr.link fun x => { x with heard := now })

def Block.onTwin (b : Block) (f : Twin → Twin) : Block := b.onEng fun e => { e with twin := f e.twin }
def Block.onFence (b : Block) (t : Nat) (f : Fence → Fence) : Block :=
  b.onTwin fun x => { x with fences := x.fences.map fun y => if y.table = t then f y else y }

/-- Mirrored tables, in order. -/
def Block.mirrored (b : Block) : List (Nat × TD) :=
  (b.tables.map fun (t, x) => (t, tdOf x.desc)).filter fun (_, td) => td.mirror

/-! ## Rows of a mirrored table -/

/-- A row through its job's tables, and the status that reading it gives: ROW_SPLIT, or that of a header that fails its checks (R45, R56); none when
it cannot be reached. -/
def rowSeen (st : Store) (b : Block) (td : TD) (lrow : Nat) : Option (RowRef × Nat) :=
  let page := fun (v : Nat) => match walkAll st b td.job { va := v, read := true, place := 1, domain := td.domain } with
    | (.page pg, _) => some pg.addr
    | _ => none
  (partsVia page (td.slotVa lrow) td.S).map fun parts =>
    let (r, s) := b.rowRef td lrow parts
    let heads := if r.td.place = 0 && !r.isPoisoned st b then hdrCheck (r.read st b td.auxOff 16) td.mfmt else OK
    (r, if s ≠ OK then s else if (b.chan r.ch).lost || r.isPoisoned st b then OK
        else if hdrCheck (r.read st b 0 16) td.wfmt ≠ OK then hdrCheck (r.read st b 0 16) td.wfmt else heads)

/-- A row that can be read. -/
def rowAt (st : Store) (b : Block) (td : TD) (lrow : Nat) : Option RowRef :=
  match rowSeen st b td lrow with
  | some (r, 0) => some r
  | _ => none

/-- A row that can be written, its header good or not. -/
def rowPlace (st : Store) (b : Block) (td : TD) (lrow : Nat) : Option RowRef :=
  match rowSeen st b td lrow with
  | some (r, s) => if s = ROW_SPLIT then none else some r
  | none => none

/-- How a poisoned row stands in a SWEEP frame: a value that no digest has (DESIGN CHOICE, log 31). -/
def poisonMark : Nat := 2 ^ 32

/-- A row's present DIGEST and MDIGEST; none when its row or master cannot be reached. -/
def rowDigests (st : Store) (b : Block) (r : RowRef) : Option (Nat × Nat) :=
  if (b.chan r.ch).lost || r.isPoisoned st b then some (poisonMark, 0)
  else
    let d := (hdrOf (r.read st b 0 16)).digest
    if r.td.place = 0 then some (d, recDigest (r.read st b r.td.auxOff r.td.M))
    else if r.td.place = 1 then
      match (masterRead st b r.td (b.homeHub r.stack) r.lrow).2 with
      | .got rec_ => if hdrCheck rec_ r.td.mfmt = OK then some (d, recDigest rec_) else none
      | _ => none
    else some (d, 0)

/-- Rows with their home hubs and digests; rows that cannot be reached are left out. -/
def digestsOf (st : Store) (b : Block) (td : TD) (rows : List Nat) : List (Nat × Nat × Nat × Nat) :=
  rows.filterMap fun l => match rowAt st b td l with
    | some r => (rowDigests st b r).map fun (d, m) => (l, b.homeHub r.stack, d, m)
    | none => none

/-- Maximal runs of consecutive rows with one home hub: (first row, hub, digests). -/
def sweepRuns : List (Nat × Nat × Nat × Nat) → List (Nat × Nat × List (Nat × Nat))
  | [] => []
  | (l, h, d, m) :: xs =>
    match sweepRuns xs with
    | (f, g, ds) :: rest => if f = l + 1 && g = h then (l, h, (d, m) :: ds) :: rest else (l, h, [(d, m)]) :: (f, g, ds) :: rest
    | [] => [(l, h, [(d, m)])]

/-- Rows that one SWEEP frame can carry (Table 14-1, LEN). -/
def sweepMax : Nat := 16000

/-- SWEEP frames for rows (R394, R397). -/
def sendSweep (st : Store) (b : Block) (td : TD) (rows : List Nat) : Block :=
  (sweepRuns (digestsOf st b td rows)).foldl (fun b (f, h, ds) =>
    (List.range (ceilDiv ds.length sweepMax)).foldl (fun b k =>
      b.sendFrame h h (.sweep td.table (f + sweepMax * k) ((ds.drop (sweepMax * k)).take sweepMax))) b) b

/-- A ROW frame with a row's slot and, in class 1, its master record (R394, R403). -/
def sendRowFrame (st : Store) (b : Block) (r : RowRef) (bseq : Nat) : Block :=
  let h := b.homeHub r.stack
  let master := if r.td.place = 1 then (match (masterRead st b r.td h r.lrow).2 with | .got bs => bs | _ => []) else []
  b.sendFrame h h (.row { table := r.td.table, lrow := r.lrow, bseq := bseq, slot := r.read st b 0 r.td.S, master := master, accum := [] })

/-- A class 1 master record's place through its job's tables. -/
def masterPlace (st : Store) (b : Block) (td : TD) (lrow : Nat) : Option (List (Nat × Nat × Nat)) :=
  let page := fun (v : Nat) => match walkAll st b td.job { va := v, read := true, place := 2 } with
    | (.page pg, _) => some pg.addr
    | _ => none
  partsVia page (td.masterVa lrow) td.T

/-- Commit what a ROW frame carries, as one operation of the scoreboard; a class 1 master record goes first, and the row waits for its
acknowledgement (R59, R67, R394, R403). What must wait is given back. -/
def placeTwinRow (st : Store) (b : Block) (r : RowRef) (x : TwinRow) : Block × Option TwinRow :=
  let h := b.homeHub r.stack
  let td := r.td
  if x.row.slot.isEmpty then (b, none)
  else if td.place = 1 && !x.row.master.isEmpty && !x.acked then
    (if x.sent || !b.hostUp then (b, some x)
     else match masterPlace st b td r.lrow with
       | some parts => (b.wrMaster h td parts (td.fixedMaster x.row.master), some { x with sent := true })
       | none => (b, some x))
  else if b.rowStalls r then (b, some x)
  else (Block.commitEntry st b r h (placedImage td (padTo td.S (x.row.slot.take td.S))), none)

/-! ## The repair fence (Table 14-4) -/

/-- The highest BSEQ of a table started or resumed at any row die. -/
def Block.highestStarted (b : Block) (t : Nat) : Nat :=
  b.dies.vals.foldl (fun m d => match d.replay.get? t with
    | some r => Nat.max m (match r.inprog with | some i => Nat.max i.bseq r.applied | none => r.applied)
    | none => m) 0

/-- APPLIED of a table is at least h at every row die in service, with no batch in progress. -/
def Block.appliedAll (b : Block) (t h : Nat) : Bool :=
  b.upDies.all fun s => match (b.die s).replay.get? t with
    | some r => decide (h ≤ r.applied) && r.inprog.isNone
    | none => h == 0

def Block.fencePhase (b : Block) (t : Nat) (ph : FencePhase) (bseq : Nat) : Block := b.sendFrame b.eng.leader b.eng.leader (.fence t ph bseq)

/-- MISMATCH: a row is listed with its outcome, and counted (R394, R397). -/
def Block.rowOutcome (b : Block) (td : TD) (hub lrow bseq outcome : Nat) : Block :=
  (b.onTwin fun x => { x with mismatches := x.mismatches + 1 }).event hub 0x12 (some td.job)
    (pack [(0, 20, td.table), (20, 40, lrow), (60, 3, outcome), (64, 64, bseq)])

/-- A fence's row is settled, with an outcome unless it was found equal in a sweep; a DIGEST_EXCHANGE slot counts it (R398). -/
def Block.settleRow (b : Block) (td : TD) (hub lrow : Nat) (outcome : Option Nat) : Block :=
  match b.fence? td.table with
  | none => b
  | some f =>
    let bseq := ((f.rows.find? (·.1 == lrow)).map (·.2.1)).getD 0
    let inTile : Bool := match f.sweep with | some (a, n) => decide (a ≤ lrow) && decide (lrow < a + n) | none => false
    let b := b.onFence td.table fun f => { f with rows := f.rows.filter (·.1 != lrow) }
    let b := match outcome with | some o => b.rowOutcome td hub lrow bseq o | none => b
    match f.slot with
    | some (rid, p) =>
      let o := outcome.getD 0
      let cs := [b2n inTile, 0, b2n (outcome.isSome && inTile), b2n (o == 1), b2n (o == 2), b2n (o == 4)]
      (b.addCounters rid p cs).setRows rid p fun r => { r with committed := r.committed || o == 1 || o == 2 || o == 3 }
    | none => b

/-- A DIGEST_EXCHANGE slot that reads a split row or a header that fails ends there (R45, R56). -/
def endBadSlot (st : Store) (b : Block) (td : TD) (f : Fence) (rows : List Nat) : Block :=
  match f.slot, rows.findSome? fun l => match rowSeen st b td l with | some (_, s) => if s = OK then none else some (l, s) | none => none with
  | some (rid, p), some (l, s) =>
    (match b.work? rid p with
     | some w => if w.phase == .active then b.finish rid p s l else b
     | none => b)
  | _, _ => b

/-- Step 4 begins when both twins have reached H: the listed rows' digests are exchanged, and a sweep's tile with them. -/
def enterRepair (st : Store) (b : Block) (t : Nat) : Block :=
  match b.fence? t with
  | none => b
  | some f =>
    if f.step ≥ 4 || !f.reachedOwn || !f.reachedTheirs then b
    else
      let td := tdOf (b.tables.getD t {}).desc
      let listed := (b.eng.twin.mismatched.filter (·.1 == t)).map fun (_, l, q) => (l, q, 0)
      let tile := match f.sweep with
        | some (a, n) => ((List.range n).map (a + ·)).filter fun l => !listed.any (·.1 == l)
        | none => []
      let b := b.onTwin fun x => { x with mismatched := x.mismatched.filter (·.1 != t) }
      let b := b.onFence t fun f => { f with step := 4, rows := f.rows ++ listed ++ tile.map fun l => (l, 0, 9) }
      let rows := listed.map (·.1) ++ tile
      let there := (digestsOf st b td rows).map (·.1)
      -- a row that cannot be reached here is not compared
      let b := (rows.filter (!there.contains ·)).foldl (fun b l => b.settleRow td b.eng.leader l none) b
      sendSweep st (endBadSlot st b td f rows) td there

/-- Step 3: APPLIED has reached H everywhere here. -/
def fenceReached (st : Store) (b : Block) (t : Nat) : Block :=
  match b.fence? t with
  | none => b
  | some f =>
    match fenceTop f with
    | none => b
    | some h =>
      if f.reachedOwn || !b.appliedAll t h then b
      else enterRepair st ((b.onFence t fun f => { f with step := Nat.max f.step 3, reachedOwn := true }).fencePhase t .reached h) t

/-- A fence begins: its leader asks for it, and each twin says how far it has started (steps 1 and 2). -/
def Block.startFence (b : Block) (f : Fence) : Block :=
  let own := b.highestStarted f.table
  let f := { f with step := 2, age := b.age b.eng.leader, own := some own }
  let b := b.onTwin fun x => { x with fences := x.fences.filter (·.table != f.table) ++ [f] }
  let b := if f.lead then b.fencePhase f.table .request 0 else b
  b.fencePhase f.table .started own

/-- A fence is taken down without repair: its rows stay listed (R395, R399). -/
def Block.dropFence (b : Block) (t : Nat) : Block :=
  match b.fence? t with
  | none => b
  | some f =>
    let back := (f.rows.filter fun (_, _, s) => decide (s < 8)).map fun (l, q, _) => (t, l, q)
    b.onTwin fun x => { x with fences := x.fences.filter (·.table != t), mismatched := x.mismatched ++ back }

/-! ## Pairing complete -/

def twinSweeps (t : Twin) : Bool := t.state == .pairing || t.state == .resync || t.state == .paired

/-- PAIRED is entered once every table is swept (R388). -/
def Block.checkPaired (b : Block) : Block :=
  let t := b.eng.twin
  if (t.state == .pairing || t.state == .resync) && t.gotPair && t.sweeps.isEmpty && t.resyncs.isEmpty then
    b.onTwin fun x => { x with state := .paired, lastPairId := x.pairId, receiver := false }
  else b

/-- A tile of a sweep has been compared (R397): the slot's next tile, or the next tile of the table; a table swept whole begins its
digest exchange (R388). -/
def Block.tileSwept (b : Block) (f : Fence) : Block :=
  match f.sweep, f.slot with
  | some _, some (rid, p) => match b.work? rid p with
    | some w => if w.phase == .active then b.rowsTileEnd rid p else b
    | none => b
  | some (a, n), none =>
    match b.eng.twin.sweeps.find? (·.1 == f.table) with
    | some (t, nx, last, rep) =>
      if nx ≠ a then b
      else if a + n < last then
        b.onTwin fun x => { x with sweeps := x.sweeps.map fun y => if y.1 = t then (t, a + n, last, rep) else y }
      else ((b.onTwin fun x => { x with sweeps := x.sweeps.filter (·.1 != t) }).onTable t fun x => { x with exchanging := true }).checkPaired
    | none => b
  | none, _ => b

/-! ## Loss of the twin (R399, R404) -/

/-- An unsettled own entry moves into the journal of its row's stack. -/
def entryToJournal (st : Store) (b : Block) (e : DigestEntry) : Block :=
  let td := tdOf (b.tables.getD e.table {}).desc
  match ownerOf st b td e.lrow with
  | some s => b.journal td s e.lrow e.bseq
  | none => b

/-- A pairing or unpairing message in progress learns the outcome: DETAIL of its TWIN_STATE. -/
def Block.pairFailed (b : Block) (detail : Nat) : Block :=
  b.onEng fun e => { e with pend := e.pend.map fun p => if p.code = 0x90 && !p.behind then { p with aux := [detail] } else p }

/-- A DIGEST_EXCHANGE slot ends with TWIN_STATE when the engine is no longer paired (R398). -/
def Block.endExchanges (b : Block) : Block :=
  b.works.vals.foldl (fun b w => if w.opcode == 0x21 && w.phase == .active then b.finish w.ring w.p TWIN_STATE 0 else b) b

/-- The twin is lost (R399): CAUSE of the event, and whether its journals begin empty (R400). -/
def twinLost (st : Store) (b : Block) (cause unpair : Nat) (emptyJournals : Bool) : Block :=
  let t := b.eng.twin
  let left := if t.receiver then t.resyncs.map (·.table) else []
  let b := b.onTwin fun x => { x with state := .solo, fences := [], resyncs := [], sweeps := [], mismatched := [], abandoned := []
                                      gotPair := false, unpairing := false, receiver := false, rowsIn := [] }
  let own := b.hubs.vals.flatMap fun h => h.digests.own
  let b := own.foldl (entryToJournal st) b
  let b := { b with hubs := b.hubs.mapVal fun _ h => { h with digests := {} }
                    tables := b.tables.mapVal fun t x => { x with exchanging := false, incomplete := x.incomplete || left.contains t }
                    dies := if emptyJournals then b.dies.mapVal fun _ d => { d with twinJournal := [] } else b.dies }
  let b := left.foldl (fun b t => b.event b.eng.leader 0x13 (some (tdOf (b.tables.getD t {}).desc).job) (pack [(0, 20, t), (20, 2, 2)])) b
  let b := (b.endExchanges).pairFailed 0
  let b := b.sendAll (.unpair unpair)
  let b := b.event b.eng.leader 0x11 none (pack [(0, 32, t.pairId), (32, 3, cause)])
  b.mirrored.foldl (fun b (t, _) => b.reask t) b

/-- TWIN_UNPAIR PLANNED completes when every mirrored table stands at its fence, its rows settled, and every entry is settled (R400). -/
def unpairIfSettled (st : Store) (b : Block) : Block :=
  let t := b.eng.twin
  let still := b.mirrored.all fun (m, _) => match b.fence? m with
    | some f => f.step == 4 && f.rows.isEmpty
    | none => false
  let settled := b.hubs.vals.all fun h => h.digests.own.isEmpty && h.digests.theirs.isEmpty && h.digests.outgoing.isEmpty
  if t.unpairing && t.state == .paired && still && settled then twinLost st b 4 1 true else b

/-- Step 5: with nothing left to repair, the leader of the fence releases it; under TWIN_UNPAIR PLANNED it stands. -/
def fenceDone (st : Store) (b : Block) (t : Nat) : Block :=
  match b.fence? t with
  | none => unpairIfSettled st b
  | some f =>
    if b.eng.twin.unpairing then unpairIfSettled st b
    else if !f.lead || f.step ≠ 4 || !f.rows.isEmpty then b
    else
      let b := (b.onTwin fun x => { x with fences := x.fences.filter (·.table != t) }).fencePhase t .release 0
      (b.tileSwept f).reask t

/-- Whatever moved, the fence goes as far as it can. -/
def fenceGo (st : Store) (b : Block) (t : Nat) : Block := fenceDone st (fenceReached st b t) t

/-! ## SHARE_RETIRE (R111 to R113, R122, R126, R127, R130) -/

/-- SHARE_RETIRE: the share's runs are added, its rows applied and every operation of it retired. -/
def shareRetire (stack table : Nat) (st : Store) (b : Block) : Block :=
  let d := b.die stack
  match d.shares.get? table, d.replay.get? table with
  | some sh, some rp =>
    let open_ := !sh.runs.isEmpty || d.log.any (·.table == table) || d.journals.any (·.table == table) || d.board.any (·.table == table)
      || b.shareTasks stack sh || (sh.apply && (b.nextApply stack table sh).isSome)
    if open_ then b
    else
      let digest := match rp.inprog with | some i => i.digest | none => 0
      let b := b.onDie stack fun d => { d with
        shares := d.shares.del table
        replay := d.replay.put table { applied := sh.bseq, inprog := none, last := (((sh.bseq, digest) :: rp.last).take 8) } }
      let td := tdOf (b.tables.getD table {}).desc
      let b := if td.mirror && (b.tables.getD table {}).exchanging then b.absences st td stack sh.bseq else b
      fenceGo st ((b.joinShare stack sh).reask table) table
  | _, _ => b

def execShareRetire (stack table : Nat) (s : State) : Result := run (shareRetire stack table) s

end Sys2Proof.Machine
end

