-- ==== Sys2Proof/Machine/Twin.lean ====
section
/-! DEFINITION. The twin: its messages, frames, fences, sweeps and resynchronisation (R383 to R404). -/
namespace Sys2Proof.Machine

/-! ## Telemark links (R383) -/

/-- TELEMARK_LINK_DOWN: a retrain has not ended within 1,000,000 age units. -/
def telemarkLinkDown (h : Nat) (b : Block) : Block :=
  if !(b.hub h).regs.tlmUp then b
  else (b.onRegs h fun r => { r with tlmUp := false }).event h 0x10 none (pack [(0, 2, h)])

def execTelemarkLinkDown (hub : Nat) (s : State) : Result := run (fun _ b => telemarkLinkDown hub b) s

/-- TELEMARK_LINK_UP: the link trains again, and its frames count from 1. -/
def telemarkLinkUp (h : Nat) (b : Block) : Block :=
  if (b.hub h).regs.tlmUp || !b.hubUp h then b
  else
    let now := b.age h
    let b := (b.onRegs h fun r => { r with tlmUp := true }).onHub h fun x => { x with fseq := 0, lastSent := now }
    b.event h 0x10 none (pack [(0, 2, h), (2, 2, 1)])

def execTelemarkLinkUp (hub : Nat) (s : State) : Result := run (fun _ b => telemarkLinkUp hub b) s

/-! ## Pairing (R386 to R388) -/

def cardTwinPair : Card := { code := 0x0090, wide := true, req := 24, fields := [bitF 16 0 2, byteF 20 4], needs := some featTWIN }

/-- The pairing has ended: PAIRED, or TWIN_STATE with its DETAIL. -/
def finTwinPair : Finish := fun _ b _ pm =>
  match pm.aux with
  | d :: _ => some (.fail b TWIN_STATE d)
  | [] => if b.eng.twin.state == .paired then some (.ok b) else none

/-- TWIN_PAIR: the first check, and then PAIR frames are exchanged. -/
def msgTwinPair (st : Store) (b : Block) (m : Msg) : Ans :=
  let t := b.eng.twin
  if m.at 20 4 = 0 then .fail b MESSAGE_INVALID
  else if t.state == .pairing || t.state == .paired || t.state == .resync then .fail b TWIN_STATE 1
  else
    let b := b.onTwin fun x => { x with
      state := .pairing, before := t.state, pairId := m.at 20 4, primaryAsked := m.flag 16 0, resyncAsked := m.flag 16 1
      pairAge := b.age b.eng.leader, pairSent := none, gotPair := false, rowsIn := [], receiver := false, fences := [], resyncs := [], sweeps := [], mismatched := [], abandoned := [] }
    .await finTwinPair st b m { obj := .twin }

def execTwinPair (hub : Nat) (mb : Mbox) (pair : Nat) (s : State) : Result := message cardTwinPair msgTwinPair hub mb pair s

def stateCode : TwinState → Nat
  | .unpaired => 0
  | .pairing => 1
  | .paired => 2
  | .resync => 3
  | .solo => 4

/-- Descriptor CRC of a PAIR frame: WBASE, MBASE, JOB and CPART taken as zero. -/
def pairCrc (desc : BitVec 512) : Nat :=
  crc32c (toBytes 64 (setBits (setBits (setBits (setBits desc.toNat 320 56 0) 384 56 0) 56 6 0) 52 4 0))

/-- APPLIED of a stack out of service in a PAIR frame. -/
def noStack : Nat := 2 ^ 64 - 1

def Block.pairEntry (b : Block) (t : Nat) (x : TableSt) : PairEntry :=
  { table := t, overflow := x.overflowed, incomplete := x.incomplete, descCrc := pairCrc x.desc
    applied := (List.range 12).map fun s => if b.dieUp s then ((b.die s).replay.getD t {}).applied else noStack }

/-- PAIR frames through every link. The state that they tell is the one in which TWIN_PAIR found the engine (DEDUCED, log 32). -/
def Block.sendPair (b : Block) : Block :=
  let t := b.eng.twin
  (b.onTwin fun x => { x with pairSent := some (b.age b.eng.leader) }).sendAll
    (.pair { primary := t.primaryAsked, resync := t.resyncAsked, state := stateCode t.before, lastPairId := t.lastPairId
             entries := (b.tables.filter fun (_, x) => (tdOf x.desc).mirror).map fun (n, x) => b.pairEntry n x })

/-- PAIR_FRAME_SEND: the leader sends PAIR frames over every link, every 1,000 age units, until it holds the twin's (R386). -/
def pairFrameSend (b : Block) : Block :=
  let t := b.eng.twin
  if t.state != .pairing || t.gotPair || (match t.pairSent with | some a => decide (b.age b.eng.leader < a + 1000) | none => false) then b
  else b.sendPair

def execPairFrameSend (s : State) : Result := firmware (fun _ b => pairFrameSend b) s

/-- A failed pairing: the message's TWIN_STATE, the event, and the state as it was (R386). -/
def Block.failPairing (b : Block) (detail table : Nat) : Block :=
  let t := b.eng.twin
  let b := b.onTwin fun x => { x with state := t.before, gotPair := false, receiver := false, sweeps := [], resyncs := [] }
  (b.pairFailed detail).event b.eng.leader 0x11 none (pack [(0, 32, t.pairId), (32, 3, 5), (35, 5, detail), (40, 20, table)])

/-- The first mirrored table that is not on both engines with one descriptor (check 5). -/
def Block.pairTables (b : Block) (p : PairPayload) : Option Nat :=
  let own := b.tables.filter fun (_, x) => (tdOf x.desc).mirror
  match own.find? fun (t, x) => !p.entries.any fun e => e.table == t && e.descCrc == pairCrc x.desc with
  | some (t, _) => some t
  | none => (p.entries.find? fun e => !own.any fun (t, _) => t == e.table).map (·.table)

/-- APPLIED is the same at every row die of both engines (check 6). -/
def Block.sameApplied (b : Block) (p : PairPayload) : Bool :=
  p.entries.all fun e =>
    let own := b.upDies.map fun s => ((b.die s).replay.getD e.table {}).applied
    let all := own ++ e.applied.filter (· != noStack)
    all.all fun a => a == all.headD 0

/-- A table is resynchronised in full mode unless R402 allows its journals; `e` is the twin's entry and this engine is the source. -/
def Block.resyncFull (b : Block) (p : PairPayload) (e : PairEntry) : Bool :=
  let x := b.tables.getD e.table {}
  p.lastPairId != b.eng.twin.lastPairId || b.eng.twin.lastPairId == 0 || x.overflowed || e.overflow || x.incomplete || e.incomplete
    || b.upDies.any fun s => let a := e.applied.getD s noStack; a != noStack && decide (((b.die s).replay.getD e.table {}).applied < a)

/-- Entries of a table in each stack's journal. -/
def Block.journalMarks (b : Block) (t : Nat) : List Nat := (List.range 12).map fun s => (b.die s).twinJournal.countP (·.1 == t)

/-- The receiver names the rows of its own journal to the source, in ROW frames that nothing follows: a resynchronisation sends the union of both
journals (R402; DESIGN CHOICE, log 72). -/
def Block.nameRows (b : Block) : Block :=
  b.dies.foldl (fun b (s, d) => d.twinJournal.foldl (fun b (t, l, q) =>
    if (b.tables.getD t {}).overflowed then b
    else b.sendFrame (b.homeHub s) (b.homeHub s) (.row { table := t, lrow := l, bseq := q, slot := [], master := [], accum := [] })) b) b

/-- PAIR_FRAME: the twin's frame is held and the checks run in order; then sweeps, or a resynchronisation first (R386, R388). A leader that
has sent none yet sends its own, so that both engines make the checks. -/
def pairFrame (hdr : FrameHdr) (p : PairPayload) (b : Block) : Block :=
  b.withFrame hdr 0 fun b =>
    let t := b.eng.twin
    let b := if t.state == .pairing && t.pairSent.isNone then b.sendPair else b
    if t.state != .pairing || t.gotPair then b
    else if t.primaryAsked == p.primary then b.failPairing 3 0
    else if (t.resyncAsked && (p.resync || t.before == .solo)) || (p.resync && p.state == 4) then b.failPairing 4 0
    else match b.pairTables p with
      | some x => b.failPairing 5 x
      | none =>
        if !t.resyncAsked && !p.resync && !b.sameApplied p then b.failPairing 6 0
        else
          let now := fun (h : Nat) => b.age h
          let b := { b with hubs := b.hubs.mapVal fun h x => { x with heard := now h } }
          let resync := t.resyncAsked || p.resync
          let tables := b.mirrored.map fun ((n, td) : Nat × TD) => (n, 0, td.lrows, true)
          let b := b.onTwin fun x => { x with
            gotPair := true, role := if t.primaryAsked then 1 else 2, receiver := t.resyncAsked
            state := if resync then .resync else .pairing
            resyncs := if !resync then [] else p.entries.map fun e =>
              let full := b.resyncFull p e
              { table := e.table, full := full, pass := if full then 0 else 1, marks := if full then b.journalMarks e.table else [] }
            sweeps := if resync then [] else tables }
          (if t.resyncAsked then b.nameRows else b).checkPaired

def execPairFrame (hdr : FrameHdr) (payload : PairPayload) (s : State) : Result := run (fun _ b => pairFrame hdr payload b) s

/-- PAIRING_TIMEOUT: no PAIR frame within 1,000,000,000 age units. -/
def pairingTimeout (b : Block) : Block :=
  let t := b.eng.twin
  if t.state != .pairing || t.gotPair || b.age b.eng.leader < t.pairAge + 1000000000 then b else b.failPairing 2 0

def execPairingTimeout (s : State) : Result := run (fun _ b => pairingTimeout b) s

/-! ## ALIVE frames and loss (R385, R399, R407) -/

/-- ALIVE_SEND: the link has been idle for 1,000 age units. -/
def aliveSend (h : Nat) (b : Block) : Block :=
  let t := b.eng.twin
  if !b.linkUp h || !(t.state == .paired || t.state == .resync || (t.state == .pairing && t.gotPair)) || b.age h < (b.hub h).lastSent + 1000 then b
  else b.sendOn h h h .alive

def execAliveSend (hub : Nat) (s : State) : Result := run (fun _ b => aliveSend hub b) s


def twinTied (t : Twin) : Bool := t.state == .paired || t.state == .resync || (t.state == .pairing && t.gotPair)

/-- TWIN_LOSS: no frame has arrived on any link of a hub in service for 100,000 age units. -/
def twinLoss (st : Store) (b : Block) : Block :=
  if !twinTied b.eng.twin || b.upHubs.any fun h => decide (b.age h < (b.hub h).heard + 100000) then b
  else twinLost st b 0 0 false

def execTwinLoss (s : State) : Result := run twinLoss s

/-- UNPAIR_FRAME: CAUSE 1 request, 2 planned, 3 fatal of the event, by the frame's cause. -/
def unpairFrame (hdr : FrameHdr) (cause : Nat) (st : Store) (b : Block) : Block :=
  b.withFrame hdr 7 fun b => if twinTied b.eng.twin then twinLost st b (cause + 1) 0 (cause == 1) else b

def execUnpairFrame (hdr : FrameHdr) (cause : Nat) (s : State) : Result := run (unpairFrame hdr cause) s

/-- FRAME_DISCARD: a frame with an undefined KIND, a wrong PAIRID or a nonzero reserved field. -/
def frameDiscard (hdr : FrameHdr) (kind : Nat) (reserved : Bool) (b : Block) : Block :=
  if 3 < hdr.link || !b.linkUp hdr.link then b
  else if 7 < kind then b.discardFrame hdr kind 0
  else if hdr.pairId ≠ b.eng.twin.pairId || hdr.pairId = 0 then b.discardFrame hdr kind 1
  else if reserved then b.discardFrame hdr kind 2
  else b

def execFrameDiscard (hdr : FrameHdr) (kind : Nat) (reserved : Bool) (s : State) : Result := run (fun _ b => frameDiscard hdr kind reserved b) s

/-! ## TWIN_UNPAIR and TWIN_STATUS (R387, R399, R400, R404) -/

def cardTwinUnpair (planned : Nat) : Card :=
  { code := 0x0091, sel := some (128, 1, planned), wide := true, mg := true, req := 24, fields := [bitF 16 0 1], needs := some featTWIN }

def finTwinUnpair : Finish := fun _ b _ _ => if b.eng.twin.state == .solo then some (.ok b) else none

def unpairOk (t : Twin) : Bool := t.state != .unpaired && t.state != .solo

/-- TWIN_UNPAIR with PLANNED 0: the twin is lost at once. -/
def msgTwinUnpair (st : Store) (b : Block) (_ : Msg) : Ans :=
  if !unpairOk b.eng.twin then .fail b TWIN_STATE else .ok (twinLost st b 4 0 false)

/-- TWIN_UNPAIR with PLANNED 1: a fence on every mirrored table at a common H, and every entry settled. -/
def msgTwinUnpairPlanned (st : Store) (b : Block) (m : Msg) : Ans :=
  if !unpairOk b.eng.twin then .fail b TWIN_STATE
  else
    let b := b.onTwin fun x => { x with unpairing := true }
    let b := b.mirrored.foldl (fun b (t, _) => if (b.fence? t).isSome then b else b.startFence { table := t }) b
    .await finTwinUnpair st (unpairIfSettled st b) m { obj := .twin }

def execTwinUnpair (hub : Nat) (mb : Mbox) (pair : Nat) (s : State) : Result := message (cardTwinUnpair 0) msgTwinUnpair hub mb pair s
def execTwinUnpairPlanned (hub : Nat) (mb : Mbox) (pair : Nat) (s : State) : Result :=
  message { cardTwinUnpair 1 with first := false } msgTwinUnpairPlanned hub mb pair s

def cardTwinStatus : Card := { code := 0x0092, wide := true, mg := true, req := 16, rep := 48, needs := some featTWIN }

/-- Rows of a table that a source has still to send. -/
def Block.resyncLeft (b : Block) (r : Resync) : Nat :=
  let lrows := (tdOf (b.tables.getD r.table {}).desc).lrows
  if r.full && r.pass = 0 then lrows - r.next
  else ((List.range 12).map fun s => (b.die s).twinJournal.countP (·.1 == r.table) - r.marks.getD s 0).sum

/-- TWIN_STATUS: journal entries take 16 bytes. A table left incomplete has all its rows to send again. -/
def msgTwinStatus (_ : Store) (b : Block) (_ : Msg) : Ans :=
  let t := b.eng.twin
  let left := (t.resyncs.map b.resyncLeft).sum
    + ((b.mirrored.filter fun (n, _) => (b.tables.getD n {}).incomplete && (b.resync? n).isNone).map fun (_, td) => td.lrows).sum
  .ok b (bodyOf [(16, 1, stateCode t.state), (17, 1, t.role), (20, 4, t.pairId), (24, 8, 16 * (b.dies.vals.map fun d => d.twinJournal.length).sum),
    (32, 8, t.mismatches), (40, 8, left)])

def execTwinStatus (hub : Nat) (mb : Mbox) (pair : Nat) (s : State) : Result := message cardTwinStatus msgTwinStatus hub mb pair s

/-! ## Digest frames (R390, R391) -/

/-- DIGEST_SEND: 4,096 entries are ready, or 100 age units have passed since the first. One frame holds entries of one batch. -/
def digestSend (h : Nat) (st : Store) (b : Block) : Block :=
  let d := (b.hub h).digests
  match d.outgoing with
  | [] => b
  | e :: _ =>
    if d.outgoing.length < 4096 && b.age h < d.firstAge + 100 then b
    else
      let mine := (d.outgoing.filter fun x => x.table == e.table && x.bseq == e.bseq).take 4096
      let b := b.onHub h fun x => { x with digests := { x.digests with outgoing := x.digests.outgoing.filter (!mine.contains ·) } }
      unpairIfSettled st (b.sendFrame h h (.digest mine))

def execDigestSend (hub : Nat) (s : State) : Result := run (digestSend hub) s

/-- A twin's entry at the hub that handles it: paired with our own, a mismatch, or kept (R391). -/
def takeEntry (st : Store) (dhub : Nat) (b : Block) (e : DigestEntry) : Block :=
  match b.tables.get? e.table with
  | none => b
  | some x =>
    let td := tdOf x.desc
    let owner := ownerOf st b td e.lrow
    let h := match owner with | some s => b.homeHub s | none => b.groupHub dhub
    let d := (b.hub h).digests
    match d.own.find? (sameKey e) with
    | some o =>
      let b := b.onHub h fun y => { y with digests := { y.digests with own := y.digests.own.filter (!sameKey e ·) } }
      if equalTo e o then b else b.mismatch e.table e.lrow e.bseq
    | none =>
      let past : Bool := match owner with | some s => decide (e.bseq ≤ ((b.die s).replay.getD e.table {}).applied) | none => false
      if past then b.mismatch e.table e.lrow e.bseq
      else if d.room then b.onHub h fun y => { y with digests := { y.digests with theirs := y.digests.theirs ++ [e] } }
      else b.dropEntry h e.table

/-- DIGEST_FRAME. -/
def digestFrame (hdr : FrameHdr) (es : List DigestEntry) (st : Store) (b : Block) : Block :=
  b.withFrame hdr 2 fun b => if twinTied b.eng.twin then unpairIfSettled st (es.foldl (takeEntry st hdr.dhub) b) else b

def execDigestFrame (hdr : FrameHdr) (entries : List DigestEntry) (s : State) : Result := run (digestFrame hdr entries) s

/-! ## Fences (R393 to R395) -/

/-- REPAIR_FENCE_START: the primary's leader fences a table with a mismatch; either engine does so for a poisoned row that only it
knows of (R396; DEDUCED, log 33). An abandoned fence starts again once APPLIED has reached its H. -/
def repairFenceStart (t : Nat) (b : Block) : Block :=
  let x := b.eng.twin
  let rows := x.mismatched.filter (·.1 == t)
  let due := x.role == 1 || rows.any (·.2.2 == 0)
  let again : Bool := match x.abandoned.get? t with | some h => b.appliedAll t h | none => true
  if !(x.state == .paired) || b.eng.passing || (b.fence? t).isSome || !again || !(x.unpairing || (due && !rows.isEmpty)) || !(tdOf (b.tables.getD t {}).desc).mirror then b
  else (b.onTwin fun x => { x with abandoned := x.abandoned.del t }).startFence { table := t }

def execRepairFenceStart (table : Nat) (s : State) : Result := firmware (fun _ b => repairFenceStart table b) s

/-- FENCE_FRAME: a phase of the twin's fence. Of two fences asked for at once, the primary's stands. -/
def fenceFrame (hdr : FrameHdr) (t : Nat) (ph : FencePhase) (bseq : Nat) (st : Store) (b : Block) : Block :=
  b.withFrame hdr 3 fun b =>
    if !twinTied b.eng.twin || !(tdOf (b.tables.getD t {}).desc).mirror then b
    else match ph, b.fence? t with
      | .request, some f =>
        if f.lead && b.eng.twin.role == 1 then b else (b.dropFence t).startFence { table := t, lead := false }
      | .request, none => b.startFence { table := t, lead := false }
      | .started, some f =>
        let again := f.theirs.isSome
        let b := b.onFence t fun f => { f with theirs := some bseq, reachedOwn := f.reachedOwn && !again, reachedTheirs := false }
        let b := if again then b.fencePhase t .started (f.own.getD 0) else b
        fenceGo st (b.reask t) t
      | .reached, some _ => fenceDone st (enterRepair st (b.onFence t fun f => { f with reachedTheirs := true }) t) t
      | .release, some _ => fenceDone st ((b.dropFence t).reask t) t
      | _, none => b

def execFenceFrame (hdr : FrameHdr) (table : Nat) (phase : FencePhase) (bseq : Nat) (s : State) : Result := run (fenceFrame hdr table phase bseq) s

/-- FENCE_TIMEOUT: steps 1 to 4 have not ended within 1,000,000 age units; the fence is abandoned and its rows stay listed (R395). -/
def fenceTimeout (t : Nat) (b : Block) : Block :=
  match b.fence? t with
  | none => b
  | some f =>
    if b.age b.eng.leader < f.age + 1000000 then b
    else
      let h := (fenceTop f).getD (b.highestStarted t)
      let b := (b.dropFence t).onTwin fun x => { x with abandoned := x.abandoned.put t h }
      (if f.lead then b.fencePhase t .release 0 else b).reask t

def execFenceTimeout (table : Nat) (s : State) : Result := firmware (fun _ b => fenceTimeout table b) s

/-! ## SWEEP and ROW frames (R394, R396, R397) -/

/-- Put a row's stage, listing it when it is not. -/
def Block.rowStage (b : Block) (t lrow stage : Nat) : Block :=
  b.onFence t fun f =>
    if f.rows.any (·.1 == lrow) then { f with rows := f.rows.map fun (l, q, s) => if l = lrow then (l, q, stage) else (l, q, s) }
    else { f with rows := f.rows ++ [(lrow, 0, stage)] }

/-- Rows that differ, or of which one is poisoned, under repair (R394): re-derive where the masters agree, else the primary's row or the
sound one is sent. A row of a tile that needs the twin's row is asked about again. -/
def repairRow (st : Store) (b : Block) (f : Fence) (r : RowRef) (stage : Nat) (own theirs : Nat × Nat) : Block :=
  let td := r.td
  let t := td.table
  let hub := b.homeHub r.stack
  let ask := fun (b : Block) => if stage = 9 then sendSweep st b td [r.lrow] else b
  if own.1 = poisonMark && theirs.1 = poisonMark then b.settleRow td hub r.lrow (some 4)
  else if stage = 9 && !f.repair then b.settleRow td hub r.lrow (some 5)
  else if theirs.1 = poisonMark then sendRowFrame st (b.rowStage t r.lrow 3) r 0
  else if own.1 = poisonMark then ask (b.rowStage t r.lrow 3)
  else if (stage = 0 || stage = 8 || stage = 9) && td.place ≠ 2 && own.2 = theirs.2 then
    match rederiveRow st (b.rowStage t r.lrow 1) hub r with
    | (b, .done) =>
      let b := sendSweep st b td [r.lrow]
      if stage = 8 && rowDigests st b r == some theirs then b.settleRow td hub r.lrow (some 1) else b
    | (b, _) => ask b
  else if b.eng.twin.role = 1 then sendRowFrame st (b.rowStage t r.lrow 2) r 0
  else ask (b.rowStage t r.lrow 2)

/-- One row of a SWEEP frame. -/
def sweepRow (st : Store) (td : TD) (b : Block) (x : Nat × Nat × Nat) : Block :=
  let (lrow, theirs) := x
  match b.fence? td.table, rowAt st b td lrow with
  | some f, some r =>
    match rowDigests st b r with
    | none => b
    | some own =>
      let hub := b.homeHub r.stack
      let sound := own.1 ≠ poisonMark && own = theirs
      match f.rows.find? (·.1 == lrow) with
      | none =>
        let b := sendSweep st b td [lrow]
        if sound then b
        else if own.1 = poisonMark && theirs.1 = poisonMark then b.rowOutcome td hub lrow 0 4
        else b.rowStage td.table lrow 8
      | some (_, _, stage) =>
        if sound then
          let b := if stage = 8 then sendSweep st b td [lrow] else b
          b.settleRow td hub lrow (if stage = 9 then none else if stage = 8 then some 1 else some stage)
        else repairRow st b f r stage own theirs
  | _, _ => b

/-- SWEEP_FRAME: the twin's digests of rows from `first` are compared with ours. The twin sends it after both have reached H. -/
def sweepFrame (hdr : FrameHdr) (t first : Nat) (rows : List (Nat × Nat)) (st : Store) (b : Block) : Block :=
  b.withFrame hdr 5 fun b =>
    match b.fence? t with
    | none => b
    | some f =>
      if !f.reachedOwn then b
      else
        let b := enterRepair st (b.onFence t fun f => { f with reachedTheirs := true }) t
        let td := tdOf (b.tables.getD t {}).desc
        fenceDone st ((rows.zipIdx.map fun (d, i) => (first + i, d)).foldl (sweepRow st td) b) t

def execSweepFrame (hdr : FrameHdr) (table first : Nat) (rows : List (Nat × Nat)) (s : State) : Result := run (sweepFrame hdr table first rows) s

/-- A row under a fence: it is committed, its digests are sent back, and the row is settled with its outcome. -/
def rowRepaired (st : Store) (b : Block) (f : Fence) (r : RowRef) (x : TwinRow) : Block × Option TwinRow :=
  let td := r.td
  let was := match f.rows.find? (·.1 == r.lrow) with | some (_, _, s) => s | none => 8
  let outcome := if was = 3 || r.isPoisoned st b then 3 else 2
  match placeTwinRow st (b.rowStage td.table r.lrow outcome) r x with
  | (b, none) => ((sendSweep st b td [r.lrow]).settleRow td (b.homeHub r.stack) r.lrow (some outcome), none)
  | w => w

/-- A row received: under a fence at step 4, or at the receiver of a resynchronisation, where it may carry an accumulator (R403). What must wait
is given back. -/
def takeTwinRow (st : Store) (b : Block) (x : TwinRow) : Block × Option TwinRow :=
  let t := x.row.table
  let td := tdOf (b.tables.getD t {}).desc
  if !twinTied b.eng.twin || !td.mirror then (b, none)
  else match rowPlace st b td x.row.lrow with
    | none => (b, none)
    | some r =>
      if b.eng.twin.receiver && (b.resync? t).isSome then
        match placeTwinRow st b r x with
        | (b, none) => (if x.row.accum.isEmpty then b
            else b.onDie r.stack fun d => { d with accs := d.accs.put (accKey t x.row.lrow) (accOfRecord td.job td.width x.row.accum) }, none)
        | w => w
      else match b.fence? t with
        | some f =>
          if !f.reachedOwn then (b, none)
          else
            let (b, left) := rowRepaired st (enterRepair st (b.onFence t fun f => { f with reachedTheirs := true }) t) f r x
            (if left.isNone then fenceDone st b t else b, left)
        | none => (b, none)

/-- Every row received and not yet committed is taken up, in the order of arrival. -/
def twinRows (st : Store) (b : Block) : Block :=
  b.eng.twin.rowsIn.foldl (fun b x =>
    let (b, left) := takeTwinRow st b x
    b.onTwin fun t => { t with rowsIn := t.rowsIn ++ left.toList }) (b.onTwin fun t => { t with rowsIn := [] })

/-- The receiver's journalled row joins the source's journal (R402). -/
def takeName (st : Store) (b : Block) (row : RowPayload) : Block :=
  let td := tdOf (b.tables.getD row.table {}).desc
  match ownerOf st b td row.lrow with
  | some s => b.journalAdd td s row.lrow row.bseq
  | none => b

/-- ROW_FRAME: a row of the twin, taken up at once where nothing holds it. -/
def rowFrame (hdr : FrameHdr) (row : RowPayload) (st : Store) (b : Block) : Block :=
  b.withFrame hdr 4 fun b =>
    let t := b.eng.twin
    if row.slot.isEmpty && row.master.isEmpty && row.accum.isEmpty then
      (if (t.state == .pairing || t.state == .resync) && !t.resyncAsked then takeName st b row else b)
    else twinRows st (b.onTwin fun t => { t with rowsIn := t.rowsIn ++ [{ row := row }] })

def execRowFrame (hdr : FrameHdr) (row : RowPayload) (s : State) : Result := run (rowFrame hdr row) s

/-- ALIVE_FRAME: rows that wait are taken up again. -/
def execAliveFrame (hdr : FrameHdr) (s : State) : Result := run (fun st b => twinRows st (b.withFrame hdr 1 id)) s

/-- MASTER_WRITE_ACK concerns the twin's rows too: those whose record has been written may be committed now (R67). -/
def twinAcked (st : Store) (b : Block) (stack table : Nat) : Block :=
  let td := tdOf (b.tables.getD table {}).desc
  let mine := fun (x : TwinRow) => x.sent && x.row.table == table && match rowPlace st b td x.row.lrow with
    | some r => r.stack == stack && !(match masterPlace st b td x.row.lrow with | some parts => b.masterMute parts | none => true)
    | none => false
  if !b.hostUp then b
  else twinRows st (b.onTwin fun t => { t with rowsIn := t.rowsIn.map fun x => if mine x then { x with acked := true } else x })

def execMasterWriteAck (stack table : Nat) (s : State) : Result := run (fun st b => twinAcked st (masterWriteAck stack table st b) stack table) s

/-- SCOREBOARD_RETIRE: rows of the twin that waited for the entry are taken up. -/
def execScoreboardRetire (stack entry : Nat) (s : State) : Result := run (fun st b => twinRows st (scoreboardRetire stack entry b)) s

/-! ## DIGEST_SWEEP (R397, R398) -/

/-- The DIGEST_EXCHANGE slot of a table whose tile is translated and not yet compared. -/
def Block.exchangeSlot (b : Block) (t : Nat) : Option Work :=
  b.works.vals.find? fun w => w.opcode == 0x21 && w.phase == .active && w.rows.started && w.tableId == t

/-- A tile under its own fence; a tile that holds no row has been compared. -/
def tileFence (b : Block) (f : Fence) : Block :=
  match f.sweep with
  | some (_, 0) => b.tileSwept f
  | _ => b.startFence f

/-- DIGEST_SWEEP: the next tile of a table's sweep: of the pairing, of a slot, or of a table marked for a sweep. -/
def digestSweep (t : Nat) (b : Block) : Block :=
  let x := b.eng.twin
  if !twinTied x || b.eng.passing || x.unpairing || (b.fence? t).isSome || !(tdOf (b.tables.getD t {}).desc).mirror then b
  else match x.sweeps.find? (·.1 == t) with
    | some (_, nx, last, rep) => tileFence b { table := t, sweep := some (nx, Nat.min tileRows (last - nx)), repair := rep }
    | none =>
      if x.state != .paired then b
      else match b.exchangeSlot t with
        | some w =>
          let (lo, hi) := w.tileSpan
          let rows := ((tdOf (b.tables.getD t {}).desc).heldIn lo hi).1.map (·.2)
          let first := rows.foldl Nat.min (rows.headD 0)
          tileFence b { table := t, sweep := some (first, rows.length), repair := bit w.x 235, slot := some (w.ring, w.p) }
        | none =>
          if !(b.tables.getD t {}).marked then b
          else (b.onTable t fun y => { y with marked := false }).onTwin fun y =>
            { y with sweeps := y.sweeps ++ [(t, 0, (tdOf (b.tables.getD t {}).desc).lrows, true)] }

def execDigestSweep (table : Nat) (s : State) : Result := run (fun _ b => digestSweep table b) s

/-! ## Resynchronisation (Table 14-6) -/

/-- Rows journalled since the passes made, in increasing order. -/
def Block.newRows (b : Block) (r : Resync) : List Nat :=
  sortBy (fun x y => decide (x < y)) (distinct ((List.range 12).flatMap fun s =>
    (((b.die s).twinJournal.filter (·.1 == r.table)).drop (r.marks.getD s 0)).map (·.2.1)))

/-- Every row of a pass can be read: each read is one operation of the scoreboard, and a master record comes from the capacity tier (R403). -/
def rowsFree (st : Store) (td : TD) (b : Block) (rows : List Nat) : Bool :=
  (td.place ≠ 1 || b.hostUp) && rows.all fun l => match rowPlace st b td l with
    | some r => !b.stalls r.stack td.table l (b.rowLocs r) && !b.readWaits r
    | none => true

/-- ROW frames for rows of a source. -/
def sendRows (st : Store) (td : TD) (b : Block) (rows : List Nat) : Block :=
  rows.foldl (fun b l => match rowPlace st b td l with
    | some r => sendRowFrame st b r 0
    | none => b) b

/-- ROW frames for every pending accumulator of a table. -/
def Block.sendAccs (b : Block) (t : Nat) : Block :=
  b.dies.foldl (fun b (s, d) => (d.accs.filter fun (k, _) => k / 2 ^ 40 == t).foldl (fun b (k, a) =>
    b.sendFrame (b.homeHub s) (b.homeHub s) (.row { table := t, lrow := k % 2 ^ 40, bseq := a.sbseq, slot := [], master := [], accum := accRecord a none })) b) b

/-- A table's resynchronisation has ended at this engine: it is released and swept (step 7). -/
def Block.resyncDone (b : Block) (t : Nat) : Block :=
  let lrows := (tdOf (b.tables.getD t {}).desc).lrows
  let b := b.onTwin fun x => { x with resyncs := x.resyncs.filter (·.table != t), sweeps := x.sweeps ++ [(t, 0, lrows, true)] }
  let b := b.onTable t fun x => { x with overflowed := false, incomplete := false }
  let b := { b with dies := b.dies.mapVal fun _ d => { d with twinJournal := d.twinJournal.filter (·.1 != t) } }
  b.reask t

def Block.onResync (b : Block) (t : Nat) (f : Resync → Resync) : Block :=
  b.onTwin fun x => { x with resyncs := x.resyncs.map fun y => if y.table = t then f y else y }

/-- RESYNC_PASS: the source's next rows: a tile of a full first pass, the rows journalled since, or the last step (R403). -/
def resyncPass (t : Nat) (st : Store) (b : Block) : Block :=
  let x := b.eng.twin
  if x.state != .resync || x.receiver || b.eng.passing then b
  else match b.resync? t with
    | none => b
    | some r =>
      let td := tdOf (b.tables.getD t {}).desc
      match r.hold with
      | some h =>
        if !b.appliedAll t h || !rowsFree st td b (b.newRows r) then b
        else
          let b := (sendRows st td b (b.newRows r)).sendAccs t
          let digs := match b.upDies.head? with | some s => ((b.die s).replay.getD t {}).last | none => []
          ((b.sendFrame b.eng.leader b.eng.leader (.resync t h digs)).resyncDone t).checkPaired
      | none =>
        if r.full && r.pass = 0 then
          let n := Nat.min tileRows (td.lrows - r.next)
          let rows := (List.range n).map (r.next + ·)
          if !rowsFree st td b rows then b
          else (sendRows st td b rows).onResync t fun r => { r with next := r.next + n, pass := if td.lrows ≤ r.next + n then 1 else 0 }
        else
          let rows := b.newRows r
          if !rowsFree st td b rows then b
          else if rows.length < 65536 || 8 ≤ r.pass then b.onResync t fun r => { r with hold := some (b.highestStarted t) }
          else
            let marks := b.journalMarks t
            (sendRows st td b rows).onResync t fun r => { r with pass := r.pass + 1, marks := marks }

def execResyncPass (table : Nat) (s : State) : Result := firmware (resyncPass table) s

/-- RESYNC_FRAME: once the rows sent before it are committed, the receiver sets APPLIED and the replay digests at every row die in service; held batches are decided again. -/
def resyncFrame (hdr : FrameHdr) (t applied : Nat) (digests : List (Nat × Nat)) (b : Block) : Block :=
  b.withFrame hdr 6 fun b =>
    if !b.eng.twin.receiver || (b.resync? t).isNone || b.eng.twin.rowsIn.any (·.row.table == t) then b
    else
      let b := b.upDies.foldl (fun b s => b.onDie s fun d => { d with replay := d.replay.put t { applied := applied, last := digests.take 8 } }) b
      (b.resyncDone t).checkPaired

def execResyncFrame (hdr : FrameHdr) (table applied : Nat) (digests : List (Nat × Nat)) (s : State) : Result :=
  run (fun _ b => resyncFrame hdr table applied digests b) s

end Sys2Proof.Machine
end

