-- ==== Sys2Proof/Machine/Losses.lean ====
section
/-! DEFINITION. Losses of hubs, hub dies, steward cores, clusters and links (R28 to R34, R124, R236, R298, R382, R406, R410, R411). -/
namespace Sys2Proof.Machine

/-! ## What a hub takes with it (R33) -/

/-- A slot in flight on another hub's ring needs hub `h` as a home hub (R33, R124): it has tasks there, rows or partials of its running
tile to come from there, or contributions sorted there. -/
def Block.needsHub (b : Block) (h : Nat) (w : Work) : Bool :=
  let x := (b.hub h).sched
  let mine := fun (s : Nat) => b.homeHub s == h
  ringHub w.ring != h && w.phase == .active && ((x.ready ++ x.running).any (fun t => t.ring == w.ring && t.p == w.p) ||
    (match w.data with
     | .lookup l => l.running && (l.fetches.any (fun f => !f.got && mine f.stack) || l.bags.any fun g => !g.finished && g.left.any mine)
     | .update u => u.distributed && (if u.started then u.open_ else u.runs.keys ++ u.gates.keys).any mine
     | _ => false))

/-- The slots that needed the lost hub end with HUB_LOST; an update slot keeps the counts its shares have made, and its other shares run
on (R124). -/
def Block.endHubLost (b : Block) (w : Work) : Block :=
  match w.data with
  | .update u => if u.started then b.closeSlot w.ring w.p HUB_LOST 0 (b.countsNow w u) else b.endSlot w.ring w.p HUB_LOST 0 w.counters
  | _ => b.endSlot w.ring w.p HUB_LOST 0 w.counters

/-- A share whose feeding home hub is lost stops, and its record can be resumed; a class 1 record on its way is written again when the
share resumes (R116, R124). -/
def Block.stopShares (b : Block) (h : Nat) : Block :=
  { b with dies := b.dies.mapVal fun _ d =>
    let mine := fun (t : Nat) => match d.replay.get? t with
      | some rp => (match rp.inprog with | some i => i.feedHub == h && d.shares.has t | none => false)
      | none => false
    { d with
      shares := d.shares.keep fun t _ => !mine t
      replay := d.replay.mapVal fun t rp => if mine t then { rp with inprog := rp.inprog.map fun i => { i with orphan := true } } else rp
      journals := d.journals.map fun j => if mine j.table && !j.acked then { j with lost := true } else j
      -- a run in the overflow log is replayed before its entry may retire (R117, R136)
      board := d.board.map fun e =>
        if mine e.table && !(d.log.any fun x => x.table == e.table && x.lrow == e.lrow) then { e with finished := true } else e } }

/-- Tables with a share that hub `h` feeds. -/
def Block.fedBy (b : Block) (h : Nat) : List Nat :=
  distinct (b.dies.vals.flatMap fun d => (d.replay.filter fun (t, rp) =>
    d.shares.has t && (match rp.inprog with | some i => i.feedHub == h | none => false)).map (·.1))

/-- A ring of the lost hub ends with it: no record, flag or done signal, and the leader lists it (R33, R382). -/
def Block.loseRing (b : Block) (rid : Nat) (r : Ring) : Block :=
  let b := (b.ringWorks rid).foldl (fun b w => (b.dropTasks rid w.p).delWork rid w.p) b
  let b := { b with rings := b.rings.del rid }
  b.event b.eng.leader 0x0F (some r.job) (pack [(0, 10, rid), (10, 48, r.head), (58, 48, r.done)])

/-- A DIGEST_EXCHANGE slot that is gone leaves its table without the exchange it was making. -/
def Block.loseExchanges (b : Block) (h : Nat) : Block :=
  (b.eng.twin.fences.filter fun f => match f.slot with | some (r, _) => ringHub r == h | none => false).foldl (fun b f => b.dropFence f.table) b

/-- The parts of a hub that its loss takes: scheduler, slice, translation, mailboxes, I3C target, ports, digests and semaphores. Its
Table 1-5 clusters, spares and disables, and its budget, stay known. -/
def Hub.gone (x : Hub) (ringStop : Bool) : Hub :=
  { x with
    inService := false
    ringStop := x.ringStop && !ringStop
    regs := { x.regs with fabUp := false, tlmUp := false }
    pairs := []
    i3c := {}
    sched := { x.sched with mainBal := 0, reserve := 0, adopted := [], ready := [], running := [] }
    slice := {}
    xlat := {}
    digests := {}
    sems := []
    missed := 0
    rebudgeted := false
    admitting := false }

/-- Leadership passes to the lowest-numbered hub in service, which does not yet accept engine-wide messages (R31). -/
def Block.passLead (b : Block) (h : Nat) : Block :=
  match b.upHubs.head? with
  | none => b
  | some n =>
    if b.eng.leader ≠ h then b
    else (b.onEng fun e => { e with leader := n, passing := true }).raiseAll intLEADER

/-- Messages that the lost hub's mailboxes carried: their work goes on, and nothing is left to reply to. -/
def Block.orphanMsgs (b : Block) (h : Nat) : Block :=
  b.onEng fun e => { e with
    pend := e.pend.map fun p => if p.hub == h then { p with hub := 4 } else p
    migrations := e.migrations.map fun g => if g.hub == h then { g with hub := 4 } else g
    leaderRecs := e.leaderRecs.filter (·.hub != h)
    unacked := e.unacked.filter fun u => u.win.isSome || u.hub != h
    arrivals := e.arrivals.filter fun a => a.sol.isSome || a.hub != h
    winOut := e.winOut.filter fun o => !(ringHub o.ring == h && decide (o.ring < 1024)) && o.ring != 1024 + h
    msgReads := e.msgReads.filter (·.hub != h) }

/-! ## Intervals when another hub counts them (R7) -/

/-- Ages that a stack keeps begin again: another hub counts them from now on, and counts of two hubs are not compared (R7; DESIGN CHOICE, log
109). -/
def RowDie.restartAges (d : RowDie) (now : Nat) : RowDie :=
  { d with
    readAge := now
    level4Age := now
    recalAge := now
    buffer := { d.buffer with errs := d.buffer.errs.mapVal fun _ (n, fixes) => (n, fixes.map fun _ => now) }
    chans := d.chans.mapVal fun _ c => { c with
      corrections := c.corrections.mapVal fun _ ages => ages.map fun _ => now
      badPages := c.badPages.map fun (k, _) => (k, now)
      refreshes := c.refreshes.mapVal fun _ _ => now } }

/-- Ages that the leader keeps begin again. -/
def Eng.restartAges (e : Eng) (now : Nat) : Eng :=
  { e with
    handover := e.handover.map fun (bank, _) => (bank, now)
    harvest := { e.harvest with records := e.harvest.records.map fun r => { r with age := now } }
    twin := { e.twin with pairAge := now, pairSent := none, fences := e.twin.fences.map fun f => { f with age := now } } }

/-- After hubs have left or joined: the intervals that another hub counts than before begin again, a host link's retrain with the leader when the
hub that first saw it is gone. -/
def Block.rebase (before b : Block) : Block :=
  let b := { b with dies := b.dies.mapVal fun s d => if before.homeHub s = b.homeHub s then d else d.restartAges (b.age (b.homeHub s)) }
  let now := b.age b.eng.leader
  let b := if before.eng.leader = b.eng.leader then b else b.onEng (·.restartAges now)
  match b.eng.host with
  | .retraining h _ => if b.hubUp h then b else b.onEng fun e => { e with host := .retraining e.leader now }
  | _ => b

/-- The hub that takes over the group adds the lost hub's budget to its own (R236). -/
def Block.adopt (b : Block) (taker : Nat) (from_ : List (Nat × Nat)) : Block :=
  b.onSched taker fun x => { x with adopted := x.adopted ++ from_, newBudget := true }

/-- The HUBLOST event, reported by the hub that declared the loss (R409, R410). -/
def Block.hubLostEvent (b : Block) (h budget : Nat) (ringStop planned : Bool) : Block :=
  b.event b.eng.leader 0x0E none (pack ([(0, 2, h), (2, 2, b.eng.leader), (12, 12, budget), (24, 1, b2n ringStop), (25, 1, b2n planned)]
    ++ (List.range 4).map fun g => (4 + 2 * g, 2, b.groupHub g)))

/-- The functions of hub `h` are lost (R33, R124, R236, R298, R410). -/
def Block.loseHub (b : Block) (h : Nat) (ringStop planned : Bool) : Block :=
  let x := (b.hub h).sched
  let from_ := (h, x.budget) :: x.adopted
  let need := b.works.vals.filter (b.needsHub h)
  let fed := b.fedBy h
  let rings := b.ringsOf h
  let tables := distinct ((b.hub h).digests.own.map (·.table))
  let b := need.foldl Block.endHubLost b
  let b := (b.stopShares h).loseExchanges h
  let before := b
  let b := { b with hubs := b.hubs.modify h fun x => x.gone ringStop }
  let b := Block.rebase before ((b.passLead h).orphanMsgs h)
  -- NOHUB: no hub is left to act, and the engine stays fatal until reset (R412, R413)
  if b.upHubs.isEmpty then { b with rings := [], works := [], hubs := b.hubs.mapVal fun _ x => { x with regs := { x.regs with fw := .fatal } } }
  else
    let b := b.adopt (b.groupHub h) from_
    let b := b.hubLostEvent h ((from_.map (·.2)).sum) ringStop planned
    let b := rings.foldl (fun b (rid, r) => b.loseRing rid r) b
    let b := tables.foldl (fun b t => b.dropEntry b.eng.leader t) b
    fed.foldl Block.reask b.publish

/-! ## HUB_HEARTBEAT, HUB_LOSS, LEADER_TAKEOVER, HUB_DIE_LOSS (R31, R32, R34, R410) -/

/-- HUB_HEARTBEAT: the ring stops exchange a heartbeat with the hub's functions every 10 age units. -/
def hubHeartbeat (h : Nat) (alive : Bool) (b : Block) : Block :=
  if !b.hubUp h then b else b.onHub h fun x => { x with missed := if alive then 0 else x.missed + 10 }

def execHubHeartbeat (hub : Nat) (alive : Bool) (s : State) : Result := run (fun _ b => hubHeartbeat hub alive b) s

/-- HUB_LOSS: declared once heartbeats have been missing for 100,000 age units. -/
def hubLoss (h : Nat) (b : Block) : Block :=
  if !b.hubUp h || (b.hub h).missed < 100000 then b else b.loseHub h false false

def execHubLoss (hub : Nat) (s : State) : Result := run (fun _ b => hubLoss hub b) s

/-- Leadership has passed: the events held meanwhile are reported in order (R409). -/
def Block.endPassing (b : Block) : Block :=
  let held := b.eng.heldEvents
  held.foldl Block.report (b.onEng fun e => { e with passing := false, heldEvents := [] })

/-- The message that a leader record tells of, when it is received again: its pair has had no DONE reply and shows the recorded tag. -/
def Block.againOf (b : Block) (r : LeaderRec) : Option Msg :=
  let p := b.pair r.hub r.key
  let m : Msg := { hub := r.hub, key := r.key, pm := p.pm, x := p.copy.toNat }
  if (p.st == .taken || p.st == .pending) && m.tag == r.tag && m.code == r.code then some m else none

/-- The new leader reads the leader records that a stack in service still holds: a message received again is answered with the recorded
result and not applied a second time (R32, R365). -/
def Block.readRecords (b : Block) : Block :=
  let b := b.onEng fun e => { e with leaderRecs := e.leaderRecs.filter fun r => r.copies.any b.dieOn }
  b.eng.leaderRecs.foldl (fun b r =>
    match b.againOf r with
    | none => b
    | some m =>
      (b.onEng fun e => { e with pend := e.pend.filter fun p => !p.same r.hub r.key }).reply m r.len 2 r.status r.detail b.eng.leader r.body) b

/-- LEADER_TAKEOVER: the new leader reads the records; it reports the events held meanwhile, restarts fences from step 1 (R395) and
accepts engine-wide messages. -/
def leaderTakeover (b : Block) : Block :=
  if !b.eng.passing then b
  else
    let b := b.endPassing.readRecords
    b.eng.twin.fences.foldl (fun b f =>
      (b.dropFence f.table).startFence { table := f.table, lead := f.lead, sweep := f.sweep, repair := f.repair, slot := f.slot }) b

def execLeaderTakeover (s : State) : Result := firmware (fun _ b => leaderTakeover b) s

/-- A stack of a lost hub die leaves service, one being released or admitted included (R34). -/
def Block.loseStackOf (b : Block) (s : Nat) : Block :=
  if b.dieOn s then b.loseStack s 6 else b.onDie s fun d => { d with st := 0, failed := true }

/-- HUB_DIE_LOSS: the hub's functions, its ring stop and its three stacks. -/
def hubDieLoss (h : Nat) (b : Block) : Block :=
  if 4 ≤ h || !(b.hub h).ringStop then b
  else
    let b := if b.hubUp h then b.loseHub h true false
      else (b.onHub h fun x => { x with ringStop := false }).hubLostEvent h 0 true false
    ([3 * h, 3 * h + 1, 3 * h + 2].foldl Block.loseStackOf b).publish

def execHubDieLoss (hub : Nat) (s : State) : Result := run (fun _ b => hubDieLoss hub b) s

/-! ## STEWARD_CORE_FAILURE, CLUSTER_FAILURE (R19, R28, R164, R411) -/

/-- STEWARD_CORE_FAILURE: another core applies the messages again from their copies, with the same result; the last core's failure loses
the hub. -/
def stewardCoreFailure (h : Nat) (b : Block) : Block :=
  if !b.hubUp h then b
  else
    let b := b.onHub h fun x => { x with stewards := x.stewards - 1 }
    if (b.hub h).stewards = 0 then b.loseHub h false false else b.publish

def execStewardCoreFailure (hub : Nat) (s : State) : Result := run (fun _ b => stewardCoreFailure hub b) s

/-- The failing cluster's running tasks start again elsewhere, charged as they are (R164). -/
def Block.freeCluster (b : Block) (c : Nat) : Block :=
  b.onSched (b.clusterHub c) fun x =>
    { x with ready := x.ready ++ x.running.filter (·.cluster == c), running := x.running.filter (·.cluster != c) }

/-- CLUSTER event (Table 14-10). -/
def Block.clusterEvent (b : Block) (c action spares : Nat) : Block :=
  b.event (b.clusterHub c) 0x09 none (pack [(0, 10, c), (10, 2, action), (12, 3, spares)])

/-- CLUSTER_FAILURE: a spare of the same die takes the number, or the cluster is removed: a row die's takes its channel with it, a hub's
lowers the hub's count (R28). -/
def clusterFailure (c : Nat) (b : Block) : Block :=
  if 1024 ≤ c || !b.clusterUp c then b
  else
    match clusterDie c with
    | some s =>
      let n := (b.die s).spares
      if n ≠ 0 then ((b.onDie s fun d => { d with spares := n - 1 }).freeCluster c).clusterEvent c 0 (n - 1)
      else
        let b := (b.onDie s fun d => { d with clusters := d.clusters - 1, deadClusters := d.deadClusters ||| 2 ^ (c % 64) }).freeCluster c
        ((b.clusterEvent c 1 0).postPlan 3 [c]).publish
    | none =>
      let h := (c - 768) / 64
      let n := (b.hub h).spares
      if n ≠ 0 then ((b.onHub h fun x => { x with spares := n - 1 }).freeCluster c).clusterEvent c 0 (n - 1)
      else
        let b := (b.onHub h fun x => { x with clusters := x.clusters - 1, deadClusters := x.deadClusters ||| 2 ^ (c % 64) }).freeCluster c
        (b.clusterEvent c 1 0).publish

def execClusterFailure (cluster : Nat) (s : State) : Result := run (fun _ b => clusterFailure cluster b) s

/-! ## Link replays (R383, R406, Table 14-8) -/

/-- UCIE_REPLAY: a damaged flit is replayed; a module that fails to retrain is taken out, and a row die with none left is lost. -/
def ucieReplay (s m ns : Nat) (out : ReplayEnd) (b : Block) : Block :=
  if !b.dieUp s || 6 ≤ m || !(b.die s).ucieUp.testBit m then b
  else
    let b := b.sample 0x13 s ns
    match out with
    | .lost =>
      let b := b.onDie s fun d => { d with ucieUp := d.ucieUp - 2 ^ m }
      if (b.die s).ucieUp = 0 then (b.loseStack s 6).publish else b
    | _ => b

def execUcieReplay (rowDie modul ns : Nat) (out : ReplayEnd) (s : State) : Result := run (fun _ b => ucieReplay rowDie modul ns out b) s

/-- FABRIC_REPLAY: a damaged packet is replayed; a link that exceeds the limit retrains, and its port is up while it is trained. -/
def fabricReplay (h ns : Nat) (out : ReplayEnd) (b : Block) : Block :=
  if !b.hubUp h then b else (b.sample 0x14 h ns).onRegs h fun r => { r with fabUp := out != .lost }

def execFabricReplay (hub ns : Nat) (out : ReplayEnd) (s : State) : Result := run (fun _ b => fabricReplay hub ns out b) s

/-- TELEMARK_REPLAY: a damaged flit is replayed, or the link retrains; a link that does not train again is down by TELEMARK_LINK_DOWN. -/
def telemarkReplay (h ns : Nat) (_ : ReplayEnd) (b : Block) : Block := if !b.linkUp h then b else b.sample 0x15 h ns

def execTelemarkReplay (hub ns : Nat) (out : ReplayEnd) (s : State) : Result :=
  run (fun _ b => telemarkReplay hub ns out b) s

end Sys2Proof.Machine
end

