-- ==== Sys2Proof/Machine/Fatal.lean ====
section
/-! DEFINITION. Fatal causes and the dump (R412 to R416), DUMP_ARM, and the level monitors (R435, R436). -/
namespace Sys2Proof.Machine

/-! ## DUMP_ARM (R414, Table 14-12) -/

def cardDumpArm : Card := { code := 0x00A0, wide := true, req := 48, fields := [byteF 16 32] }

/-- Stages 1 to 3 of R17 on the record. -/
def dumpStages (x minor : Nat) : Nat :=
  firstFail [(!versionOk (bits x 0 8) minor, VERSION_UNSUPPORTED), (rsvSet x [(224, 32), (184, 8), (96, 32), (46, 18), (8, 32)], RESERVED_NONZERO)]

/-- The frames of a region of writable pages of stack memory, in page order. -/
def dumpFrames (st : Store) (b : Block) (job va pages : Nat) : List Nat :=
  (List.range pages).filterMap fun k =>
    match walkAll st b job { va := va + 65536 * k, write := true } with
    | (.page p, _) => some p.addr
    | _ => none

/-- The range overlaps a registered region of its job. -/
def Block.regionMeets (b : Block) (job va pages : Nat) : Bool :=
  b.eng.regions.vals.any fun r => jobOf r 36 == job && meets va (65536 * pages) (bits r.toNat 128 56) (65536 * bits r.toNat 192 28)

def msgDumpArm (st : Store) (b : Block) (m : Msg) : Ans :=
  let x := m.struct 16 32
  let job := bits x 40 6
  let va := bits x 128 56
  let pages := bits x 64 32
  let svc := bits x 192 32
  .guard b (thenCheck (b.jobFor m [va]) fun _ => dumpStages x b.eng.minor) fun _ =>
  .guard b (firstFail [(job != m.job || decide (pages < svc + 4096) || decide (svc < 16) || decide (4096 < svc), DUMP_INVALID)
    , (rangeBad va pages, MESSAGE_INVALID), (b.regionMeets job va pages, DUMP_INVALID)]) fun _ =>
  .guard b ((firstUnwritable st b job va pages DUMP_INVALID).map (·.1) |>.getD OK) fun _ =>
  let d : Dump := { armed := true, job := job, vbase := va, pages := pages, svcPages := svc, frames := dumpFrames st b job va pages }
  .ok (b.onEng fun e => { e with dump := d })

def execDumpArm (hub : Nat) (mb : Mbox) (pair : Nat) (s : State) : Result := message cardDumpArm msgDumpArm hub mb pair s

/-! ## Sections (Tables 14-14 to 14-16) -/

/-- A section: its type, hub, instance and bytes; none where the manual does not lay its contents out. -/
structure Section where
  type : Nat
  hub : Nat := 0
  inst : Nat := 0
  bytes : Option (List Byte) := none

/-- An overflow-log entry (Table 14-16, R416). -/
def logEntryBytes (e : LogEntry) : List Byte :=
  toBytes 32 (pack [(0, 8, 0x20), (8, 6, e.acc.job), (16, 20, e.table), (40, 40, e.lrow), (80, 32, e.remain.length), (128, 64, e.bseq)])
  ++ accRecord e.acc e.spill ++ e.remain.flatMap fun v => v.flatMap fun w => toBytes 4 w.toNat

/-- Section 0x09 of a stack: its log entries, then its pending accumulators' records (R416). -/
def RowDie.accSection (d : RowDie) : List Byte := d.log.flatMap logEntryBytes ++ d.accs.vals.flatMap fun a => accRecord a none

def recordsOf (n : Nat) (rs : List Nat) : List Byte := rs.flatMap (toBytes n)

/-- The sections in increasing TYPE (Table 14-15). How many of a type there are is the model's choice (log 40). -/
def Block.sections (b : Block) : List Section :=
  let hubs := fun (t : Nat) => b.upHubs.map fun h => ({ type := t, hub := h } : Section)
  let stacks_ := fun (t : Nat) (f : RowDie → Option (List Byte)) =>
    b.upDies.map fun s => ({ type := t, hub := b.homeHub s, inst := s, bytes := f (b.die s) } : Section)
  [{ type := 0x01, hub := b.eng.leader, bytes := some b.almanac },
   { type := 0x02, hub := b.eng.leader, bytes := some (recordsOf 32 (b.eng.events.map (·.toNat))) }]
  ++ hubs 0x03 ++ (b.rings.keys.map fun r => { type := 0x04, hub := ringHub r, inst := r }) ++ hubs 0x05 ++ hubs 0x06
  ++ stacks_ 0x07 (fun _ => none) ++ stacks_ 0x08 (fun _ => none) ++ stacks_ 0x09 (fun d => some d.accSection) ++ stacks_ 0x0A (fun _ => none)
  ++ hubs 0x0B ++ stacks_ 0x0C (fun _ => none) ++ stacks_ 0x0D (fun d => some (recordsOf 16 (d.ledger.map (·.toNat)))) ++ hubs 0x0E

/-- Bytes of a section whose contents the manual does not lay out: a free length and free bytes (log 2). -/
def Block.freeBytes (b : Block) : List Byte × Block :=
  let (n, b) := b.free
  let k := n.toNat % 2 ^ 32
  ((List.range k).map fun i => (Config.freeValue (b.freeCount + i)).setWidth 8, { b with freeCount := b.freeCount + k })

/-- A directory entry (Table 14-14). -/
def dirEntry (s : Section) (off len crc absent : Nat) : List Byte :=
  toBytes 32 (pack [(0, 8, s.type), (8, 2, s.hub), (16, 16, s.inst), (64, 64, off), (128, 64, len), (192, 32, crc), (224, 1, absent)])

/-- Place sections from an offset in the space of a dump: their writes as (offset, bytes), their directory entries, and whether all fitted.
Once one does not fit, it and every remaining one are absent (R415). -/
def placeSections (space : Nat) : List Section → Nat → Bool → Block → List (Nat × List Byte) × List Byte × Bool × Block
  | [], _, fits, b => ([], [], fits, b)
  | s :: ss, off, fits, b =>
    if !fits then
      let (ws, dir, _, b) := placeSections space ss off false b
      (ws, dirEntry s 0 0 0 1 ++ dir, false, b)
    else
      let (bs, b) := match s.bytes with | some bs => (bs, b) | none => b.freeBytes
      if space < off + bs.length then
        let (ws, dir, _, b) := placeSections space ss off false b
        (ws, dirEntry s 0 0 0 1 ++ dir, false, b)
      else
        let (ws, dir, all, b) := placeSections space ss (roundUp (off + bs.length) 4096) true b
        ((off, bs) :: ws, dirEntry s off bs.length (crc32c bs) 0 ++ dir, all, b)

/-- Write bytes at an offset of the dump region, frame by frame. -/
def Block.dumpWrite (b : Block) (hub : Nat) (off : Nat) (data : List Byte) : Block :=
  let first := off / 65536
  let padded := off % 65536
  let head := data.take (65536 - padded)
  let b := match b.eng.dump.frames[first]? with | some f => b.wrMem hub (f + padded) head 1 | none => b
  let rest := data.drop head.length
  (chunks 65536 (ceilDiv rest.length 65536) rest).zip (b.eng.dump.frames.drop (first + 1)) |>.foldl (fun b (bs, f) => b.wrMem hub f bs 1) b

/-- The dump header (Table 14-13). -/
def Block.dumpHeader (b : Block) (cause state nsect feseq dcrc : Nat) : List Byte :=
  toBytes 64 (pack [(0, 8, 0x20), (8, 4, state), (16, 16, cause), (32, 16, nsect), (64, 64, feseq), (128, 32, b.eng.fwver),
    (160, 4, (b.upHubs.map (2 ^ ·)).sum), (192, 32, layoutId b.eng.layout), (224, 32, b.eng.almGen), (256, 32, dcrc)])

/-- The dump: STATE 1, the sections, the directory, then the header (R413, R415). -/
def Block.writeDump (b : Block) (cause feseq : Nat) : Block :=
  let d := b.eng.dump
  let hub := b.eng.leader
  let ss := b.sections
  let space := 65536 * (d.pages - d.svcPages)
  let b := b.dumpWrite hub 0 (b.dumpHeader cause 1 0 feseq 0)
  let (ws, dir, all, b) := placeSections space ss (roundUp (4096 + 32 * ss.length) 4096) true b
  let b := ws.foldl (fun b (off, bs) => b.dumpWrite hub off bs) b
  let b := b.dumpWrite hub 4096 dir
  let state := if all then 2 else 3
  let b := b.dumpWrite hub 0 (b.dumpHeader cause state ss.length feseq (crc32c dir))
  (b.onEng fun e => { e with dump := { e.dump with state := state, cause := cause, feseq := feseq } }).raiseAll intDUMP

/-! ## FATAL (R412, R413) -/

/-- FATAL: the event, FWSTATE of every hub in service, UNPAIR on every link, and the dump where one is armed and none awaits reading.
Cause 3 leaves no hub to act: the event log stays in the reserve (Table 14-11). -/
def fatal (h cause : Nat) (b : Block) : Block :=
  if !b.hubUp h || b.fatal || cause = 0 || 3 ≤ cause then b
  else
    let b := b.endPassing
    let b := b.event h 0x15 none (pack [(0, 4, cause), (4, 2, h)])
    let feseq := b.eng.eseq
    let b := b.upHubs.foldl (fun b h => b.setFw h .fatal) b
    let t := b.eng.twin.state
    let b := if t == .unpaired || t == .solo then b else (b.sendAll (.unpair 2)).onTwin fun t => { t with state := .solo }
    if b.eng.dump.armed && !b.eng.dump.ready then b.writeDump cause feseq else b

def execFatal (hub cause : Nat) (s : State) : Result := run (fun _ b => fatal hub cause b) s

/-! ## MONITOR_SAMPLE (R435, R436) -/

/-- What a level monitor samples: from the state where the state holds it, a measured value otherwise; none for an event monitor. -/
def Block.levelValue (b : Block) (mon inst measured : Nat) : Option Nat :=
  if mon = 0x05 then some (b.die inst).reading.toNat
  else if mon = 0x06 then some (b.die inst).level
  else if mon = 0x08 then some ((b.hub inst).sched.mainBal / 1000000)
  else if mon = 0x09 then some ((b.hub inst).sched.reserve / 1000000)
  else if mon = 0x01 || mon = 0x03 || mon = 0x07 || mon = 0x0A then some measured
  else none

/-- MONITOR_SAMPLE: every 1,000 age units of its hub. -/
def monitorSample (mon inst measured : Nat) (b : Block) : Block :=
  match monInstances mon, b.levelValue mon inst measured with
  | some n, some v =>
    let h := monHub mon inst
    let key := monKey mon inst
    if n ≤ inst || !b.hubUp h || b.age h < b.eng.sampled.getD key 0 + 1000 then b
    else (b.sample mon inst v).onEng fun e => { e with sampled := e.sampled.put key (b.age h) }
  | _, _ => b

def execMonitorSample (monitor inst value : Nat) (s : State) : Result := run (fun _ b => monitorSample monitor inst value b) s

end Sys2Proof.Machine
end

