-- ==== Sys2Proof/Machine/I3c.lean ====
section
/-! DEFINITION. The I3C target of each hub and the management mailbox on it (R369, R370, R371, R439, R417). -/
namespace Sys2Proof.Machine

def Block.onI3c (b : Block) (h : Nat) (f : I3c → I3c) : Block := b.onHub h fun x => { x with i3c := f x.i3c }

/-- The target answers: it belongs to the hub's functions, and works in every FWSTATE (R33, R371). -/
def Block.i3cUp (b : Block) (h : Nat) : Bool := b.winUp h

/-- A transfer that the target acknowledges, and what it returns. -/
def Block.i3cAck (b : Block) (h : Nat) (out : List Byte) : Block := b.onI3c h fun x => { x with ack := true, out := out }
/-- A transfer that it does not acknowledge. -/
def Block.i3cNack (b : Block) (h : Nat) : Block := b.onI3c h fun x => { x with ack := false, out := [] }

/-- A common command that needs no dynamic address (it may be broadcast). -/
def i3cBroadcast (h : Nat) (f : I3c → I3c) (b : Block) : Block := if b.i3cUp h then (b.onI3c h f).i3cAck h [] else b.i3cNack h

/-- A common command sent to the target's dynamic address. -/
def i3cDirect (h : Nat) (f : I3c → I3c) (out : Block → List Byte) (b : Block) : Block :=
  if b.i3cUp h && ((b.hub h).i3c.dyn).isSome then (b.onI3c h f).i3cAck h (out b) else b.i3cNack h

/-- ENEC enables target events; bit 0 is the in-band interrupt (R369). -/
def execEnec (hub events : Nat) (s : State) : Result :=
  run (fun _ b => i3cBroadcast hub (fun x => { x with events := x.events ||| events % 256 }) b) s

/-- DISEC disables target events (R369). -/
def execDisec (hub events : Nat) (s : State) : Result :=
  run (fun _ b => i3cBroadcast hub (fun x => { x with events := clearReason x.events (events % 256) }) b) s

/-- RSTDAA drops the dynamic address (R369). -/
def execRstdaa (hub : Nat) (s : State) : Result := run (fun _ b => i3cBroadcast hub (fun x => { x with dyn := none }) b) s

/-- ENTDAA assigns a dynamic address to a target that has none (R369). -/
def execEntdaa (hub addr : Nat) (s : State) : Result :=
  run (fun _ b => if ((b.hub hub).i3c.dyn).isNone then i3cBroadcast hub (fun x => { x with dyn := some (addr % 128) }) b else b.i3cNack hub) s

/-- SETDASA assigns a dynamic address from the static address 0x38 + h (R369). -/
def execSetdasa (hub addr : Nat) (s : State) : Result :=
  run (fun _ b => if ((b.hub hub).i3c.dyn).isNone then i3cBroadcast hub (fun x => { x with dyn := some (addr % 128) }) b else b.i3cNack hub) s

/-- SETNEWDA changes the dynamic address (R369). -/
def execSetnewda (hub addr : Nat) (s : State) : Result :=
  run (fun _ b => i3cDirect hub (fun x => { x with dyn := some (addr % 128) }) (fun _ => []) b) s

/-- Big-endian bytes, as I3C carries numbers (PRESUMED from MIPI I3C, log 20). -/
def beBytes (n x : Nat) : List Byte := (toBytes n x).reverse

/-- GETPID (R439). -/
def execGetpid (hub : Nat) (s : State) : Result := run (fun _ b => i3cDirect hub id (fun _ => beBytes 6 (pidVal hub)) b) s

/-- GETBCR: in-band interrupts with one data byte, no controller role, no offline capability (R369); places of the bits as MIPI I3C
has them (PRESUMED, log 20). -/
def execGetbcr (hub : Nat) (s : State) : Result := run (fun _ b => i3cDirect hub id (fun _ => [0x06]) b) s

/-- GETDCR: 0x00 (R439). -/
def execGetdcr (hub : Nat) (s : State) : Result := run (fun _ b => i3cDirect hub id (fun _ => [0x00]) b) s

/-- Whether any management pair is DONE (R370). -/
def Block.mgmtDone (b : Block) (h : Nat) : Bool := [64, 65, 66, 67].any fun k => (b.pair h k).st == .done

/-- GETSTATUS: the vendor-reserved byte tells whether any management pair is DONE, in bit 0; the other byte's low bits whether an
in-band interrupt is pending (places PRESUMED, log 20). -/
def execGetstatus (hub : Nat) (s : State) : Result :=
  run (fun _ b => i3cDirect hub id
    (fun b => [BitVec.ofNat 8 (b2n (b.mgmtDone hub)), BitVec.ofNat 8 (b2n (!(b.hub hub).i3c.ibi.isEmpty))]) b) s

/-- GETMWL (R439): 257 unless SETMWL set another. -/
def execGetmwl (hub : Nat) (s : State) : Result := run (fun _ b => i3cDirect hub id (fun b => beBytes 2 (b.hub hub).i3c.mwl) b) s

/-- SETMWL sets the maximum write length (R369), at most 257. -/
def execSetmwl (hub len : Nat) (s : State) : Result := run (fun _ b => i3cBroadcast hub (fun x => { x with mwl := min len 257 }) b) s

/-- GETMRL (R439): 256 unless SETMRL set another. -/
def execGetmrl (hub : Nat) (s : State) : Result := run (fun _ b => i3cDirect hub id (fun b => beBytes 2 (b.hub hub).i3c.mrl) b) s

/-- SETMRL sets the maximum read length (R369), at most 256. -/
def execSetmrl (hub len : Nat) (s : State) : Result := run (fun _ b => i3cBroadcast hub (fun x => { x with mrl := min len 256 }) b) s

/-- RSTACT with defining byte 0x00 or 0x01 resets the target and keeps its dynamic address; any other is not acknowledged (R417). -/
def execRstact (hub defining : Nat) (s : State) : Result :=
  run (fun _ b => if defining ≤ 1 then i3cBroadcast hub (fun x => { dyn := x.dyn }) b else b.i3cNack hub) s

/-- I3C private write (R370): selector 0x00 + k writes request slot k, posting when the transfer wrote bytes 8 to 15 with GO set;
selector 0x10 + k selects reply slot k. Other selectors, and a target without a dynamic address, are not acknowledged. -/
def i3cWrite (h : Nat) (data : List Byte) (b : Block) : Block :=
  let i := (b.hub h).i3c
  if !b.i3cUp h || i.dyn.isNone then b.i3cNack h
  else
    let d := data.take i.mwl
    match d with
    | [] => b.i3cAck h []
    | sel :: rest =>
      if sel.toNat < 4 then
        let go := decide (16 ≤ rest.length) && (rest.getD 8 0).getLsbD 0
        let b := b.i3cAck h []
        if rest.isEmpty then b else b.slotWrite h (64 + sel.toNat) 0 (rest.take 256) go false
      else if 0x10 ≤ sel.toNat ∧ sel.toNat < 0x14 then (b.onI3c h fun x => { x with sel := sel.toNat - 0x10 }).i3cAck h []
      else b.i3cNack h

def execI3cPrivateWrite (hub : Nat) (data : List Byte) (s : State) : Result := run (fun _ b => i3cWrite hub data b) s

/-- I3C private read (R370): the selected reply slot from offset 0, ended after LENW × 8 bytes. The controller has then taken the
in-band interrupt of that pair. -/
def i3cRead (h : Nat) (b : Block) : Block :=
  let i := (b.hub h).i3c
  if !b.i3cUp h || i.dyn.isNone then b.i3cNack h
  else
    let r := (b.pair h (64 + i.sel)).rep.toNat
    let n := min (8 * bits r 24 8) i.mrl
    (b.onI3c h fun x => { x with ibi := x.ibi.filter (· != BitVec.ofNat 8 (0x10 + i.sel)) }).i3cAck h ((toBytes 256 r).take n)

def execI3cPrivateRead (hub : Nat) (s : State) : Result := run (fun _ b => i3cRead hub b) s

end Sys2Proof.Machine
end

