-- ==== Sys2Proof/Machine/Service.lean ====
section
/-! DEFINITION. Live firmware handover, recalibration, and stack and hub service (R422 to R434), with what restarts share with start-up. -/
namespace Sys2Proof.Machine

/-! ## FW_STAGE (R423, R429, Table 15-3) -/

def cardFwStage : Card := { code := 0x00A1, wide := true, req := 40, rep := 24, fields := [byteF 24 8, byteF 32 4, byteF 36 4] }

/-- The header of Table 15-3 that an image begins with, checked but for its part and interface versions. -/
def imageBad (x size : Nat) : Bool :=
  bits x 0 8 != 0x20 || rsvSet x [(144, 368), (24, 8)] || bits x 64 32 == 0 || decide (16777152 < bits x 64 32) || size != 64 + bits x 64 32

/-- FWVER of a bank. -/
def FwBank.ver (k : FwBank) : Nat := bits k.header.toNat 32 32

def BootStore.bank (s : BootStore) (n : Nat) : FwBank := if n = 0 then s.bank0 else s.bank1
def BootStore.setBank (s : BootStore) (n : Nat) (k : FwBank) : BootStore := if n = 0 then { s with bank0 := k } else { s with bank1 := k }

/-- The bank that runs, as the leader's FWSTATE shows it. -/
def Block.runBank (b : Block) : Nat := (b.hub b.eng.leader).regs.bank

/-- Verified: the selector marks the other bank staged, and every hub's standby memory holds the image. -/
def finFwStage : Finish := fun _ b _ pm =>
  let n := pm.aux.getD 0 0
  let b := b.onEng fun e => { e with boot := { e.boot with otherState := 1, selSeq := e.boot.selSeq + 1 }, staged := true }
  let b := { b with hubs := b.hubs.mapVal fun _ h => { h with standby := h.standby || h.inService } }
  some (.ok b (bodyOf [(16, 4, (b.eng.boot.bank n).ver), (20, 1, n)]))

/-- FW_STAGE: the image is read and verified, and written into the bank that is not running. -/
def msgFwStage (st : Store) (b : Block) (m : Msg) : Ans :=
  let va := m.at 24 8
  let size := m.at 32 4
  .guard b (b.jobFor m [va]) fun _ =>
  match msgRead st b m b.eng.leader va size with
  | (b, .wait) => .later b .firmware
  | (b, .fail s d) => .fail b s d
  | (b, .ok bs) =>
    let x := ofBytes (bs.take 64)
    let body := bs.drop 64
    if imageBad x size then .fail b FW_INVALID 1
    else if m.at 36 4 ≠ crc32c bs || bits x 96 32 ≠ crc32c body then .fail b FW_INVALID 2
    else if bits x 128 16 ≠ 0x5A02 || bits x 8 8 ≠ 2 || b.eng.minor < bits x 16 4 || bits x 20 4 < b.eng.minor then .fail b FW_INVALID 3
    else
      let n := 1 - b.runBank
      let k : FwBank := { header := BitVec.ofNat 512 x, bodyCrc := crc32c body, size := body.length }
      let b := b.onEng fun e => { e with boot := { (e.boot.setBank n k) with otherState := 0 }, staged := false }
      let b := { b with hubs := b.hubs.mapVal fun _ h => { h with standby := false } }
      { b := b, pend := some { obj := .firmware, aux := [n] } }

def execFwStage (hub : Nat) (mb : Mbox) (pair : Nat) (s : State) : Result := message cardFwStage msgFwStage hub mb pair s

/-! ## FW_HANDOVER and HANDOVER_TIMEOUT (R430, Table 15-7) -/

def cardFwHandover : Card := { code := 0x00A2, wide := true, mg := true, req := 24, rep := 24, fields := [byteF 16 1] }

/-- 20 ms in age units. -/
def handoverBound : Nat := 2000000

/-- Every hub runs again: FWSTATE is RUN, and posted messages are copied once more. -/
def Block.endHandover (b : Block) (bank : Nat) : Block :=
  let b := b.upHubs.foldl (fun b h => (b.onRegs h fun r => { r with bank := bank }).setFw h .run) (b.onEng fun e => { e with handover := none })
  b.upHubs.foldl Block.answerUnknowns b

/-- FIRMWARE event. -/
def Block.firmwareEvent (b : Block) (bank what : Nat) : Block :=
  b.event b.eng.leader 0x16 none (pack [(0, 1, bank), (1, 2, what), (32, 32, b.eng.fwver)])

/-- Steps 4 to 6: the new firmware runs on every hub, the leader writes the selector, and the new firmware answers. After a return to the
old bank the message ends with FW_INVALID. -/
def finFwHandover : Finish := fun _ b _ pm =>
  if pm.aux.getD 1 0 = 5 then some (.fail b FW_INVALID 5)
  else
    match b.eng.handover with
    | none => none
    | some (n, since) =>
      if since + handoverBound ≤ b.age b.eng.leader then none
      else
        let b := b.endHandover n
        let b := b.onEng fun e => { e with fwver := (e.boot.bank n).ver, staged := true
                                           boot := { e.boot with active := n, otherState := 1, selSeq := e.boot.selSeq + 1 } }
        let b := b.firmwareEvent n 1
        some (.ok b (bodyOf [(16, 4, b.eng.fwver), (20, 1, n)]))

def msgFwHandover (_ : Store) (b : Block) (m : Msg) : Ans :=
  let n := m.at 16 1
  if n ≠ 1 - b.runBank || b.eng.boot.otherState ≠ 1 then .fail b FW_INVALID 4
  else
    let now := b.age b.eng.leader
    let b := b.upHubs.foldl (fun b h => b.setFw h .handover) (b.onEng fun e => { e with handover := some (n, now) })
    { b := b, pend := some { obj := .firmware, aux := [n] } }

def execFwHandover (hub : Nat) (mb : Mbox) (pair : Nat) (s : State) : Result :=
  message cardFwHandover msgFwHandover hub mb pair s

/-- HANDOVER_TIMEOUT: every hub returns to the old bank, and the selector is unchanged. -/
def handoverTimeout (b : Block) : Block :=
  match b.eng.handover with
  | none => b
  | some (_, since) =>
    if b.age b.eng.leader < since + handoverBound || b.fatal then b
    else
      let b := b.onEng fun e => { e with pend := e.pend.map fun p => if p.code == 0x00A2 && !p.behind then { p with aux := [p.aux.getD 0 0, 5] } else p }
      (b.endHandover b.runBank).firmwareEvent b.runBank 2

def execHandoverTimeout (s : State) : Result := run (fun _ b => handoverTimeout b) s

/-! ## RECALIBRATE (R431) -/

def cardRecalibrate : Card := { code := 0x00A3, mg := true, req := 32, fields := [byteF 16 1, byteF 24 8] }

/-- The named pseudo-channels that are active. -/
def Block.recalChans (b : Block) (m : Msg) : List Nat :=
  let s := m.at 16 1
  ((maskBits (m.at 24 8) 64).filter fun p => (b.die s).active.testBit p).map fun p => 64 * s + p

/-- Every named channel has been recalibrated, or went with its stack. -/
def finRecalibrate : Finish := fun _ b m _ => if (b.recalChans m).any fun c => (b.chan c).recalAge == 1 then none else some (.ok b)

def msgRecalibrate (_ : Store) (b : Block) (m : Msg) : Ans :=
  let s := m.at 16 1
  let cs := b.recalChans m
  if cs.isEmpty || !b.dieUp s then .fail b SERVICE_INVALID 8
  else { b := cs.foldl (fun b c => b.onChan c fun x => { x with recalAge := 1 }) b, pend := some { obj := .stack s } }

def execRecalibrate (hub : Nat) (mb : Mbox) (pair : Nat) (s : State) : Result :=
  message cardRecalibrate msgRecalibrate hub mb pair s

/-! ## Restarted dies (R268, R296, R422, R432) -/

/-- The disable records of a die, by its identification: frames and ways out of use (R422). -/
def BootStore.disabled (s : BootStore) (id level : Nat) : Cache :=
  let mine := (s.disables.map (·.toNat)).filter fun x => id != 0 && bits x 0 64 == id && bits x 64 8 == level
  { disFrames := (mine.filter fun x => !bit x 72).map fun x => (bits x 96 32, bits x 80 8)
    disWays := (mine.filter fun x => bit x 72).foldl (fun w x => setBits w (bits x 80 8) 1 1) 0 }

/-- A soft repair made hard: KIND 1, STATE 0 (Table 9-4). -/
def hardened (r : BitVec 128) : BitVec 128 := BitVec.ofNat 128 (setBits (setBits r.toNat 8 4 1) 12 4 0)

/-- The boot store's queued repairs of a stack become hard, and its ledger is rebuilt from hard repairs and PAGE_RETIRE messages (R268, R422). -/
def Block.hardenStack (b : Block) (s : Nat) : Block :=
  let mine := fun (r : BitVec 128) => bits r.toNat 16 10 / 64 == s
  let made := (b.eng.boot.repairQueue.filter mine).map hardened
  let b := b.onDie s fun d =>
    let stand := d.ledger.filter fun r => bits r.toNat 8 4 == 1 || bits r.toNat 8 4 == 4
    { d with ledger := (stand ++ made).take Config.repairLedgerMax }
  b.onEng fun e => { e with boot := { e.boot with repairQueue := e.boot.repairQueue.filter (!mine ·) } }

/-- Channels of a stack after training, each as it is known to start. -/
def trainedChans (s trained : Nat) (start : Nat → Chan) : Tbl Chan :=
  ((List.range 64).filter trained.testBit).map fun p => (64 * s + p, start (64 * s + p))

/-- What a row die that loses power keeps of its channels: what the stack reports again or carries in itself (its spare rows, its repaired
pages, the lanes that spares stand in for), and the pages retired for good, which every later layout lists (R267). -/
def Chan.keptOff (c : Chan) : Chan :=
  { spareRows := c.spareRows, gone := c.gone, repaired := c.repaired, spareLanes := c.spareLanes, spareCa := c.spareCa, onDie := c.onDie }

/-- A row die reset with its stack: nothing of its volatile state stays. -/
def RowDie.restarted (d : RowDie) (s trained trep : Nat) (boot : BootStore) : RowDie :=
  { st := 1, active := trained, ucieUp := 0x3F, trep := if trep = 0 || 105 < trep then 95 else trep
    clusters := d.clusters, deadClusters := d.deadClusters, spares := d.spares, ledger := d.ledger, dieId := d.dieId, lostAccs := d.lostAccs
    chans := trainedChans s trained fun c => (d.chans.getD c {}).keptOff
    buffer := boot.disabled d.dieId 1 }

/-- A row die without power. -/
def RowDie.off (d : RowDie) : RowDie :=
  { clusters := d.clusters, deadClusters := d.deadClusters, spares := d.spares, ledger := d.ledger, dieId := d.dieId, lostAccs := d.lostAccs
    chans := d.chans.mapVal fun _ c => c.keptOff, failed := d.failed, trep := d.trep, selfRefresh := true }

/-- What admission finds is kept with a message that waits behind an earlier one (R367). -/
def Block.tagPend (b : Block) (h : Nat) (mb : Mbox) (k : Nat) (aux : List Nat) : Block :=
  b.onEng fun e => { e with pend := e.pend.map fun p => if p.same h (pairKey mb k) && p.behind then { p with aux := aux } else p }

/-- An ADMIT posted in a pair: copied, checked and answered as every message, and what it found kept with it when it must wait. -/
def admitAt (c : Card) (act : Store → Block → Msg → Ans) (aux : List Nat) (h : Nat) (mb : Mbox) (k : Nat) (st : Store) (b : Block) : Block :=
  let b' := messageAt c act (fun _ _ m => objOf m) h mb k st b
  if (b.pair h (pairKey mb k)).st == .posted && (b'.pair h (pairKey mb k)).st == .pending then b'.tagPend h mb k aux else b'

/-! ## STACK_SERVICE (R432, R434) -/

def cardStackService (op : Nat) : Card :=
  { code := 0x00A4, sel := some (128, 8, op), first := op == 0, top := 1, wide := true, mg := true, req := 24, fields := [byteF 16 1, byteF 17 1]
    enums := [(128, 8, 1)] }

/-- Once no share or operation is left at the row die, the stack enters self-refresh and the die and stack power down. -/
def finStackRelease : Finish := fun _ b m _ =>
  let s := m.at 17 1
  let d := b.die s
  if d.st = 2 && (!d.shares.isEmpty || !d.board.isEmpty) then none
  else some (.ok ((b.onDie s RowDie.off).publish))

def msgStackRelease (_ : Store) (b : Block) (m : Msg) : Ans :=
  let s := m.at 17 1
  if 12 ≤ s then .fail b MESSAGE_INVALID
  else if (b.die s).st = 0 || (b.eng.layout.ord ++ b.eng.layout.priv).any (fun c => c / 64 == s) then .fail b SERVICE_INVALID 1
  else { b := b.onDie s fun d => { d with st := 2 }, pend := some { obj := .stack s } }

def execStackServiceRelease (hub : Nat) (mb : Mbox) (pair : Nat) (s : State) : Result :=
  message (cardStackService 0) msgStackRelease hub mb pair s

/-- Steps 2, 4 and 5 of Table 15-2 have run: the stack is in service with the channels that train, or stays out. -/
def finStackAdmit : Finish := fun _ b m pm =>
  let s := m.at 17 1
  let trained := pm.aux.getD 0 0 % 2 ^ 64
  if (b.die s).st ≠ 3 || trained = 0 then some (.fail ((b.onDie s fun d => { d with st := 0 }).publish) SERVICE_INVALID 3)
  else
    let b := b.onDie s fun d => d.restarted s trained (pm.aux.getD 1 0) b.eng.boot
    let now := b.age (b.homeHub s)
    let b := b.onDie s fun d => { d with readAge := now, recalAge := now }
    some (.ok ((b.hardenStack s).publish))

def msgStackAdmit (trained trep : Nat) (_ : Store) (b : Block) (m : Msg) : Ans :=
  let s := m.at 17 1
  if 12 ≤ s then .fail b MESSAGE_INVALID
  else if (b.die s).st ≠ 0 || !(b.hub (s / 3)).ringStop then .fail b SERVICE_INVALID 2
  else { b := (b.onDie s fun d => { d with st := 3 }).publish, pend := some { obj := .stack s, aux := [trained, trep] } }

def execStackServiceAdmit (hub : Nat) (mb : Mbox) (pair : Nat) (trained trep : Nat) (s : State) : Result :=
  run (admitAt (cardStackService 1) (msgStackAdmit trained trep) [trained, trep] hub mb pair) s

/-! ## HUB_SERVICE (R433, R434) -/

def cardHubService (op : Nat) : Card :=
  { code := 0x00A5, sel := some (128, 8, op), first := op == 0, top := 1, wide := true, mg := true, req := 24, fields := [byteF 16 1, byteF 17 1]
    enums := [(128, 8, 1)] }

def finHubRelease : Finish := fun _ b _ _ => some (.ok b)

/-- HUB_SERVICE RELEASE: a planned loss, the ring stop kept (R33). -/
def msgHubRelease (_ : Store) (b : Block) (m : Msg) : Ans :=
  let h := m.at 17 1
  if 4 ≤ h then .fail b MESSAGE_INVALID
  else if !b.hubUp h || b.upHubs.length ≤ 1 || !(b.ringsOf h).isEmpty || h = m.hub then .fail b SERVICE_INVALID 4
  else { b := b.loseHub h false true, pend := some { obj := .hub h } }

def execHubServiceRelease (hub : Nat) (mb : Mbox) (pair : Nat) (s : State) : Result :=
  message (cardHubService 0) msgHubRelease hub mb pair s

/-- A hub's functions after a hub-function reset (R298, R417, R433): an empty slice with its disable records, the running bank, and the
budget that LEDGER_SET gave it. -/
def Hub.restarted (x : Hub) (bank : Nat) (staged : Bool) (boot : BootStore) : Hub :=
  { inService := true, ringStop := x.ringStop, clusters := x.clusters, deadClusters := x.deadClusters, spares := x.spares, tap := x.tap, dieId := x.dieId
    standby := staged
    regs := { fw := .run, bank := bank, fabUp := true, bootSource := x.regs.bootSource }
    sched := { budget := x.sched.budget, newBudget := true }
    slice := { cache := boot.disabled x.dieId 0 } }

/-- Ready tasks of the group's stacks go to the hub that its home-hub work moves to. -/
def Block.handTasks (b : Block) (h : Nat) : Block :=
  let mine := fun (t : Task) => match t.stack with | some s => s / 3 == h | none => false
  let moved := b.hubs.vals.flatMap fun x => x.sched.ready.filter mine
  let b := { b with hubs := b.hubs.mapVal fun _ x => { x with sched := { x.sched with ready := x.sched.ready.filter (!mine ·) } } }
  b.onSched h fun x =>
    { x with nextTask := x.nextTask + moved.length, ready := moved.zipIdx.map fun (t, i) => { t with id := x.nextTask + i, readyAge := 0 } }

/-- The group's row dies hold no share in progress any more: the hub's functions have started, and home-hub work moves back to it. -/
def finHubAdmit : Finish := fun _ b m pm =>
  let h := m.at 17 1
  let group := [3 * h, 3 * h + 1, 3 * h + 2]
  let reask := fun (b : Block) => b.tables.keys.foldl Block.reask b
  if pm.aux.getD 0 0 = 0 || !(b.hub h).ringStop then
    some (.fail (reask (b.onHub h fun x => { x with admitting := false })) SERVICE_INVALID 7)
  else if group.any fun s => !(b.die s).shares.isEmpty then none
  else
    let admitted := b.onHub h fun x => x.restarted b.runBank b.eng.staged b.eng.boot
    some (.ok (reask ((Block.rebase b (admitted.handTasks h)).publish)))

def msgHubAdmit (starts : Bool) (_ : Store) (b : Block) (m : Msg) : Ans :=
  let h := m.at 17 1
  if 4 ≤ h then .fail b MESSAGE_INVALID
  else if b.hubUp h || !(b.hub h).ringStop then .fail b SERVICE_INVALID 5
  else if !(b.hub h).rebudgeted then .fail b SERVICE_INVALID 6
  else { b := b.onHub h fun x => { x with admitting := true }, pend := some { obj := .hub h, aux := [b2n starts] } }

def execHubServiceAdmit (hub : Nat) (mb : Mbox) (pair : Nat) (starts : Bool) (s : State) : Result :=
  run (admitAt (cardHubService 1) (msgHubAdmit starts) [b2n starts] hub mb pair) s

end Sys2Proof.Machine
end

