-- ==== Sys2Proof/Machine/Power.lean ====
section
/-! DEFINITION. Power, the orderly stop and start-up (R417 to R428). -/
namespace Sys2Proof.Machine

/-! ## What a reset leaves -/

/-- Every volatile part of the engine at its reset value; the boot store, what has been sent and the test ports stand. -/
def Block.cleared (b : Block) : Block :=
  { eng := { power := { b.eng.power with stopped := false }, boot := b.eng.boot }
    hubs := b.hubs.mapVal fun _ x => { tap := x.tap }
    dies := (List.range 12).map fun s => (s, {})
    outbox := b.outbox, freeCount := b.freeCount, wr := b.wr }

/-- PWRGD_RISE: a cold start is armed; start-up waits for RSTN to rise. -/
def pwrgdRise (b : Block) : Block :=
  if b.eng.power.pwrgd then b else b.onEng fun e => { e with power := { e.power with pwrgd := true, rstn := false, stopped := false } }

def execPwrgdRise (s : State) : Result := run (fun _ b => pwrgdRise b) s

/-- PWRGD_FALL: the engine loses power, software memory with it; only the boot store is left. -/
def pwrgdFall (b : Block) : Block :=
  if !b.eng.power.pwrgd then b
  else ({ b.cleared with hubs := [(0, {}), (1, {}), (2, {}), (3, {})] }.onEng fun e => { e with power := {} }).push .wipe

def execPwrgdFall (s : State) : Result := run (fun _ b => pwrgdFall b) s

/-! ## ORDERLY_STOP (R418, R419) -/

/-- One class 1 row with a journal entry: its record is written and its working row committed, or it is listed (R116, R419). The manual
gives the listing no CAUSE: a free value (log 2). -/
def finishJournal (st : Store) (s : Nat) (b : Block) (j : Journal) : Block :=
  let td := tdOf (b.tables.getD j.table {}).desc
  let row := if b.hostUp && !b.masterMute j.parts then rowAt st b td j.lrow else none
  match row with
  | some r =>
    let b := b.wrMaster (b.homeHub s) td j.parts j.record
    (Block.applyCommit st b s r j.bseq (r.keptHdr st b) (r.read st b 16 td.P) [] (masterOf td j.record) [] j.record 1).1
  | none =>
    let (c, b) := b.free
    b.event (b.homeHub s) 0x02 (some td.job) (pack [(0, 20, j.table), (20, 40, j.lrow), (60, 2, c.toNat % 3), (64, 64, j.bseq)])

/-- Step 3: the journals of every row die in service. -/
def finishJournals (st : Store) (b : Block) : Block :=
  b.upDies.foldl (fun b s => (b.die s).journals.foldl (finishJournal st s) b) b

/-- A row die in self-refresh: what its reserve keeps, and the marker that step 4 writes on a stack in service. -/
def RowDie.stopped (d : RowDie) : RowDie :=
  { warmMarker := d.st == 1, selfRefresh := d.st == 1, ledger := d.ledger, dieId := d.dieId, disableRecs := d.disableRecs
    rewrites := d.rewrites.filter fun x => x.1 / 2 == 5 || x.1 / 2 == 6
    chans := d.chans.mapVal fun _ c => { c.keptOff with lost := c.lost } }

/-- ORDERLY_STOP: RSTN falls while PWRGD is high. Steps 1 to 3 are skipped while FATAL. What a warm start keeps stays; everything else is
at its reset value. -/
def orderlyStop (st : Store) (b : Block) : Block :=
  if !b.eng.power.pwrgd || !b.eng.power.rstn then b
  else if b.upHubs.isEmpty then b.cleared.onEng fun e => { e with power := { e.power with rstn := false } }
  else
    let b := if b.fatal then b else (finishJournals st b).endPassing
    let e := b.eng
    let c := b.cleared
    { c with
      eng := { c.eng with power := { e.power with rstn := false, stopped := true }, layout := e.layout, events := e.events, eseq := e.eseq, dump := e.dump }
      dies := b.dies.mapVal fun _ d => d.stopped }

def execOrderlyStop (s : State) : Result := run orderlyStop s

/-! ## START_UP (R420 to R428, Table 15-2) -/

/-- The hub that reads the boot store: hub 1 only when hub 0 does not reach step 3. -/
def sourceHub (rep : StartReport) : Option Nat := [0, 1].find? fun h => !rep.hubFail.testBit h

/-- The bank that starts, and whether it is the fallback (R424). -/
def startBank (boot : BootStore) (rep : StartReport) : Option (Nat × Bool) :=
  let a := boot.active
  if rep.bootUnreadable || (sourceHub rep).isNone then none
  else if !rep.bankBad.testBit a then some (a, false)
  else if boot.otherState = 1 && !rep.bankBad.testBit (1 - a) then some (1 - a, true)
  else none

/-- FAIL of HUB_BOOT (Table 15-12). -/
def bootFailOf (boot : BootStore) (rep : StartReport) (h : Nat) : Nat :=
  if rep.hubFail.testBit h then 1
  else if rep.bootUnreadable || (sourceHub rep).isNone then 2
  else if (startBank boot rep).isNone then 3
  else if rep.imageFail.testBit h then 4
  else 0

/-- A hub after steps 1 to 3: in service, or in BOOT with the reason. -/
def startHub (boot : BootStore) (rep : StartReport) (h : Nat) (x : Hub) : Hub :=
  let fail := bootFailOf boot rep h
  let source := (sourceHub rep).getD 0
  let id := rep.dieIds.getD (12 + h) 0
  let tap : Tap := { x.tap with driven := false }
  match startBank boot rep with
  | some (n, fb) =>
    if fail = 0 then
      { inService := true, ringStop := true, tap := tap, dieId := id, standby := boot.otherState == 1 && !fb
        regs := { bank := n, bootSource := source, fallback := fb, fabUp := rep.fabUp.testBit h, tlmUp := rep.tlmUp.testBit h }
        slice := { cache := boot.disabled id 0 } }
    else { ringStop := true, tap := tap, dieId := id, regs := { bootFail := fail, bootSource := source } }
  | none => { ringStop := true, tap := tap, dieId := id, regs := { bootFail := fail, bootSource := source } }

/-- Spare rows that a stack reports, by bank (R267). -/
def startSpares (rep : StartReport) (ch : Nat) : Tbl Nat :=
  (rep.spares.filter (·.1 == ch)).foldl (fun t (_, bank, n) => Tbl.put t bank n) []

/-- Lanes of a channel, and command and address lanes of its HBM4 channel, that training finds below the margin (R260, R425). -/
def laneData (rep : StartReport) (ch : Nat) : List Nat := distinct ((rep.lanes.filter fun x => x.1 == ch && decide (x.2 < 64)).map (·.2))
def laneCa (rep : StartReport) (ch : Nat) : List Nat :=
  distinct ((rep.lanes.filter fun x => (x.1 == ch || x.1 == chanPair ch) && decide (64 ≤ x.2)).map (·.2))

/-- Pages of a channel that fail the memory test of a cold start (R426). -/
def startBad (rep : StartReport) (ch : Nat) : List (Nat × Nat) := (rep.candidates.filter (·.1 == ch)).map (·.2)

/-- A channel as it enters its training: at a warm start with what the stop kept, at a cold one with all its spares. -/
def startKept (warm : Bool) (old : Tbl Chan) (ch : Nat) : Chan := if warm then (old.getD ch {}).keptOff else {}

/-- A channel starts: its spares stand in for every lane below the margin, and no more than one of its banks fails the memory test (R260, R426). -/
def startFits (rep : StartReport) (warm : Bool) (ch : Nat) (c : Chan) : Bool :=
  decide ((laneData rep ch).length ≤ c.spareLanes) && decide ((laneCa rep ch).length ≤ c.spareCa)
  && (warm || decide ((distinct ((startBad rep ch).map (·.1))).length ≤ 1))

/-- A channel after steps 2, 4 and 5: the spares left, the spare rows and error counts that the stack reports, and at a cold start the pages
that failed its test (R260, R267, R426). -/
def startChan (rep : StartReport) (warm : Bool) (ch : Nat) (c : Chan) : Chan :=
  let spares := startSpares rep ch
  { c with
    spareLanes := c.spareLanes - (laneData rep ch).length
    spareCa := c.spareCa - (laneCa rep ch).length
    spareRows := if spares.isEmpty then c.spareRows else spares
    onDie := (rep.onDie.filter (·.1 == ch)).foldl (fun t (_, bank, page, n) => t.put (bank * 2 ^ 24 + page) n) c.onDie
    candidates := if warm then [] else (startBad rep ch).map fun (bank, page) => bank * 2 ^ 24 + page }

/-- Pseudo-channels of a stack that start, of those that train. -/
def startActive (rep : StartReport) (warm : Bool) (s : Nat) (old : Tbl Chan) : Nat :=
  (((List.range 64).filter fun p => (rep.trained.getD s 0).testBit p && startFits rep warm (64 * s + p) (startKept warm old (64 * s + p))).map (2 ^ ·)).sum

/-- A row die after steps 2, 4 and 5: in service with the channels that start, or out of service (R421). -/
def startDie (boot : BootStore) (rep : StartReport) (warm : Bool) (s : Nat) (d : RowDie) : RowDie :=
  let active := startActive rep warm s d.chans
  let id := rep.dieIds.getD s 0
  let trep := rep.trep.getD s 0
  let ledger := if warm then d.ledger else ((rep.fuses.filter (·.1 == s)).map (·.2)).take Config.repairLedgerMax
  if rep.stackFail.testBit s || active = 0 then { ledger := ledger, dieId := id }
  else
    { st := 1, active := active, ucieUp := rep.ucie.getD s 0 % 64, trep := if trep = 0 || 105 < trep then 95 else trep
      chans := trainedChans s active fun ch => startChan rep warm ch (startKept warm d.chans ch)
      buffer := boot.disabled id 1, ledger := ledger, dieId := id
      disableRecs := if warm then d.disableRecs else [], rewrites := if warm then d.rewrites else [] }

/-- The lanes that spares stand in for, each with its record and event (R260, R425). -/
def Block.laneRecords (b : Block) (rep : StartReport) : Block :=
  (dedup rep.lanes).foldl (fun b (ch, lane) =>
    if b.dieUp (ch / 64) && (b.die (ch / 64)).active.testBit (ch % 64) then b.ledgerAdd b.eng.leader ch 0 lane 2 0 0 else b) b

/-- The queued repairs of the stacks that started become hard; a kept ledger shows them so. -/
def Block.hardenAll (b : Block) (warm : Bool) : Block :=
  if !warm then b.upDies.foldl Block.hardenStack b
  else
    let q := b.eng.boot.repairQueue
    let mine := fun (r : BitVec 128) => b.dieUp (bits r.toNat 16 10 / 64)
    let b := { b with dies := b.dies.mapVal fun _ d => { d with ledger := d.ledger.map fun r => if q.contains r && mine r then hardened r else r } }
    b.onEng fun e => { e with boot := { e.boot with repairQueue := q.filter (!mine ·) } }

/-- Channels that training leaves usable. -/
def Block.startTrained (b : Block) : List Nat := (List.range 768).filter fun c => b.dieUp (c / 64) && (b.die (c / 64)).active.testBit (c % 64)

/-- Step 6: the default layout, or the kept one without the channels that did not start, whose granules are lost (R421). -/
def Block.startLayout (b : Block) (warm : Bool) : Block :=
  if !warm then b.onEng fun e => { e with layout := formLayout b.startTrained [] [(0, 1)] [(0, 1)] }
  else
    let old := b.eng.layout
    let up := b.startTrained
    let out := (old.ord ++ old.priv).filter fun c => !up.contains c
    if out.isEmpty then b
    else
      let new := old.less out
      let lost := ((List.range old.stripes).flatMap old.stripeGranules).filterMap fun g =>
        match old.locate g with | some (ch, _) => if out.contains ch then some (g, ch / 64) else none | none => none
      let b := b.onEng fun e => { e with layout := new }
      lost.foldl (fun b (g, s) => (b.push (.poison ((List.range 4).map (g / 64 + ·)))).lostWrite b.eng.leader g s 0) b

/-- START_UP: RSTN rises. The start is warm when the orderly stop before it completed and left a marker (R419). Every start clears the
markers. Without a hub that starts, the engine stays in BOOT. -/
def startUp (rep : StartReport) (b : Block) : Block :=
  if !b.eng.power.pwrgd || b.eng.power.rstn then b
  else
    let warm := b.eng.power.stopped && b.dies.vals.any (·.warmMarker)
    let boot := b.eng.boot
    let b := b.onEng fun e => { e with power := { e.power with rstn := true, stopped := false } }
    let b := { b with hubs := b.hubs.mapVal fun h x => startHub boot rep h x }
    if b.upHubs.isEmpty then
      let b := { b with dies := b.dies.mapVal fun _ d => { d with warmMarker := false } }
      if warm then b else b.push .wipe
    else
      let b := if warm then b else (b.onEng fun e => { e with layout := {}, events := [], eseq := 0, dump := {} }).push .wipe
      let b := { b with dies := b.dies.mapVal fun s d => startDie boot rep warm s d }
      let (n, fb) := (startBank boot rep).getD (0, false)
      let b := b.onEng fun e =>
        { e with leader := b.upHubs.headD 0, fwver := (boot.bank n).ver
                 boot := if fb then { boot with active := n, otherState := 0, selSeq := boot.selSeq + 1 } else boot
                 staged := boot.otherState == 1 && !fb
                 dump := { e.dump with ready := e.dump.state == 2 || e.dump.state == 3 } }
      let b := (b.hardenAll warm).startLayout warm
      let b := (if fb then b.firmwareEvent n 0 else b).laneRecords rep
      b.upHubs.foldl (fun b h => b.setFw h .run) b.publish

def execStartUp (rep : StartReport) (s : State) : Result := run (fun _ b => startUp rep b) s

end Sys2Proof.Machine
end

