-- ==== Sys2Proof/Machine/Reply.lean ====
section
/-! DEFINITION. DONE_REPLY: a message that replied PENDING ends its work, or, having waited behind an earlier message on its object, is
taken up in turn (R361, R366, R367). -/
namespace Sys2Proof.Machine

/-- What firmware does with one kind of message: its card, its effect, the object it names, and how its work ends. -/
structure MsgRow where
  card : Card
  act : Store → Block → Msg → Ans
  obj : Store → Block → Msg → Obj := fun _ _ m => objOf m
  fin : Option Finish := none

/-- Kinds of message on jobs, tables, programs and rings. -/
def rowsJobs : List MsgRow :=
  [ { card := cardJobOpen, act := msgJobOpen }, { card := cardJobClose, act := msgJobClose, fin := some finJobClose }
  , { card := cardTableDefine, act := msgTableDefine }, { card := cardTableRetire, act := msgTableRetire, fin := some finTableRetire }
  , { card := cardTableStats, act := msgTableStats }, { card := cardUpdateStatus, act := msgUpdateStatus }
  , { card := cardProgramLoad, act := msgProgramLoad, obj := objProgramLoad }
  , { card := cardProgramUnload, act := msgProgramUnload, fin := some finProgramUnload }
  , { card := cardRingCreate, act := msgRingCreate }, { card := cardRingDestroy, act := msgRingDestroy, fin := some finRingDestroy }
  , { card := cardRingHalt, act := msgRingHalt }, { card := cardRingResume false, act := ringResume false }
  , { card := cardRingResume true, act := ringResume true } ]

/-- Kinds of message on memory, caches and translation. -/
def rowsMemory : List MsgRow :=
  [ { card := cardLayoutSet 0, act := msgLayoutPlan }, { card := cardLayoutSet 1, act := msgCommit zerosLayoutSet, fin := some finCommit }
  , { card := cardMapout 0, act := msgMapoutPlan }, { card := cardMapout 1, act := msgCommit zerosMapout, fin := some finCommit }
  , { card := cardPageRetire, act := msgPageRetire, fin := some finPageRetire }, { card := cardRepairRead, act := msgRepairRead }
  , { card := cardCachePartition, act := msgCachePartition, fin := some finCachePartition }
  , { card := cardCacheFlush, act := msgCacheFlush, fin := some finCacheFlush }, { card := cardCacheStatus, act := msgCacheStatus }
  , { card := cardMogulRead, act := msgMogulRead }, { card := cardInvalidate, act := msgInvalidate, fin := some finInvalidate }
  , { card := cardFaultResume false, act := faultResume false }, { card := cardFaultResume true, act := faultResume true }
  , { card := cardPrefetch, act := msgMigrate false, fin := some finMigrate }, { card := cardAdvise 0, act := msgWarm }
  , { card := cardAdvise 1, act := msgMigrate true, fin := some finMigrate }, { card := cardWindowSet, act := msgWindowSet }
  , { card := cardWindowClear, act := msgWindowClear, fin := some finWindowClear }, { card := cardRegionRegister, act := msgRegionRegister }
  , { card := cardRegionRelease, act := msgRegionRelease, fin := some finRegionRelease } ]

/-- Kinds of message on the twin, the firmware, stacks and hubs; an admission uses what it found when it was posted. -/
def rowsService (pm : PendMsg) : List MsgRow :=
  [ { card := cardTwinPair, act := msgTwinPair, fin := some finTwinPair }
  , { card := cardTwinUnpair 0, act := msgTwinUnpair }
  , { card := { cardTwinUnpair 1 with first := false }, act := msgTwinUnpairPlanned, fin := some finTwinUnpair }
  , { card := cardTwinStatus, act := msgTwinStatus }
  , { card := cardFwStage, act := msgFwStage, fin := some finFwStage }, { card := cardFwHandover, act := msgFwHandover, fin := some finFwHandover }
  , { card := cardRecalibrate, act := msgRecalibrate, fin := some finRecalibrate }
  , { card := cardStackService 0, act := msgStackRelease, fin := some finStackRelease }
  , { card := cardStackService 1, act := msgStackAdmit (pm.aux.getD 0 0) (pm.aux.getD 1 0), fin := some finStackAdmit }
  , { card := cardHubService 0, act := msgHubRelease, fin := some finHubRelease }
  , { card := cardHubService 1, act := msgHubAdmit (pm.aux.getD 0 0 == 1), fin := some finHubAdmit } ]

/-- The row of a pending message. -/
def PendMsg.row (pm : PendMsg) : Option MsgRow :=
  (rowsJobs ++ rowsMemory ++ rowsService pm).find? fun r => r.card.takes (BitVec.ofNat 2048 pm.copy)

/-- Firmware may work on a message: it runs at the hub, or the hub that posted it is lost; an engine-wide one needs a leader that accepts
(R31), and during a handover only the handover itself ends (R430). -/
def Block.mayReply (b : Block) (pm : PendMsg) (wide : Bool) : Bool :=
  !b.fatal && (pm.hub == 4 || b.hubUp pm.hub) && !(wide && b.eng.passing) && (b.eng.handover.isNone || pm.code == 0x00A2)

/-- Split a list at the first element that a test picks: what stands before it, it, and the rest. -/
def splitAtFirst {α : Type} (p : α → Bool) : List α → Option (List α × α × List α)
  | [] => none
  | x :: xs => if p x then some ([], x, xs) else (splitAtFirst p xs).map fun (a, y, z) => (x :: a, y, z)

/-- A message that stays pending keeps its place in the order of acceptance; one that still waits keeps what it found. -/
def Block.rePend (b : Block) (i : Nat) (old : PendMsg) : Block :=
  let ps := b.eng.pend
  match ps.getLast? with
  | some p =>
    if p.same old.hub old.key then
      let p := if p.behind then { p with aux := old.aux } else p
      b.onEng fun e => { e with pend := ps.dropLast.take i ++ [p] ++ ps.dropLast.drop i }
    else b
  | none => b

/-- DONE_REPLY: nothing is kept of a result whose posting hub is lost. -/
def doneReply (h : Nat) (mb : Mbox) (k : Nat) (st : Store) (b : Block) : Block :=
  match splitAtFirst (fun p : PendMsg => p.same h (pairKey mb k)) b.eng.pend with
  | none => b
  | some (before, pm, after) =>
    match pm.row with
    | none => b
    | some r =>
      let m : Msg := { hub := pm.hub, key := pm.key, pm := false, x := pm.copy }
      if !b.mayReply pm r.card.wide then b
      else
        let rest := b.onEng fun e => { e with pend := before ++ after }
        if pm.behind then (applyMsg r.card r.act r.obj before true st rest m).rePend before.length pm
        else
          match r.fin with
          | none => b
          | some fin =>
            match fin st rest m pm with
            | none => b
            | some a => (a.write r.card m true).onEng fun e => { e with leaderRecs := e.leaderRecs.filter fun x => decide (x.hub < 4) }

def execDoneReply (hub : Nat) (mb : Mbox) (pair : Nat) (s : State) : Result := run (doneReply hub mb pair) s

end Sys2Proof.Machine
end

