-- ==== Sys2Proof/Machine/Dispatch.lean ====
section
/-! DEFINITION. The meaning of each command: one arm for each constructor of Instr, each a direct call. -/
namespace Sys2Proof.Machine

def exec (i : Instr) (s : State) : Host.Outcome State Fault Refusal :=
  match i with
  | .pwrgdRise => Sys2Proof.Machine.execPwrgdRise s
  | .orderlyStop => Sys2Proof.Machine.execOrderlyStop s
  | .startUp rep => Sys2Proof.Machine.execStartUp rep s
  | .testReset hub => Sys2Proof.Machine.execTestReset hub s
  | .bypass hub => Sys2Proof.Machine.execBypass hub s
  | .idcode hub => Sys2Proof.Machine.execIdcode hub s
  | .samplePreload hub load => Sys2Proof.Machine.execSamplePreload hub load s
  | .extest hub => Sys2Proof.Machine.execExtest hub s
  | .clamp hub => Sys2Proof.Machine.execClamp hub s
  | .highz hub => Sys2Proof.Machine.execHighz hub s
  | .i3cPrivateWrite hub data => Sys2Proof.Machine.execI3cPrivateWrite hub data s
  | .i3cPrivateRead hub => Sys2Proof.Machine.execI3cPrivateRead hub s
  | .enec hub events => Sys2Proof.Machine.execEnec hub events s
  | .disec hub events => Sys2Proof.Machine.execDisec hub events s
  | .rstdaa hub => Sys2Proof.Machine.execRstdaa hub s
  | .entdaa hub addr => Sys2Proof.Machine.execEntdaa hub addr s
  | .setdasa hub addr => Sys2Proof.Machine.execSetdasa hub addr s
  | .setnewda hub addr => Sys2Proof.Machine.execSetnewda hub addr s
  | .getpid hub => Sys2Proof.Machine.execGetpid hub s
  | .getbcr hub => Sys2Proof.Machine.execGetbcr hub s
  | .getdcr hub => Sys2Proof.Machine.execGetdcr hub s
  | .getstatus hub => Sys2Proof.Machine.execGetstatus hub s
  | .getmwl hub => Sys2Proof.Machine.execGetmwl hub s
  | .setmwl hub len => Sys2Proof.Machine.execSetmwl hub len s
  | .getmrl hub => Sys2Proof.Machine.execGetmrl hub s
  | .setmrl hub len => Sys2Proof.Machine.execSetmrl hub len s
  | .rstact hub defining => Sys2Proof.Machine.execRstact hub defining s
  | .requestSlotWrite hub agent offset data => Sys2Proof.Machine.execRequestSlotWrite hub agent offset data s
  | .intStatusWrite hub value => Sys2Proof.Machine.execIntStatusWrite hub value s
  | .intEnableWrite hub value => Sys2Proof.Machine.execIntEnableWrite hub value s
  | .registerWrite hub offset value => Sys2Proof.Machine.execRegisterWrite hub offset value s
  | .doneReply hub mb pair => Sys2Proof.Machine.execDoneReply hub mb pair s
  | .hello hub mb pair => Sys2Proof.Machine.execHello hub mb pair s
  | .almanacRead hub mb pair => Sys2Proof.Machine.execAlmanacRead hub mb pair s
  | .eventRead hub mb pair => Sys2Proof.Machine.execEventRead hub mb pair s
  | .monitorRead hub mb pair => Sys2Proof.Machine.execMonitorRead hub mb pair s
  | .jobOpen hub mb pair => Sys2Proof.Machine.execJobOpen hub mb pair s
  | .jobClose hub mb pair => Sys2Proof.Machine.execJobClose hub mb pair s
  | .tableDefine hub mb pair => Sys2Proof.Machine.execTableDefine hub mb pair s
  | .tableRetire hub mb pair => Sys2Proof.Machine.execTableRetire hub mb pair s
  | .tableStats hub mb pair => Sys2Proof.Machine.execTableStats hub mb pair s
  | .updateStatus hub mb pair => Sys2Proof.Machine.execUpdateStatus hub mb pair s
  | .programLoad hub mb pair => Sys2Proof.Machine.execProgramLoad hub mb pair s
  | .programUnload hub mb pair => Sys2Proof.Machine.execProgramUnload hub mb pair s
  | .ringCreate hub mb pair => Sys2Proof.Machine.execRingCreate hub mb pair s
  | .ringDestroy hub mb pair => Sys2Proof.Machine.execRingDestroy hub mb pair s
  | .ringHalt hub mb pair => Sys2Proof.Machine.execRingHalt hub mb pair s
  | .ringResumeContinue hub mb pair => Sys2Proof.Machine.execRingResumeContinue hub mb pair s
  | .ringResumeRetry hub mb pair => Sys2Proof.Machine.execRingResumeRetry hub mb pair s
  | .hostlostRead hub mb pair => Sys2Proof.Machine.execHostlostRead hub mb pair s
  | .ledgerSet hub mb pair => Sys2Proof.Machine.execLedgerSet hub mb pair s
  | .schedSet hub mb pair => Sys2Proof.Machine.execSchedSet hub mb pair s
  | .layoutSetPlan hub mb pair => Sys2Proof.Machine.execLayoutSetPlan hub mb pair s
  | .layoutSetCommit hub mb pair => Sys2Proof.Machine.execLayoutSetCommit hub mb pair s
  | .channelMapoutPlan hub mb pair => Sys2Proof.Machine.execChannelMapoutPlan hub mb pair s
  | .channelMapoutCommit hub mb pair => Sys2Proof.Machine.execChannelMapoutCommit hub mb pair s
  | .pageRetire hub mb pair => Sys2Proof.Machine.execPageRetire hub mb pair s
  | .repairRead hub mb pair => Sys2Proof.Machine.execRepairRead hub mb pair s
  | .channelTestScan hub mb pair => Sys2Proof.Machine.execChannelTestScan hub mb pair s
  | .channelTestMarch hub mb pair => Sys2Proof.Machine.execChannelTestMarch hub mb pair s
  | .channelTestPattern hub mb pair => Sys2Proof.Machine.execChannelTestPattern hub mb pair s
  | .channelTestStop hub mb pair => Sys2Proof.Machine.execChannelTestStop hub mb pair s
  | .cachePartition hub mb pair => Sys2Proof.Machine.execCachePartition hub mb pair s
  | .cacheFlush hub mb pair => Sys2Proof.Machine.execCacheFlush hub mb pair s
  | .cacheStatus hub mb pair => Sys2Proof.Machine.execCacheStatus hub mb pair s
  | .mogulRead hub mb pair => Sys2Proof.Machine.execMogulRead hub mb pair s
  | .invalidate hub mb pair => Sys2Proof.Machine.execInvalidate hub mb pair s
  | .harvestArm hub mb pair => Sys2Proof.Machine.execHarvestArm hub mb pair s
  | .faultResume hub mb pair => Sys2Proof.Machine.execFaultResume hub mb pair s
  | .faultResumeAbort hub mb pair => Sys2Proof.Machine.execFaultResumeAbort hub mb pair s
  | .prefetch hub mb pair => Sys2Proof.Machine.execPrefetch hub mb pair s
  | .adviseWarm hub mb pair => Sys2Proof.Machine.execAdviseWarm hub mb pair s
  | .adviseDemote hub mb pair => Sys2Proof.Machine.execAdviseDemote hub mb pair s
  | .migratePage job vpage => Sys2Proof.Machine.execMigratePage job vpage s
  | .windowSet hub mb pair => Sys2Proof.Machine.execWindowSet hub mb pair s
  | .windowClear hub mb pair => Sys2Proof.Machine.execWindowClear hub mb pair s
  | .regionRegister hub mb pair => Sys2Proof.Machine.execRegionRegister hub mb pair s
  | .regionRelease hub mb pair => Sys2Proof.Machine.execRegionRelease hub mb pair s
  | .twinPair hub mb pair => Sys2Proof.Machine.execTwinPair hub mb pair s
  | .twinUnpair hub mb pair => Sys2Proof.Machine.execTwinUnpair hub mb pair s
  | .twinUnpairPlanned hub mb pair => Sys2Proof.Machine.execTwinUnpairPlanned hub mb pair s
  | .twinStatus hub mb pair => Sys2Proof.Machine.execTwinStatus hub mb pair s
  | .dumpArm hub mb pair => Sys2Proof.Machine.execDumpArm hub mb pair s
  | .fwStage hub mb pair => Sys2Proof.Machine.execFwStage hub mb pair s
  | .fwHandover hub mb pair => Sys2Proof.Machine.execFwHandover hub mb pair s
  | .recalibrate hub mb pair => Sys2Proof.Machine.execRecalibrate hub mb pair s
  | .stackServiceRelease hub mb pair => Sys2Proof.Machine.execStackServiceRelease hub mb pair s
  | .stackServiceAdmit hub mb pair trained trep => Sys2Proof.Machine.execStackServiceAdmit hub mb pair trained trep s
  | .hubServiceRelease hub mb pair => Sys2Proof.Machine.execHubServiceRelease hub mb pair s
  | .hubServiceAdmit hub mb pair starts => Sys2Proof.Machine.execHubServiceAdmit hub mb pair starts s
  | .signalWord hub word => Sys2Proof.Machine.execSignalWord hub word s
  | .arrivalSignalApply hub sem => Sys2Proof.Machine.execArrivalSignalApply hub sem s
  | .hostWindowWrite port addr data posted => Sys2Proof.Machine.execHostWindowWrite port addr data posted s
  | .hostWindowRead port addr len err => Sys2Proof.Machine.execHostWindowRead port addr len err s
  | .windowAccess acc => Sys2Proof.Machine.execWindowAccess acc s
  | .windowResponse ring p ans => Sys2Proof.Machine.execWindowResponse ring p ans s
  | .slotLookahead ring k => Sys2Proof.Machine.execSlotLookahead ring k s
  | .slotStale ring => Sys2Proof.Machine.execSlotStale ring s
  | .lookupPool ring => Sys2Proof.Machine.execLookupPool ring s
  | .lookupGather ring => Sys2Proof.Machine.execLookupGather ring s
  | .prefetchRows ring => Sys2Proof.Machine.execPrefetchRows ring s
  | .scatterAccum ring => Sys2Proof.Machine.execScatterAccum ring s
  | .applyUpdate ring => Sys2Proof.Machine.execApplyUpdate ring s
  | .requant ring => Sys2Proof.Machine.execRequant ring s
  | .zeroRows ring => Sys2Proof.Machine.execZeroRows ring s
  | .copyPermuteSend ring => Sys2Proof.Machine.execCopyPermuteSend ring s
  | .copyPermuteCommit ring => Sys2Proof.Machine.execCopyPermuteCommit ring s
  | .copyPermuteAbandon ring => Sys2Proof.Machine.execCopyPermuteAbandon ring s
  | .digestExchange ring => Sys2Proof.Machine.execDigestExchange ring s
  | .solstice ring => Sys2Proof.Machine.execSolstice ring s
  | .signal ring => Sys2Proof.Machine.execSignal ring s
  | .signalFire ring p => Sys2Proof.Machine.execSignalFire ring p s
  | .tileStart ring slot => Sys2Proof.Machine.execTileStart ring slot s
  | .translationWalk hub walk err => Sys2Proof.Machine.execTranslationWalk hub walk err s
  | .harvestDeliver => Sys2Proof.Machine.execHarvestDeliver s
  | .rowFetch ring p lrow err => Sys2Proof.Machine.execRowFetch ring p lrow err s
  | .partialCombine ring p bag stack => Sys2Proof.Machine.execPartialCombine ring p bag stack s
  | .slotComplete ring p => Sys2Proof.Machine.execSlotComplete ring p s
  | .gateRequest ring p stack => Sys2Proof.Machine.execGateRequest ring p stack s
  | .gateDecision ring p => Sys2Proof.Machine.execGateDecision ring p s
  | .runAdd stack table err => Sys2Proof.Machine.execRunAdd stack table err s
  | .overflowReplay stack err => Sys2Proof.Machine.execOverflowReplay stack err s
  | .rowApply stack table err => Sys2Proof.Machine.execRowApply stack table err s
  | .rowProgramRestart hub task => Sys2Proof.Machine.execRowProgramRestart hub task s
  | .masterWriteAck stack table => Sys2Proof.Machine.execMasterWriteAck stack table s
  | .shareRetire stack table => Sys2Proof.Machine.execShareRetire stack table s
  | .scoreboardRetire stack entry => Sys2Proof.Machine.execScoreboardRetire stack entry s
  | .rederive job table lrow => Sys2Proof.Machine.execRederive job table lrow s
  | .solsticeArrival ring => Sys2Proof.Machine.execSolsticeArrival ring s
  | .remoteArrival win job solid epoch => Sys2Proof.Machine.execRemoteArrival win job solid epoch s
  | .arrivalResend index => Sys2Proof.Machine.execArrivalResend index s
  | .slotTimeout ring p => Sys2Proof.Machine.execSlotTimeout ring p s
  | .slotDeadline ring p => Sys2Proof.Machine.execSlotDeadline ring p s
  | .taskDispatch hub cluster chain ctx => Sys2Proof.Machine.execTaskDispatch hub cluster chain ctx s
  | .taskEnd hub task steps => Sys2Proof.Machine.execTaskEnd hub task steps s
  | .instalmentCharge hub task => Sys2Proof.Machine.execInstalmentCharge hub task s
  | .ledgerCredit hub => Sys2Proof.Machine.execLedgerCredit hub s
  | .backgroundPromotion hub task => Sys2Proof.Machine.execBackgroundPromotion hub task s
  | .operatingPointChoice hub cluster => Sys2Proof.Machine.execOperatingPointChoice hub cluster s
  | .operatingPointChangeDone hub cluster => Sys2Proof.Machine.execOperatingPointChangeDone hub cluster s
  | .stackTempRead stack reading reported => Sys2Proof.Machine.execStackTempRead stack reading reported s
  | .tempReadingGap stack => Sys2Proof.Machine.execTempReadingGap stack s
  | .level4Timeout stack => Sys2Proof.Machine.execLevel4Timeout stack s
  | .throttleIdle channel => Sys2Proof.Machine.execThrottleIdle channel s
  | .snowplowFrame channel => Sys2Proof.Machine.execSnowplowFrame channel s
  | .burstGroup channel => Sys2Proof.Machine.execBurstGroup channel s
  | .bankRefresh channel bank => Sys2Proof.Machine.execBankRefresh channel bank s
  | .wcbDrain stack => Sys2Proof.Machine.execWcbDrain stack s
  | .patrolScrub channel loc err => Sys2Proof.Machine.execPatrolScrub channel loc err s
  | .pageRepair channel bank page applied => Sys2Proof.Machine.execPageRepair channel bank page applied s
  | .marchStep channel pass => Sys2Proof.Machine.execMarchStep channel pass s
  | .channelLoss channel pairToo => Sys2Proof.Machine.execChannelLoss channel pairToo s
  | .rowDieFailure stack => Sys2Proof.Machine.execRowDieFailure stack s
  | .relayoutStripe => Sys2Proof.Machine.execRelayoutStripe s
  | .laneRecalibration stack bad => Sys2Proof.Machine.execLaneRecalibration stack bad s
  | .cacheFill hub fill => Sys2Proof.Machine.execCacheFill hub fill s
  | .evictionOffer hub offer => Sys2Proof.Machine.execEvictionOffer hub offer s
  | .mogulHalve hub => Sys2Proof.Machine.execMogulHalve hub s
  | .hostLinkRetrain => Sys2Proof.Machine.execHostLinkRetrain s
  | .hostLinkLoss cause => Sys2Proof.Machine.execHostLinkLoss cause s
  | .hostRetrainTimeout => Sys2Proof.Machine.execHostRetrainTimeout s
  | .hubHeartbeat hub alive => Sys2Proof.Machine.execHubHeartbeat hub alive s
  | .hubLoss hub => Sys2Proof.Machine.execHubLoss hub s
  | .leaderTakeover => Sys2Proof.Machine.execLeaderTakeover s
  | .hubDieLoss hub => Sys2Proof.Machine.execHubDieLoss hub s
  | .stewardCoreFailure hub => Sys2Proof.Machine.execStewardCoreFailure hub s
  | .clusterFailure cluster => Sys2Proof.Machine.execClusterFailure cluster s
  | .ucieReplay rowDie modul ns out => Sys2Proof.Machine.execUcieReplay rowDie modul ns out s
  | .fabricReplay hub ns out => Sys2Proof.Machine.execFabricReplay hub ns out s
  | .telemarkReplay hub ns out => Sys2Proof.Machine.execTelemarkReplay hub ns out s
  | .telemarkLinkDown hub => Sys2Proof.Machine.execTelemarkLinkDown hub s
  | .pairFrameSend => Sys2Proof.Machine.execPairFrameSend s
  | .pairFrame hdr payload => Sys2Proof.Machine.execPairFrame hdr payload s
  | .pairingTimeout => Sys2Proof.Machine.execPairingTimeout s
  | .aliveSend hub => Sys2Proof.Machine.execAliveSend hub s
  | .aliveFrame hdr => Sys2Proof.Machine.execAliveFrame hdr s
  | .digestSend hub => Sys2Proof.Machine.execDigestSend hub s
  | .digestFrame hdr entries => Sys2Proof.Machine.execDigestFrame hdr entries s
  | .fenceFrame hdr table phase bseq => Sys2Proof.Machine.execFenceFrame hdr table phase bseq s
  | .rowFrame hdr row => Sys2Proof.Machine.execRowFrame hdr row s
  | .sweepFrame hdr table first rows => Sys2Proof.Machine.execSweepFrame hdr table first rows s
  | .resyncFrame hdr table applied digests => Sys2Proof.Machine.execResyncFrame hdr table applied digests s
  | .unpairFrame hdr cause => Sys2Proof.Machine.execUnpairFrame hdr cause s
  | .frameDiscard hdr kind reserved => Sys2Proof.Machine.execFrameDiscard hdr kind reserved s
  | .twinLoss => Sys2Proof.Machine.execTwinLoss s
  | .repairFenceStart table => Sys2Proof.Machine.execRepairFenceStart table s
  | .fenceTimeout table => Sys2Proof.Machine.execFenceTimeout table s
  | .digestSweep table => Sys2Proof.Machine.execDigestSweep table s
  | .resyncPass table => Sys2Proof.Machine.execResyncPass table s
  | .fatal hub cause => Sys2Proof.Machine.execFatal hub cause s
  | .handoverTimeout => Sys2Proof.Machine.execHandoverTimeout s
  | .monitorSample monitor inst value => Sys2Proof.Machine.execMonitorSample monitor inst value s
  | .pwrgdFall => Sys2Proof.Machine.execPwrgdFall s
  | .hostLinkReconnect => Sys2Proof.Machine.execHostLinkReconnect s
  | .telemarkLinkUp hub => Sys2Proof.Machine.execTelemarkLinkUp hub s
  | .throttleIdleEnd channel => Sys2Proof.Machine.execThrottleIdleEnd channel s
  | .arrivalAck index => Sys2Proof.Machine.execArrivalAck index s

end Sys2Proof.Machine
end

