-- ==== Sys2Proof/Safety.lean ====
section
/-! DEFINITION. What a safe step of the block is, in the terms the statements use. -/
namespace Sys2Proof

/-- The invariant of the block's addressed memory: both memories are in canonical form, and the list of poisoned atoms rises. -/
def MemInv (s : Machine.State) : Prop := s.store.wf = true

/-- A step is safe when it ends neither in a fault nor in a refusal. -/
def SafeStep (s : Machine.State) : Prop := ∃ t, Machine.step s = .next t

end Sys2Proof
end

