-- ==== Sys2Proof/Certificates/Slice0/Obligations.lean ====
section
/-! DEFINITION. The statements about the model. `Runs i s P` says that the command `i` answers a next state from `s` with the queue left
alone, and that `P` holds of that state. -/
namespace Sys2Proof.Spec
open Sys2Proof.Machine

/-- The command answers a next state, leaves the queue of waiting commands alone, and P holds of that state. -/
def Runs (i : Instr) (s : State) (P : State → Prop) : Prop := ∃ t, exec i s = .next t ∧ t.pending = s.pending ∧ P t

/-- Nothing but hub h changed: no byte of memory, no other hub, no row die, ring, table, job slot, program, slot or engine register. -/
def OnlyHub (s t : State) (h : Nat) : Prop :=
  t.store = s.store ∧ t.blk = { s.start with hubs := t.blk.hubs } ∧ ∀ g, g ≠ h → t.blk.hub g = s.blk.hub g

/-- Only the test port of hub h changed, and the counter of free values drawn. -/
def OnlyTap (s t : State) (h : Nat) (x : Hub) : Prop :=
  t.store = s.store ∧ t.blk = { s.start with hubs := t.blk.hubs, freeCount := t.blk.freeCount } ∧ (∀ g, g ≠ h → t.blk.hub g = s.blk.hub g)
    ∧ t.blk.hub h = { x with tap := (t.blk.hub h).tap }

/-- Only the I3C target of hub h changed, and it acknowledged the transfer. -/
def I3cAcks (s t : State) (h : Nat) (x : Hub) : Prop :=
  OnlyHub s t h ∧ t.blk.hub h = { x with i3c := (t.blk.hub h).i3c } ∧ (t.blk.hub h).i3c.ack = true

/-- Everything outside the hubs stands as it was, memory included. -/
def OnlyHubs (s t : State) : Prop := t.store = s.store ∧ t.blk = { s.start with hubs := t.blk.hubs }

/-- An address of the package fabric in the host-physical window or a signal aperture (Table 12-1). -/
def OwnAperture (a : Nat) : Prop := (Config.hpwBase ≤ a ∧ a < Config.hpwBase + 2 ^ 42) ∨ (Config.sigBase ≤ a ∧ a < Config.sigBase + 4 * 65536)

end Sys2Proof.Spec

open Sys2Proof Sys2Proof.Machine Sys2Proof.Spec

/-! ## The queue and the machine as a whole -/

/-- A step runs the command at the front of the queue on the state with the queue's rest; on an empty queue the block idles (idling is the model's
choice, log 1). -/
def Obligations.StepRunsTheFrontCommandOrIdles : Prop :=
  (∀ (c : Instr) (cs : List Instr) (s : State), s.pending = c :: cs → step s = exec c { s with pending := cs })
  ∧ (∀ s : State, s.pending = [] → step s = .next s)

/-- No command ends in a fault or a refusal (95: each row is one whole step), none touches the queue, and none leaves a write undone. -/
def Obligations.EveryCommandAnswersANextState : Prop :=
  ∀ (i : Instr) (s : State), ∃ t, exec i s = .next t ∧ t.pending = s.pending ∧ t.blk.wr = []

/-- Every step from a state whose memories are in canonical form answers a state whose memories are: addresses strictly rising, no byte
listed that an unlisted address reads as, the poisoned atoms strictly rising. -/
def Obligations.EveryStepKeepsMemoryCanonical : Prop := ∀ s t : State, MemInv s → step s = .next t → MemInv t

/-- What reset leaves: canonical memories with nothing listed, no power, every hub without functions and in FWSTATE BOOT with its interrupt registers
0 and its counts 0, AGE 0, and every request slot free (R417, Tables 13-1, 13-2 and 15-11). -/
def Obligations.ResetIsUnpoweredAndCanonical : Prop :=
  (MemInv State.reset)
  ∧ (State.reset.pending = [] ∧ State.reset.blk.eng.power.pwrgd = false ∧ State.reset.store.mem = [] ∧
  ∀ h, h < 4 → (State.reset.blk.hub h).inService = false ∧ State.reset.blk.fw h = .boot ∧
    (State.reset.blk.hub h).regs.intStatus = 0 ∧ (State.reset.blk.hub h).regs.intEnable = 0 ∧ (State.reset.blk.hub h).regs.msiAddr = 0 ∧
    (State.reset.blk.hub h).regs.msiData = 0 ∧ (State.reset.blk.hub h).regs.refused = 0 ∧ State.reset.blk.age h = 0 ∧
    ∀ k, (State.reset.blk.pair h k).st = .free)

/-! ## The test access port (R440) -/

/-- The test port. BYPASS, IDCODE, CLAMP, HIGHZ and the port's reset select their instruction and data register and change nothing outside the port;
IDCODE shifts out the identification code; CLAMP and EXTEST drive the pins from the boundary-scan register exactly while RSTN is low; HIGHZ floats
them; SAMPLE/PRELOAD and EXTEST sample RSTN, PWRGD and ALERTN as they stand, the other pins being free values (log 2). What TEST_RESET selects,
what BYPASS captures and the order of the cells are the model's (PRESUMED from IEEE 1149.1, log 19; DESIGN CHOICE, log 18). -/
def Obligations.TestPortSelectsScansAndDrives : Prop :=
  (∀ (h : Nat) (s : State) (x : Hub), h < 4 → s.blk.hubs.get? h = some x →
    Runs (.testReset h) s (fun t => OnlyTap s t h x ∧ (t.blk.hub h).tap.ir = .idcode ∧ (t.blk.hub h).tap.driven = false)
    ∧ Runs (.bypass h) s (fun t => OnlyTap s t h x ∧ (t.blk.hub h).tap.ir = .bypass ∧ (t.blk.hub h).tap.tdo = 0 ∧
        (t.blk.hub h).tap.driven = false ∧ (t.blk.hub h).tap.bsr = x.tap.bsr)
    ∧ Runs (.idcode h) s (fun t => OnlyTap s t h x ∧ (t.blk.hub h).tap.ir = .idcode ∧ (t.blk.hub h).tap.tdo = idcodeVal ∧
        (t.blk.hub h).tap.bsr = x.tap.bsr)
    ∧ Runs (.clamp h) s (fun t => OnlyTap s t h x ∧ (t.blk.hub h).tap.ir = .clamp ∧
        ((t.blk.hub h).tap.driven = true ↔ s.blk.eng.power.rstn = false) ∧ (t.blk.hub h).tap.bsr = x.tap.bsr)
    ∧ Runs (.highz h) s (fun t => OnlyTap s t h x ∧ (t.blk.hub h).tap.ir = .highz ∧ (t.blk.hub h).tap.floated = true ∧
        (t.blk.hub h).tap.driven = false))
  ∧ (∀ (h load : Nat) (s : State) (x : Hub), h < 4 → s.blk.hubs.get? h = some x →
    let pinsShown := fun (t : State) => bits (t.blk.hub h).tap.tdo 0 1 = b2n s.blk.eng.power.rstn ∧
      bits (t.blk.hub h).tap.tdo 1 1 = b2n s.blk.eng.power.pwrgd ∧ bits (t.blk.hub h).tap.tdo 4 1 = b2n (!s.blk.alert h)
    Runs (.samplePreload h load) s (fun t => OnlyTap s t h x ∧ pinsShown t ∧ (t.blk.hub h).tap.ir = .samplePreload ∧
        (t.blk.hub h).tap.bsr = load % 2 ^ bsrCells h ∧ (t.blk.hub h).tap.driven = false)
    ∧ Runs (.extest h) s (fun t => OnlyTap s t h x ∧ pinsShown t ∧ (t.blk.hub h).tap.ir = .extest ∧ (t.blk.hub h).tap.bsr = x.tap.bsr ∧
        ((t.blk.hub h).tap.driven = true ↔ s.blk.eng.power.rstn = false)))

/-! ## The I3C target and the management mailbox (R369, R370, R439) -/

/-- The common command codes of I3C. Those that set state change what they name in the target, are acknowledged and change nothing else; those that
read answer with the provisional ID, the device characteristics, the lengths and whether a management pair is DONE, and keep the target's state.
A private read returns the selected reply slot from offset 0, ended after LENW times 8 bytes and no longer than the maximum read length; a private
write with selector 0x10 + k selects reply slot k, and a whole message written with selector k and GO is posted (R369, R370).
Byte order and the places of the bits of BCR and GETSTATUS are the model's (PRESUMED, log 20). -/
def Obligations.I3cCommandsAndTransfersAct : Prop :=
  (∀ (h : Nat) (s : State) (x : Hub), s.blk.hubs.get? h = some x → s.blk.winUp h = true →
    (∀ ev, Runs (.enec h ev) s fun t => I3cAcks s t h x ∧
      ∀ i, i < 8 → (t.blk.hub h).i3c.events.testBit i = (x.i3c.events.testBit i || ev.testBit i))
    ∧ (∀ ev, Runs (.disec h ev) s fun t => I3cAcks s t h x ∧
      ∀ i, i < 8 → (t.blk.hub h).i3c.events.testBit i = (x.i3c.events.testBit i && !ev.testBit i))
    ∧ Runs (.rstdaa h) s (fun t => I3cAcks s t h x ∧ (t.blk.hub h).i3c.dyn = none)
    ∧ (x.i3c.dyn = none → ∀ a, a < 128 → Runs (.entdaa h a) s fun t => I3cAcks s t h x ∧ (t.blk.hub h).i3c.dyn = some a)
    ∧ (x.i3c.dyn = none → ∀ a, a < 128 → Runs (.setdasa h a) s fun t => I3cAcks s t h x ∧ (t.blk.hub h).i3c.dyn = some a)
    ∧ (x.i3c.dyn ≠ none → ∀ a, a < 128 → Runs (.setnewda h a) s fun t => I3cAcks s t h x ∧ (t.blk.hub h).i3c.dyn = some a)
    ∧ (∀ n, n ≤ 257 → Runs (.setmwl h n) s fun t => I3cAcks s t h x ∧ (t.blk.hub h).i3c.mwl = n)
    ∧ (∀ n, n ≤ 256 → Runs (.setmrl h n) s fun t => I3cAcks s t h x ∧ (t.blk.hub h).i3c.mrl = n)
    ∧ (∀ d, d ≤ 1 → Runs (.rstact h d) s fun t => I3cAcks s t h x ∧ (t.blk.hub h).i3c.dyn = x.i3c.dyn ∧ (t.blk.hub h).i3c.mwl = 257 ∧
      (t.blk.hub h).i3c.mrl = 256))
  ∧ (∀ (h : Nat) (s : State) (x : Hub), s.blk.hubs.get? h = some x → s.blk.winUp h = true → x.i3c.dyn ≠ none →
    let keeps := fun (t : State) => I3cAcks s t h x ∧ (t.blk.hub h).i3c = { x.i3c with ack := true, out := (t.blk.hub h).i3c.out }
    Runs (.getpid h) s (fun t => keeps t ∧ (t.blk.hub h).i3c.out.length = 6 ∧ ofBytes (t.blk.hub h).i3c.out.reverse = pidVal h)
    ∧ Runs (.getbcr h) s (fun t => keeps t ∧ (t.blk.hub h).i3c.out = [0x06])
    ∧ Runs (.getdcr h) s (fun t => keeps t ∧ (t.blk.hub h).i3c.out = [0x00])
    ∧ Runs (.getstatus h) s (fun t => keeps t ∧ (t.blk.hub h).i3c.out.head? =
        some (BitVec.ofNat 8 (b2n ([64, 65, 66, 67].any fun k => (s.blk.pair h k).st == .done))))
    ∧ Runs (.getmwl h) s (fun t => keeps t ∧ ofBytes (t.blk.hub h).i3c.out.reverse = x.i3c.mwl % 65536)
    ∧ Runs (.getmrl h) s (fun t => keeps t ∧ ofBytes (t.blk.hub h).i3c.out.reverse = x.i3c.mrl % 65536))
  ∧ (∀ (h : Nat) (s : State) (x : Hub), s.blk.hubs.get? h = some x → s.blk.winUp h = true → x.i3c.dyn ≠ none →
      Runs (.i3cPrivateRead h) s (fun t => I3cAcks s t h x ∧
        (t.blk.hub h).i3c.out = (toBytes 256 (s.blk.pair h (64 + x.i3c.sel)).rep.toNat).take
          (min (8 * bits (s.blk.pair h (64 + x.i3c.sel)).rep.toNat 24 8) x.i3c.mrl))
      ∧ (∀ k, k < 4 → 1 ≤ x.i3c.mwl → Runs (.i3cPrivateWrite h [BitVec.ofNat 8 (0x10 + k)]) s fun t => I3cAcks s t h x ∧
        (t.blk.hub h).i3c.sel = k)
      ∧ (∀ k data, k < 4 → data.length = 256 → 257 ≤ x.i3c.mwl → (data.getD 8 0).getLsbD 0 = true →
        (s.blk.pair h (64 + k)).st.busy = false → msgCodes.contains (ofBytes ((data.drop 1).take 2)) = true →
        Runs (.i3cPrivateWrite h (BitVec.ofNat 8 k :: data)) s fun t => (t.blk.pair h (64 + k)).st = .posted ∧
          (t.blk.pair h (64 + k)).pm = false ∧ toBytes 256 (t.blk.pair h (64 + k)).req.toNat = data ∧ OnlyHub s t h))

/-! ## Boundary registers and request slots (R359, R360, R368, R441) -/

/-- The three register writes complete, whatever stands in the registers. INT_STATUS is write-1-to-clear, and INT_ENABLE takes its eight enables; where
an enabled cause stands afterwards (for INT_ENABLE: one newly enabled), the interrupt write goes out once, and nothing outside the hub's registers changes
but it. An interrupt address in one of the engine's own apertures brings that write back in as an inbound one (R332, R368), which may list a lost write: the
bits written take hold all the same. INT_MSI_ADDR, INT_MSI_DATA and MON_SEL take their bits by REGISTER_WRITE, which acts at INT_STATUS and INT_ENABLE as
their own commands do; every other offset of it outside the request slots changes nothing (R441, Tables 13-1 and 15-11). -/
def Obligations.RegisterWritesTakeTheirBits : Prop :=
  ∀ (h : Nat) (v : BitVec 64) (s : State) (x : Hub), s.blk.hubs.get? h = some x → s.blk.winUp h = true →
    let a := x.regs.msiAddr.toNat
    let status := x.regs.intStatus &&& ~~~v
    let enable := v &&& 0xFF#64
    let after := fun (due : Bool) (r : Regs) (t : State) => t.store = s.store ∧ (∀ g, g ≠ h → t.blk.hub g = s.blk.hub g) ∧ t.blk.hub h = { x with regs := r } ∧
      t.blk = { s.start with hubs := t.blk.hubs,
                             outbox := s.blk.outbox ++ if due && a != 0 then [Out.msi h a (x.regs.msiData.toNat % 2 ^ 32)] else [] }
    let cleared := after (decide (status &&& x.regs.intEnable ≠ 0)) { x.regs with intStatus := status }
    let enabled := after (decide (enable &&& ~~~x.regs.intEnable &&& x.regs.intStatus ≠ 0)) { x.regs with intEnable := enable }
    (a = 0 ∨ ¬ OwnAperture a →
      Runs (.intStatusWrite h v) s cleared ∧ Runs (.intEnableWrite h v) s enabled
      ∧ Runs (.registerWrite h 0x0100 v) s cleared ∧ Runs (.registerWrite h 0x0108 v) s enabled)
    ∧ Runs (.intStatusWrite h v) s (fun t => ∀ i, i ≠ intEVENT → v.getLsbD i = true → (t.blk.hub h).regs.intStatus.getLsbD i = false)
    ∧ Runs (.intEnableWrite h v) s (fun t => (t.blk.hub h).regs.intEnable = enable)
    ∧ Runs (.registerWrite h 0x0110 v) s (after false { x.regs with msiAddr := v &&& ~~~(3#64) })
    ∧ Runs (.registerWrite h 0x0118 v) s (after false { x.regs with msiData := v &&& 0xFFFFFFFF#64 })
    ∧ Runs (.registerWrite h 0x0400 v) s (after false { x.regs with monSel := v &&& 0xFFFFFFFF#64 })
    ∧ (∀ off, ¬ off ∈ [0x0100, 0x0108, 0x0110, 0x0118, 0x0400] → off < 0x4000 ∨ 0x8000 ≤ off →
      Runs (.registerWrite h off v) s fun t => t.store = s.store ∧ t.blk = s.start)

/-- A write to a request slot whose pair is POSTED, TAKEN or PENDING, through the register window or by a private write of I3C, is discarded:
no pair changes, so the posted message stands. It is counted in MBX_REFUSED, which holds at 2^32 - 1, and sets MISUSE (R360), and no other cause unless the interrupt write
comes back into the engine's own memory (R368). -/
def Obligations.WriteToABusyRequestSlotIsDiscarded : Prop :=
  ∀ (h : Nat) (data : List Byte) (s : State) (x : Hub), s.blk.hubs.get? h = some x → s.blk.winUp h = true → data ≠ [] →
    let discarded := fun (t : State) => (∀ g j, t.blk.pair g j = s.blk.pair g j) ∧ (t.blk.hub h).regs.refused = min (x.regs.refused + 1) (2 ^ 32 - 1) ∧
      (t.blk.hub h).regs.intStatus.getLsbD intMISUSE = true ∧
      (x.regs.msiAddr = 0 ∨ ¬ OwnAperture x.regs.msiAddr.toNat → (t.blk.hub h).regs.intStatus = x.regs.intStatus ||| BitVec.ofNat 64 (2 ^ intMISUSE))
    (∀ k off agent, k < 64 → off + data.length ≤ 256 → (s.blk.pair h k).st.busy = true →
      Runs (.requestSlotWrite h agent (0x4000 + 256 * k + off) data) s discarded)
    ∧ ∀ k, k < 4 → x.i3c.dyn ≠ none → 2 ≤ x.i3c.mwl → (s.blk.pair h (64 + k)).st.busy = true →
      Runs (.i3cPrivateWrite h (BitVec.ofNat 8 k :: data)) s discarded

/-- A whole message written to a free pair with GO set posts it: the slot holds the bytes, and the pair is POSTED (R359). -/
def Obligations.WholeSlotWriteWithGoPosts : Prop :=
  ∀ (h k : Nat) (agent : Agent) (data : List Byte) (s : State) (x : Hub), s.blk.hubs.get? h = some x → s.blk.winUp h = true → k < 64 →
    data.length = 256 → (s.blk.pair h k).st.busy = false → (data.getD 8 0).getLsbD 0 = true →
    msgCodes.contains (ofBytes ((data.drop 1).take 2)) = true →
    Runs (.requestSlotWrite h agent (0x4000 + 256 * k) data) s fun t => OnlyHub s t h ∧ (t.blk.pair h k).st = .posted ∧
      toBytes 256 (t.blk.pair h k).req.toNat = data ∧ (t.blk.pair h k).pm = (agent == .pm) ∧ ∀ j, j ≠ k → t.blk.pair h j = s.blk.pair h j

/-! ## Messages in general (R361, R363) -/

namespace Sys2Proof.Spec

/-- The message that a hub copies from pair k of a mailbox. -/
def msgAt (s : State) (h : Nat) (mb : Mbox) (k : Nat) : Msg :=
  { hub := h, key := pairKey mb k, pm := (s.blk.pair h (pairKey mb k)).pm, x := (copyOf (s.blk.pair h (pairKey mb k)).req).toNat }

/-- A message of this card stands posted in the pair of a hub that copies messages. -/
def Posted (c : Card) (h : Nat) (mb : Mbox) (k : Nat) (s : State) : Prop :=
  s.blk.hubs.get? h ≠ none ∧ pairExists mb k = true ∧ s.blk.copies h c.wide = true ∧ (s.blk.pair h (pairKey mb k)).st = .posted ∧
    c.takes (s.blk.pair h (pairKey mb k)).req = true

/-- No hub has an interrupt address set, so that no interrupt write goes out (R368). -/
def Quiet (s : State) : Prop := ∀ g, (s.blk.hub g).regs.msiAddr = 0

/-- The posted message passes every check of R363 that comes before its own, no earlier message on its object is pending (R366),
and no hub has an interrupt address set. -/
def Accepted (c : Card) (h : Nat) (mb : Mbox) (k : Nat) (s : State) : Prop :=
  Posted c h mb k s ∧ headerCheck s.blk.eng (msgAt s h mb k) true = OK ∧ bodyCheck s.blk.eng c (msgAt s h mb k) = OK ∧
    s.blk.jobCheck c (msgAt s h mb k) = OK ∧ s.blk.featCheck c = OK ∧
    s.blk.behind s.blk.eng.pend (msgAt s h mb k) (objOf (msgAt s h mb k)) = false ∧ Quiet s

/-- The pair of message m is DONE, and its reply slot shows RSTATE 2, the STATUS given, and the message's CODE and TAG (Table 13-6). -/
def DoneReply (t : State) (m : Msg) (status : Nat) : Prop :=
  (t.blk.pair m.hub m.key).st = .done ∧ bits (t.blk.pair m.hub m.key).rep.toNat 64 8 = 2 ∧
    bits (t.blk.pair m.hub m.key).rep.toNat 80 16 = status ∧ bits (t.blk.pair m.hub m.key).rep.toNat 8 16 = m.code ∧
    bits (t.blk.pair m.hub m.key).rep.toNat 48 16 = m.tag

/-- Bytes [lo, lo + n) of the reply to message m, as a number. -/
def replied (t : State) (m : Msg) (lo n : Nat) : Nat := bits (t.blk.pair m.hub m.key).rep.toNat (8 * lo) (8 * n)

/-- The command of a message row, with its card, its hub, mailbox and pair. -/
def cardOf : Instr → Option (Card × Nat × Mbox × Nat)
  | .hello h mb k => some (cardHello, h, mb, k)
  | .almanacRead h mb k => some (cardAlmanacRead, h, mb, k)
  | .eventRead h mb k => some (cardEventRead, h, mb, k)
  | .monitorRead h mb k => some (cardMonitorRead, h, mb, k)
  | .jobOpen h mb k => some (cardJobOpen, h, mb, k)
  | .jobClose h mb k => some (cardJobClose, h, mb, k)
  | .tableDefine h mb k => some (cardTableDefine, h, mb, k)
  | .tableRetire h mb k => some (cardTableRetire, h, mb, k)
  | .tableStats h mb k => some (cardTableStats, h, mb, k)
  | .updateStatus h mb k => some (cardUpdateStatus, h, mb, k)
  | .programLoad h mb k => some (cardProgramLoad, h, mb, k)
  | .programUnload h mb k => some (cardProgramUnload, h, mb, k)
  | .ringCreate h mb k => some (cardRingCreate, h, mb, k)
  | .ringDestroy h mb k => some (cardRingDestroy, h, mb, k)
  | .ringHalt h mb k => some (cardRingHalt, h, mb, k)
  | .ringResumeContinue h mb k => some (cardRingResume false, h, mb, k)
  | .ringResumeRetry h mb k => some (cardRingResume true, h, mb, k)
  | .hostlostRead h mb k => some (cardHostlostRead, h, mb, k)
  | .ledgerSet h mb k => some (cardLedgerSet, h, mb, k)
  | .schedSet h mb k => some (cardSchedSet, h, mb, k)
  | .layoutSetPlan h mb k => some (cardLayoutSet 0, h, mb, k)
  | .layoutSetCommit h mb k => some (cardLayoutSet 1, h, mb, k)
  | .channelMapoutPlan h mb k => some (cardMapout 0, h, mb, k)
  | .channelMapoutCommit h mb k => some (cardMapout 1, h, mb, k)
  | .pageRetire h mb k => some (cardPageRetire, h, mb, k)
  | .repairRead h mb k => some (cardRepairRead, h, mb, k)
  | .channelTestScan h mb k => some (cardChannelTest 0, h, mb, k)
  | .channelTestMarch h mb k => some (cardChannelTest 1, h, mb, k)
  | .channelTestPattern h mb k => some (cardChannelTest 2, h, mb, k)
  | .channelTestStop h mb k => some (cardChannelTest 3, h, mb, k)
  | .cachePartition h mb k => some (cardCachePartition, h, mb, k)
  | .cacheFlush h mb k => some (cardCacheFlush, h, mb, k)
  | .cacheStatus h mb k => some (cardCacheStatus, h, mb, k)
  | .mogulRead h mb k => some (cardMogulRead, h, mb, k)
  | .invalidate h mb k => some (cardInvalidate, h, mb, k)
  | .harvestArm h mb k => some (cardHarvestArm, h, mb, k)
  | .faultResume h mb k => some (cardFaultResume false, h, mb, k)
  | .faultResumeAbort h mb k => some (cardFaultResume true, h, mb, k)
  | .prefetch h mb k => some (cardPrefetch, h, mb, k)
  | .adviseWarm h mb k => some (cardAdvise 0, h, mb, k)
  | .adviseDemote h mb k => some (cardAdvise 1, h, mb, k)
  | .windowSet h mb k => some (cardWindowSet, h, mb, k)
  | .windowClear h mb k => some (cardWindowClear, h, mb, k)
  | .regionRegister h mb k => some (cardRegionRegister, h, mb, k)
  | .regionRelease h mb k => some (cardRegionRelease, h, mb, k)
  | .twinPair h mb k => some (cardTwinPair, h, mb, k)
  | .twinUnpair h mb k => some (cardTwinUnpair 0, h, mb, k)
  | .twinUnpairPlanned h mb k => some ({ cardTwinUnpair 1 with first := false }, h, mb, k)
  | .twinStatus h mb k => some (cardTwinStatus, h, mb, k)
  | .dumpArm h mb k => some (cardDumpArm, h, mb, k)
  | .fwStage h mb k => some (cardFwStage, h, mb, k)
  | .fwHandover h mb k => some (cardFwHandover, h, mb, k)
  | .recalibrate h mb k => some (cardRecalibrate, h, mb, k)
  | .stackServiceRelease h mb k => some (cardStackService 0, h, mb, k)
  | .stackServiceAdmit h mb k _ _ => some (cardStackService 1, h, mb, k)
  | .hubServiceRelease h mb k => some (cardHubService 0, h, mb, k)
  | .hubServiceAdmit h mb k _ => some (cardHubService 1, h, mb, k)
  | _ => none

end Sys2Proof.Spec

/-- A message command does nothing where no such message stands posted in the pair, and where the hub copies none: it may not run, FWSTATE is not
RUN, or the leader is not yet accepting (R31, R362, R420). -/
def Obligations.MessageCommandNeedsItsPostedMessage : Prop :=
  ∀ (i : Instr) (c : Card) (h k : Nat) (mb : Mbox) (s : State), cardOf i = some (c, h, mb, k) →
    (pairExists mb k && s.blk.copies h c.wide && (s.blk.pair h (pairKey mb k)).st == .posted && c.takes (s.blk.pair h (pairKey mb k)).req) = false →
    Runs i s fun t => t.store = s.store ∧ t.blk = s.start

/-- The checks come in the order of R363: a message whose header fails is answered with the header's status, one whose LENW, reserved bits,
enumerated fields or mailbox fail with that status; either way the pair is DONE, no byte of memory changed, and nothing outside the hub changed but
what telling software of the reply does with no interrupt address set. A message that names a job slot that is not open is answered JOB_CLOSED
once its header and body pass (step 6), and changes no job, table, ring, program or row die, where the reply's interrupt write goes to none of the
engine's own apertures. -/
def Obligations.MessagesFailTheirChecksInOrder : Prop :=
  (∀ (i : Instr) (c : Card) (h k : Nat) (mb : Mbox) (s : State), cardOf i = some (c, h, mb, k) → Posted c h mb k s →
    (s.blk.hub h).regs.msiAddr = 0 →
    (headerCheck s.blk.eng (msgAt s h mb k) true ≠ OK →
      Runs i s fun t => OnlyHubs s t ∧ DoneReply t (msgAt s h mb k) (headerCheck s.blk.eng (msgAt s h mb k) true))
    ∧ (headerCheck s.blk.eng (msgAt s h mb k) true = OK → bodyCheck s.blk.eng c (msgAt s h mb k) ≠ OK →
      Runs i s fun t => OnlyHubs s t ∧ DoneReply t (msgAt s h mb k) (bodyCheck s.blk.eng c (msgAt s h mb k))))
  ∧ (∀ (i : Instr) (c : Card) (h k : Nat) (mb : Mbox) (s : State), cardOf i = some (c, h, mb, k) → Posted c h mb k s →
    headerCheck s.blk.eng (msgAt s h mb k) true = OK → bodyCheck s.blk.eng c (msgAt s h mb k) = OK → c.jobScope = true →
    s.blk.jobOpen (msgAt s h mb k).job = false →
    (s.blk.hub h).regs.msiAddr = 0 ∨ ¬ OwnAperture (s.blk.hub h).regs.msiAddr.toNat →
    Runs i s fun t => DoneReply t (msgAt s h mb k) JOB_CLOSED ∧ t.blk.jobs = s.blk.jobs ∧ t.blk.tables = s.blk.tables ∧
      t.blk.rings = s.blk.rings ∧ t.blk.progs = s.blk.progs ∧ t.blk.dies = s.blk.dies)
/-! ## The messages of Tables 13-10 and 13-11 -/

/-- HELLO agrees on minor version 0 and on the features asked for that the engine has, unless a job slot is open, when it only reports;
EVENT_READ answers how many records from FROMSEQ on it returns and the first of them;
MONITOR_READ answers a monitor and, with CLEAR, clears it. -/
def Obligations.SessionMessagesAnswer : Prop :=
  ∀ (h k : Nat) (mb : Mbox) (s : State), let m := msgAt s h mb k
    (Accepted cardHello h mb k s → s.blk.eng.hello = false ∨ s.blk.jobs = [] →
      Runs (.hello h mb k) s fun t => DoneReply t m OK ∧ t.blk.eng.hello = true ∧ t.blk.eng.minor = 0 ∧
        t.blk.eng.features = (m.at 24 8 &&& s.blk.featAvail) ∧ replied t m 24 8 = t.blk.eng.features)
    ∧ (Accepted cardHello h mb k s → s.blk.eng.hello = true → s.blk.jobs ≠ [] → s.blk.eng.features < 2 ^ 64 →
      Runs (.hello h mb k) s fun t => DoneReply t m OK ∧ t.blk.eng.minor = s.blk.eng.minor ∧ t.blk.eng.features = s.blk.eng.features ∧
        replied t m 24 8 = s.blk.eng.features)
    ∧ (Accepted cardEventRead h mb k s →
      Runs (.eventRead h mb k) s fun t => DoneReply t m OK ∧ t.blk.eng.events = s.blk.eng.events ∧
        let rs := (s.blk.eng.events.filter fun r => decide (m.at 16 8 ≤ eseqOf r)).take 7
        replied t m 24 2 = rs.length ∧ ∀ r, rs.head? = some r → replied t m 32 32 = r.toNat)
    ∧ (∀ n, Accepted cardMonitorRead h mb k s → monInstances (m.at 16 2) = some n → m.at 18 2 < n →
      let x := s.blk.eng.monitors.getD (monKey (m.at 16 2) (m.at 18 2)) {}
      Runs (.monitorRead h mb k) s fun t => DoneReply t m OK ∧ replied t m 16 8 = x.min % 2 ^ 64 ∧ replied t m 24 8 = x.max % 2 ^ 64 ∧
        replied t m 32 8 = x.samples % 2 ^ 64 ∧
        t.blk.eng.monitors = if m.flag 20 1 then s.blk.eng.monitors.del (monKey (m.at 16 2) (m.at 18 2)) else s.blk.eng.monitors)

/-- ALMANAC_READ returns N = min(224, TOTAL - OFFSET) bytes of the Almanac from OFFSET, or 0 when OFFSET is at or past TOTAL; a nonzero GENWANT that differs from
ALMGEN gives ALMANAC_CHANGED, and the reply still carries the current ALMGEN (R374). -/
def Obligations.AlmanacReadReturnsItsBytes : Prop :=
  ∀ (h k : Nat) (mb : Mbox) (s : State), let m := msgAt s h mb k
    let total := s.blk.almanac.length
    let n := if total ≤ m.at 16 4 then 0 else min 224 (total - m.at 16 4)
    Accepted cardAlmanacRead h mb k s → m.at 16 4 % 8 = 0 → s.blk.eng.almGen < 2 ^ 32 → total < 2 ^ 32 →
      (m.at 20 4 = 0 ∨ m.at 20 4 = s.blk.eng.almGen →
        Runs (.almanacRead h mb k) s fun t => DoneReply t m OK ∧ t.store = s.store ∧ replied t m 16 4 = s.blk.eng.almGen ∧ replied t m 20 4 = total ∧
          replied t m 24 4 = n ∧ toBytes n (replied t m 32 n) = (s.blk.almanac.drop (m.at 16 4)).take n)
      ∧ (m.at 20 4 ≠ 0 → m.at 20 4 ≠ s.blk.eng.almGen →
        Runs (.almanacRead h mb k) s fun t => DoneReply t m ALMANAC_CHANGED ∧ t.store = s.store ∧ replied t m 16 4 = s.blk.eng.almGen)

/-- JOB_OPEN opens the job slot with the root, weight and semaphore ranges named; JOB_CLOSE of a job slot that has no ring, no table, region or
page in movement closes it at once. -/
def Obligations.JobSlotsOpenAndClose : Prop :=
  ∀ (h k : Nat) (mb : Mbox) (s : State), let m := msgAt s h mb k
    (Accepted cardJobOpen h mb k s → s.blk.jobs.has m.job = false → m.at 24 8 % 2 ^ 20 = 0 → s.blk.eng.layout.inCap (m.at 24 8) (2 ^ 20) = true →
      m.at 32 1 ≠ 0 → (∀ g, g < 4 → s.blk.semRangeBad g (m.semBases.getD g 0) (m.semCounts.getD g 0) = false) →
      Runs (.jobOpen h mb k) s fun t => DoneReply t m OK ∧ t.store = s.store ∧
        t.blk.jobs = s.blk.jobs.put m.job { root := m.at 24 8, weight := m.at 32 1, semBase := m.semBases, semCount := m.semCounts } ∧
        t.blk.tables = s.blk.tables ∧ t.blk.rings = s.blk.rings ∧ t.blk.dies = s.blk.dies)
    ∧ (Accepted cardJobClose h mb k s → (∀ x ∈ s.blk.rings, x.2.job ≠ m.job) → (∀ x ∈ s.blk.tables, (tdOf x.2.desc).job ≠ m.job) →
      (∀ x ∈ s.blk.eng.regions, jobOf x.2 36 ≠ m.job) → (∀ x ∈ s.blk.eng.migrations, x.job ≠ m.job) →
      Runs (.jobClose h mb k) s fun t => DoneReply t m OK ∧ t.store = s.store ∧ t.blk.rings = s.blk.rings ∧
        t.blk.progs = s.blk.progs.filter (·.job != m.job) ∧ t.blk.jobs = (s.blk.jobs.modify m.job fun j => { j with closing := true }).del m.job ∧
        replied t m 16 4 = 0 ∧ replied t m 20 4 = 0)

/-- TABLE_DEFINE keeps the descriptor and sets APPLIED to 0 at every row die; TABLE_RETIRE of a table that no slot in flight and no scoreboard
operation names drops it;
TABLE_STATS answers the drift counters and, with CLEAR, clears them; UPDATE_STATUS answers APPLIED of each row die in service. -/
def Obligations.TableMessagesDefineRetireAndReport : Prop :=
  ∀ (h k : Nat) (mb : Mbox) (s : State), let m := msgAt s h mb k
    (Accepted cardTableDefine h mb k s →
      let d := BitVec.ofNat 512 (m.struct 16 64)
      let td := tdOf d
      tdStages d s.blk.eng.minor = OK → td.job = m.job → s.blk.tables.has td.table = false → s.blk.tables.length < Config.tablesAll →
      (s.blk.tables.vals.countP fun x => (tdOf x.desc).job == m.job) < Config.tablesPerJob → td.fieldsOk = true →
      (td.mirror = true → s.blk.feat featTWIN = true) → (td.chclass = 1 → s.blk.eng.layout.priv ≠ []) →
      (td.place = 1 → s.blk.feat featCAPACITY = true) →
      Runs (.tableDefine h mb k) s fun t => DoneReply t m OK ∧ t.store = s.store ∧ t.blk.tables = s.blk.tables.put td.table { desc := d } ∧
        t.blk.rings = s.blk.rings ∧ t.blk.jobs = s.blk.jobs ∧
        ∀ q x, s.blk.dies.get? q = some x → (t.blk.die q).replay.get? td.table = some {})
    ∧ (∀ x, Accepted cardTableRetire h mb k s → s.blk.tables.get? (m.at 16 4) = some x → (tdOf x.desc).job = m.job →
      (∀ w ∈ s.blk.works.vals, w.table ≠ some (m.at 16 4)) → (∀ d ∈ s.blk.dies.vals, ∀ e ∈ d.board, e.table ≠ m.at 16 4) →
      Runs (.tableRetire h mb k) s fun t => DoneReply t m OK ∧ t.store = s.store ∧ t.blk.tables = (s.blk.tables.modify (m.at 16 4) fun x => { x with retiring := true }).del (m.at 16 4) ∧
        t.blk.rings = s.blk.rings)
    ∧ (∀ x, Accepted cardTableStats h mb k s → s.blk.tables.get? (m.at 16 4) = some x → (tdOf x.desc).job = m.job →
      Runs (.tableStats h mb k) s fun t => DoneReply t m OK ∧ t.store = s.store ∧ replied t m 16 8 = x.recodes % 2 ^ 64 ∧
        replied t m 24 8 = x.satRows % 2 ^ 64 ∧ replied t m 32 8 = x.stagnant % 2 ^ 64 ∧
        t.blk.tables.get? (m.at 16 4) = some (if m.flag 20 0 then { x with recodes := 0, satRows := 0, stagnant := 0 } else x))
    ∧ (∀ x, Accepted cardUpdateStatus h mb k s → s.blk.tables.get? (m.at 16 4) = some x → (tdOf x.desc).job = m.job →
      Runs (.updateStatus h mb k) s fun t => DoneReply t m OK ∧ t.store = s.store ∧ t.blk.tables = s.blk.tables ∧ t.blk.dies = s.blk.dies ∧
        ∀ q, q < 12 → replied t m (16 + 8 * q) 8 = if s.blk.dieUp q then ((s.blk.die q).replay.getD (m.at 16 4) {}).applied % 2 ^ 64 else 2 ^ 64 - 1)

/-- PROGRAM_LOAD of an image that reads and checks, with a handle not in use and room in the program store, loads its code and answers its step
bounds; PROGRAM_UNLOAD of a program that no ring and no slot in flight names drops it. -/
def Obligations.ProgramsLoadAndUnload : Prop :=
  ∀ (h k : Nat) (mb : Mbox) (s : State), let m := msgAt s h mb k
    (∀ (hb bs : List Byte) (base : Nat), Posted cardProgramLoad h mb k s → headerCheck s.blk.eng m true = OK →
      bodyCheck s.blk.eng cardProgramLoad m = OK → s.blk.jobCheck cardProgramLoad m = OK → Quiet s →
      s.blk.behind s.blk.eng.pend m (.prog m.job (bits (ofBytes hb) 48 16)) = false →
      let b := s.start.onPair h (pairKey mb k) fun p => { p with st := .taken, copy := copyOf p.req }
      let hdr := ofBytes hb
      let len := bits hdr 32 10
      let code := words32 len bs
      m.at 16 8 % 64 = 0 → msgRead s.store b m s.blk.eng.leader (m.at 16 8) 64 = (b, .ok hb) → imageHeaderCheck s.blk.eng.minor hdr = OK →
      msgRead s.store b m s.blk.eng.leader (m.at 16 8 + 64) (4 * len) = (b, .ok bs) → (imageCheck s.blk.eng.minor hdr code).1 = OK →
      s.blk.progOf m.job (bits hdr 48 16) = none → progSpace (s.blk.progs.map fun p => (p.base, p.code.length)) len = some base →
      Runs (.programLoad h mb k) s fun t => DoneReply t m OK ∧ t.store = s.store ∧
        t.blk.progs = s.blk.progs ++ [({ job := m.job, handle := bits hdr 48 16, kind := bits hdr 8 4, base := base, code := code, tag := bits hdr 128 64, boundS := (boundOf code).1, boundP := (boundOf code).2 } : Prog)] ∧
        replied t m 16 4 = (boundOf code).1 % 2 ^ 32 ∧ replied t m 20 4 = (boundOf code).2 % 2 ^ 32)
    ∧ (∀ p, Accepted cardProgramUnload h mb k s → s.blk.progOf m.job (m.at 16 2) = some p →
      (∀ r ∈ s.blk.rings.vals, ¬ (r.job = m.job ∧ r.xprog = m.at 16 2)) →
      (∀ w ∈ s.blk.works.vals, ¬ (w.job = m.job ∧ w.prog = some (m.at 16 2))) →
      Runs (.programUnload h mb k) s fun t => DoneReply t m OK ∧ t.store = s.store ∧ t.blk.progOf m.job (m.at 16 2) = none ∧
        (∀ q ∈ s.blk.progs, ¬ (q.job = m.job ∧ q.handle = m.at 16 2) → q ∈ t.blk.progs) ∧ t.blk.rings = s.blk.rings)

/-! ## The messages of Table 13-12: rings -/

/-- RING_CREATE of a valid descriptor without a transform puts the ring in service with all counts 0 and its semaphores at 0; RING_HALT puts REQUEST in
force; RING_RESUME of a ring in OVERRUN or REQUEST clears them, with RETRY one in ERROR whose slot is to be picked up again; RING_DESTROY of a ring with
no slot in flight takes it out of service and answers how many slots were ready; HOSTLOST_READ answers the host-lost rings and,
without ACK or with none of them, changes nothing. -/
def Obligations.RingMessagesCreateHaltResumeDestroy : Prop :=
  ∀ (h k : Nat) (mb : Mbox) (s : State), let m := msgAt s h mb k
    (Accepted cardRingCreate h mb k s →
      let x := m.struct 16 64
      let r : Ring := { desc := BitVec.ofNat 512 x }
      let rid := 256 * h + bits x 8 8
      h < 4 → ringStages x s.blk.eng.minor = OK → r.job = m.job → s.blk.rings.has rid = false → r.paramsBad = false →
      s.blk.ringSemsBad h r = false → r.xprog = 0 → r.basesBad = false →
      Runs (.ringCreate h mb k) s fun t => DoneReply t m OK ∧ ∃ q, t.blk.rings.get? rid = some q ∧ q.desc = BitVec.ofNat 512 x ∧
        q.head = 0 ∧ q.tail = 0 ∧ q.done = 0 ∧ q.halt = 0 ∧ t.blk.sem h r.fillSem = 0 ∧ t.blk.sem h r.freeSem = 0 ∧
        (∀ d, r.doneSem = some d → t.blk.sem h d = 0) ∧ t.blk.tables = s.blk.tables ∧ t.blk.jobs = s.blk.jobs)
    ∧ (∀ r, Accepted cardRingHalt h mb k s → s.blk.ringNamed m = some r →
      Runs (.ringHalt h mb k) s fun t => DoneReply t m OK ∧ ∃ q, t.blk.rings.get? (m.at 16 2) = some q ∧
        hasReason q.halt haltREQUEST = true ∧ q.desc = r.desc ∧ q.head = r.head ∧ q.tail = r.tail ∧ q.done = r.done)
    ∧ (∀ r, Accepted (cardRingResume false) h mb k s → s.blk.ringNamed m = some r →
      hasReason r.halt (haltERROR ||| haltOVERRUN ||| haltREQUEST) = true →
      Runs (.ringResumeContinue h mb k) s fun t => DoneReply t m OK ∧ ∃ q, t.blk.rings.get? (m.at 16 2) = some q ∧
        hasReason q.halt (haltERROR ||| haltOVERRUN ||| haltREQUEST) = false ∧ q.head = r.head ∧ q.tail = r.tail ∧ q.done = r.done ∧
        q.retry = r.retry ++ match r.err with | .recPage p => if hasReason r.halt haltERROR then [p] else [] | _ => [])
    ∧ (∀ r, Accepted (cardRingResume true) h mb k s → s.blk.ringNamed m = some r → hasReason r.halt haltERROR = true →
      Runs (.ringResumeRetry h mb k) s fun t => DoneReply t m OK ∧ ∃ q, t.blk.rings.get? (m.at 16 2) = some q ∧
        hasReason q.halt (haltERROR ||| haltOVERRUN ||| haltREQUEST) = false ∧ q.head = r.head ∧ q.tail = r.tail ∧ q.done = r.done ∧
        q.retry = r.retry ++ match r.err with | .slot p => [p] | .recPage p => [p] | _ => [])
    ∧ (∀ r, Accepted cardRingDestroy h mb k s → s.blk.ringNamed m = some r → s.blk.ringWorks (m.at 16 2) = [] →
      Runs (.ringDestroy h mb k) s fun t => DoneReply t m OK ∧ t.store = s.store ∧ t.blk.works = s.blk.works ∧
        replied t m 16 4 = sat32 (r.tail - r.head) ∧
        t.blk.rings = (s.blk.rings.modify (m.at 16 2) fun r => { r with destroying := true, retry := [], headFault := false }).del (m.at 16 2))
    ∧ (Accepted cardHostlostRead h mb k s → (m.flag 18 0 = false ∨ ∀ x ∈ s.blk.rings, m.at 16 2 ≤ x.1 → x.2.hostLost = none) →
      Runs (.hostlostRead h mb k) s fun t => DoneReply t m OK ∧ t.store = s.store ∧ t.blk.rings = s.blk.rings ∧ t.blk.works = s.blk.works ∧
        replied t m 16 2 = min 7 ((s.blk.rings.filter fun x => x.2.hostLost.isSome && decide (m.at 16 2 ≤ x.1)).length))

/-! ## The messages of Tables 13-13 and 13-14: energy, layout, repair and tests of memory -/

/-- LEDGER_SET sets the budgets of the hubs it names and leaves the others and every balance; SCHED_SET sets the reserve size, the horizon and the shares
that it names, at the hubs that it names. -/
def Obligations.LedgerAndSchedulerParametersAreSet : Prop :=
  ∀ (h k : Nat) (mb : Mbox) (s : State), let m := msgAt s h mb k
    let after := fun g => if m.flag 16 g then m.at (24 + 2 * g) 2 else (s.blk.hub g).sched.budget
    (Accepted cardLedgerSet h mb k s → (∀ g, g < 4 → m.flag 16 g = true → m.at (24 + 2 * g) 2 ≤ 4000) → ((List.range 4).map after).sum ≤ 4000 →
      Runs (.ledgerSet h mb k) s fun t => DoneReply t m OK ∧ t.store = s.store ∧ t.blk.jobs = s.blk.jobs ∧
        ∀ g x, g < 4 → s.blk.hubs.get? g = some x → (t.blk.hub g).sched.budget = after g ∧ (t.blk.hub g).sched.mainBal = x.sched.mainBal ∧
          (t.blk.hub g).sched.reserve = x.sched.reserve ∧ (m.flag 16 g = true → (t.blk.hub g).sched.adopted = []))
    ∧ (Accepted cardLedgerSet h mb k s → (∃ g, g < 4 ∧ m.flag 16 g = true ∧ 4000 < m.at (24 + 2 * g) 2) ∨ 4000 < ((List.range 4).map after).sum →
      Runs (.ledgerSet h mb k) s fun t => DoneReply t m BUDGET_INVALID ∧ t.store = s.store ∧ ∀ g, (t.blk.hub g).sched = (s.blk.hub g).sched)
    ∧ (Accepted cardSchedSet h mb k s → (∀ g, g < 4 → m.flag 16 g = true → s.blk.schedBad m g = false) →
      Runs (.schedSet h mb k) s fun t => DoneReply t m OK ∧ t.store = s.store ∧
        ∀ g x, g < 4 → s.blk.hubs.get? g = some x → (t.blk.hub g).sched = if m.flag 16 g then { x.sched with
          rtres := if m.flag 17 0 then m.at 20 4 else x.sched.rtres
          horizon := if m.flag 17 1 then m.at 24 4 else x.sched.horizon
          shareRead := if m.flag 17 2 then m.at 28 1 else x.sched.shareRead
          shareWrite := if m.flag 17 2 then m.at 29 1 else x.sched.shareWrite
          shareRemote := if m.flag 17 2 then m.at 30 1 else x.sched.shareRemote } else x.sched)

/-- CHANNEL_MAPOUT PLAN keeps a plan of the present layout less the channels named and answers its LAYOUTID; LAYOUT_SET PLAN does so for the layout
record it reads; a COMMIT of the latest plan, named by its LAYOUTID and computed again to the same, starts the re-layout and replies PENDING (R271, R377).
Planning leaves the layout in force. -/
def Obligations.PlansAreKeptAndCommitted : Prop :=
  ∀ (h k : Nat) (mb : Mbox) (s : State), let m := msgAt s h mb k
    let b := s.start.onPair h (pairKey mb k) fun p => { p with st := .taken, copy := copyOf p.req }
    (∀ b2, Accepted (cardMapout 0) h mb k s → s.blk.jobFor m [m.at 32 8] = OK → m.at 17 1 ≤ 11 →
      let L := s.blk.eng.layout.less m.mapoutChans
      let p : Plan := { layout := L, id := layoutId L, mapout := true, out := m.mapoutChans }
      let b' := b.keepPlan b.eng.leader p 1
      layoutOk ((List.range 12).map fun _ => 2 ^ 64 - 1) L = true →
      msgWrite s.store b'.1 m b.eng.leader (m.at 32 8) (vacateBytes (if m.at 32 8 = 0 then [] else b'.2.take (m.at 40 4))) = .ok b2 →
      Runs (.channelMapoutPlan h mb k) s fun t => DoneReply t m OK ∧ t.blk.eng.plan = some p ∧ t.blk.eng.layout = s.blk.eng.layout ∧
        replied t m 16 4 = p.id % 2 ^ 32)
    ∧ (∀ head zones b2, Accepted (cardLayoutSet 0) h mb k s → s.blk.jobFor m [m.at 24 8, m.at 32 8] = OK → m.at 24 8 ≠ 0 →
      msgRead s.store b m b.eng.leader (m.at 24 8) 112 = (b, .ok head) →
      let no := bits (ofBytes head) 8 8
      let np := bits (ofBytes head) 16 8
      versionOk (bits (ofBytes head) 0 8) s.blk.eng.minor = true → rsvSet (ofBytes head) [(24, 104)] = false → 1 ≤ no ∧ no ≤ 64 → 1 ≤ np ∧ np ≤ 64 →
      msgRead s.store b m b.eng.leader (m.at 24 8 + 112) (8 * (no + np)) = (b, .ok zones) →
      let x := ofBytes (head ++ zones)
      let masks := (List.range 12).map fun q => bits x (8 * (16 + 8 * q)) 64
      let L := formLayout s.blk.trained masks (recordZones x 0 no) (recordZones x no np)
      let p : Plan := { layout := L, id := layoutId L }
      let b' := b.keepPlan b.eng.leader p 0
      (∀ j, j < no + np → bits x (8 * (112 + 8 * j) + 41) 23 = 0) → (masks.any (· != 0) = true → s.blk.feat featPRIVILEGED = true) →
      layoutOk s.blk.actives L = true →
      msgWrite s.store b'.1 m b.eng.leader (m.at 32 8) (vacateBytes (if m.at 32 8 = 0 then [] else b'.2.take (m.at 40 4))) = .ok b2 →
      Runs (.layoutSetPlan h mb k) s fun t => DoneReply t m OK ∧ t.blk.eng.plan = some p ∧ t.blk.eng.layout = s.blk.eng.layout ∧
        replied t m 16 4 = p.id % 2 ^ 32)
    ∧ (∀ p, s.blk.eng.plan = some p → m.at 20 4 = p.id → s.blk.replan p = p.id → s.blk.eng.relayout = none →
      layoutOk (if p.mapout then (List.range 12).map fun _ => 2 ^ 64 - 1 else s.blk.actives) p.layout = true →
      let started := fun (t : State) => (t.blk.pair h (pairKey mb k)).st = .pending ∧ t.store = s.store ∧ t.blk.eng.plan = some p ∧
        t.blk.eng.relayout = some { plan := p, old := s.blk.eng.layout, left := p.layout.stripes } ∧ t.blk.eng.layout = s.blk.eng.layout
      (Accepted (cardLayoutSet 1) h mb k s → zerosLayoutSet m = true → Runs (.layoutSetCommit h mb k) s started)
      ∧ (Accepted (cardMapout 1) h mb k s → zerosMapout m = true → Runs (.channelMapoutCommit h mb k) s started))

/-- PAGE_RETIRE of a frame that nothing pins and no slot in flight holds retires it, and of a retired frame changes nothing; REPAIR_READ answers the
records of a stack's repair ledger; CHANNEL_TEST starts its generator over the range named, where Table 9-6 permits the mode and none runs there, and STOP
ends it. -/
def Obligations.RepairAndTestMessagesAct : Prop :=
  ∀ (h k : Nat) (mb : Mbox) (s : State), let m := msgAt s h mb k
    (Accepted cardPageRetire h mb k s → m.at 16 8 % 65536 = 0 → s.blk.eng.layout.inCap (m.at 16 8) 65536 = true →
      s.blk.eng.retired.contains (m.at 16 8) = false → s.blk.eng.retired.length < Config.retiredMax → s.blk.framePinned s.store (m.at 16 8) = false →
      s.blk.usesGone s.blk.eng.nextUse (fun _ p => p.onFrame (m.at 16 8)) = true →
      Runs (.pageRetire h mb k) s fun t => DoneReply t m OK ∧ t.store = s.store ∧ t.blk.eng.retired = addN s.blk.eng.retired (m.at 16 8) ∧
        t.blk.eng.layout = s.blk.eng.layout ∧ t.blk.rings = s.blk.rings ∧ t.blk.tables = s.blk.tables)
    ∧ (Accepted cardPageRetire h mb k s → m.at 16 8 % 65536 = 0 → s.blk.eng.layout.inCap (m.at 16 8) 65536 = true →
      s.blk.eng.retired.contains (m.at 16 8) = true →
      Runs (.pageRetire h mb k) s fun t => DoneReply t m OK ∧ t.store = s.store ∧ t.blk.eng.retired = s.blk.eng.retired ∧
        t.blk.dies = s.blk.dies)
    ∧ (Accepted cardRepairRead h mb k s → m.at 16 1 ≤ 11 →
      let all := (s.blk.die (m.at 16 1)).ledger
      Runs (.repairRead h mb k) s fun t => DoneReply t m OK ∧ t.store = s.store ∧ t.blk.dies = s.blk.dies ∧ replied t m 16 4 = all.length % 2 ^ 32 ∧
        replied t m 20 4 = min 14 (all.length - m.at 20 4) ∧ ∀ r, (all.drop (m.at 20 4)).head? = some r → replied t m 32 16 = r.toNat)
    ∧ (m.at 16 2 < 768 → m.at 24 8 ≤ m.at 32 8 → m.at 32 8 < chanBytesAll → (s.blk.chan (m.at 16 2)).test = none →
      s.blk.dies.get? (m.at 16 2 / 64) ≠ none →
      let starts := fun (mode : Nat) (t : State) => DoneReply t m OK ∧ t.store = s.store ∧ t.blk.eng.layout = s.blk.eng.layout ∧
        (t.blk.chan (m.at 16 2)).test = some { mode := mode, first := m.at 24 8, last := m.at 32 8, pattern := m.at 40 4, reads := bits (m.at 19 1) 0 4, next := m.at 24 8 }
      (Accepted (cardChannelTest 0) h mb k s → s.blk.testPermitted (m.at 16 2) 0 (m.at 24 8) = true → Runs (.channelTestScan h mb k) s (starts 0))
      ∧ (Accepted (cardChannelTest 1) h mb k s → s.blk.testPermitted (m.at 16 2) 1 (m.at 24 8) = true → Runs (.channelTestMarch h mb k) s (starts 1))
      ∧ (Accepted (cardChannelTest 2) h mb k s → s.blk.testPermitted (m.at 16 2) 2 (m.at 24 8) = true → Runs (.channelTestPattern h mb k) s (starts 2)))
    ∧ (Accepted (cardChannelTest 3) h mb k s → m.at 16 2 < 768 →
      Runs (.channelTestStop h mb k) s fun t => DoneReply t m OK ∧ t.store = s.store ∧ (t.blk.chan (m.at 16 2)).test = none ∧ t.blk.rings = s.blk.rings)

/-! ## The row-cache messages -/

namespace Sys2Proof.Spec

/-- Way w of the granule's set holds the line l of granule (ch, row), and no other way of that set does. -/
def CachedAlone (c : Cache) (ch row w : Nat) (l : Line) : Prop :=
  Tbl.wf c.sets = true ∧ Tbl.wf (c.set (cacheSet ch row)).ways = true ∧ l.service = false ∧
    ((c.set (cacheSet ch row)).ways.filter fun x => x.2.ch == ch && x.2.row == row) = [(w, l)]

/-- No line of the granule is found in the slice of hub g. -/
def NotCached (t : State) (g ch row : Nat) : Prop := (t.blk.hub g).slice.cache.line? (cacheSet ch row) ch row = none

end Sys2Proof.Spec

/-- CACHE_PARTITION sets the partition's record and drops its lines in ways that left its mask; CACHE_FLUSH drops the lines it names at the hubs it names and
makes the named fills in flight stale; neither waits where no commit in flight holds such a line. CACHE_STATUS answers a hub's cache counts; MOGUL_READ from
entry 0 takes a new snapshot and answers how many entries it holds. -/
def Obligations.CacheMessagesAct : Prop :=
  ∀ (h k : Nat) (mb : Mbox) (s : State), let m := msgAt s h mb k
    (Accepted cardCachePartition h mb k s →
      let x := m.struct 16 16
      let q := bits x 8 4
      let p := partOf x
      let leaves := fun (w : Nat) (l : Line) => l.part == q && !p.ways.testBit w
      partStages x s.blk.eng.minor = OK → (∀ g ∈ s.blk.upHubs, 2 ≤ (s.blk.hub g).slice.enabledIn p.ways) → p.locked &&& p.ways = p.locked → p.hot ≠ 0 →
      (∀ g ∈ s.blk.upHubs, (s.blk.hub g).slice.anyHeld leaves = false) →
      Runs (.cachePartition h mb k) s fun t => DoneReply t m OK ∧ t.store = s.store ∧ t.blk.eng.partitions = s.blk.eng.partitions.put q p ∧
        t.blk.dies = s.blk.dies ∧ ∀ g ch row w l, g ∈ s.blk.upHubs → CachedAlone (s.blk.hub g).slice.cache ch row w l → leaves w l = true → NotCached t g ch row)
    ∧ (Accepted cardCacheFlush h mb k s → m.at 16 1 ≤ 15 → (m.flag 17 0 = true → m.at 16 1 = 0) →
      (∀ g ∈ s.blk.upHubs, m.flag 18 g = true → (s.blk.hub g).slice.anyHeld (s.blk.flushes m) = false) →
      Runs (.cacheFlush h mb k) s fun t => DoneReply t m OK ∧ t.store = s.store ∧ t.blk.eng.partitions = s.blk.eng.partitions ∧ t.blk.dies = s.blk.dies ∧
        ∀ g ∈ s.blk.upHubs, m.flag 18 g = true →
          (∀ f ∈ (t.blk.hub g).slice.fills, (m.flag 17 0 || f.part == m.at 16 1) = true → m.at 19 1 = 0 → f.stale = true) ∧
          (t.blk.hub g).slice.fills.length = (s.blk.hub g).slice.fills.length ∧
          ∀ ch row w l, CachedAlone (s.blk.hub g).slice.cache ch row w l → l.born < (s.blk.hub g).slice.nextFill → s.blk.flushes m w l = true →
            NotCached t g ch row)
    ∧ (Accepted cardCacheStatus h mb k s → s.blk.hubCheck (m.at 16 1) = OK →
      let x := (s.blk.hub (m.at 16 1)).slice
      Runs (.cacheStatus h mb k) s fun t => DoneReply t m OK ∧ OnlyHubs s t ∧ replied t m 16 8 = x.cache.disFrames.length % 2 ^ 64 ∧
        replied t m 96 8 = x.hits % 2 ^ 64 ∧ replied t m 104 8 = x.admissions % 2 ^ 64 ∧ replied t m 112 8 = x.offersAccepted % 2 ^ 64 ∧
        replied t m 120 8 = x.offersDeclined % 2 ^ 64)
    ∧ (Accepted cardMogulRead h mb k s → s.blk.hubCheck (m.at 16 1) = OK → m.at 20 4 = 0 → s.blk.hubs.get? (m.at 16 1) ≠ none →
      let es := (s.blk.hub (m.at 16 1)).slice.mogulTop (m.at 17 1)
      Runs (.mogulRead h mb k) s fun t => DoneReply t m OK ∧ OnlyHubs s t ∧ (t.blk.hub (m.at 16 1)).slice.snapshot = some es ∧
        replied t m 16 4 = es.length ∧ replied t m 20 4 = min 14 es.length)
    ∧ (∀ es, Accepted cardMogulRead h mb k s → s.blk.hubCheck (m.at 16 1) = OK → m.at 20 4 ≠ 0 → (s.blk.hub (m.at 16 1)).slice.snapshot = some es →
      es.length < 2 ^ 32 →
      Runs (.mogulRead h mb k) s fun t => DoneReply t m OK ∧ OnlyHubs s t ∧ (t.blk.hub (m.at 16 1)).slice = (s.blk.hub (m.at 16 1)).slice ∧
        replied t m 16 4 = es.length ∧ replied t m 20 4 = min 14 (es.length - m.at 20 4))

/-! ## The messages of Table 13-15: translation, faults, windows and regions -/

/-- HARVEST_ARM arms the delivery buffer at the address given, HPROD counting from 0, and stores to nothing but the buffer's header (R319); WINDOW_SET sets a
window whose entry is valid, WINDOW_CLEAR of a window through which nothing is outstanding clears it (R322); REGION_REGISTER registers a region whose pages are
all present and writable, REGION_RELEASE with no signal latched for its semaphore releases it (R341 to R344). -/
def Obligations.FaultBufferWindowAndRegionMessagesAct : Prop :=
  ∀ (h k : Nat) (mb : Mbox) (s : State), let m := msgAt s h mb k
    let x := m.struct 16 32
    (Accepted cardHarvestArm h mb k s → m.at 24 8 % 256 = 0 → 6 ≤ m.at 32 1 → m.at 32 1 ≤ 16 → m.at 36 2 ≤ 10000 →
      s.blk.eng.layout.inCap (m.at 24 8) (128 + 128 * 2 ^ m.at 32 1) = true → MemInv s →
      Runs (.harvestArm h mb k) s fun t => DoneReply t m OK ∧
        t.blk.eng.harvest = { s.blk.eng.harvest with armed := true, base := m.at 24 8, lgN := m.at 32 1, sem := m.at 34 2, gdelay := m.at 36 2, hprod := 0 } ∧
        t.store.host = s.store.host ∧ ∀ a, a < m.at 24 8 ∨ m.at 24 8 + 128 ≤ a → readByte t.store.mem a = readByte s.store.mem a)
    ∧ (Accepted cardWindowSet h mb k s → windowStages x s.blk.eng.minor = OK → s.blk.windowSet (bits x 8 12) = false → bits x 20 6 = m.job →
      bits x 26 3 = 1 ∨ bits x 26 3 = 3 → bits x 192 28 ≠ 0 → rangeBad (bits x 128 56) (bits x 192 28) = false →
      Runs (.windowSet h mb k) s fun t => DoneReply t m OK ∧ t.store = s.store ∧
        t.blk.eng.windows = s.blk.eng.windows.put (bits x 8 12) (BitVec.ofNat 256 x) ∧ t.blk.works = s.blk.works)
    ∧ (∀ w, Accepted cardWindowClear h mb k s → m.at 16 2 ≤ 4095 → s.blk.eng.windows.get? (m.at 16 2) = some w → jobOf w 20 = m.job →
      s.blk.windowFree (m.at 16 2) s.blk.eng.nextUse = true →
      Runs (.windowClear h mb k) s fun t => DoneReply t m OK ∧ t.store = s.store ∧ t.blk.eng.windows = s.blk.eng.windows.del (m.at 16 2) ∧
        t.blk.works = s.blk.works)
    ∧ (Accepted cardRegionRegister h mb k s → regionStages x s.blk.eng.minor = OK → bits x 192 28 ≠ 0 → rangeBad (bits x 128 56) (bits x 192 28) = false →
      s.blk.eng.regions.has (bits x 24 12) = false → bits x 36 6 = m.job → s.blk.allotted (bits x 46 2) m.job (bits x 48 16) = true →
      s.blk.arrivalSem (bits x 46 2) (bits x 48 16) = false → s.blk.freeOrDone (bits x 46 2) (bits x 48 16) = false →
      (∀ r ∈ s.blk.eng.regions.vals, bits r.toNat 36 6 = m.job →
        meets (bits x 128 56) (65536 * bits x 192 28) (bits r.toNat 128 56) (65536 * bits r.toNat 192 28) = false) →
      firstUnwritable s.store s.start m.job (bits x 128 56) (bits x 192 28) REGION_INVALID = none →
      Runs (.regionRegister h mb k) s fun t => DoneReply t m OK ∧ t.store = s.store ∧
        t.blk.eng.regions = s.blk.eng.regions.put (bits x 24 12) (BitVec.ofNat 256 x) ∧ t.blk.rings = s.blk.rings)
    ∧ (∀ r, Accepted cardRegionRelease h mb k s → s.blk.eng.regions.get? (m.at 16 2) = some r → jobOf r 36 = m.job →
      (∀ a ∈ s.blk.eng.arrivals, ¬ (a.hub = bits r.toNat 46 2 ∧ a.sem = bits r.toNat 48 16)) →
      Runs (.regionRelease h mb k) s fun t => DoneReply t m OK ∧ t.store = s.store ∧ t.blk.eng.regions = s.blk.eng.regions.del (m.at 16 2) ∧
        t.blk.rings = s.blk.rings)

/-- FAULT_RESUME and FAULT_RESUME with ABORT of an open record complete, whatever requesters joined it: the record is closed, and the reply names the
requesters resumed and the rights needed. A slot that waits halted on it at its unit is active again, with ABORT it ends with FAULT_ABORTED; a ring that waits
at its HEAD is no longer halted there, and one halted at its status block no longer holds its write back (R320). -/
def Obligations.FaultResumeRestartsOrEndsTheHaltedSlot : Prop :=
  (∀ (h k : Nat) (mb : Mbox) (s : State) (r : Harvest), let m := msgAt s h mb k
    s.blk.eng.harvest.records.find? (fun r => r.hseq == m.at 16 4 && r.opened) = some r →
    let closed := fun (t : State) => DoneReply t m OK ∧ replied t m 16 2 = (2 ^ r.reqs.length - 1) % 2 ^ 16 ∧ replied t m 18 1 = r.need % 2 ^ 8 ∧
      (s.blk.eng.harvest.waiting = [] → ∀ x ∈ t.blk.eng.harvest.records, x.hseq = r.hseq → x.opened = false)
    (Accepted (cardFaultResume false) h mb k s → Runs (.faultResume h mb k) s closed)
    ∧ (Accepted (cardFaultResume true) h mb k s → Runs (.faultResumeAbort h mb k) s closed))
  ∧ (∀ (h k ring p : Nat) (mb : Mbox) (s : State) (r : Harvest) (q : Requester) (w : Work), let m := msgAt s h mb k
    s.blk.eng.harvest.records.find? (fun r => r.hseq == m.at 16 4 && r.opened) = some r → r.reqs = [q] → q.who = .unit ring p → p < 2 ^ 64 →
    s.blk.work? ring p = some w → w.ring = ring → w.p = p → w.phase = .faulted → w.late = false → s.blk.hostLostNow = false →
    (Accepted (cardFaultResume false) h mb k s → Runs (.faultResume h mb k) s fun t => DoneReply t m OK ∧
      ∃ w', t.blk.work? ring p = some w' ∧ w'.phase = .active ∧ w'.status = w.status)
    ∧ (Accepted (cardFaultResume true) h mb k s → Runs (.faultResumeAbort h mb k) s fun t => DoneReply t m OK ∧
      ∃ w', t.blk.work? ring p = some w' ∧ w'.phase = .visible ∧ w'.status = FAULT_ABORTED))
  ∧ (∀ (h k rid : Nat) (mb : Mbox) (s : State) (r : Harvest) (q : Requester) (x : Ring), let m := msgAt s h mb k
    s.blk.eng.harvest.records.find? (fun r => r.hseq == m.at 16 4 && r.opened) = some r → r.reqs = [q] → s.blk.rings.get? rid = some x →
    Accepted (cardFaultResume false) h mb k s →
    (q.who = .slotBytes rid → Runs (.faultResume h mb k) s fun t => DoneReply t m OK ∧ ∃ y, t.blk.rings.get? rid = some y ∧ y.headFault = false)
    ∧ (q.who = .status rid → Runs (.faultResume h mb k) s fun t => DoneReply t m OK ∧ ∃ y, t.blk.rings.get? rid = some y ∧ y.head = x.head ∧
      y.tail = x.tail ∧ y.done = x.done))

/-- PREFETCH and ADVISE DEMOTE of a range of movable pages, with a destination of its own domain, reply PENDING and begin a migration of that range;
MIGRATE_PAGE moves the migration's next page, with the rest of its run, once no write or update use of it stands, and goes past it; with its last page the
migration ends once nothing uses what it moved; no translation of a page moved stays cached (R326). -/
def Obligations.MigrationsBeginAndMovePages : Prop :=
  (∀ (h k : Nat) (mb : Mbox) (s : State), let m := msgAt s h mb k
    let len := 65536 * m.at 32 4
    let begins := fun (demote : Bool) (t : State) => (t.blk.pair m.hub m.key).st = .pending ∧ bits (t.blk.pair m.hub m.key).rep.toNat 64 8 = 1 ∧
      t.store = s.store ∧ t.blk.eng.migrations = s.blk.eng.migrations ++
        [({ job := m.job, va := m.at 24 8, pages := m.at 32 4, dest := m.at 40 8, demote := demote, hub := m.hub, key := m.key,
            span := pieceSize s.store s.start m.job (m.at 24 8) } : Migration)]
    rangeBad (m.at 24 8) (m.at 32 4) = false → m.at 32 4 ≠ 0 → crossesStart s.store s.start m.job (m.at 24 8) = false →
    migrateFail s.store s.start m.job (m.at 24 8) len (m.at 32 4 + 1) 0 = none →
    m.at 40 8 % largestPage s.store s.start m.job (m.at 24 8) len (m.at 32 4 + 1) 0 = 0 →
    (Accepted cardPrefetch h mb k s → s.blk.eng.layout.inCap (m.at 40 8) len = true → Runs (.prefetch h mb k) s (begins false))
    ∧ (Accepted (cardAdvise 1) h mb k s → m.at 40 8 + len ≤ Config.capTier.toNat → Runs (.adviseDemote h mb k) s (begins true)))
  ∧ (∀ (s : State) (g : Migration) (e : XEntry), s.blk.fatal = false → s.blk.fw s.blk.eng.leader ≠ .handover → s.blk.eng.migrations = [g] →
      g.next < 65536 * g.pages → (g.va + g.next) % 65536 = 0 → leafAt s.store s.start g.job (g.va + g.next) = .ok (some e) → 0 < e.size →
      (∀ x ∈ s.blk.uses, inRange g.job (g.va + g.next) e.size x.1 x.2 = true → x.2.rights.testBit 1 = false ∧ x.2.rights.testBit 2 = false) →
      s.blk.usesGone g.drain (inRange g.job (g.va + g.last) (g.next - g.last)) = true → (e.target = 1 ∨ g.demote = true → s.blk.hostUp = true) →
      Runs (.migratePage g.job ((g.va + g.next) / 65536)) s fun t =>
        (g.next + e.size < 65536 * g.pages →
          ∃ span, t.blk.eng.migrations = [{ g with next := g.next + e.size, last := g.next, span := span, drain := s.blk.eng.nextUse }])
        ∧ (65536 * g.pages ≤ g.next + e.size → (∀ x ∈ s.blk.uses, inRange g.job (g.va + g.next) e.size x.1 x.2 = false) → t.blk.eng.migrations = [])
        ∧ ∀ i, ∀ c ∈ (t.blk.hub i).xlat.sets.vals, ∀ x ∈ c.ways.vals, x.job = g.job → meets x.va x.size (g.va + g.next) e.size = false)

/-- INVALIDATE of a range that nothing pins and no slot in flight holds drops every cached translation that meets it, in every hub, and ends at once; with
PAGES 0 it ends with no effect (R312). ADVISE WARM of any range ends with memory, rings and slots as they were; of one page it fills the translation cache of
the hub whose ring the job slot uses, as a prefetch walk fills it (R310, R326). -/
def Obligations.TranslationCacheIsDroppedAndWarmed : Prop :=
  (∀ (h k : Nat) (mb : Mbox) (s : State), let m := msgAt s h mb k
    Accepted cardInvalidate h mb k s →
      (m.flag 16 0 = true → m.at 24 8 = 0 ∧ m.at 32 4 = 0 ∧ s.blk.pinned m.job 0 (2 ^ 56) = false) →
      (m.flag 16 0 = false → rangeBad (m.at 24 8) (m.at 32 4) = false ∧ s.blk.pinned m.job (m.at 24 8) (65536 * m.at 32 4) = false) →
      s.blk.usesGone s.blk.eng.nextUse (invUses m) = true →
      Runs (.invalidate h mb k) s fun t => DoneReply t m OK ∧ t.store = s.store ∧ t.blk.rings = s.blk.rings ∧ t.blk.jobs = s.blk.jobs ∧
        (m.flag 16 0 = false → m.at 32 4 = 0 → ∀ g, (t.blk.hub g).xlat = (s.blk.hub g).xlat) ∧
        (m.flag 16 0 = true ∨ m.at 32 4 ≠ 0 → ∀ g, ∀ c ∈ (t.blk.hub g).xlat.sets.vals, ∀ e ∈ c.ways.vals, e.job = m.job →
          m.flag 16 0 = false ∧ meets e.va e.size (m.at 24 8) (65536 * m.at 32 4) = false))
  ∧ (∀ (h k : Nat) (mb : Mbox) (s : State), let m := msgAt s h mb k
    Accepted (cardAdvise 0) h mb k s → rangeBad (m.at 24 8) (m.at 32 4) = false → m.at 40 8 = 0 →
    Runs (.adviseWarm h mb k) s fun t => DoneReply t m OK ∧ t.store = s.store ∧ t.blk.rings = s.blk.rings ∧ t.blk.works = s.blk.works ∧ t.blk.dies = s.blk.dies)
  ∧ (∀ (h k g : Nat) (mb : Mbox) (s : State) (p : Page) (e : XEntry), let m := msgAt s h mb k
    Accepted (cardAdvise 0) h mb k s → rangeBad (m.at 24 8) (m.at 32 4) = false → m.at 40 8 = 0 → m.at 32 4 = 1 →
    (List.range 4).filter (fun i => (s.blk.ringsOf i).any fun x => x.2.job == m.job) = [g] → s.blk.hubs.get? g ≠ none →
    (s.blk.hub g).xlat.find m.job (m.at 24 8) = none → walkAll s.store s.start m.job { va := m.at 24 8, read := true } = (.page p, some e) →
    Runs (.adviseWarm h mb k) s fun t => (t.blk.hub g).xlat = (s.blk.hub g).xlat.insert e true ∧ ∀ i, i ≠ g → (t.blk.hub i).xlat = (s.blk.hub i).xlat)

/-! ## The messages of Table 13-15: twin, firmware, dump and service -/

/-- TWIN_PAIR begins a pairing and replies PENDING (R386); TWIN_UNPAIR ends a twin at once, PLANNED puts a fence on every mirrored table first (R399, R400);
TWIN_STATUS answers the twin's state, role, pair and counts (R404). -/
def Obligations.TwinMessagesAct : Prop :=
  ∀ (h k : Nat) (mb : Mbox) (s : State), let m := msgAt s h mb k
    (Accepted cardTwinPair h mb k s → m.at 20 4 ≠ 0 → s.blk.eng.twin.state = .unpaired ∨ s.blk.eng.twin.state = .solo →
      Runs (.twinPair h mb k) s fun t => (t.blk.pair m.hub m.key).st = .pending ∧ t.store = s.store ∧ t.blk.eng.twin.state = .pairing ∧
        t.blk.eng.twin.pairId = m.at 20 4 ∧ t.blk.eng.twin.primaryAsked = m.flag 16 0 ∧ t.blk.eng.twin.resyncAsked = m.flag 16 1 ∧
        t.blk.eng.twin.lastPairId = s.blk.eng.twin.lastPairId ∧ t.blk.tables = s.blk.tables)
    ∧ (Accepted (cardTwinUnpair 0) h mb k s → unpairOk s.blk.eng.twin = true →
      Runs (.twinUnpair h mb k) s fun t => DoneReply t m OK ∧ t.blk.eng.twin.state = .solo ∧ t.blk.eng.twin.fences = [] ∧
        t.blk.eng.twin.pairId = s.blk.eng.twin.pairId)
    ∧ (∀ n td, Accepted { cardTwinUnpair 1 with first := false } h mb k s → unpairOk s.blk.eng.twin = true → (n, td) ∈ s.blk.mirrored →
      s.blk.fence? n = none →
      Runs (.twinUnpairPlanned h mb k) s fun t => (t.blk.pair m.hub m.key).st = .pending ∧ t.store = s.store ∧ t.blk.eng.twin.unpairing = true ∧
        t.blk.eng.twin.state = s.blk.eng.twin.state ∧ t.blk.fence? n ≠ none ∧ t.blk.tables = s.blk.tables)
    ∧ (Accepted cardTwinStatus h mb k s →
      Runs (.twinStatus h mb k) s fun t => DoneReply t m OK ∧ OnlyHubs s { t with blk := { t.blk with eng := { t.blk.eng with leaderRecs := s.blk.eng.leaderRecs } } } ∧
        replied t m 16 1 = stateCode s.blk.eng.twin.state ∧ replied t m 20 4 = s.blk.eng.twin.pairId % 2 ^ 32 ∧
        replied t m 32 8 = s.blk.eng.twin.mismatches % 2 ^ 64)

/-- DUMP_ARM arms the dump region with the frames of its pages (R415); FW_STAGE of an image that verifies writes it into the bank that is not running, and
FW_HANDOVER to a staged bank puts every hub in service into HANDOVER, both replying PENDING (R429, R430); RECALIBRATE marks the channels it names and that
are active (R431). -/
def Obligations.DumpAndFirmwareMessagesAct : Prop :=
  ∀ (h k : Nat) (mb : Mbox) (s : State), let m := msgAt s h mb k
    let x := m.struct 16 32
    let b := s.start.onPair h (pairKey mb k) fun p => { p with st := .taken, copy := copyOf p.req }
    (Accepted cardDumpArm h mb k s → s.blk.jobFor m [bits x 128 56] = OK → dumpStages x s.blk.eng.minor = OK → bits x 40 6 = m.job →
      bits x 192 32 + 4096 ≤ bits x 64 32 → 16 ≤ bits x 192 32 → bits x 192 32 ≤ 4096 → rangeBad (bits x 128 56) (bits x 64 32) = false →
      s.blk.regionMeets m.job (bits x 128 56) (bits x 64 32) = false → firstUnwritable s.store b m.job (bits x 128 56) (bits x 64 32) DUMP_INVALID = none →
      Runs (.dumpArm h mb k) s fun t => DoneReply t m OK ∧ t.store = s.store ∧ t.blk.eng.dump = { armed := true, job := m.job, vbase := bits x 128 56, pages := bits x 64 32, svcPages := bits x 192 32, frames := dumpFrames s.store b m.job (bits x 128 56) (bits x 64 32) })
    ∧ (∀ bs, Accepted cardFwStage h mb k s → s.blk.jobFor m [m.at 24 8] = OK →
      msgRead s.store b m s.blk.eng.leader (m.at 24 8) (m.at 32 4) = (b, .ok bs) →
      let hd := ofBytes (bs.take 64)
      let img : FwBank := { header := BitVec.ofNat 512 hd, bodyCrc := crc32c (bs.drop 64), size := (bs.drop 64).length }
      imageBad hd (m.at 32 4) = false → m.at 36 4 = crc32c bs → bits hd 96 32 = crc32c (bs.drop 64) → bits hd 128 16 = 0x5A02 → bits hd 8 8 = 2 →
      bits hd 16 4 ≤ s.blk.eng.minor → s.blk.eng.minor ≤ bits hd 20 4 →
      Runs (.fwStage h mb k) s fun t => (t.blk.pair m.hub m.key).st = .pending ∧ t.store = s.store ∧
        t.blk.eng.boot = { s.blk.eng.boot.setBank (1 - s.blk.runBank) img with otherState := 0 } ∧ t.blk.eng.staged = false ∧
        ∀ g, (t.blk.hub g).standby = false)
    ∧ (Accepted cardFwHandover h mb k s → m.at 16 1 = 1 - s.blk.runBank → s.blk.eng.boot.otherState = 1 →
      Runs (.fwHandover h mb k) s fun t => (t.blk.pair m.hub m.key).st = .pending ∧ t.store = s.store ∧ t.blk.eng.boot = s.blk.eng.boot ∧
        t.blk.eng.handover = some (m.at 16 1, s.blk.age s.blk.eng.leader) ∧ ∀ g, g < 4 → s.blk.hubUp g = true → t.blk.fw g = .handover)
    ∧ (Accepted cardRecalibrate h mb k s → s.blk.recalChans m ≠ [] → s.blk.dieUp (m.at 16 1) = true →
      Runs (.recalibrate h mb k) s fun t => (t.blk.pair m.hub m.key).st = .pending ∧ t.store = s.store ∧
        (∀ c ∈ s.blk.recalChans m, (t.blk.chan c).recalAge = 1) ∧ ∀ q, q ≠ m.at 16 1 → t.blk.die q = s.blk.die q)

/-- STACK_SERVICE and HUB_SERVICE reply PENDING: RELEASE of a stack that backs no channel of the layout puts it in STATE 2, ADMIT of one out of service in
STATE 3; RELEASE of a hub without rings ends its functions and keeps its ring stop, ADMIT of a lost one whose budget was given marks it being admitted
(R432, R433). DONE_REPLY of a released stack that holds no share and no operation powers it off and answers OK. -/
def Obligations.ServiceMessagesActAndAreAnswered : Prop :=
  (∀ (h k trained trep : Nat) (starts : Bool) (mb : Mbox) (s : State), let m := msgAt s h mb k
    let q := m.at 17 1
    let waits := fun (t : State) => (t.blk.pair m.hub m.key).st = .pending
    (Accepted (cardStackService 0) h mb k s → q < 12 → (s.blk.die q).st ≠ 0 → s.blk.dies.get? q ≠ none →
      (∀ c ∈ s.blk.eng.layout.ord ++ s.blk.eng.layout.priv, c / 64 ≠ q) →
      Runs (.stackServiceRelease h mb k) s fun t => waits t ∧ t.store = s.store ∧ t.blk.die q = { s.blk.die q with st := 2 } ∧
        ∀ o, o ≠ q → t.blk.die o = s.blk.die o)
    ∧ (Accepted (cardStackService 1) h mb k s → q < 12 → (s.blk.die q).st = 0 → s.blk.dies.get? q ≠ none → (s.blk.hub (q / 3)).ringStop = true →
      Runs (.stackServiceAdmit h mb k trained trep) s fun t => waits t ∧ t.store = s.store ∧ t.blk.die q = { s.blk.die q with st := 3 } ∧
        t.blk.eng.almGen = s.blk.eng.almGen + 1 ∧ ∀ o, o ≠ q → t.blk.die o = s.blk.die o)
    ∧ (Accepted (cardHubService 0) h mb k s → q < 4 → s.blk.hubUp q = true → 2 ≤ s.blk.upHubs.length → s.blk.ringsOf q = [] → q ≠ h →
      Runs (.hubServiceRelease h mb k) s fun t => waits t ∧ (t.blk.hub q).inService = false ∧ (t.blk.hub q).ringStop = (s.blk.hub q).ringStop ∧
        ∀ g, g ≠ q → t.blk.hubUp g = s.blk.hubUp g)
    ∧ (Accepted (cardHubService 1) h mb k s → q < 4 → s.blk.hubUp q = false → (s.blk.hub q).ringStop = true → (s.blk.hub q).rebudgeted = true →
      s.blk.hubs.get? q ≠ none →
      Runs (.hubServiceAdmit h mb k starts) s fun t => waits t ∧ t.store = s.store ∧ (t.blk.hub q).admitting = true ∧ t.blk.hubUp q = false))
  ∧ ∀ (h k : Nat) (mb : Mbox) (s : State) (p : PendMsg), s.blk.eng.pend = [p] → p.hub = h → p.key = pairKey mb k → p.behind = false →
      let m : Msg := { hub := h, key := pairKey mb k, x := p.copy }
      (cardStackService 0).takes (BitVec.ofNat 2048 p.copy) = true → p.copy < 2 ^ 2048 → s.blk.mayReply p true = true → h < 4 → Quiet s →
      s.blk.dies.get? (m.at 17 1) ≠ none → (s.blk.die (m.at 17 1)).shares = [] → (s.blk.die (m.at 17 1)).board = [] →
      Runs (.doneReply h mb k) s fun t => DoneReply t m OK ∧ t.blk.eng.pend = [] ∧ t.blk.die (m.at 17 1) = (s.blk.die (m.at 17 1)).off ∧
        ∀ o, o ≠ m.at 17 1 → t.blk.die o = s.blk.die o

/-! ## Power, start and the end (Chapter 15, R412, R413) -/

/-- PWRGD_RISE arms a start and changes nothing else; PWRGD_FALL clears the engine and its memory, and keeps the boot store; ORDERLY_STOP keeps layout, event
log, dump and the repair ledgers, marks a warm start and lets everything else go (with no class 1 row left to finish, or in FATAL, memory stands); START_UP brings up each hub that reaches the end of its boot, in FWSTATE RUN with the
bank that starts, leads with the lowest of them, and puts each stack in service of which a channel trains with the spares that it has (R417 to R421). -/
def Obligations.PowerAndStartCommandsAct : Prop :=
  ∀ s : State,
    (s.blk.eng.power.pwrgd = false → Runs .pwrgdRise s fun t => t.store = s.store ∧
      t.blk = { s.start with eng := { s.blk.eng with power := { pwrgd := true, rstn := false, stopped := false } } })
    ∧ (s.blk.eng.power.pwrgd = true → Runs .pwrgdFall s fun t => t.store.mem = [] ∧ t.store.poison = [] ∧ t.store.host = s.store.host ∧
        t.blk.eng = { power := {}, boot := s.blk.eng.boot } ∧ (∀ h, t.blk.hub h = {}) ∧ (∀ q, t.blk.die q = {}) ∧ t.blk.jobs = [] ∧ t.blk.tables = [] ∧
        t.blk.rings = [] ∧ t.blk.works = [] ∧ t.blk.progs = [])
    ∧ (s.blk.eng.power.pwrgd = true → s.blk.eng.power.rstn = true → s.blk.upHubs ≠ [] →
        Runs .orderlyStop s fun t => t.blk.eng.power = { pwrgd := true, rstn := false, stopped := true } ∧ t.blk.eng.layout = s.blk.eng.layout ∧
          t.blk.eng.dump = s.blk.eng.dump ∧ (∀ h, t.blk.hub h = { tap := (s.blk.hub h).tap }) ∧ (∀ q, (t.blk.die q).st = 0) ∧
          t.blk.jobs = [] ∧ t.blk.tables = [] ∧ t.blk.rings = [] ∧ t.blk.works = [] ∧ t.blk.progs = [])
    ∧ (s.blk.eng.power.pwrgd = true → s.blk.eng.power.rstn = true → s.blk.upHubs ≠ [] → s.blk.eng.passing = false →
        s.blk.eng.heldEvents = [] → s.blk.fatal = true ∨ (∀ q, (s.blk.die q).journals = []) →
        Runs .orderlyStop s fun t => t.store = s.store ∧ t.blk.eng.events = s.blk.eng.events ∧ t.blk.eng.eseq = s.blk.eng.eseq ∧
          t.blk.eng.boot = s.blk.eng.boot ∧
          ∀ q, (t.blk.die q).ledger = (s.blk.die q).ledger ∧ ((t.blk.die q).warmMarker = true ↔ (s.blk.die q).st = 1))
    ∧ ∀ (rep : StartReport) (n l : Nat) (fb : Bool), s.blk.eng.power.pwrgd = true → s.blk.eng.power.rstn = false →
        startBank s.blk.eng.boot rep = some (n, fb) → l < 4 →
        let starts := fun (h : Nat) => s.blk.hubs.get? h ≠ none ∧ bootFailOf s.blk.eng.boot rep h = 0
        starts l → (∀ g, g < l → ¬ starts g) →
        Runs (.startUp rep) s fun t => t.blk.eng.power.rstn = true ∧ t.blk.eng.leader = l ∧
          (∀ h, h < 4 → starts h → t.blk.hubUp h = true ∧ t.blk.fw h = .run ∧ (t.blk.hub h).regs.bank = n) ∧
          (∀ h, h < 4 → ¬ starts h → t.blk.hubUp h = false) ∧
          (∀ q, s.blk.dies.get? q ≠ none → rep.stackFail.testBit q = false →
            let warm := s.blk.eng.power.stopped && s.blk.dies.vals.any (·.warmMarker)
            let active := startActive rep warm q (s.blk.die q).chans
            active ≠ 0 → (t.blk.die q).st = 1 ∧ (t.blk.die q).active = active)

/-- HANDOVER_TIMEOUT, 20 ms into a handover, returns every hub in service to RUN on the old bank and leaves the selector; FATAL of cause 1 or 2 puts
every hub in service into FWSTATE FATAL, records an event and ends the twin (R412, R413, R430). -/
def Obligations.HandoverTimeoutAndFatalAct : Prop :=
  ∀ s : State, Quiet s →
    (∀ n since, s.blk.eng.handover = some (n, since) → since + handoverBound ≤ s.blk.age s.blk.eng.leader → s.blk.fatal = false →
      Runs .handoverTimeout s fun t => t.store = s.store ∧ t.blk.eng.handover = none ∧ t.blk.eng.boot = s.blk.eng.boot ∧ t.blk.eng.fwver = s.blk.eng.fwver ∧
        ∀ h, h < 4 → s.blk.hubUp h = true → t.blk.fw h = .run ∧ (t.blk.hub h).regs.bank = s.blk.runBank)
    ∧ ∀ h cause, h < 4 → s.blk.hubUp h = true → s.blk.fatal = false → 1 ≤ cause → cause ≤ 2 →
      Runs (.fatal h cause) s fun t => t.blk.fatal = true ∧ (∀ g, g < 4 → s.blk.hubUp g = true → t.blk.fw g = .fatal) ∧
        s.blk.eng.eseq < t.blk.eng.eseq ∧ (s.blk.eng.twin.state ≠ .unpaired → t.blk.eng.twin.state = .solo) ∧
        (s.blk.eng.dump.armed = false → t.store = s.store) ∧ t.blk.rings = s.blk.rings ∧ t.blk.tables = s.blk.tables

/-! ## The package fabric, signals and windows (Chapters 7, 11 and 12) -/

/-- A signal word of a job slot's own semaphore adds its count there, and at a ring's fill semaphore the ring's TAIL with it; for a region's arrival semaphore
it is latched instead, and ARRIVAL_SIGNAL_APPLY applies the oldest one latched (R193, R194, R344, R345). -/
def Obligations.SignalWordsReachTheirSemaphores : Prop :=
  ∀ (h : Nat) (word : BitVec 64) (s : State),
    let job := bits word.toNat 40 6
    let sem := bits word.toNat 8 16
    let c := bits word.toNat 24 16 + 1
    (h < 4 → s.blk.hubUp h = true → versionOk (bits word.toNat 0 8) s.blk.eng.minor = true → bits word.toNat 46 18 = 0 → s.blk.allotted h job sem = true →
      s.blk.freeOrDone h sem = false →
      (s.blk.arrivalSem h sem = false → s.blk.fillRing h sem = none → Runs (.signalWord h word) s fun t => OnlyHub s t h ∧
        t.blk.sem h sem = s.blk.sem h sem + BitVec.ofNat 64 c ∧ (∀ q, q ≠ sem → t.blk.sem h q = s.blk.sem h q) ∧
        t.blk.hub h = { s.blk.hub h with sems := (t.blk.hub h).sems })
      ∧ (∀ rid r, s.blk.arrivalSem h sem = false → s.blk.fillRing h sem = some (rid, r) → s.blk.rings.get? rid = some r → r.tail + c ≤ r.head + r.n →
        Runs (.signalWord h word) s fun t => t.blk.sem h sem = s.blk.sem h sem + BitVec.ofNat 64 c ∧
          ∃ q, t.blk.rings.get? rid = some q ∧ q.tail = r.tail + c ∧ q.head = r.head ∧ q.done = r.done)
      ∧ (s.blk.arrivalSem h sem = true → Runs (.signalWord h word) s fun t => t.store = s.store ∧
          t.blk = { s.start with eng := { s.blk.eng with arrivals := s.blk.eng.arrivals ++ [({ hub := h, sem := sem, count := c, job := job } : Arrival)] } }))
    ∧ ∀ q a rest, takeFirst (fun x : Arrival => x.sol.isNone && x.hub == h && x.sem == q) s.blk.eng.arrivals = some (a, rest) →
      Runs (.arrivalSignalApply h q) s fun t => t.blk.eng.arrivals = rest ∧ t.blk.tables = s.blk.tables ∧
        (s.blk.fillRing h q = none → s.blk.hubs.get? h ≠ none → t.store = s.store ∧ t.blk.rings = s.blk.rings ∧
          t.blk.sem h q = s.blk.sem h q + BitVec.ofNat 64 a.count)

/-- A write through the host-physical window stores its bytes there and nowhere else, and completes unless it is posted; a read answers the bytes that
stand there and changes no memory; it waits where a stack of its channels stands at thermal level 4 (R242, R331 to R333). -/
def Obligations.HostWindowWritesAndReads : Prop :=
  ∀ (port p : Nat) (s : State), port < 4 → s.blk.hubUp port = true → Config.hpwBase + p < Config.hpwBase + 2 ^ 42 →
    (∀ (data : List Byte) (posted : Bool) (ch row : Nat), MemInv s → s.blk.hostAccess p data.length = true → s.blk.locate p = some (ch, row) →
      (s.blk.chan ch).lost = false → (∀ a ∈ atomsOf p data.length, s.store.poison.contains a = false) → s.blk.lostIn p data.length = false →
      Runs (.hostWindowWrite port (Config.hpwBase + p) data posted) s fun t => readBytes t.store.mem p data.length = data ∧ t.store.host = s.store.host ∧
        (∀ a, a < p ∨ p + data.length ≤ a → readByte t.store.mem a = readByte s.store.mem a) ∧
        t.blk.outbox = s.blk.outbox ++ (if posted then [] else [.fabDone port]) ∧ t.blk.eng = s.blk.eng ∧ t.blk.rings = s.blk.rings)
    ∧ (∀ n, s.blk.hostAccess p n = true → s.blk.outsideOpen p n = true → (∀ a ∈ atomsOf p n, poisonedIn s.store s.start (64 * a) 64 = false ∧ s.blk.lostAt (64 * a) = false) →
      Runs (.hostWindowRead port (Config.hpwBase + p) n []) s fun t => t.store = s.store ∧ t.blk.eng = s.blk.eng ∧ t.blk.hubs = s.blk.hubs ∧
        t.blk.outbox = s.blk.outbox ++ [.fabData port (readBytes s.store.mem p n) []])

/-- An access through a window that is not set is refused and counted; through a set one that permits it, an arrival is accepted, a signal applied, and a
read answered with the bytes of the pages that it translates to, memory unchanged; a write to one page stores to its bytes alone (R324, R325; while an
earlier signal or arrival of the entry has still to be applied, a later one and a write stay at the port: R339, log 108). What
a receiver answers: an acceptance ends the access, data arrives for the oldest read, and a refusal, a fault or poison gives the status of a slot whose
work has ended; data for a ring's own slot becomes the slot's bytes; an answer to an access passed on goes back to its sender, and one to a message's read
is kept for it (R264, R323, R364). -/
def Obligations.WindowAccessesAndResponses : Prop :=
  (∀ (a : WinAccess) (s : State), a.hub < 4 → (s.blk.hub a.hub).ringStop = true → (∀ x ∈ s.blk.eng.arrivals, x.win ≠ some a.win) →
    let answers := fun (t : State) (x : WinAnswer) => t.blk.outbox = s.blk.outbox ++ [.winAnswer a.win x]
    (s.blk.eng.windows.get? a.win = none → Runs (.windowAccess a) s fun t => answers t .refused ∧ t.store = s.store ∧ t.blk.hubs = s.blk.hubs ∧
      t.blk.rings = s.blk.rings)
    ∧ ∀ e, s.blk.eng.windows.get? a.win = some e → s.blk.winTakes e.toNat a = true →
      let job := bits e.toNat 20 6
      let va := bits e.toNat 128 56 + a.page * 65536 + a.offset
      (∀ sol ep, a.op = .arrival sol ep → Runs (.windowAccess a) s fun t => answers t .accepted ∧ t.store = s.store ∧ t.blk.hubs = s.blk.hubs ∧
        t.blk.eng = { s.blk.eng with arrivals := s.blk.eng.arrivals ++ [({ job := job, win := some a.win, sol := some (sol, ep) } : Arrival)] })
      ∧ (∀ h sem c, a.op = .signal h sem c → s.blk.freeOrDone h sem = false → s.blk.arrivalSem h sem = false → s.blk.fillRing h sem = none →
        s.blk.hubs.get? h ≠ none → Runs (.windowAccess a) s fun t => answers t .accepted ∧ t.store = s.store ∧
          t.blk.sem h sem = s.blk.sem h sem + BitVec.ofNat 64 c)
      ∧ (∀ n b pgs, a.op = .read n [] → winPages s.store a.hub job false (pagesOf va n) s.start = (b, .ok pgs) →
        (∀ pg ∈ pgs, pg.target = 0 ∧ s.blk.outsideOpen (pg.span va n).1 (pg.span va n).2.2 = true) →
        (∀ x ∈ pgs.map (fun pg => pg.span va n), ∀ i ∈ atomsOf x.1 x.2.2, poisonedIn s.store s.start (64 * i) 64 = false ∧ s.blk.lostAt (64 * i) = false) →
        Runs (.windowAccess a) s fun t => t.store = s.store ∧
          answers t (.data ((pgs.map fun pg => pg.span va n).flatMap fun x => readBytes s.store.mem x.1 x.2.2)))
      ∧ (∀ data b pg, a.op = .write data → MemInv s → Quiet s → (pagesOf va data.length).any (fun v => s.blk.migrating job { va := v, write := true }) = false →
        winPages s.store a.hub job true (pagesOf va data.length) s.start = (b, .ok [pg]) → pg.target = 0 →
        Runs (.windowAccess a) s fun t => (t.blk.outbox.getLast? = some (.winAnswer a.win .accepted)) ∧ t.store.host = s.store.host ∧
          ∀ q, q < (pg.span va data.length).1 ∨ (pg.span va data.length).1 + (pg.span va data.length).2.2 ≤ q →
            readByte t.store.mem q = readByte s.store.mem q))
  ∧ (∀ (ring p : Nat) (s : State) (o : WinOut) (ans : WinAnswer), s.blk.answered ring p ans = some o → s.blk.answerFits ring p ans = true →
    let closed := fun (t : State) => t.store = s.store ∧ t.blk.eng.winOut = s.blk.eng.winOut.erase o
    (∀ w, ring < 1024 → s.blk.work? ring p = some w →
      (ans = .accepted → Runs (.windowResponse ring p ans) s fun t => closed t ∧ t.blk.rings = s.blk.rings ∧
        t.blk.work? ring p = some { w with outstanding := w.outstanding - 1 })
      ∧ (∀ bs win off rest, ans = .data bs → w.reads = (win, off, bs.length) :: rest → Runs (.windowResponse ring p ans) s fun t => closed t ∧
          ∃ q, t.blk.work? ring p = some q ∧ q.reads = rest ∧ q.outstanding = w.outstanding - 1 ∧
            ∀ i, i < bs.length → q.remote.get? (win * 2 ^ 44 + off + i) = bs[i]?)
      ∧ (w.phase = .visible → w.winStatus = 0 → ∀ st, (ans, st) ∈ [(WinAnswer.refused, if w.opcode = 0x31 then SEM_REFUSED else WINDOW_REFUSED), (.faulted, WINDOW_FAULT), (.poisoned, MEMORY_POISONED)] →
          Runs (.windowResponse ring p ans) s fun t => closed t ∧ t.blk.rings = s.blk.rings ∧
            ∃ q, t.blk.work? ring p = some q ∧ q.status = st ∧ q.outstanding = w.outstanding - 1))
    ∧ (∀ r bs, ring < 1024 → s.blk.work? ring p = none → s.blk.rings.get? ring = some r → r.slotAsked = true → r.slotBytes = none → o.read = true →
      ans = .data bs → bs.length = 256 →
      Runs (.windowResponse ring p ans) s fun t => closed t ∧ t.blk.works = s.blk.works ∧ t.blk.rings.get? ring = some { r with slotBytes := some bs })
    ∧ (onward 0 ≤ ring → o.read = true → Runs (.windowResponse ring p ans) s fun t => closed t ∧ t.blk.rings = s.blk.rings ∧
        t.blk.outbox = s.blk.outbox ++ [.winAnswer (ring - onward 0) ans])
    ∧ (1024 ≤ ring → ring < onward 0 → Runs (.windowResponse ring p ans) s fun t => closed t ∧ t.blk.rings = s.blk.rings ∧ t.blk.works = s.blk.works ∧
        t.blk.eng.msgReads.length = s.blk.eng.msgReads.length))

/-- The host link: a retrain holds it for some hub's age, its timeout and a reported loss lose it and what was held, and a reconnection brings it back, the writes held
during a retrain going to host memory in their order (R346 to R350). -/
def Obligations.HostLinkCommandsAct : Prop :=
  ∀ s : State,
    (s.blk.upHubs ≠ [] → s.blk.eng.host = .up → Runs .hostLinkRetrain s fun t => t.store = s.store ∧ ∃ h ∈ s.blk.upHubs,
      t.blk = { s.start with freeCount := s.blk.freeCount + 1, eng := { s.blk.eng with host := .retraining h (s.blk.age h) } })
    ∧ (∀ cause, s.blk.eng.host ≠ .lost → Runs (.hostLinkLoss cause) s fun t => t.blk.eng.host = .lost ∧ t.blk.heldHost = [] ∧
        (Quiet s → s.blk.works = [] → (∀ x ∈ s.blk.dies, x.2.journals = []) → t.store = s.store ∧ t.blk.rings = s.blk.rings))
    ∧ (∀ h since, s.blk.eng.host = .retraining h since →
      (since + 1000000 ≤ s.blk.age h → Runs .hostRetrainTimeout s fun t => t.blk.eng.host = .lost ∧ t.blk.heldHost = [])
      ∧ (s.blk.age h < since + 1000000 → Runs .hostRetrainTimeout s fun t => t.store = s.store ∧ t.blk = s.start)
      ∧ Runs .hostLinkReconnect s fun t => t.blk.eng.host = .up ∧ t.blk.heldHost = [] ∧ t.store.mem = s.store.mem ∧
          t.store.host = s.blk.heldHost.foldl (fun m x => writeBytes m x.2.1 x.2.2) s.store.host ∧ ∀ w ∈ t.blk.works.vals, w.hostHeld = false)
    ∧ (s.blk.eng.host = .lost → Runs .hostLinkReconnect s fun t => t.store = s.store ∧ t.blk = { s.start with eng := { s.blk.eng with host := .up } })

/-! ## Slots picked up (Chapters 3, 5 and 7) -/

namespace Sys2Proof.Spec

/-- The ring would pick up slot p, whose bytes are x (R201). -/
def Picks (s : State) (rid p x : Nat) (r : Ring) : Prop := s.blk.rings.get? rid = some r ∧ (tryPick s.store s.start rid).2 = some (p, x)

/-- The slot is in flight with the bytes copied, and the ring has gone past it, but for a slot picked up again (R202). -/
def InFlight (t : State) (rid p x : Nat) (r : Ring) (P : Work → Prop) : Prop :=
  ∃ w q, t.blk.work? rid p = some w ∧ w.ring = rid ∧ w.p = p ∧ w.slot = BitVec.ofNat 2048 x ∧ P w ∧ t.blk.rings.get? rid = some q ∧
    (r.retry = [] → p < q.head)

/-- The slot's work has ended with a status. -/
def Ended (w : Work) (status : Nat) : Prop := w.phase = .visible ∧ w.status = status

/-- A check's status ends the slot, and without one its work is as P says. -/
def Checked (status : Nat) (P : Work → Prop) (w : Work) : Prop := (status ≠ OK → Ended w status) ∧ (status = OK → P w)

/-- The address a lies in the status block of a ring of hub h, through a translation that the hub holds. -/
def InStatusBlock (s : State) (h a : Nat) : Prop :=
  ∃ x ∈ s.blk.rings, ringHub x.1 = h ∧ ∃ c ∈ (s.blk.hub h).xlat.sets.vals, ∃ e ∈ c.ways.vals, e.covers x.2.job x.2.cbase = true ∧
    (e.page x.2.cbase).addr + x.2.cbase % 65536 ≤ a ∧ a < (e.page x.2.cbase).addr + x.2.cbase % 65536 + 64

/-- The slots of the stream commands that are picked up, by opcode and, for COPY_PERMUTE, PHASE. -/
def pickCommand (x rid : Nat) : Option Instr :=
  let op := bits x 8 8
  if op = 0x02 then some (.lookupGather rid)
  else if op = 0x03 then some (.prefetchRows rid)
  else if op = 0x10 then some (.scatterAccum rid)
  else if op = 0x11 then some (.applyUpdate rid)
  else if op = 0x12 then some (.requant rid)
  else if op = 0x13 then some (.zeroRows rid)
  else if op = 0x20 then some (if phaseOf x = 1 then .copyPermuteCommit rid else if phaseOf x = 2 then .copyPermuteAbandon rid else .copyPermuteSend rid)
  else if op = 0x21 then some (.digestExchange rid)
  else if op = 0x30 then some (.solstice rid)
  else if op = 0x31 then some (.signal rid)
  else some (.lookupPool rid)

end Sys2Proof.Spec

/-- A lookup slot, one of an undefined opcode, and the slots over rows are picked up and checked (Table 3-5): a failed check ends the slot, otherwise
its work is active on the table's descriptor, a slot over rows at its first row. -/
def Obligations.LookupAndRowSlotsArePickedUp : Prop :=
  (∀ (rid p x : Nat) (r : Ring) (s : State), Picks s rid p x r →
    let after := InFlight (rid := rid) (p := p) (x := x) (r := r) (P := Checked (s.blk.lookupStatus r x) fun w => w.phase = .active ∧
      ∃ l, w.data = .lookup l ∧ l.desc = (s.blk.tables.getD (lop x).table {}).desc)
    (bits x 8 8 = 0x01 ∨ opcodes.contains (bits x 8 8) = false → Runs (.lookupPool rid) s fun t => after t ∧ t.blk.tables = s.blk.tables)
    ∧ (bits x 8 8 = 0x02 → Runs (.lookupGather rid) s fun t => after t ∧ t.blk.tables = s.blk.tables))
  ∧ (∀ (rid p x : Nat) (r : Ring) (s : State), Picks s rid p x r →
    let head := fun (rsv : List (Nat × Nat)) (unknown : Bool) => headCheck s.blk.eng.minor r.cls x rsv unknown
    let rows := fun (status first last : Nat) (t : State) => InFlight t rid p x r (Checked status fun w => w.phase = .active ∧
      ∃ q, w.data = .rows q ∧ q.next = first ∧ q.last = last ∧ q.desc = (s.blk.tables.getD (bits x 236 20) {}).desc) ∧ t.blk.tables = s.blk.tables
    let range := thenCheck (head rangeReserved false) fun _ => s.blk.rangeCheck r.job x
    (bits x 8 8 = 0x12 → s.blk.resharding x = false → Runs (.requant rid) s (rows range (gFirst x) (gFirst x + gCount x)))
    ∧ (bits x 8 8 = 0x13 → s.blk.resharding x = false → Runs (.zeroRows rid) s (rows range (gFirst x) (gFirst x + gCount x)))
    ∧ (bits x 8 8 = 0x03 → Runs (.prefetchRows rid) s (rows (thenCheck (head prefetchReserved (decide (1 < bits x 231 2))) fun _ => s.blk.prefetchCheck r.job x) 0 0))
    ∧ (bits x 8 8 = 0x21 → Runs (.digestExchange rid) s
        (rows (thenCheck (head exchangeReserved false) fun _ => if s.blk.feat featTWIN then s.blk.exchangeCheck r.job x else FEATURE_ABSENT) (gFirst x) (gFirst x + gCount x))))

/-- The slots that read bytes of their own at pickup, update batches, COPY_PERMUTE, SOLSTICE, and SIGNAL slots are picked up and checked: a failed check
ends them, otherwise their work of that kind has begun. -/
def Obligations.UpdatePermuteAndBarrierSlotsArePickedUp : Prop :=
  ∀ (rid p x : Nat) (r : Ring) (s : State), Picks s rid p x r →
    let head := fun (rsv : List (Nat × Nat)) (unknown : Bool) => headCheck s.blk.eng.minor r.cls x rsv unknown
    let after := fun (status : Nat) (P : Work → Prop) (t : State) => InFlight t rid p x r (Checked status P) ∧ t.blk.jobs = s.blk.jobs ∧ t.blk.progs = s.blk.progs
    let update := after (s.blk.updateHead r.cls r.job x) fun w => ∃ u, w.data = .update u
    let perm := after (thenCheck (head permReserved (decide (phaseOf x = 3))) fun _ => if (s.blk.tableUse r.job (bits x 236 20)).isNone then TABLE_UNDEFINED else OK)
      fun w => ∃ q, w.data = .rows q
    let sol := after (thenCheck (head (solReserved ++ (if solEng x = 0 then [(256, 56)] else [])) false) fun _ => if solBase x % 2 ≠ 0 then SLOT_INVALID else OK)
      fun w => ∃ ws sent, w.data = .solstice ws sent
    let sig := after (thenCheck (head (sigReserved x) false) fun _ =>
      if !sigRemote x && !s.blk.allotted (ringHub rid) r.job (sigSem x) then SEM_INVALID else OK) fun w => w.phase = .active
    (bits x 8 8 = 0x10 → Runs (.scatterAccum rid) s update)
    ∧ (bits x 8 8 = 0x11 → Runs (.applyUpdate rid) s update)
    ∧ (bits x 8 8 = 0x20 → phaseOf x = 0 ∨ phaseOf x = 3 → Runs (.copyPermuteSend rid) s perm)
    ∧ (bits x 8 8 = 0x20 → phaseOf x = 1 → Runs (.copyPermuteCommit rid) s perm)
    ∧ (bits x 8 8 = 0x20 → phaseOf x = 2 → Runs (.copyPermuteAbandon rid) s perm)
    ∧ (bits x 8 8 = 0x30 → Runs (.solstice rid) s sol)
    ∧ (bits x 8 8 = 0x31 → Runs (.signal rid) s sig)

/-- The frame of a pickup, whatever the slot asks for: of stack memory only status blocks of the hub's rings are stored to, and jobs, programs, the layout in force
and the event log's earlier records stay (R202, R224). -/
def Obligations.PickupsStoreToStatusBlocksOnly : Prop :=
  ∀ (i : Instr) (rid p x : Nat) (r : Ring) (s t : State), MemInv s → Quiet s → Picks s rid p x r → pickCommand x rid = some i → exec i s = .next t →
    t.blk.jobs = s.blk.jobs ∧ t.blk.progs = s.blk.progs ∧ t.blk.eng.layout = s.blk.eng.layout ∧ t.blk.eng.windows = s.blk.eng.windows ∧
      ∀ a, ¬ InStatusBlock s (ringHub rid) a → readByte t.store.mem a = readByte s.store.mem a

/-- A slot whose SSEQ has differed for 200 age units ends with SLOT_STALE (R200); a look ahead at a slot of which a page is not cached walks ahead for each
such page, takes no slot and changes no memory (R211, R310). -/
def Obligations.StaleSlotsEndAndLookaheadWalks : Prop :=
  ∀ (rid : Nat) (s : State) (r : Ring), s.blk.rings.get? rid = some r →
    (∀ x b a, s.blk.mayPick rid r = true → slotFetch s.store s.start rid r r.nextSlot = (b, some x) →
      bits x 32 32 ≠ r.nextSlot % 2 ^ 32 → r.staleSince = some a → a + 200 ≤ s.blk.age (ringHub rid) →
      Runs (.slotStale rid) s fun t => InFlight t rid r.nextSlot x r fun w => Ended w SLOT_STALE ∧ w.noFlag = true)
    ∧ (∀ k, 1 ≤ k → k ≤ r.lookahead → r.head + k < r.tail → r.destroying = false → s.blk.jobs.get? r.job ≠ none →
      s.blk.hubs.get? (ringHub rid) ≠ none → (∀ w ∈ (s.blk.hub (ringHub rid)).xlat.walks, w.1 < (s.blk.hub (ringHub rid)).xlat.nextWalk) →
      let uncached := fun (v : Nat) => ((s.blk.hub (ringHub rid)).xlat.find r.job v).isNone
      let pages := pagesOf (r.slotVa (r.head + k)) 256
      pages.any uncached = true →
      Runs (.slotLookahead rid k) s fun t => t.store = s.store ∧ t.blk.rings = s.blk.rings ∧ t.blk.works = s.blk.works ∧
        ∀ v ∈ pages, uncached v = true → (t.blk.hub (ringHub rid)).xlat.walking .ahead (v / 65536) = true)

/-! ## Slots at work: tiles, rows, walks, faults, ends (Chapters 3, 7 and 11) -/

/-- TILE_START of a lookup slot of its own whose tile is translated starts the tile with one fetch for each distinct row; ROW_FETCH of a row that reads well gives
its decoded elements to the tile; PARTIAL_COMBINE adds the next stack's partial to its bag, in the order of the stacks (R82 to R91). -/
def Obligations.LookupTilesFetchAndCombine : Prop :=
  ∀ (rid p : Nat) (s : State) (w : Work) (l : Lookup), s.blk.work? rid p = some w → w.ring = rid → w.p = p → w.data = .lookup l → w.phase = .active →
    let o := lop w.x
    let td := tdOf l.desc
    (∀ b tl, s.blk.fatal = false → s.blk.commitAhead w = false → w.group = none → s.blk.members rid p = [p] → l.running = false →
      planTile s.store s.start rid p = (b, some tl) →
      let rows := distinct ((tileTerms tl o).map (·.2.lrow))
      rows ≠ [] → (∀ lr ∈ rows, (b.rowVia rid p td lr).2 = OK) →
      Runs (.tileStart rid ⟨p, []⟩) s fun t => ∃ w' l', t.blk.work? rid p = some w' ∧ w'.phase = .active ∧ w'.data = .lookup l' ∧ l'.running = true ∧
        l'.fetches.map (·.lrow) = rows.map (fun lr => (b.rowVia rid p td lr).1.lrow) ∧ ∀ f ∈ l'.fetches, f.got = false)
    ∧ (∀ (err : ReadErr) f b1 b2 stack e hd pl, s.blk.fatal = false → l.fetches.find? (fun g => g.lrow == f.lrow && !g.got) = some f →
      s.blk.rowQueued f.ch rid w.lead f.lrow = false →
      let r : RowRef := { td := td, lrow := f.lrow, parts := f.pieces, ch := f.ch }
      (if w.cls = 0 then (s.start, some (true, err)) else s.start.wideFetch r err) = (b1, some (stack, e)) →
      readRowHealed s.store b1 (s.blk.homeHub r.stack) r stack e w.cls = (b2, .row hd pl) →
      Runs (.rowFetch rid p f.lrow err) s fun t => ∃ w' l', t.blk.work? rid p = some w' ∧ w'.data = .lookup l' ∧
        ∀ g ∈ l'.fetches, g.lrow = f.lrow → g.got = true ∧
          (f.got = false → g.elems = if o.figures then decodeFigures td.wfmt td.width hd pl else decodeRow td.wfmt td.width hd pl))
    ∧ (∀ bag stack next rest, l.running = true → o.gather = false → o.strict = false → bag ∈ l.bags →
      l.bags.find? (fun g => g.j == bag.j && !g.finished) = some bag → bag.left = stack :: next :: rest →
      let ts := bag.terms.filter fun t => l.fetches.any fun f => f.lrow == t.lrow && f.stack == stack
      (∀ f ∈ l.fetches, f.got = true) → s.blk.taskStands rid p (some stack) = false → s.blk.taskStands rid p none = false →
      Runs (.partialCombine rid p bag.j stack) s fun t => t.store = s.store ∧ t.blk.hubs = s.blk.hubs ∧ t.blk.dies = s.blk.dies ∧
        ∃ w' l', t.blk.work? rid p = some w' ∧ w'.data = .lookup l' ∧ ∀ g ∈ l'.bags, g.j = bag.j → g.left = next :: rest ∧
          g.acc = match poolList o.mode o.figures td.width (l.values ts) with
                  | none => bag.acc
                  | some v => some (combinePartial o.mode bag.acc v))

/-- TRANSLATION_WALK takes the entry that its read brought, or that the entry cache holds: a table entry takes the walk one level on; a leaf that serves a
prefetch is cached and ends the walk; an absent entry ends a prefetch without a fault record (R300 to R311). HARVEST_DELIVER writes a due record to the buffer
alone, advances HPROD, signals and sets the HARVEST cause (R319). -/
def Obligations.WalksAdvanceAndRecordsAreDelivered : Prop :=
  (∀ (h id : Nat) (s : State) (w : Walk), (s.blk.hub h).xlat.walks.get? id = some w → (s.blk.hub h).xlat.mayIssue id w = true →
    s.blk.migrating w.job w.need = false → s.blk.hubs.get? h ≠ none →
    let pa := entryAddr w.table w.level w.need.va
    s.blk.entryCached pa = true ∨ (w.asked = true ∧ ∀ ch row, s.blk.locate pa = some (ch, row) → (s.blk.chan ch).holds (.walk h id) = false) →
    entryStatus s.store s.start pa = OK →
    let entry := entryOf s.start w.job w.level w.need.va (rdNat s.store s.start pa 8)
    let stays := fun (t : State) => t.store = s.store ∧ t.blk.rings = s.blk.rings ∧ t.blk.works = s.blk.works ∧ t.blk.eng = s.blk.eng
    (∀ next, entry = .table next → Runs (.translationWalk h id []) s fun t => stays t ∧ (t.blk.hub h).xlat.sets = (s.blk.hub h).xlat.sets ∧
      ∃ a, (t.blk.hub h).xlat.walks.get? id = some { w with level := w.level + 1, table := next, asked := a })
    ∧ (∀ e pg, w.who = .ahead → w.discard = false → entry = .leaf e → judge s.start e w.level w.need = .page pg → Tbl.wf (s.blk.hub h).xlat.walks = true →
      Runs (.translationWalk h id []) s fun t => stays t ∧
        (t.blk.hub h).xlat.walks.get? id = none ∧ (t.blk.hub h).xlat.sets = ((s.blk.hub h).xlat.insert e true).sets)
    ∧ (w.who = .ahead → entry = .absent → Tbl.wf (s.blk.hub h).xlat.walks = true →
      Runs (.translationWalk h id []) s fun t => stays t ∧ (t.blk.hub h).xlat.walks.get? id = none))
  ∧ ∀ (s : State) (r : Harvest), let hs := s.blk.eng.harvest
    let h := s.blk.eng.leader
    s.blk.fatal = false → hs.armed = true → hs.due = [r] → r.age + hs.gdelay ≤ s.blk.age h → s.blk.hubs.get? h ≠ none → s.blk.fillRing h hs.sem = none →
    1 ≤ 2 ^ hs.lgN - (hs.hprod - rdNat s.store s.start (hs.base + 16) 8) → MemInv s → Quiet s →
    Runs .harvestDeliver s fun t => t.blk.eng.harvest.hprod = hs.hprod + 1 ∧ t.blk.eng.harvest.due = [] ∧ t.blk.sem h hs.sem = s.blk.sem h hs.sem + 1 ∧
      (t.blk.hub h).regs.intStatus.getLsbD intHARVEST = true ∧ t.store.host = s.store.host ∧
      ∀ a, a < hs.base ∨ hs.base + 128 + 128 * 2 ^ hs.lgN ≤ a → readByte t.store.mem a = readByte s.store.mem a

namespace Sys2Proof.Spec

/-- The instance of a job slot's Solstice number at an epoch cannot be released yet. -/
def Unreleased (s : State) (job solid epoch : Nat) : Prop :=
  ∀ x ∈ s.blk.eng.barriers, x.is job solid epoch = true → (x.opened && x.sent && x.windows.all x.remote.contains) = false

end Sys2Proof.Spec

/-- SOLSTICE_ARRIVAL of a ring that is not the last one opens or joins the instance and waits; the last one, where every window has arrived, releases it: the
slot ends OK and the number goes to its next epoch (R217, R218). REMOTE_ARRIVAL counts a window and is acknowledged; ARRIVAL_RESEND sends again, ARRIVAL_ACK
ends that (R219). -/
def Obligations.BarriersArriveReleaseAndResend : Prop :=
  (∀ (rid : Nat) (s : State) (w : Work) (j : Job) (ws : List Nat), ((s.blk.ringWorks rid).filter fun w => w.opcode == 0x30 && w.phase == .active).head? = some w →
    s.blk.work? rid w.p = some w → w.data = .solstice ws false → (∀ v ∈ s.blk.ringWorks rid, w.p ≤ v.p) → s.blk.eng.passing = false → ws.length = solEng w.x →
    (s.start.recsHeld rid w.p).2 = true → s.blk.jobs.get? w.job = some j →
    let solid := solId w.x
    let epoch := solEpoch w.x
    let cur := j.epochOf solid
    let i := s.blk.barrier w.job solid epoch
    (i.opened = true → i.nrings = solRings w.x ∧ i.windows = ws) → ¬ (rid, w.p) ∈ i.rings → i.sent = false →
    (i.rings.length + 1 < solRings w.x → epoch = cur ∨ (epoch = cur + 1 ∧ Unreleased s w.job solid cur) →
      Runs (.solsticeArrival rid) s fun t => t.store = s.store ∧ t.blk.jobs = s.blk.jobs ∧ t.blk.outbox = s.blk.outbox ∧
        (∃ w', t.blk.work? rid w.p = some w' ∧ w'.phase = .active ∧ w'.data = .solstice ws true) ∧
        t.blk.barrier w.job solid epoch =
          { i with rings := i.rings ++ [(rid, w.p)], windows := ws, nrings := solRings w.x, opened := true, clear := i.clear || solClear w.x })
    ∧ (solRings w.x ≤ i.rings.length + 1 → (∀ v ∈ ws, v ∈ i.remote) → epoch = cur → Unreleased s w.job solid (cur + 1) → w.late = false → w.winStatus = 0 →
      Runs (.solsticeArrival rid) s fun t => t.store = s.store ∧ (∃ w', t.blk.work? rid w.p = some w' ∧ Ended w' OK) ∧
        (∀ x ∈ t.blk.eng.barriers, x.is w.job solid cur = false) ∧ ∃ j', t.blk.jobs.get? w.job = some j' ∧ j'.epochOf solid = cur + 1))
  ∧ (∀ (win job solid epoch : Nat) (s : State) (j : Job), s.blk.eng.passing = false → s.blk.windowOf job win = true → s.blk.jobs.get? job = some j →
      let i := s.blk.barrier job solid epoch
      (epoch = j.epochOf solid ∨ (epoch = j.epochOf solid + 1 ∧ Unreleased s job solid (j.epochOf solid)) → i.sent = false →
        Runs (.remoteArrival win job solid epoch) s fun t => t.store = s.store ∧ t.blk.outbox = s.blk.outbox ++ [.arrivalAck win solid epoch] ∧
          t.blk.barrier job solid epoch = { i with remote := addN i.remote win } ∧ t.blk.jobs = s.blk.jobs)
      ∧ (epoch ≠ j.epochOf solid → epoch ≠ j.epochOf solid + 1 → Quiet s →
        Runs (.remoteArrival win job solid epoch) s fun t => t.store = s.store ∧ t.blk.outbox = s.blk.outbox ++ [.arrivalAck win solid epoch] ∧
          t.blk.eng.barriers = s.blk.eng.barriers ∧ t.blk.jobs = s.blk.jobs))
  ∧ ∀ (i : Nat) (s : State),
      (∀ u, s.blk.eng.unacked[i]? = some u → Runs (.arrivalResend i) s fun t => t.store = s.store ∧
        t.blk = { s.start with outbox := s.blk.outbox ++ [match u.win with
          | some w => .winArrival w (s.blk.winHead s.blk.eng.leader w 0) u.job u.solid u.epoch
          | none => .release u.hub u.job u.solid u.epoch] })
      ∧ Runs (.arrivalAck i) s fun t => t.store = s.store ∧ t.blk = { s.start with eng := { s.blk.eng with unacked := s.blk.eng.unacked.eraseIdx i } }

/-- SLOT_COMPLETE of a slot whose work has ended and whose record's and flag's pages are held, the host link standing where they or its writes need it, retires it
and counts it in DONE (R206); SLOT_TIMEOUT and SLOT_DEADLINE end a lookup that has not completed with LATE (R215, R221, R407). SIGNAL_FIRE, once every
earlier slot of the ring has its record and the slot's own record and flag pages are held, adds the slot's count to the semaphore it names and ends it; a
remote one is sent through its window, and the slot waits (Table 7-15). -/
def Obligations.SlotsCompleteExpireAndSignal : Prop :=
  (∀ (rid p : Nat) (s : State) (r : Ring) (w : Work), s.blk.fatal = false → s.blk.rings.get? rid = some r → s.blk.work? rid p = some w → w.ring = rid → w.p = p →
    p < 2 ^ 64 → w.recorded = false → w.hostAffected = false →
      (w.hostRec = true ∨ w.hostHeld = true → s.blk.eng.host = .up) →
      w.phase = .visible → w.outstanding = 0 → w.hostMute = false → s.blk.recBarred rid p = false → w.recNeeds r = [] →
      r.written.contains p = false → r.done ≤ p → Tbl.wf s.blk.works = true →
      Runs (.slotComplete rid p) s fun t => t.blk.work? rid p = none ∧ t.blk.tables = s.blk.tables ∧
        ∃ q, t.blk.rings.get? rid = some q ∧ q.head = r.head ∧ r.done ≤ q.done ∧ (r.done = p → p < q.done))
  ∧ (∀ (rid p : Nat) (s : State) (r : Ring) (w : Work) (l : Lookup), s.blk.fatal = false → s.blk.rings.get? rid = some r → s.blk.work? rid p = some w →
      w.ring = rid → w.p = p → p < 2 ^ 64 → w.recorded = false → w.hostAffected = false →
      w.data = .lookup l → w.phase = .active → w.late = false → w.opcode ≠ 0x30 → w.opcode ≠ 0x31 →
      let late := fun (deadline : Bool) (t : State) => t.blk.tables = s.blk.tables ∧
        ∃ w', t.blk.work? rid p = some w' ∧ Ended w' LATE ∧ w'.late = true ∧ w'.deadline = deadline
      (r.timeout ≠ 0 → w.stoppedSince = none → w.startAge + w.stopped + r.timeout ≤ s.blk.age (ringHub rid) → Runs (.slotTimeout rid p) s (late false))
      ∧ (r.rt = true → r.deadline ≠ 0 → w.deadlineAge + r.deadline ≤ s.blk.age (ringHub rid) → Runs (.slotDeadline rid p) s (late true)))
  ∧ (∀ (rid p : Nat) (s : State) (w : Work), s.blk.fatal = false → s.blk.work? rid p = some w → w.opcode = 0x31 → w.phase = .active → w.late = false → w.winStatus = 0 →
    (∀ v ∈ s.blk.ringWorks rid, v.p < p → v.recorded = true) → (s.start.recsHeld rid p).2 = true →
    (sigRemote w.x = false → s.blk.freeOrDone (ringHub rid) (sigSem w.x) = false → s.blk.arrivalSem (ringHub rid) (sigSem w.x) = false →
      s.blk.fillRing (ringHub rid) (sigSem w.x) = none → s.blk.hubs.get? (ringHub rid) ≠ none →
      Runs (.signalFire rid p) s fun t => t.store = s.store ∧ (∃ w', t.blk.work? rid p = some w' ∧ Ended w' OK) ∧
        t.blk.sem (ringHub rid) (sigSem w.x) = s.blk.sem (ringHub rid) (sigSem w.x) + BitVec.ofNat 64 (sigCount w.x) ∧ t.blk.rings = s.blk.rings)
    ∧ ∀ e, sigRemote w.x = true → s.blk.eng.windows.get? (sigWin w.x) = some e → jobOf e 20 = w.job →
      Runs (.signalFire rid p) s fun t => t.store = s.store ∧ t.blk.rings = s.blk.rings ∧
        t.blk.outbox = s.blk.outbox ++ [.winSignal rid p (sigWin w.x) (s.blk.winHead (ringHub rid) (sigWin w.x) 0) (sigHub w.x) (sigSem w.x) (sigCount w.x)] ∧
        ∃ w', t.blk.work? rid p = some w' ∧ Ended w' OK ∧ w.outstanding < w'.outstanding)

/-! ## Updates (Chapters 4 and 5) -/

/-- GATE_REQUEST records the answer that the row die gives the batch (Table 4-7); while a table is held, a re-layout runs or another submission starts the
batch, no answer starts it. GATE_DECISION, once every row die in service has answered, ends a batch applied before with REPLAYED and one with another digest
with REPLAY_MISMATCH, and starts its shares otherwise, each row die's answer standing as it is then (R111 to R113, R118, R273). -/
def Obligations.BatchGatesAnswerAndDecide : Prop :=
  ∀ (rid p : Nat) (s : State) (w : Work) (u : Update), s.blk.fatal = false → s.blk.work? rid p = some w → w.data = .update u → w.phase = .active →
    u.distributed = true → u.started = false →
    let o := uop w.x
    let td := tdOf (s.blk.tables.getD o.table {}).desc
    let open_ := fun (q : Nat) => s.blk.tableHeld o.table = false ∧ s.blk.eng.relayout = none ∧ s.blk.startHeld o.table o.bseq = false ∧ (s.blk.hub (q / 3)).admitting = false
    let table47 := fun (q : Nat) => gateOf ((s.blk.die q).replay.getD o.table {}) o.bseq u.digest false
    (∀ q, s.blk.dieUp q = true → (s.blk.tables.getD o.table {}).reshard = false →
      Runs (.gateRequest rid p q) s fun t => t.store = s.store ∧ t.blk.dies = s.blk.dies ∧ t.blk.rings = s.blk.rings ∧
        ∃ w' u' g, t.blk.work? rid p = some w' ∧ w'.data = .update u' ∧ w'.phase = .active ∧ u'.gates.get? q = some g ∧ (open_ q → g = table47 q) ∧
          (s.blk.tableHeld o.table = true ∨ s.blk.eng.relayout ≠ none ∨ s.blk.startHeld o.table o.bseq = true → g ≠ .start ∧ g ≠ .resume))
    ∧ (w.late = false → w.winStatus = 0 → ∀ gs, gs = s.blk.upDies.filterMap (fun q => (u.gates.get? q).map fun g => (q, g)) → gs.length = s.blk.upDies.length →
      ((∃ q, (q, Gate.mismatch) ∈ gs) → Runs (.gateDecision rid p) s fun t => t.store = s.store ∧ ∃ w', t.blk.work? rid p = some w' ∧ Ended w' REPLAY_MISMATCH)
      ∧ ((∀ g ∈ gs, g.2 = .stale ∨ g.2 = .replay) → (∀ x ∈ u.runs, x.2 = [] ∨ s.blk.dieUp x.1 = true) →
        Runs (.gateDecision rid p) s fun t => t.store = s.store ∧ ∃ w', t.blk.work? rid p = some w' ∧ Ended w' REPLAYED)
      ∧ (∀ b, let go := gs.filterMap fun (q, g) => if g == .start then some (q, false) else if g == .resume then some (q, true) else none
        let rows := s.blk.batchRows o (u.runs.vals.flatMap fun rs => rs.map (·.lrow))
        go ≠ [] → (∀ g ∈ gs, g.2 ≠ .wait ∧ g.2 ≠ .mismatch) → (∀ x ∈ u.runs, x.2 = [] ∨ s.blk.dieUp x.1 = true) → Quiet s →
        (∀ g ∈ gs, g.2.goes = true → open_ g.1 ∧ table47 g.1 = g.2) →
        (go.foldl (fun b x => b.askGate rid p x.1) s.start).ensure rid p (rowsNeeds td o rows) = (b, true) →
        (∀ l ∈ rows, (b.rowVia rid p td l).2 = OK) → b.accFull u o td.width (go.map (·.1)) = false →
        o.params = 0 ∨ (∃ bs, readVa s.store b rid p o.params 64 = (b, .got bs)) →
        Runs (.gateDecision rid p) s fun t => t.store = s.store ∧ (∀ x ∈ go, s.blk.dies.get? x.1 ≠ none → (t.blk.die x.1).shares.has o.table = true) ∧
          ∃ w' u', t.blk.work? rid p = some w' ∧ w'.phase = .active ∧ w'.data = .update u' ∧ u'.started = true ∧ u'.open_ = go.map (·.1)))

/-- RUN_ADD adds the next run of a share to its row's accumulator, the pending one with ACCMODE 1 and a new one otherwise, which stays pending, and goes on to
the run after it; with the write-combining buffer full, or its lines' sets full, the run goes to the overflow log instead, and OVERFLOW_REPLAY adds the
oldest one logged where its sum stood (R105, R117, R132 to R143, R291). -/
def Obligations.RunsAreAddedToAccumulators : Prop :=
  (∀ (stack table : Nat) (err : ReadErr) (s : State) (sh : Share) (rn : Run) (rest : List Run), s.blk.fatal = false → Quiet s →
    (s.blk.die stack).shares.get? table = some sh → sh.runs = rn :: rest → s.blk.rowTask sh.ring sh.p rn.lrow = false →
    s.blk.stalls stack table rn.lrow [] = false → rn.lrow < 2 ^ 40 →
    let td := tdOf (s.blk.tables.getD table {}).desc
    let pend := (s.blk.die stack).accs.get? (accKey table rn.lrow)
    let base := match pend with
      | some a => if sh.addMode && !err.accLost then a else newAcc sh.job sh.bseq td.width
      | none => newAcc sh.job sh.bseq td.width
    let blocked := s.blk.rowBlocked (s.blk.rowRef td rn.lrow (sh.slots.getD rn.lrow [])).1
    let room := pend.isSome || decide ((s.blk.die stack).wcbUsed + accBytes td.width ≤ Config.wcbBytes)
    let ahead := fun (t : State) => t.store = s.store ∧ t.blk.works = s.blk.works ∧ t.blk.tables = s.blk.tables ∧
      ∃ q, (t.blk.die stack).shares.get? table = some q ∧ q.runs = rest
    (td.table = table → room = true → blocked = false → Runs (.runAdd stack table err) s fun t => ahead t ∧ (t.blk.die stack).log = (s.blk.die stack).log ∧
      ({ table := table, lrow := rn.lrow } : SbEntry) ∈ (t.blk.die stack).board ∧
      ∃ a, (t.blk.die stack).accs.get? (accKey table rn.lrow) = some a ∧
        { a with long := false } = { accRun table (td.globalRow rn.lrow) base none rn.contribs with long := false })
    ∧ (let e : LogEntry := { table := table, lrow := rn.lrow, bseq := sh.bseq, acc := base, remain := rn.contribs }
      room = false ∨ blocked = true → ((s.blk.die stack).log.map (·.bytes)).sum + e.bytes ≤ logBytes →
      Runs (.runAdd stack table err) s fun t => ahead t ∧ (t.blk.die stack).log = (s.blk.die stack).log ++ [e]))
  ∧ ∀ (stack : Nat) (s : State) (e : LogEntry) (es : List LogEntry), s.blk.fatal = false → Quiet s → (s.blk.die stack).log = e :: es →
      let td := tdOf (s.blk.tables.getD e.table {}).desc
      td.table = e.table → Runs (.overflowReplay stack []) s fun t => t.store = s.store ∧ t.blk.works = s.blk.works ∧ (t.blk.die stack).log = es ∧
        ∃ a, (t.blk.die stack).accs.get? (accKey e.table e.lrow) = some a ∧
          { a with long := false } = { accRun e.table (td.globalRow e.lrow) e.acc e.spill e.remain with long := false }

/-- ROW_APPLY consumes the accumulator of the next pending row and passes it: skipped where the batch skips, and otherwise, for a row that reads well and whose
program leaves finite values, updated, storing to the row's own slot alone; MASTER_WRITE_ACK does so for a class 1 row whose record is acknowledged
(R108 to R110, R116). -/
def Obligations.RowsAreApplied : Prop :=
  ∀ (stack table : Nat) (s : State) (sh : Share), Quiet s → (s.blk.die stack).shares.get? table = some sh → Tbl.wf (s.blk.die stack).accs = true →
    let td := tdOf (s.blk.tables.getD table {}).desc
    td.table = table →
    let passes := fun (lrow k : Nat) (t : State) => (t.blk.die stack).accs.get? (accKey table lrow) = none ∧
      ∃ q, (t.blk.die stack).shares.get? table = some q ∧ q.passed = some lrow ∧ q.counters = (sh.count k 1).counters
    (∀ lrow a (err : ReadErr), s.blk.fatal = false → sh.apply = true → sh.runs = [] → (∀ e ∈ (s.blk.die stack).log, e.table ≠ table) →
      s.blk.nextApply stack table sh = some (lrow, a) → s.blk.rowTask sh.ring sh.p lrow = false → (∀ j ∈ (s.blk.die stack).journals, j.table ≠ table) →
      let r := (s.blk.rowRef td lrow (sh.slots.getD lrow [])).1
      s.blk.stalls stack table lrow (s.blk.rowLocs r) = false →
      (sh.skip = true → Runs (.rowApply stack table err) s fun t => passes lrow cSKIPPED t ∧ t.store = s.store ∧ t.blk.tables = s.blk.tables)
      ∧ (∀ b1 b2 st hd pl m rec_, let cls := s.blk.shareClass sh
        sh.skip = false → err.accLost = false → s.blk.rowBlocked r = false → s.blk.readWaits r = false → td.place ≠ 1 → s.start.bufferRead r err cls = (b1, st) →
        readRow s.store b1 (b1.homeHub stack) r st err = (b2, .row hd pl) → b2.wr = [] → rowInputs s.store b2 r (sh.masters.getD lrow []) hd pl = .ready m rec_ →
        b2.rowStalls r = false → a.nf = false →
        let code := match s.blk.progOf sh.job sh.prog with | some p => p.code | none => []
        let res := runUpdate { kind := 0, width := td.width, params := sh.params, grow := td.globalRow lrow, table := td.table, bseq := sh.bseq, tidx := a.tidx, mbf := td.mfmt == 0x02 && td.place != 2 } code a.vec m
        res.2.1 = 0 → res.1.finite = true → MemInv s →
        Runs (.rowApply stack table err) s fun t => passes lrow cUPDATED t ∧ t.store.host = s.store.host ∧
          ∀ q, (∀ x ∈ r.parts, q < x.2.1 ∨ x.2.1 + x.2.2 ≤ q) → readByte t.store.mem q = readByte s.store.mem q))
    ∧ ∀ j, (s.blk.die stack).journals.find? (fun j => j.table == table && !j.lost) = some j → s.blk.hostUp = true →
      s.blk.rowBlocked (s.blk.rowRef td j.lrow (sh.slots.getD j.lrow [])).1 = false → s.blk.masterMute j.parts = false →
      Runs (.masterWriteAck stack table) s fun t => passes j.lrow cUPDATED t ∧ t.store.host = s.store.host ∧
        ∀ x ∈ (t.blk.die stack).journals, ¬ (x.table = table ∧ x.lrow = j.lrow)

/-- A row whose accumulator, or whose program's results, are not finite keeps its master values, states and working copy: only its header is committed, with
NONFINITE set, TOUCH as it was and DIGEST recomputed. The row counts in NFROWS, and its accumulator is consumed (R109). -/
def Obligations.NonFiniteRowsKeepTheirValues : Prop :=
  ∀ (stack table : Nat) (err : ReadErr) (s : State) (sh : Share) (lrow : Nat) (acc : Acc) (b1 b2 : Block) (st : Bool) (hd : RowHdr) (pl : List Byte) (m : Master)
    (rec_ : List Byte), s.blk.fatal = false → Quiet s → MemInv s → (s.blk.die stack).shares.get? table = some sh → sh.apply = true →
    sh.skip = false → err.accLost = false → sh.runs = [] → Tbl.wf (s.blk.die stack).accs = true → (∀ e ∈ (s.blk.die stack).log, e.table ≠ table) →
    (∀ j ∈ (s.blk.die stack).journals, j.table ≠ table) → s.blk.nextApply stack table sh = some (lrow, acc) → s.blk.rowTask sh.ring sh.p lrow = false →
    let cls := s.blk.shareClass sh
    let td := tdOf (s.blk.tables.getD table {}).desc
    let r := (s.blk.rowRef td lrow (sh.slots.getD lrow [])).1
    td.table = table → s.blk.stalls stack table lrow (s.blk.rowLocs r) = false → s.blk.rowBlocked r = false → s.blk.readWaits r = false →
    s.start.bufferRead r err cls = (b1, st) → readRow s.store b1 (b1.homeHub stack) r st err = (b2, .row hd pl) → b2.wr = [] →
    rowInputs s.store b2 r (sh.masters.getD lrow []) hd pl = .ready m rec_ → b2.rowStalls r = false →
    let code := match s.blk.progOf sh.job sh.prog with | some p => p.code | none => []
    let res := runUpdate { kind := 0, width := td.width, params := sh.params, grow := td.globalRow lrow, table := td.table, bseq := sh.bseq, tidx := acc.tidx, mbf := td.mfmt == 0x02 && td.place != 2 } code acc.vec m
    acc.nf = true ∨ res.2.1 ≠ 0 ∨ res.1.finite = false →
    Runs (.rowApply stack table err) s fun t => (t.blk.die stack).accs.get? (accKey table lrow) = none ∧ t.store.host = s.store.host ∧
      (∃ q, (t.blk.die stack).shares.get? table = some q ∧ q.passed = some lrow ∧ q.counters = (sh.count cNFROWS 1).counters) ∧
      (∀ q, (∀ x ∈ r.headParts, q < x.2.1 ∨ x.2.1 + x.2.2 ≤ q) → readByte t.store.mem q = readByte s.store.mem q) ∧
      ∀ a, r.headParts = [(0, a, 16)] → s.blk.lostAt a = false → readBytes t.store.mem a 16 = (RowHdr.sealed { hd with nonfinite := true } pl).bytes

/-- ROW_PROGRAM_RESTART takes a running task off its chain, to run again from its start on another one, and lists the restart (R163, R164);
SCOREBOARD_RETIRE takes a finished entry off the scoreboard, and SHARE_RETIRE of a share with nothing left sets APPLIED to the batch and remembers its digest
(R111 to R113, R135). A re-derivation that succeeds leaves no atom of the row poisoned, and stores to no atom but the slot's own (R264, Table 2-4). -/
def Obligations.SharesRetireAndRowsAreRederived : Prop :=
  (∀ (stack : Nat) (s : State),
    (∀ h id k, (s.blk.hub h).sched.running.find? (·.id == id) = some k → Quiet s → s.blk.eng.passing = false →
      Runs (.rowProgramRestart h id) s fun t => t.store = s.store ∧ t.blk.dies = s.blk.dies ∧ t.blk.works = s.blk.works ∧ t.blk.rings = s.blk.rings ∧
        t.blk.eng.eseq = s.blk.eng.eseq + 1 ∧ (t.blk.hub h).sched.running = (s.blk.hub h).sched.running.filter (·.id != id) ∧
        (t.blk.hub h).sched.ready = (s.blk.hub h).sched.ready ++ [{ k with avoid := some (k.cluster, k.chain), readyAge := s.blk.age h }])
    ∧ (∀ i e, Quiet s → (s.blk.die stack).board[i]? = some e → e.finished = true → (∀ x ∈ (s.blk.die stack).board.take i, e.conflicts x = false) →
      Runs (.scoreboardRetire stack i) s fun t => t.store = s.store ∧ (t.blk.die stack).board = (s.blk.die stack).board.eraseIdx i ∧
        t.blk.works = s.blk.works ∧ t.blk.tables = s.blk.tables ∧ ∀ q, q ≠ stack → (t.blk.die q).board = (s.blk.die q).board)
    ∧ ∀ table sh rp, (s.blk.die stack).shares.get? table = some sh → (s.blk.die stack).replay.get? table = some rp → sh.runs = [] →
      (∀ e ∈ (s.blk.die stack).log, e.table ≠ table) → (∀ j ∈ (s.blk.die stack).journals, j.table ≠ table) →
      (∀ e ∈ (s.blk.die stack).board, e.table ≠ table) → s.blk.shareTasks stack sh = false → (sh.apply = true → s.blk.nextApply stack table sh = none) →
      Tbl.wf (s.blk.die stack).shares = true → (tdOf (s.blk.tables.getD table {}).desc).mirror = false → s.blk.fence? table = none → s.blk.eng.twin.unpairing = false →
      Runs (.shareRetire stack table) s fun t => (t.blk.die stack).shares.get? table = none ∧ t.store = s.store ∧
        (t.blk.die stack).replay.get? table = some { applied := sh.bseq, inprog := none, last := ((sh.bseq, match rp.inprog with | some i => i.digest | none => 0) :: rp.last).take 8 })
  ∧ ∀ (job table lrow : Nat) (s : State) (x : TableSt) (parts : List (Nat × Nat × Nat)) (r : RowRef) (b : Block), s.blk.fatal = false → MemInv s → Quiet s →
    s.blk.tableOf job table = some x → x.retiring = false → let td := tdOf x.desc
    lrow < td.lrows → td.hasSource = true →
    partsVia (fun v => match walkAll s.store s.start job { va := v, read := true, place := 1, domain := td.domain } with
      | (.page pg, _) => some pg.addr
      | _ => none) (td.slotVa lrow) td.S = some parts →
    s.blk.rowRef td lrow parts = (r, 0) →
    (hdrOf (r.read s.store s.start 0 16)).poison = true ∨ (r.atoms 0 td.rowBytes).any s.store.poison.contains = true →
    rederiveRow s.store s.start (s.blk.homeHub r.stack) r = (b, .done) →
    Runs (.rederive job table lrow) s fun t => (∀ a ∈ r.atoms 0 td.S, t.store.poison.contains a = false) ∧ t.store.host = s.store.host ∧
      ∀ q, ¬ q / 64 ∈ r.atoms 0 td.S → readByte t.store.mem q = readByte s.store.mem q

/-! ## Tasks, energy and points (Chapter 8) -/

/-- TASK_DISPATCH places the task that the scheduler chooses on the free context and takes its charge from the balances, never below zero, and adds it to its
job's charged energy (a task that runs again after an error keeps its charge, log 101); TASK_END takes off a task whose charge covers its steps, refunds what it
did not use, and lets the tasks that worked on its result go on; INSTALMENT_CHARGE charges a paused task its next instalment (R229 to R234). -/
def Obligations.TasksAreDispatchedChargedAndEnded : Prop :=
  ∀ (h : Nat) (s : State) (hub : Hub), s.blk.hubs.get? h = some hub →
    let x := hub.sched
    (∀ c chain ctx tk, s.blk.clusterHub c = h → hub.inService = true → s.blk.takes c = true →
      c < 1024 → chain < 32 → ctx < 2 → (∀ y ∈ x.running, ¬ (y.cluster = c ∧ y.chain = chain ∧ y.ctx = ctx)) →
      let fit := fun (y : Task) => y.runsOn h c (s.blk.keptCtx c chain ctx) (s.blk.bare h) && s.blk.isReady y && y.avoid != some (c, chain) &&
        s.blk.mayPlace h y c chain
      (sortBy s.blk.taskBefore (x.ready.filter fit)).find? (fun y => x.fits y (s.blk.rateAt c)) = some tk →
      Runs (.taskDispatch h c chain ctx) s fun t => t.store = s.store ∧ t.blk.works = s.blk.works ∧ t.blk.dies = s.blk.dies ∧ ∃ y n,
        (t.blk.hub h).sched.running = x.running ++ [y] ∧ y.id = tk.id ∧ y.cluster = c ∧ y.chain = chain ∧ y.ctx = ctx ∧ y.charged = tk.charged + n ∧
        (tk.charged = 0 → y.estimate = tk.ops * s.blk.rateAt c ∧ n ≤ y.estimate ∧ (tk.cls = 0 → n = y.estimate)) ∧ (tk.charged ≠ 0 → n = 0) ∧
        (t.blk.hub h).sched.ready = x.ready.filter (·.id != tk.id) ∧ (t.blk.hub h).sched.mainBal + (t.blk.hub h).sched.reserve + n = x.mainBal + x.reserve ∧
        ∀ j, s.blk.jobs.get? tk.job = some j → ∃ j', t.blk.jobs.get? tk.job = some j' ∧ j'.charged = j.charged + n)
    ∧ (∀ id steps tk, x.running.find? (·.id == id) = some tk → let cost := Nat.min (32 * steps) tk.ops * tk.rate
      cost ≤ tk.charged →
      Runs (.taskEnd h id steps) s fun t => t.store = s.store ∧ t.blk.works = s.blk.works ∧ t.blk.dies = s.blk.dies ∧
        (t.blk.hub h).sched.running = x.running.filter (·.id != id) ∧ (t.blk.hub h).sched.ready.map (·.id) = x.ready.map (·.id) ∧
        (∀ y ∈ (t.blk.hub h).sched.ready, ¬ (h, id) ∈ y.after) ∧ x.mainBal ≤ (t.blk.hub h).sched.mainBal ∧ x.reserve ≤ (t.blk.hub h).sched.reserve ∧
        (t.blk.hub h).sched.mainBal + (t.blk.hub h).sched.reserve ≤ x.mainBal + x.reserve + (tk.charged - cost) ∧
        ∀ j, s.blk.jobs.get? tk.job = some j → ∃ j', t.blk.jobs.get? tk.job = some j' ∧ j'.charged = j.charged - (tk.charged - cost))
    ∧ ∀ id tk, x.running.find? (·.id == id) = some tk → let n := Nat.min x.instalment (tk.estimate - tk.charged)
      n ≠ 0 → n ≤ x.mainBal →
      Runs (.instalmentCharge h id) s fun t => t.store = s.store ∧ t.blk.works = s.blk.works ∧ (t.blk.hub h).sched.mainBal + n = x.mainBal ∧
        (t.blk.hub h).sched.reserve = x.reserve ∧ (t.blk.hub h).sched.running.length = x.running.length ∧
        ((t.blk.hub h).sched.running.find? (·.id == id)).map (·.charged) = some (tk.charged + n)

/-- LEDGER_CREDIT is one age unit of a hub in service: its age advances, and, but in BOOT and FATAL, its reserve fills up to its set size first and the main
balance up to its cap; BACKGROUND_PROMOTION promotes a task ready for more than 100,000 age units (R7, R231, R233). -/
def Obligations.TheLedgerEarnsAndTasksArePromoted : Prop :=
  ∀ (h : Nat) (s : State) (hub : Hub), s.blk.hubs.get? h = some hub →
    let x := hub.sched
    (hub.inService = true → hub.regs.fw ≠ .boot → hub.regs.fw ≠ .fatal → x.newBudget = false → x.mainBal ≤ x.capNow →
      Runs (.ledgerCredit h) s fun t => t.store = s.store ∧ t.blk.works = s.blk.works ∧ t.blk.dies = s.blk.dies ∧ t.blk.age h = s.blk.age h + 1 ∧
        (∀ g, g ≠ h → t.blk.hub g = s.blk.hub g) ∧ let y := (t.blk.hub h).sched
        let n := creditOf x.inForce
        y.reserve = x.reserve + min n (x.rtres * 1000000 - x.reserve) ∧ y.mainBal = min (x.mainBal + (n - (y.reserve - x.reserve))) x.capNow ∧
        y.ready = x.ready ∧ y.running = x.running ∧ y.budget = x.budget)
    ∧ (hub.inService = true → x.newBudget = true → hub.regs.fw ≠ .boot → hub.regs.fw ≠ .fatal →
      Runs (.ledgerCredit h) s fun t => (t.blk.hub h).sched.newBudget = false ∧ (t.blk.hub h).sched.capNow = capOf x.inForce ∧
        (t.blk.hub h).sched.mainBal ≤ capOf x.inForce)
    ∧ ∀ id, Runs (.backgroundPromotion h id) s fun t => t.store = s.store ∧ OnlyHub s t h ∧
        (t.blk.hub h).sched.ready.map (·.id) = x.ready.map (·.id) ∧
        ∀ y ∈ (t.blk.hub h).sched.ready, y.promoted = true → ∃ z ∈ x.ready, z.id = y.id ∧ (z.promoted = true ∨ (z.id = id ∧ z.cls = 2 ∧ z.readyAge + 100000 < s.blk.age h))

/-- OPERATING_POINT_CHOICE moves a cluster by at most one point: down where heat caps it below or nothing is ready for it, and it keeps its point until
OPERATING_POINT_CHANGE_DONE (R238, R239); the longest queue of a chain is a free value (log 2), and this holds for every value of it.
STACK_TEMP_READ takes a reading and the threshold reported with it, and the stack's level follows them by Table 8-3 with its hysteresis; a gap of
ten periods takes the threshold as the reading; 100 ms at level 4 loses the stack; THROTTLE_IDLE holds a privileged channel of a stack at level 3
idle, once the request group that it is serving has run to its end, until THROTTLE_IDLE_END (R240 to R242). -/
def Obligations.OperatingPointsAndHeat : Prop :=
  (∀ (h c : Nat) (s : State) (hub : Hub) (p : Point), s.blk.hubs.get? h = some hub → hub.sched.points.getD c {} = p →
    (s.blk.clusterHub c = h → c < 1024 → hub.inService = true → s.blk.rtCluster c = false → p.point = p.target → p.point ≤ 2 →
      (hub.sched.points.has c = true → p.chosenAge + 100 ≤ s.blk.age h) →
      Runs (.operatingPointChoice h c) s fun t => t.store = s.store ∧ t.blk.works = s.blk.works ∧ ∃ q, (t.blk.hub h).sched.points.get? c = some q ∧
        q.point = p.point ∧ q.chosenAge = s.blk.age h ∧ q.target ≤ p.point + 1 ∧ p.point ≤ q.target + 1 ∧ q.target ≤ 2 ∧
        (s.blk.thermalCap c < p.point → q.target = p.point - 1) ∧ (s.blk.queued c = [] → q.target = p.point - 1))
    ∧ (hub.sched.points.has c = true → Runs (.operatingPointChangeDone h c) s fun t => OnlyHub s t h ∧
        (t.blk.hub h).sched.points.get? c = some { p with point := p.target }))
  ∧ (∀ (q : Nat) (s : State) (d : RowDie), s.blk.dies.get? q = some d → d.st = 1 → Quiet s →
    (∀ (reading : Int) (reported : Nat), let trep := if reported = 0 ∨ 105 < reported then 95 else reported
      Runs (.stackTempRead q reading reported) s fun t => t.store = s.store ∧ t.blk.works = s.blk.works ∧ (t.blk.die q).trep = trep ∧ (t.blk.die q).reading = reading ∧
        (t.blk.die q).level = nextLevel trep reading d.level ∧ (t.blk.die q).gap = false ∧ (t.blk.die q).readAge = s.blk.age (s.blk.homeHub q))
    ∧ (d.gap = false → d.readAge + 10000 ≤ s.blk.age (s.blk.homeHub q) → Runs (.tempReadingGap q) s fun t => t.store = s.store ∧ t.blk.works = s.blk.works ∧
        (t.blk.die q).gap = true ∧ (t.blk.die q).reading = (d.trep : Int) ∧ (t.blk.die q).level = nextLevel d.trep d.trep d.level)
    ∧ (d.failed = false → d.level = 4 → d.level4Age + 10000000 ≤ s.blk.age (s.blk.homeHub q) → Runs (.level4Timeout q) s fun t =>
        (t.blk.die q).failed = true ∧ (t.blk.die q).st = 1 ∧ (t.blk.die q).accs = [] ∧ (t.blk.die q).log = [] ∧ (s.blk.eng.dump.armed = false → (t.blk.die q).board = []) ∧
        ∀ p, p < 64 → d.chans.has (64 * q + p) = true → (t.blk.chan (64 * q + p)).lost = true)
    ∧ ∀ p, p < 64 → let ch := 64 * q + p
      (d.level = 3 → s.blk.eng.layout.priv.contains ch = true → Runs (.throttleIdle ch) s fun t => t.store = s.store ∧ t.blk.eng = s.blk.eng ∧
        t.blk.chan ch = (if (s.blk.chan ch).serving.isSome then { s.blk.chan ch with idleDue := true } else { s.blk.chan ch with idle := true }) ∧ ∀ o, o ≠ q → t.blk.die o = s.blk.die o)
      ∧ Runs (.throttleIdleEnd ch) s fun t => t.store = s.store ∧ t.blk.eng = s.blk.eng ∧ t.blk.chan ch = { s.blk.chan ch with idle := false, idleDue := false } ∧
        ∀ o, o ≠ q → t.blk.die o = s.blk.die o)
/-! ## Channels, memory and repair (Chapters 8 and 9) -/

namespace Sys2Proof.Spec

/-- Only the row dies changed, and monitors: memory, rings, slots in flight, hubs and the layout stand. -/
def OnlyDies (s t : State) : Prop :=
  t.store = s.store ∧ t.blk.rings = s.blk.rings ∧ t.blk.works = s.blk.works ∧ t.blk.hubs = s.blk.hubs ∧ t.blk.tables = s.blk.tables ∧
    t.blk.eng.layout = s.blk.eng.layout ∧ t.blk.eng.events = s.blk.eng.events

/-- The requests of a channel's queues and of those that wait for an entry. -/
def queued (c : Chan) : List Req := c.narrow ++ c.narrowIn ++ c.wide ++ c.wideIn

end Sys2Proof.Spec

/-- SNOWPLOW_FRAME divides the slots that heat leaves: WRITE and REMOTE by their shares, READ the rest; BURST_GROUP serves the narrow queue first and then a group
of the wide queue, whose atoms come off the slots of one part; BANK_REFRESH notes the refresh of one bank when it is due; WCB_DRAIN sends the oldest accepted
write to its channel, one of a part of an atom as an operation of the scoreboard that reads the atom first (R243 to R245, R255 to R259). -/
def Obligations.ChannelsDivideServeAndDrain : Prop :=
  ∀ (ch : Nat) (s : State) (d : RowDie), s.blk.dies.get? (ch / 64) = some d →
    let c := s.blk.chan ch
    let x := (s.blk.hub (s.blk.homeHub (ch / 64))).sched
    let n := s.blk.frameSlots ch
    (Runs (.snowplowFrame ch) s fun t => OnlyDies s t ∧ (∀ o, o ≠ ch / 64 → t.blk.die o = s.blk.die o) ∧
      t.blk.chan ch = { c with leftRead := (t.blk.chan ch).leftRead, leftWrite := x.shareWrite * n / 64, leftRemote := x.shareRemote * n / 64 } ∧
      (x.shareWrite + x.shareRemote ≤ 64 → (t.blk.chan ch).leftRead + (t.blk.chan ch).leftWrite + (t.blk.chan ch).leftRemote = n))
    ∧ (c.lost = false → c.idle = false → let a := if s.blk.admitsAt ch then c.takeIn else c
      (∀ q rest, a.nextNarrow = some (q, rest) → Runs (.burstGroup ch) s fun t => OnlyDies s t ∧ (t.blk.chan ch).narrow = rest ∧ (t.blk.chan ch).wide = a.wide ∧
        (t.blk.chan ch).left q.traffic = a.left q.traffic - q.atoms)
      ∧ (∀ kind lender borrowed, a.nextNarrow = none → a.idleDue = false → a.serve = some (kind, lender, borrowed) → (∀ q ∈ a.wide, 0 < q.atoms) →
        Runs (.burstGroup ch) s fun t => t.store = s.store ∧ t.blk.rings = s.blk.rings ∧ t.blk.works = s.blk.works ∧ t.blk.eng = s.blk.eng ∧
          (t.blk.chan ch).narrow = a.narrow ∧ (t.blk.chan ch).left lender < a.left lender ∧ (∀ k, k ≠ lender → (t.blk.chan ch).left k = a.left k) ∧
          ((t.blk.chan ch).wide.map (·.atoms)).sum + a.left lender = (a.wide.map (·.atoms)).sum + (t.blk.chan ch).left lender))
    ∧ (∀ bank, bank < 64 → (c.refreshes.has bank = true → c.refreshes.getD bank 0 + (if d.reading < 85 then 390 else 195) ≤ s.blk.age (s.blk.homeHub (ch / 64))) →
      Runs (.bankRefresh ch bank) s fun t => OnlyDies s t ∧ (t.blk.chan ch).refreshes.get? bank = some (s.blk.age (s.blk.homeHub (ch / 64))) ∧
        ∀ o, o ≠ bank → (t.blk.chan ch).refreshes.get? o = c.refreshes.get? o)
    ∧ ∀ q e es row, (s.blk.die q).wcb = e :: es → c.lost = false → 0 < e.len → (∀ a ∈ atomsOf e.addr e.len, s.blk.locate (64 * a) = some (ch, row)) →
      let kind := if e.remote then Traffic.remote else .write
      let sent := fun (t : State) => OnlyDies s t ∧ (t.blk.die q).wcb = es ∧
        ∃ r ∈ queued (t.blk.chan ch), r.what = .drain ∧ r.row = row ∧ r.isWrite = true ∧ r.traffic = kind ∧ r.prio = e.cls
      (e.addr % 64 = 0 → e.len % 64 = 0 → Runs (.wcbDrain q) s fun t => sent t ∧ (t.blk.die q).board = (s.blk.die q).board)
      ∧ (e.addr % 64 ≠ 0 ∨ e.len % 64 ≠ 0 → s.blk.granStalls q [(ch, row)] = false →
        Runs (.wcbDrain q) s fun t => sent t ∧ (t.blk.die q).board = (s.blk.die q).board ++ [({ granules := [(ch, row)] } : SbEntry)] ∧
          ∃ r ∈ queued (t.blk.chan ch), r.what = .drain ∧ r.row = row ∧ r.isWrite = false)
      ∧ (e.addr % 64 ≠ 0 ∨ e.len % 64 ≠ 0 → s.blk.granStalls q [(ch, row)] = true →
        Runs (.wcbDrain q) s fun t => t.store = s.store ∧ t.blk = s.start)

/-- PATROL_SCRUB reads one atom of an active channel: an error that the code cannot correct poisons it, and a running SCAN goes on to the next atom; MARCH_STEP tests
the next page of a running MARCH, served meanwhile from a copy, a page that fails becoming a repair candidate; PAGE_REPAIR of a candidate takes a spare row and
queues the repair for the boot store, or retires the page for good (R263 to R268, R275, R276, R297). -/
def Obligations.ScrubMarchAndRepairAct : Prop :=
  ∀ (ch : Nat) (s : State), s.blk.dieUp (ch / 64) = true → (s.blk.chan ch).lost = false → Quiet s →
    let c := s.blk.chan ch
    (∀ loc, loc < chanBytesAll → s.blk.admitsAt ch = true → (s.blk.die (ch / 64)).active.testBit (ch % 64) = true →
      let at_ := fun (g : Nat) => g + loc % 256 / 64 * 64
      ((∀ g, s.blk.unlocate ch (loc / 256) = some g → Block.slotAt s.store s.start (at_ g) = none) →
        Runs (.patrolScrub ch loc []) s fun t => t.store = s.store ∧ t.blk.works = s.blk.works ∧
          (∃ r ∈ queued (t.blk.chan ch), r.what = .scrub ∧ r.row = loc / 256) ∧ (c.test = none → (t.blk.chan ch).test = none) ∧
          ∀ y, c.test = some y → y.mode = 0 → loc / 64 = y.next / 64 → y.next / 64 * 64 + 64 ≤ y.last →
            (t.blk.chan ch).test = some { y with next := y.next / 64 * 64 + 64 })
      ∧ (∀ g (err : ReadErr), err.failed = true → s.blk.unlocate ch (loc / 256) = some g → g % 256 = 0 → poisonedIn s.store s.start (at_ g) 64 = false →
        (∀ r, Block.slotAt s.store s.start (at_ g) = some r → s.blk.bufferHit r.stack (s.blk.rowLocs r) = false) →
        Runs (.patrolScrub ch loc err) s fun t => t.store.poison.contains (at_ g / 64) = true ∧ t.store.host = s.store.host ∧
          (Block.slotAt s.store s.start (at_ g) = none → ∀ q, q / 64 ≠ at_ g / 64 → readByte t.store.mem q = readByte s.store.mem q)))
    ∧ (∀ y pass, c.test = some y → y.mode = 1 → let page := pageBank (y.next / 256)
      s.blk.pageFree ch page.1 page.2 = true →
      Runs (.marchStep ch pass) s fun t => t.store = s.store ∧ t.blk.works = s.blk.works ∧
        (t.blk.die (ch / 64)).board = (s.blk.die (ch / 64)).board ++ [({ granules := pagePlaces ch page.1 page.2, copies := pagePlaces ch page.1 page.2 } : SbEntry)] ∧
        (pass = false → (t.blk.chan ch).candidates.contains (page.1 * 2 ^ 24 + page.2) = true) ∧ (pass = true → (t.blk.chan ch).candidates = c.candidates) ∧
        (t.blk.chan ch).test = if y.last < y.next / 1024 * 1024 + 1024 then none else some { y with next := y.next / 1024 * 1024 + 1024, errors := y.errors + b2n (!pass) })
    ∧ ∀ bank page applied, s.blk.fatal = false → let key := bank * 2 ^ 24 + page
      c.candidates.contains key = true → s.blk.pageFree ch bank page = true →
      (∀ r ∈ (s.blk.die (ch / 64)).ledger, ¬ (bits r.toNat 16 10 = ch ∧ bits r.toNat 32 6 = bank ∧ bits r.toNat 40 24 = page)) → c.repaired.contains key = false →
      (s.blk.die (ch / 64)).ledger.length < Config.repairLedgerMax → s.blk.eng.dump.armed = false →
      Runs (.pageRepair ch bank page applied) s fun t => t.store = s.store ∧ (t.blk.chan ch).candidates.contains key = false ∧
        (applied = true → c.spareRows.getD bank 0 ≠ 0 → (t.blk.chan ch).spareRows.getD bank 0 + 1 = c.spareRows.getD bank 0 ∧
          (t.blk.chan ch).repaired.contains key = true ∧ t.blk.eng.boot.repairQueue.length = s.blk.eng.boot.repairQueue.length + 1) ∧
        (applied = false ∨ c.spareRows.getD bank 0 = 0 → (t.blk.chan ch).gone.contains key = true ∧ t.blk.eng.boot.repairQueue = s.blk.eng.boot.repairQueue)

/-- CHANNEL_LOSS loses the channel, or the pair, and posts a plan without it where R252 allows that layout; ROW_DIE_FAILURE loses the whole stack and every channel
of it; LANE_RECALIBRATION renews the stack's recalibration and gives a lane below margin a spare, a command and address lane at both pseudo-channels (R260,
R270, R271, R431). RELAYOUT_STRIPE moves one stripe and leaves the layout until the last, which puts the new one in force; no byte of memory changes, but for
granules of lost channels, whose atoms are poisoned in their new places (R272, R273). -/
def Obligations.LossesAndRelayoutAct : Prop :=
  (∀ (ch : Nat) (s : State) (pairToo : Bool), s.blk.dieUp (ch / 64) = true → s.blk.eng.relayout = none → s.blk.eng.dump.armed = false → (s.blk.chan ch).lost = false →
    (s.blk.die (ch / 64)).chans.has ch = true →
    let chs := (if pairToo then [ch, chanPair ch] else [ch]).filter fun c => !(s.blk.chan c).lost && s.blk.dieUp (c / 64) && (s.blk.die (c / 64)).chans.has c
    Runs (.channelLoss ch pairToo) s fun t => (∀ x ∈ chs, (t.blk.chan x).lost = true) ∧
      (t.blk.chan ch).wide = [] ∧ (t.blk.chan ch).test = none ∧ t.blk.eng.layout = s.blk.eng.layout ∧
      (layoutOk ((List.range 12).map fun _ => 2 ^ 64 - 1) (s.blk.eng.layout.less (distinct (chs ++ t.blk.lostChans))) = true →
        ∃ p, t.blk.eng.plan = some p ∧ p.out.contains ch = true ∧ p.posted = true))
  ∧ (∀ (q : Nat) (s : State), (s.blk.die q).st = 1 → Runs (.rowDieFailure q) s fun t => (t.blk.die q).st = 0 ∧ (t.blk.die q).failed = true ∧
      s.blk.eng.almGen < t.blk.eng.almGen ∧ ∀ p, p < 64 → (s.blk.die q).chans.has (64 * q + p) = true → (t.blk.chan (64 * q + p)).lost = true)
  ∧ (∀ (q : Nat) (s : State), s.blk.dieUp q = true → (s.blk.die q).recalAge + 10000000 ≤ s.blk.age (s.blk.homeHub q) →
      (Runs (.laneRecalibration q []) s fun t => t.store = s.store ∧ (t.blk.die q).recalAge = s.blk.age (s.blk.homeHub q) ∧
        (t.blk.die q).recalReading = (s.blk.die q).reading ∧ ∀ c ∈ (t.blk.die q).chans.vals, c.recalAge = 0)
      ∧ ∀ ch lane, ch / 64 = q → (s.blk.die q).chans.has ch = true → (s.blk.chan ch).lost = false →
        (lane < 64 → (s.blk.chan ch).spareLanes ≠ 0 →
          Runs (.laneRecalibration q [(ch, lane)]) s fun t => (t.blk.chan ch).spareLanes + 1 = (s.blk.chan ch).spareLanes ∧
            (t.blk.chan ch).lost = false ∧ (t.blk.die q).recalAge = s.blk.age (s.blk.homeHub q))
        ∧ (64 ≤ lane → (s.blk.chan ch).spareCa ≠ 0 →
          Runs (.laneRecalibration q [(ch, lane)]) s fun t => (t.blk.chan ch).spareCa + 1 = (s.blk.chan ch).spareCa ∧
            (t.blk.chan (chanPair ch)).spareCa = (s.blk.chan (chanPair ch)).spareCa - 1 ∧ (t.blk.chan ch).lost = false))
  ∧ ∀ (s : State) (r : Relayout), s.blk.fatal = false → s.blk.fw s.blk.eng.leader ≠ .handover → s.blk.eng.relayout = some r → Quiet s →
      (∀ d ∈ s.blk.dies.vals, d.shares = [] ∧ d.board = []) →
      let moves := fun (g ch : Nat) => g ∈ r.plan.layout.stripeGranules (r.left - 1) ∧ r.old.locate g ≠ r.plan.layout.locate g ∧ ∃ row, r.old.locate g = some (ch, row)
      let moved := fun (t : State) => t.store.host = s.store.host ∧ t.blk.rings = s.blk.rings ∧
        ((∀ g ch, moves g ch → (s.blk.chan ch).lost = false) → t.store.mem = s.store.mem)
      (∀ n, r.left = n + 2 → Runs .relayoutStripe s fun t => moved t ∧ t.blk.eng.layout = s.blk.eng.layout ∧ t.blk.eng.relayout = some { r with left := n + 1 } ∧
        ∀ g ch k, moves g ch → (s.blk.chan ch).lost = true → k < 4 → t.store.poison.contains (g / 64 + k) = true)
      ∧ (r.left ≤ 1 → s.blk.eng.dump.armed = false → Runs .relayoutStripe s fun t => (r.left = 1 → moved t) ∧ (r.left = 0 → t.store = s.store) ∧
          t.blk.eng.layout = r.plan.layout ∧ t.blk.eng.relayout = none)

/-! ## The row cache (Chapter 10) -/

/-- CACHE_FILL takes the fill off the hub's list: a stale one is discarded, another's row is cached whole where ways are free for it, and not at all otherwise;
EVICTION_OFFER settles one offer, or those of a row together, accepted or declined; MOGUL_HALVE halves the counts after 4,194,304 fetches. No memory changes
(R280, R283, R289, R290, R292). -/
def Obligations.CacheFillsOffersAndHalving : Prop :=
  ∀ (h : Nat) (s : State) (hub : Hub), s.blk.hubs.get? h = some hub →
    let x := hub.slice
    (∀ f, x.fills.find? (·.id == f.id) = some f →
      let after := fun (t : State) => OnlyHub s t h ∧ (t.blk.hub h).slice.fills = x.fills.filter (·.id != f.id)
      let q := s.blk.part f.part
      let free := fun (y : CSet) (w : Nat) => q.elig true w && q.locked.testBit w && !y.ways.has w
      let zero := fun (y : Nat × Nat) => match (s.blk.die (y.1 / 64)).buffer.line? (bufferSet y.1 y.2) y.1 y.2 with | some l => l.zero && q.zeroLine | none => false
      let filled := x.cache.fillRow cacheSet (if f.preload then [free, fun _ => q.elig false] else [fun _ => q.elig false]) (s.start.lineLocked x.cache) false
        (rowLines f.part f.id zero 0 f.granules)
      (f.stale = true ∨ s.blk.admitAt h f.part = 0 ∨ filled = none → Runs (.cacheFill h f.id) s fun t => after t ∧ (t.blk.hub h).slice.cache = x.cache)
      ∧ (f.stale = false → s.blk.admitAt h f.part ≠ 0 → filled ≠ none → Runs (.cacheFill h f.id) s fun t => after t ∧
          ∀ g ∈ f.granules, ((t.blk.hub h).slice.cache.line? (cacheSet g.1 g.2) g.1 g.2).isSome = true))
    ∧ (∀ i l, x.offers[i]? = some l → Runs (.evictionOffer h i) s fun t => t.store = s.store ∧ t.blk.works = s.blk.works ∧ t.blk.eng = s.blk.eng ∧
        (t.blk.hub h).slice.offers = (if l.mates = [] then x.offers.eraseIdx i else x.offers.filter fun y => y.mates != l.mates) ∧
        (t.blk.hub h).slice.cache = x.cache ∧
        (t.blk.hub h).slice.offersAccepted + (t.blk.hub h).slice.offersDeclined + (t.blk.hub h).slice.offers.length =
          x.offersAccepted + x.offersDeclined + x.offers.length)
    ∧ Runs (.mogulHalve h) s fun t => OnlyHub s t h ∧ (t.blk.hub h).slice.cache = x.cache ∧
        (x.fetches < 4194304 → (t.blk.hub h).slice = x) ∧
        (4194304 ≤ x.fetches → Tbl.wf x.mogul = true → (t.blk.hub h).slice.fetches = x.fetches - 4194304 ∧
          ∀ k es, (t.blk.hub h).slice.mogul.get? k = some es → ∃ es', x.mogul.get? k = some es' ∧ es.length = es'.length ∧
            ∀ e ∈ es, e.count ≠ 0 → ∃ e' ∈ es', e'.table = e.table ∧ e'.lrow = e.lrow ∧ e.count = e'.count / 2)

/-! ## Losses of hubs and clusters, and the links (Chapters 1, 12 and 14) -/

namespace Sys2Proof.Spec

/-- The functions of hub h are gone, with its rings; the other hubs stand, and where h led, the lowest-numbered hub left leads and is still reading
the records (R31, R33). -/
def HubGone (s t : State) (h : Nat) : Prop :=
  t.blk.hubUp h = false ∧ (∀ g, g ≠ h → t.blk.hubUp g = s.blk.hubUp g) ∧ (∀ r, ringHub r = h → t.blk.rings.get? r = none) ∧
    (s.blk.eng.leader ≠ h → t.blk.eng.leader = s.blk.eng.leader) ∧
    ∀ n, n < 4 → s.blk.eng.leader = h → n ≠ h → s.blk.hubUp n = true → (∀ g, g < n → g ≠ h → s.blk.hubUp g = false) →
      t.blk.eng.leader = n ∧ t.blk.eng.passing = true

/-- Monitor mon of one place took the sample v; nothing else changed but the ages of the samples, and what d says. -/
def Sampled (s t : State) (mon inst v : Nat) : Prop :=
  let m := s.blk.eng.monitors.getD (monKey mon inst) {}
  let m' := t.blk.eng.monitors.getD (monKey mon inst) {}
  t.store = s.store ∧ t.blk.eng = { s.blk.eng with monitors := t.blk.eng.monitors, sampled := t.blk.eng.sampled } ∧
    m'.samples = m.samples + 1 ∧ m'.min ≤ v ∧ v ≤ m'.max ∧ m.max ≤ m'.max ∧
    ∀ k, k ≠ monKey mon inst → t.blk.eng.monitors.get? k = s.blk.eng.monitors.get? k

/-- One event of a kind was recorded, numbered next. -/
def Recorded (s t : State) (kind : Nat) : Prop :=
  t.blk.eng.eseq = s.blk.eng.eseq + 1 ∧ ∃ r, t.blk.eng.events.getLast? = some r ∧ bits r.toNat 0 8 = 0x20 ∧ bits r.toNat 8 8 = kind ∧
    bits r.toNat 16 48 = (s.blk.eng.eseq + 1) % 2 ^ 48

end Sys2Proof.Spec

/-- Heartbeats, the loss of a hub's functions once 100,000 age units pass without one, of its die with its ring stop and its three stacks, of its steward
cores one by one, and of a cluster, which a spare replaces while there is one. LEADER_TAKEOVER reports the events held meanwhile, and answers a message received
again with the result that its leader record holds (R28, R31 to R34, R164,
R409, R410). -/
def Obligations.HubAndClusterLosses : Prop :=
  (∀ (h : Nat) (s : State), s.blk.hubUp h = true → Quiet s → s.blk.rings.wf = true →
    let x := s.blk.hub h
    (∀ alive, Runs (.hubHeartbeat h alive) s fun t => OnlyHub s t h ∧ t.blk.hub h = { x with missed := if alive then 0 else x.missed + 10 })
    ∧ (100000 ≤ x.missed → Runs (.hubLoss h) s fun t => HubGone s t h ∧ (t.blk.hub h).ringStop = x.ringStop)
    ∧ (x.missed < 100000 → Runs (.hubLoss h) s fun t => t.store = s.store ∧ t.blk = s.start)
    ∧ (h < 4 → x.ringStop = true → Runs (.hubDieLoss h) s fun t => HubGone s t h ∧ (t.blk.hub h).ringStop = false ∧
        ∀ q, q / 3 = h → s.blk.dies.get? q ≠ none → (t.blk.die q).st = 0 ∧ (t.blk.die q).failed = true)
    ∧ (x.stewards ≤ 1 → Runs (.stewardCoreFailure h) s fun t => HubGone s t h)
    ∧ (1 < x.stewards → Runs (.stewardCoreFailure h) s fun t => t.store = s.store ∧ t.blk.hubUp h = true ∧ (t.blk.hub h).stewards + 1 = x.stewards ∧
        t.blk.eng = { s.blk.eng with almGen := s.blk.eng.almGen + 1 } ∧ t.blk.rings = s.blk.rings ∧ t.blk.works = s.blk.works))
  ∧ (∀ s : State, s.blk.fatal = false → s.blk.fw s.blk.eng.leader ≠ .handover → s.blk.eng.passing = true → s.blk.eng.twin.fences = [] → Quiet s →
      Runs .leaderTakeover s fun t => t.store = s.store ∧ t.blk.rings = s.blk.rings ∧ t.blk.works = s.blk.works ∧ t.blk.tables = s.blk.tables ∧ t.blk.dies = s.blk.dies ∧
        t.blk.eng.passing = false ∧ t.blk.eng.heldEvents = [] ∧ t.blk.eng.eseq = s.blk.eng.eseq + s.blk.eng.heldEvents.length ∧
        t.blk.eng.leader = s.blk.eng.leader ∧
        ∀ r m, s.blk.eng.leaderRecs = [r] → r.copies.any s.blk.dieOn = true → s.blk.againOf r = some m → r.status < 2 ^ 16 → 16 ≤ r.len → DoneReply t m r.status)
  ∧ ∀ (c : Nat) (s : State), c < 1024 → s.blk.clusterUp c = true → Quiet s →
      let q := s.blk.die (c / 64)
      let x := s.blk.hub ((c - 768) / 64)
      let idle := fun (t : State) => ∀ k ∈ (t.blk.hub (s.blk.clusterHub c)).sched.running, k.cluster ≠ c
      (c < 768 → q.spares ≠ 0 → Runs (.clusterFailure c) s fun t => idle t ∧ t.store = s.store ∧ t.blk.clusterUp c = true ∧ (t.blk.die (c / 64)).spares + 1 = q.spares ∧
        (t.blk.die (c / 64)).clusters = q.clusters ∧ t.blk.eng.almGen = s.blk.eng.almGen)
      ∧ (c < 768 → q.spares = 0 → s.blk.eng.relayout = none → s.blk.eng.dump.armed = false → Runs (.clusterFailure c) s fun t => idle t ∧
        t.blk.clusterUp c = false ∧ (t.blk.die (c / 64)).clusters = q.clusters - 1 ∧ t.blk.eng.almGen = s.blk.eng.almGen + 1 ∧
        (layoutOk ((List.range 12).map fun _ => 2 ^ 64 - 1) (s.blk.eng.layout.less (distinct (c :: t.blk.lostChans))) = true →
          ∃ p, t.blk.eng.plan = some p ∧ p.out.contains c = true ∧ p.posted = true))
      ∧ (768 ≤ c → x.spares ≠ 0 → Runs (.clusterFailure c) s fun t => idle t ∧ t.store = s.store ∧ t.blk.clusterUp c = true ∧
        (t.blk.hub ((c - 768) / 64)).spares + 1 = x.spares ∧ (t.blk.hub ((c - 768) / 64)).clusters = x.clusters)
      ∧ (768 ≤ c → x.spares = 0 → Runs (.clusterFailure c) s fun t => idle t ∧ t.store = s.store ∧ t.blk.clusterUp c = false ∧
        (t.blk.hub ((c - 768) / 64)).clusters = x.clusters - 1 ∧ t.blk.eng.almGen = s.blk.eng.almGen + 1)

/-- A replay samples its monitor; a UCIe module that does not train again is out, and with the last module its row die is lost; a fabric port is up while it is
trained; a Telemark link goes down and comes up with an event, its frames counted from 1. MONITOR_SAMPLE takes one sample of a level monitor, once in 1,000
age units of its hub. What TEMP, RING_FILL, the power and the voltage monitors sample is measured, and the command brings it (R383, R406, R435, Table 14-8). -/
def Obligations.LinksReplayTrainAndAreSampled : Prop :=
  ∀ s : State,
    (∀ q m ns, s.blk.dieUp q = true → m < 6 → (s.blk.die q).ucieUp.testBit m = true →
      (∀ out, out ≠ .lost → Runs (.ucieReplay q m ns out) s fun t => Sampled s t 0x13 q ns ∧ t.blk = { s.start with eng := t.blk.eng })
      ∧ ((s.blk.die q).ucieUp ≠ 2 ^ m → Runs (.ucieReplay q m ns .lost) s fun t => Sampled s t 0x13 q ns ∧ t.blk.hubs = s.blk.hubs ∧
          t.blk.die q = { s.blk.die q with ucieUp := (s.blk.die q).ucieUp - 2 ^ m } ∧ ∀ o, o ≠ q → t.blk.die o = s.blk.die o)
      ∧ ((s.blk.die q).ucieUp = 2 ^ m → Quiet s → Runs (.ucieReplay q m ns .lost) s fun t => (t.blk.die q).st = 0 ∧ (t.blk.die q).failed = true ∧
          s.blk.eng.almGen < t.blk.eng.almGen))
    ∧ (∀ h, s.blk.hubUp h = true → ∀ ns out,
        Runs (.fabricReplay h ns out) s fun t => Sampled s t 0x14 h ns ∧ t.blk = { s.start with eng := t.blk.eng, hubs := t.blk.hubs } ∧
          (∀ g, g ≠ h → t.blk.hub g = s.blk.hub g) ∧ t.blk.hub h = { s.blk.hub h with regs := { (s.blk.hub h).regs with fabUp := out != .lost } })
    ∧ (∀ h, s.blk.linkUp h = true → ∀ ns out,
        Runs (.telemarkReplay h ns out) s fun t => Sampled s t 0x15 h ns ∧ t.blk = { s.start with eng := t.blk.eng })
    ∧ (∀ h, Quiet s → s.blk.eng.passing = false → (s.blk.hub h).regs.tlmUp = true →
        Runs (.telemarkLinkDown h) s fun t => t.store = s.store ∧ (t.blk.hub h).regs.tlmUp = false ∧ Recorded s t 0x10 ∧ t.blk.dies = s.blk.dies ∧
          t.blk.rings = s.blk.rings ∧ t.blk.eng.twin = s.blk.eng.twin ∧ ∀ g, g ≠ h → (t.blk.hub g).regs.tlmUp = (s.blk.hub g).regs.tlmUp)
    ∧ (∀ h, Quiet s → s.blk.eng.passing = false → (s.blk.hub h).regs.tlmUp = false → s.blk.hubUp h = true →
        Runs (.telemarkLinkUp h) s fun t => t.store = s.store ∧ (t.blk.hub h).regs.tlmUp = true ∧ (t.blk.hub h).fseq = 0 ∧ (t.blk.hub h).lastSent = s.blk.age h ∧
          Recorded s t 0x10 ∧ t.blk.dies = s.blk.dies ∧ t.blk.rings = s.blk.rings ∧ t.blk.eng.twin = s.blk.eng.twin)
    ∧ ∀ mon inst measured v n, monInstances mon = some n → inst < n → s.blk.levelValue mon inst measured = some v → s.blk.hubUp (monHub mon inst) = true →
        s.blk.eng.sampled.getD (monKey mon inst) 0 + 1000 ≤ s.blk.age (monHub mon inst) →
        Runs (.monitorSample mon inst measured) s fun t => Sampled s t mon inst v ∧ t.blk = { s.start with eng := t.blk.eng } ∧
          t.blk.eng.sampled.get? (monKey mon inst) = some (s.blk.age (monHub mon inst))

/-! ## The twin (R383 to R404) -/

namespace Sys2Proof.Spec

/-- A frame of this header is taken: its link is up, the engine is not fatal, and it is of the pairing (R384, R385). -/
def Hears (s : State) (hdr : FrameHdr) : Prop :=
  hdr.link < 4 ∧ s.blk.linkUp hdr.link = true ∧ s.blk.fatal = false ∧ hdr.pairId = s.blk.eng.twin.pairId ∧ hdr.pairId ≠ 0

/-- The block as it takes a frame: the link has been heard now. -/
def heardOn (s : State) (l : Nat) : Block := s.start.onHub l fun x => { x with heard := s.blk.age l }

/-- The n-th frame from now on a link. -/
def frameOn (s : State) (l n shub dhub : Nat) (f : TFrame) : Out :=
  .frame l { link := l, pairId := s.blk.eng.twin.pairId, fseq := (s.blk.hub l).fseq + n, shub := shub, dhub := dhub, version := 0x20 + s.blk.eng.minor } f

/-- Firmware runs: the engine is not fatal, its leader neither hands over nor takes over. -/
def LeaderActs (s : State) : Prop := s.blk.fatal = false ∧ s.blk.fw s.blk.eng.leader ≠ .handover ∧ s.blk.eng.passing = false

/-- The pairing failed with a DETAIL: the state is what it was, the message learns it, and the event is recorded; no table, ring or byte changed. -/
def PairingFailed (s t : State) (detail : Nat) : Prop :=
  t.store = s.store ∧ t.blk.eng.twin.state = s.blk.eng.twin.before ∧ t.blk.eng.twin.gotPair = false ∧ Recorded s t 0x11 ∧
    t.blk.tables = s.blk.tables ∧ t.blk.rings = s.blk.rings ∧ t.blk.dies = s.blk.dies ∧
    ∀ p ∈ s.blk.eng.pend, p.code = 0x90 → p.behind = false → { p with aux := [detail] } ∈ t.blk.eng.pend

/-- The engine is SOLO: no fence, sweep or resynchronisation runs, no digest waits, and no table exchanges digests. -/
def TwinGone (s t : State) : Prop :=
  t.blk.eng.twin.state = .solo ∧ t.blk.eng.twin.fences = [] ∧ t.blk.eng.twin.resyncs = [] ∧ t.blk.eng.twin.sweeps = [] ∧
    t.blk.eng.twin.mismatched = [] ∧ t.blk.eng.twin.gotPair = false ∧ t.blk.eng.twin.lastPairId = s.blk.eng.twin.lastPairId ∧
    (∀ h, (t.blk.hub h).digests = {}) ∧ ∀ n x, t.blk.tables.get? n = some x → x.exchanging = false

end Sys2Proof.Spec

/-- PAIR_FRAME_SEND sends the leader's PAIR frame on every link that is up, once in 1,000 age units; PAIR_FRAME fails the checks of TWIN_PAIR in their order or begins the sweeps or the
resynchronisation; PAIRING_TIMEOUT fails the pairing; UNPAIR_FRAME and TWIN_LOSS leave the engine SOLO (R386, R388, R399, R407). The state that a PAIR frame
tells is the one in which TWIN_PAIR found the engine (DEDUCED, log 32). -/
def Obligations.PairingChecksBeginsAndEnds : Prop :=
  ∀ (s : State), Quiet s → s.blk.eng.passing = false →
    let w := s.blk.eng.twin
    (w.state = .pairing → w.gotPair = false → LeaderActs s → (∀ a, w.pairSent = some a → a + 1000 ≤ s.blk.age s.blk.eng.leader) →
      Runs .pairFrameSend s fun t => t.store = s.store ∧ t.blk.eng = { s.blk.eng with twin := { w with pairSent := some (s.blk.age s.blk.eng.leader) } } ∧ ∃ p : PairPayload, p.primary = w.primaryAsked ∧ p.resync = w.resyncAsked ∧
        p.state = stateCode w.before ∧ p.lastPairId = w.lastPairId ∧ p.entries.map (·.table) = s.blk.mirrored.map (·.1) ∧
        t.blk.outbox = s.blk.outbox ++ ((List.range 4).filter s.blk.linkUp).map fun l => frameOn s l 1 l l (.pair p))
    ∧ (w.state = .pairing → w.gotPair = false → w.pairAge + 1000000000 ≤ s.blk.age s.blk.eng.leader → Runs .pairingTimeout s fun t => PairingFailed s t 2)
    ∧ (∀ hdr p, Hears s hdr → w.state = .pairing → w.gotPair = false →
        let roles := w.primaryAsked = p.primary
        let sources := (w.resyncAsked = true ∧ (p.resync = true ∨ w.before = .solo)) ∨ (p.resync = true ∧ p.state = 4)
        let resync := w.resyncAsked = true ∨ p.resync = true
        (roles → Runs (.pairFrame hdr p) s fun t => PairingFailed s t 3)
        ∧ (¬ roles → sources → Runs (.pairFrame hdr p) s fun t => PairingFailed s t 4)
        ∧ (∀ x, ¬ roles → ¬ sources → s.blk.pairTables p = some x → Runs (.pairFrame hdr p) s fun t => PairingFailed s t 5)
        ∧ (¬ roles → ¬ sources → s.blk.pairTables p = none → ¬ resync → s.blk.sameApplied p = false → Runs (.pairFrame hdr p) s fun t => PairingFailed s t 6)
        ∧ (¬ roles → ¬ sources → s.blk.pairTables p = none → (resync ∨ s.blk.sameApplied p = true) → s.blk.mirrored ≠ [] →
            Runs (.pairFrame hdr p) s fun t => t.store = s.store ∧ t.blk.tables = s.blk.tables ∧ t.blk.dies = s.blk.dies ∧ t.blk.eng.twin.gotPair = true ∧
              t.blk.eng.twin.role = (if w.primaryAsked = true then 1 else 2) ∧ t.blk.eng.twin.receiver = w.resyncAsked ∧
              (resync → p.entries ≠ [] → t.blk.eng.twin.state = .resync ∧ t.blk.eng.twin.resyncs.map (·.table) = p.entries.map (·.table)) ∧
              (¬ resync → t.blk.eng.twin.state = .pairing ∧ t.blk.eng.twin.resyncs = [] ∧
                t.blk.eng.twin.sweeps = s.blk.mirrored.map fun (n, td) => (n, 0, td.lrows, true))))
    ∧ (∀ hdr cause, Hears s hdr → twinTied w = true → Runs (.unpairFrame hdr cause) s fun t => TwinGone s t ∧ s.blk.eng.eseq < t.blk.eng.eseq ∧
        (cause = 1 → ∀ q, (t.blk.die q).twinJournal = []))
    ∧ (twinTied w = true → (∀ l, l < 4 → s.blk.hubUp l = true → (s.blk.hub l).heard + 100000 ≤ s.blk.age l) →
        Runs .twinLoss s fun t => TwinGone s t ∧ s.blk.eng.eseq < t.blk.eng.eseq)

/-- ALIVE_SEND sends an ALIVE frame on a link that has been idle for 1,000 age units; ALIVE_FRAME makes the link heard (rows of the twin that wait here are taken up with it, log 72); FRAME_DISCARD lists a frame and does
nothing else; DIGEST_SEND sends the entries of one batch; DIGEST_FRAME pairs the twin's entry with our own, lists the row where they differ, and keeps it
where ours is still to come (R385, R390, R391, R399). -/
def Obligations.AliveAndDigestFramesAct : Prop :=
  ∀ (s : State), let w := s.blk.eng.twin
    (∀ h, s.blk.linkUp h = true → twinTied w = true → (s.blk.hub h).lastSent + 1000 ≤ s.blk.age h →
      Runs (.aliveSend h) s fun t => OnlyHub { s with blk := { s.blk with outbox := s.blk.outbox ++ [frameOn s h 1 h h .alive] } } t h ∧
        t.blk.hub h = { s.blk.hub h with fseq := (s.blk.hub h).fseq + 1, lastSent := s.blk.age h })
    ∧ (∀ hdr, Hears s hdr → w.rowsIn = [] → Runs (.aliveFrame hdr) s fun t => OnlyHub s t hdr.link ∧
        t.blk.hub hdr.link = { s.blk.hub hdr.link with heard := s.blk.age hdr.link })
    ∧ (∀ hdr kind reserved, hdr.link < 4 → s.blk.linkUp hdr.link = true → s.blk.eng.passing = false → Quiet s →
        (7 < kind ∨ hdr.pairId ≠ w.pairId ∨ reserved = true) → Runs (.frameDiscard hdr kind reserved) s fun t => t.store = s.store ∧ Recorded s t 0x10 ∧
          t.blk.eng.twin = w ∧ t.blk.tables = s.blk.tables ∧ t.blk.dies = s.blk.dies ∧ t.blk.rings = s.blk.rings ∧ t.blk.outbox = s.blk.outbox ∧
          ∀ h, (t.blk.hub h).heard = (s.blk.hub h).heard)
    ∧ (∀ h l e es, w.unpairing = false → (s.blk.hub h).digests.outgoing = e :: es → (4096 ≤ es.length + 1 ∨ (s.blk.hub h).digests.firstAge + 100 ≤ s.blk.age h) →
        s.blk.linkFor h = some l → Runs (.digestSend h) s fun t => t.store = s.store ∧ t.blk.eng = s.blk.eng ∧ t.blk.tables = s.blk.tables ∧
          ∃ mine, e ∈ mine ∧ mine.length ≤ 4096 ∧ (∀ x ∈ mine, x ∈ e :: es ∧ x.table = e.table ∧ x.bseq = e.bseq) ∧
            t.blk.outbox = s.blk.outbox ++ [frameOn s l 1 h h (.digest mine)] ∧ (t.blk.hub h).digests.own = (s.blk.hub h).digests.own ∧
            (t.blk.hub h).digests.outgoing = (e :: es).filter fun x => !mine.contains x)
    ∧ ∀ hdr e x q, Hears s hdr → twinTied w = true → w.unpairing = false → s.blk.tables.get? e.table = some x →
        ownerOf s.store (heardOn s hdr.link) (tdOf x.desc) e.lrow = some q → s.blk.hubs.get? (s.blk.homeHub q) ≠ none →
        let d := (s.blk.hub (s.blk.homeHub q)).digests
        let applied := ((s.blk.die q).replay.getD e.table {}).applied
        (∀ o, d.own.find? (sameKey e) = some o → Runs (.digestFrame hdr [e]) s fun t => t.store = s.store ∧ t.blk.dies = s.blk.dies ∧
          (t.blk.hub (s.blk.homeHub q)).digests = { d with own := d.own.filter (!sameKey e ·) } ∧
          (equalTo e o = true → t.blk.eng = s.blk.eng) ∧
          (equalTo e o = false → (∀ m ∈ w.mismatched, ¬ (m.1 = e.table ∧ m.2.1 = e.lrow)) →
            t.blk.eng.twin.mismatched = w.mismatched ++ [(e.table, e.lrow, e.bseq)]))
        ∧ (d.own.find? (sameKey e) = none → applied < e.bseq → d.room = true → Runs (.digestFrame hdr [e]) s fun t => t.store = s.store ∧
            t.blk.eng = s.blk.eng ∧ t.blk.dies = s.blk.dies ∧ (t.blk.hub (s.blk.homeHub q)).digests = { d with theirs := d.theirs ++ [e] })
        ∧ (d.own.find? (sameKey e) = none → e.bseq ≤ applied → (∀ m ∈ w.mismatched, ¬ (m.1 = e.table ∧ m.2.1 = e.lrow)) →
            Runs (.digestFrame hdr [e]) s fun t => t.store = s.store ∧ t.blk.dies = s.blk.dies ∧ (t.blk.hub (s.blk.homeHub q)).digests = d ∧
              t.blk.eng.twin.mismatched = w.mismatched ++ [(e.table, e.lrow, e.bseq)])

/-- REPAIR_FENCE_START of the primary asks for a fence on a table with a row that differs and says how far it has started; FENCE_FRAME joins the twin's fence, takes
what it has started and reached, and releases it; FENCE_TIMEOUT abandons it with its rows listed; DIGEST_SWEEP puts the next tile under a fence; SWEEP_FRAME settles
a row that is equal and lists one that is not, and the primary sends the row where the masters differ too (R393 to R397). -/
def Obligations.FencesSweepAndRepair : Prop :=
  ∀ (n : Nat) (s : State), let w := s.blk.eng.twin
    let td := tdOf (s.blk.tables.getD n {}).desc
    let own := s.blk.highestStarted n
    let lead := s.blk.eng.leader
    w.unpairing = false → td.mirror = true →
    (∀ l, LeaderActs s → w.state = .paired → w.role = 1 → s.blk.fence? n = none → (∃ m ∈ w.mismatched, m.1 = n) →
      (∀ h, w.abandoned.get? n = some h → s.blk.appliedAll n h = true) → s.blk.linkFor lead = some l →
      Runs (.repairFenceStart n) s fun t => t.store = s.store ∧ t.blk.dies = s.blk.dies ∧ t.blk.eng.twin.mismatched = w.mismatched ∧
        t.blk.fence? n = some { table := n, step := 2, age := s.blk.age lead, own := some own } ∧
        t.blk.outbox = s.blk.outbox ++ [frameOn s l 1 lead lead (.fence n .request 0), frameOn s l 2 lead lead (.fence n .started own)])
    ∧ (∀ hdr bseq, Hears s hdr → twinTied w = true →
        (∀ l, s.blk.fence? n = none → s.blk.linkFor lead = some l → Runs (.fenceFrame hdr n .request bseq) s fun t => t.store = s.store ∧
          (∃ f, t.blk.fence? n = some f ∧ f.lead = false ∧ f.own = some own ∧ f.theirs = none) ∧
          t.blk.outbox = s.blk.outbox ++ [frameOn s l 1 lead lead (.fence n .started own)])
        ∧ ∀ f, s.blk.fence? n = some f →
          (f.step < 4 → f.theirs = none → Runs (.fenceFrame hdr n .started bseq) s fun t => t.store = s.store ∧
            ∃ f', t.blk.fence? n = some f' ∧ f'.theirs = some bseq ∧ f'.own = f.own ∧ f'.lead = f.lead ∧ f'.rows = f.rows)
          ∧ (f.step < 4 → f.reachedOwn = false → Runs (.fenceFrame hdr n .reached bseq) s fun t => t.store = s.store ∧ t.blk.outbox = s.blk.outbox ∧
              t.blk.fence? n = some { f with reachedTheirs := true })
          ∧ Runs (.fenceFrame hdr n .release bseq) s fun t => t.store = s.store ∧ t.blk.outbox = s.blk.outbox ∧ t.blk.fence? n = none ∧
              ∀ r ∈ f.rows, r.2.2 < 8 → (n, r.1, r.2.1) ∈ t.blk.eng.twin.mismatched)
    ∧ (∀ f, s.blk.fatal = false → s.blk.fw lead ≠ .handover → s.blk.fence? n = some f → f.age + 1000000 ≤ s.blk.age lead →
        Runs (.fenceTimeout n) s fun t => t.store = s.store ∧ t.blk.fence? n = none ∧ t.blk.eng.twin.abandoned.get? n = some ((fenceTop f).getD own) ∧
          (∀ m ∈ w.mismatched, m ∈ t.blk.eng.twin.mismatched) ∧ ∀ r ∈ f.rows, r.2.2 < 8 → (n, r.1, r.2.1) ∈ t.blk.eng.twin.mismatched)
    ∧ (∀ first last rep, twinTied w = true → s.blk.eng.passing = false → s.blk.fence? n = none → w.sweeps.find? (·.1 == n) = some (n, first, last, rep) →
        first < last → Runs (.digestSweep n) s fun t => t.store = s.store ∧ ∃ f, t.blk.fence? n = some f ∧ f.lead = true ∧ f.own = some own ∧ f.repair = rep ∧
          f.sweep = some (first, Nat.min 65536 (last - first)))
    ∧ ∀ hdr f lrow d r own, Hears s hdr → td.table = n → s.blk.fence? n = some f → f.step = 4 → f.reachedOwn = true → f.lead = false → f.slot = none →
        let b := (heardOn s hdr.link).onFence n fun f => { f with reachedTheirs := true }
        rowAt s.store b td lrow = some r → rowDigests s.store b r = some own →
        (∀ q, f.rows.find? (·.1 == lrow) = some (lrow, q, 9) → own = d → own.1 ≠ poisonMark →
          Runs (.sweepFrame hdr n lrow [d]) s fun t => t.store = s.store ∧ t.blk.outbox = s.blk.outbox ∧ t.blk.eng.events = s.blk.eng.events ∧
            t.blk.fence? n = some { f with reachedTheirs := true, rows := f.rows.filter (·.1 != lrow) })
        ∧ (f.rows.find? (·.1 == lrow) = none → (own = d → own.1 = poisonMark) → ¬ (own.1 = poisonMark ∧ d.1 = poisonMark) →
          Runs (.sweepFrame hdr n lrow [d]) s fun t => t.store = s.store ∧
            t.blk.fence? n = some { f with reachedTheirs := true, rows := f.rows ++ [(lrow, 0, 8)] })
        ∧ ∀ q l, f.rows.find? (·.1 == lrow) = some (lrow, q, 8) → w.role = 1 → own.2 ≠ d.2 → own.1 ≠ poisonMark → d.1 ≠ poisonMark →
          s.blk.linkFor (s.blk.homeHub r.stack) = some l →
          Runs (.sweepFrame hdr n lrow [d]) s fun t => t.store = s.store ∧ (∃ f', t.blk.fence? n = some f' ∧ f'.rows.find? (·.1 == lrow) = some (lrow, q, 2)) ∧
            ∃ hd p, t.blk.outbox = s.blk.outbox ++ [.frame l hd (.row p)] ∧ p.table = n ∧ p.lrow = lrow ∧ p.slot = r.read s.store b 0 td.S

/-- RESYNC_PASS of a source sends a tile of rows, then what was journalled since, then holds the table's batches, and at APPLIED equal to what it holds at sends the
RESYNC frame and is done, once the rows that it sends can be read; at the receiver a ROW frame stores the row with the header and the padding that every
commit writes (R47, R443), and RESYNC_FRAME sets APPLIED and the replay digests on every row die in service
(R402, R403, Table 14-6). -/
def Obligations.ResynchronisationPassesAndEnds : Prop :=
  ∀ (n : Nat) (s : State) (r : Resync), let w := s.blk.eng.twin
    let td := tdOf (s.blk.tables.getD n {}).desc
    s.blk.resync? n = some r → w.sweeps = [] →
    (LeaderActs s → w.state = .resync → w.receiver = false →
      (r.hold = none → r.full = true → r.pass = 0 → rowsFree s.store td s.start ((List.range (Nat.min 65536 (td.lrows - r.next))).map (r.next + ·)) = true →
        Runs (.resyncPass n) s fun t => t.store = s.store ∧ t.blk.resync? n =
        some { r with next := r.next + Nat.min 65536 (td.lrows - r.next), pass := if td.lrows ≤ r.next + Nat.min 65536 (td.lrows - r.next) then 1 else 0 })
      ∧ (r.hold = none → rowsFree s.store td s.start (s.blk.newRows r) = true → (r.full = false ∨ r.pass ≠ 0) → ((s.blk.newRows r).length < 65536 ∨ 8 ≤ r.pass) → Runs (.resyncPass n) s fun t => t.store = s.store ∧
          t.blk.resync? n = some { r with hold := some (s.blk.highestStarted n) } ∧ t.blk.outbox = s.blk.outbox)
      ∧ (r.hold = none → rowsFree s.store td s.start (s.blk.newRows r) = true → (r.full = false ∨ r.pass ≠ 0) → 65536 ≤ (s.blk.newRows r).length → r.pass < 8 → Runs (.resyncPass n) s fun t => t.store = s.store ∧
          t.blk.resync? n = some { r with pass := r.pass + 1, marks := s.blk.journalMarks n })
      ∧ ∀ h l, r.hold = some h → s.blk.appliedAll n h = true → rowsFree s.store td s.start (s.blk.newRows r) = true → s.blk.linkFor s.blk.eng.leader = some l → Runs (.resyncPass n) s fun t => t.store = s.store ∧
          t.blk.resync? n = none ∧ t.blk.eng.twin.sweeps = [(n, 0, td.lrows, true)] ∧ (∀ q, ∀ y ∈ (t.blk.die q).twinJournal, y.1 ≠ n) ∧
          ∃ hd digs, t.blk.outbox.getLast? = some (.frame l hd (.resync n h digs)))
    ∧ (∀ hdr applied digests, Hears s hdr → w.receiver = true → (∀ x ∈ w.rowsIn, x.row.table ≠ n) → Runs (.resyncFrame hdr n applied digests) s fun t => t.store = s.store ∧ t.blk.resync? n = none ∧
        t.blk.eng.twin.sweeps = [(n, 0, td.lrows, true)] ∧
        ∀ q, q < 12 → s.blk.dieUp q = true → (t.blk.die q).replay.get? n = some { applied := applied, last := digests.take 8 })
    ∧ ∀ hdr (row : RowPayload) r st, Hears s hdr → w.receiver = true → twinTied w = true → td.mirror = true → td.place ≠ 1 → row.table = n → row.accum = [] → MemInv s → Quiet s →
        row.slot.length = td.S → row.slot ≠ [] → w.rowsIn = [] → rowSeen s.store (heardOn s hdr.link) td row.lrow = some (r, st) → st ≠ ROW_SPLIT → st ≠ MEMORY_LOST →
        (s.blk.chan r.ch).lost = false → (heardOn s hdr.link).rowStalls r = false →
        Runs (.rowFrame hdr row) s fun t => t.store.host = s.store.host ∧ (∀ a ∈ r.atoms 0 td.S, t.store.poison.contains a = false) ∧
          (∀ q, ¬ q / 64 ∈ r.atoms 0 td.S → readByte t.store.mem q = readByte s.store.mem q) ∧
          ∀ a, r.parts = [(0, a, td.S)] → (∀ p, a ≤ p → p < a + td.S → s.blk.locate p = s.blk.locate (p / 256 * 256)) →
            readBytes t.store.mem a td.S = placedImage td row.slot
end

