-- ==== Sys2Proof/Laws/State.lean ====
section
/-! SUPPORT. What each update of the block leaves: one lemma for each update and each part of the block, and what a record of a hub, a row die
or a table of records reads after an update of it. -/
namespace Sys2Proof.Machine

/-! ### onHub -/
@[simp] theorem Block.onHub_eng (b : Block) (h : Nat) (f : Hub → Hub) : (b.onHub h f).eng = b.eng := rfl
@[simp] theorem Block.onHub_hubs (b : Block) (h : Nat) (f : Hub → Hub) : (b.onHub h f).hubs = b.hubs.modify h f := rfl
@[simp] theorem Block.onHub_dies (b : Block) (h : Nat) (f : Hub → Hub) : (b.onHub h f).dies = b.dies := rfl
@[simp] theorem Block.onHub_jobs (b : Block) (h : Nat) (f : Hub → Hub) : (b.onHub h f).jobs = b.jobs := rfl
@[simp] theorem Block.onHub_tables (b : Block) (h : Nat) (f : Hub → Hub) : (b.onHub h f).tables = b.tables := rfl
@[simp] theorem Block.onHub_progs (b : Block) (h : Nat) (f : Hub → Hub) : (b.onHub h f).progs = b.progs := rfl
@[simp] theorem Block.onHub_rings (b : Block) (h : Nat) (f : Hub → Hub) : (b.onHub h f).rings = b.rings := rfl
@[simp] theorem Block.onHub_works (b : Block) (h : Nat) (f : Hub → Hub) : (b.onHub h f).works = b.works := rfl
@[simp] theorem Block.onHub_outbox (b : Block) (h : Nat) (f : Hub → Hub) : (b.onHub h f).outbox = b.outbox := rfl
@[simp] theorem Block.onHub_heldHost (b : Block) (h : Nat) (f : Hub → Hub) : (b.onHub h f).heldHost = b.heldHost := rfl
@[simp] theorem Block.onHub_freeCount (b : Block) (h : Nat) (f : Hub → Hub) : (b.onHub h f).freeCount = b.freeCount := rfl
@[simp] theorem Block.onHub_wr (b : Block) (h : Nat) (f : Hub → Hub) : (b.onHub h f).wr = b.wr := rfl

/-! ### onDie -/
@[simp] theorem Block.onDie_eng (b : Block) (s : Nat) (f : RowDie → RowDie) : (b.onDie s f).eng = b.eng := rfl
@[simp] theorem Block.onDie_hubs (b : Block) (s : Nat) (f : RowDie → RowDie) : (b.onDie s f).hubs = b.hubs := rfl
@[simp] theorem Block.onDie_dies (b : Block) (s : Nat) (f : RowDie → RowDie) : (b.onDie s f).dies = b.dies.modify s f := rfl
@[simp] theorem Block.onDie_jobs (b : Block) (s : Nat) (f : RowDie → RowDie) : (b.onDie s f).jobs = b.jobs := rfl
@[simp] theorem Block.onDie_tables (b : Block) (s : Nat) (f : RowDie → RowDie) : (b.onDie s f).tables = b.tables := rfl
@[simp] theorem Block.onDie_progs (b : Block) (s : Nat) (f : RowDie → RowDie) : (b.onDie s f).progs = b.progs := rfl
@[simp] theorem Block.onDie_rings (b : Block) (s : Nat) (f : RowDie → RowDie) : (b.onDie s f).rings = b.rings := rfl
@[simp] theorem Block.onDie_works (b : Block) (s : Nat) (f : RowDie → RowDie) : (b.onDie s f).works = b.works := rfl
@[simp] theorem Block.onDie_outbox (b : Block) (s : Nat) (f : RowDie → RowDie) : (b.onDie s f).outbox = b.outbox := rfl
@[simp] theorem Block.onDie_heldHost (b : Block) (s : Nat) (f : RowDie → RowDie) : (b.onDie s f).heldHost = b.heldHost := rfl
@[simp] theorem Block.onDie_freeCount (b : Block) (s : Nat) (f : RowDie → RowDie) : (b.onDie s f).freeCount = b.freeCount := rfl
@[simp] theorem Block.onDie_wr (b : Block) (s : Nat) (f : RowDie → RowDie) : (b.onDie s f).wr = b.wr := rfl

/-! ### onEng -/
@[simp] theorem Block.onEng_eng (b : Block) (f : Eng → Eng) : (b.onEng f).eng = f b.eng := rfl
@[simp] theorem Block.onEng_hubs (b : Block) (f : Eng → Eng) : (b.onEng f).hubs = b.hubs := rfl
@[simp] theorem Block.onEng_dies (b : Block) (f : Eng → Eng) : (b.onEng f).dies = b.dies := rfl
@[simp] theorem Block.onEng_jobs (b : Block) (f : Eng → Eng) : (b.onEng f).jobs = b.jobs := rfl
@[simp] theorem Block.onEng_tables (b : Block) (f : Eng → Eng) : (b.onEng f).tables = b.tables := rfl
@[simp] theorem Block.onEng_progs (b : Block) (f : Eng → Eng) : (b.onEng f).progs = b.progs := rfl
@[simp] theorem Block.onEng_rings (b : Block) (f : Eng → Eng) : (b.onEng f).rings = b.rings := rfl
@[simp] theorem Block.onEng_works (b : Block) (f : Eng → Eng) : (b.onEng f).works = b.works := rfl
@[simp] theorem Block.onEng_outbox (b : Block) (f : Eng → Eng) : (b.onEng f).outbox = b.outbox := rfl
@[simp] theorem Block.onEng_heldHost (b : Block) (f : Eng → Eng) : (b.onEng f).heldHost = b.heldHost := rfl
@[simp] theorem Block.onEng_freeCount (b : Block) (f : Eng → Eng) : (b.onEng f).freeCount = b.freeCount := rfl
@[simp] theorem Block.onEng_wr (b : Block) (f : Eng → Eng) : (b.onEng f).wr = b.wr := rfl

/-! ### onRing -/
@[simp] theorem Block.onRing_eng (b : Block) (r : Nat) (f : Ring → Ring) : (b.onRing r f).eng = b.eng := rfl
@[simp] theorem Block.onRing_hubs (b : Block) (r : Nat) (f : Ring → Ring) : (b.onRing r f).hubs = b.hubs := rfl
@[simp] theorem Block.onRing_dies (b : Block) (r : Nat) (f : Ring → Ring) : (b.onRing r f).dies = b.dies := rfl
@[simp] theorem Block.onRing_jobs (b : Block) (r : Nat) (f : Ring → Ring) : (b.onRing r f).jobs = b.jobs := rfl
@[simp] theorem Block.onRing_tables (b : Block) (r : Nat) (f : Ring → Ring) : (b.onRing r f).tables = b.tables := rfl
@[simp] theorem Block.onRing_progs (b : Block) (r : Nat) (f : Ring → Ring) : (b.onRing r f).progs = b.progs := rfl
@[simp] theorem Block.onRing_rings (b : Block) (r : Nat) (f : Ring → Ring) : (b.onRing r f).rings = b.rings.modify r f := rfl
@[simp] theorem Block.onRing_works (b : Block) (r : Nat) (f : Ring → Ring) : (b.onRing r f).works = b.works := rfl
@[simp] theorem Block.onRing_outbox (b : Block) (r : Nat) (f : Ring → Ring) : (b.onRing r f).outbox = b.outbox := rfl
@[simp] theorem Block.onRing_heldHost (b : Block) (r : Nat) (f : Ring → Ring) : (b.onRing r f).heldHost = b.heldHost := rfl
@[simp] theorem Block.onRing_freeCount (b : Block) (r : Nat) (f : Ring → Ring) : (b.onRing r f).freeCount = b.freeCount := rfl
@[simp] theorem Block.onRing_wr (b : Block) (r : Nat) (f : Ring → Ring) : (b.onRing r f).wr = b.wr := rfl

/-! ### onJob -/
@[simp] theorem Block.onJob_eng (b : Block) (j : Nat) (f : Job → Job) : (b.onJob j f).eng = b.eng := rfl
@[simp] theorem Block.onJob_hubs (b : Block) (j : Nat) (f : Job → Job) : (b.onJob j f).hubs = b.hubs := rfl
@[simp] theorem Block.onJob_dies (b : Block) (j : Nat) (f : Job → Job) : (b.onJob j f).dies = b.dies := rfl
@[simp] theorem Block.onJob_jobs (b : Block) (j : Nat) (f : Job → Job) : (b.onJob j f).jobs = b.jobs.modify j f := rfl
@[simp] theorem Block.onJob_tables (b : Block) (j : Nat) (f : Job → Job) : (b.onJob j f).tables = b.tables := rfl
@[simp] theorem Block.onJob_progs (b : Block) (j : Nat) (f : Job → Job) : (b.onJob j f).progs = b.progs := rfl
@[simp] theorem Block.onJob_rings (b : Block) (j : Nat) (f : Job → Job) : (b.onJob j f).rings = b.rings := rfl
@[simp] theorem Block.onJob_works (b : Block) (j : Nat) (f : Job → Job) : (b.onJob j f).works = b.works := rfl
@[simp] theorem Block.onJob_outbox (b : Block) (j : Nat) (f : Job → Job) : (b.onJob j f).outbox = b.outbox := rfl
@[simp] theorem Block.onJob_heldHost (b : Block) (j : Nat) (f : Job → Job) : (b.onJob j f).heldHost = b.heldHost := rfl
@[simp] theorem Block.onJob_freeCount (b : Block) (j : Nat) (f : Job → Job) : (b.onJob j f).freeCount = b.freeCount := rfl
@[simp] theorem Block.onJob_wr (b : Block) (j : Nat) (f : Job → Job) : (b.onJob j f).wr = b.wr := rfl

/-! ### onTable -/
@[simp] theorem Block.onTable_eng (b : Block) (t : Nat) (f : TableSt → TableSt) : (b.onTable t f).eng = b.eng := rfl
@[simp] theorem Block.onTable_hubs (b : Block) (t : Nat) (f : TableSt → TableSt) : (b.onTable t f).hubs = b.hubs := rfl
@[simp] theorem Block.onTable_dies (b : Block) (t : Nat) (f : TableSt → TableSt) : (b.onTable t f).dies = b.dies := rfl
@[simp] theorem Block.onTable_jobs (b : Block) (t : Nat) (f : TableSt → TableSt) : (b.onTable t f).jobs = b.jobs := rfl
@[simp] theorem Block.onTable_tables (b : Block) (t : Nat) (f : TableSt → TableSt) : (b.onTable t f).tables = b.tables.modify t f := rfl
@[simp] theorem Block.onTable_progs (b : Block) (t : Nat) (f : TableSt → TableSt) : (b.onTable t f).progs = b.progs := rfl
@[simp] theorem Block.onTable_rings (b : Block) (t : Nat) (f : TableSt → TableSt) : (b.onTable t f).rings = b.rings := rfl
@[simp] theorem Block.onTable_works (b : Block) (t : Nat) (f : TableSt → TableSt) : (b.onTable t f).works = b.works := rfl
@[simp] theorem Block.onTable_outbox (b : Block) (t : Nat) (f : TableSt → TableSt) : (b.onTable t f).outbox = b.outbox := rfl
@[simp] theorem Block.onTable_heldHost (b : Block) (t : Nat) (f : TableSt → TableSt) : (b.onTable t f).heldHost = b.heldHost := rfl
@[simp] theorem Block.onTable_freeCount (b : Block) (t : Nat) (f : TableSt → TableSt) : (b.onTable t f).freeCount = b.freeCount := rfl
@[simp] theorem Block.onTable_wr (b : Block) (t : Nat) (f : TableSt → TableSt) : (b.onTable t f).wr = b.wr := rfl

/-! ### onSlice -/
@[simp] theorem Block.onSlice_eng (b : Block) (h : Nat) (f : Slice → Slice) : (b.onSlice h f).eng = b.eng := rfl
@[simp] theorem Block.onSlice_hubs (b : Block) (h : Nat) (f : Slice → Slice) : (b.onSlice h f).hubs = b.hubs.modify h fun x => { x with slice := f x.slice } := rfl
@[simp] theorem Block.onSlice_dies (b : Block) (h : Nat) (f : Slice → Slice) : (b.onSlice h f).dies = b.dies := rfl
@[simp] theorem Block.onSlice_jobs (b : Block) (h : Nat) (f : Slice → Slice) : (b.onSlice h f).jobs = b.jobs := rfl
@[simp] theorem Block.onSlice_tables (b : Block) (h : Nat) (f : Slice → Slice) : (b.onSlice h f).tables = b.tables := rfl
@[simp] theorem Block.onSlice_progs (b : Block) (h : Nat) (f : Slice → Slice) : (b.onSlice h f).progs = b.progs := rfl
@[simp] theorem Block.onSlice_rings (b : Block) (h : Nat) (f : Slice → Slice) : (b.onSlice h f).rings = b.rings := rfl
@[simp] theorem Block.onSlice_works (b : Block) (h : Nat) (f : Slice → Slice) : (b.onSlice h f).works = b.works := rfl
@[simp] theorem Block.onSlice_outbox (b : Block) (h : Nat) (f : Slice → Slice) : (b.onSlice h f).outbox = b.outbox := rfl
@[simp] theorem Block.onSlice_heldHost (b : Block) (h : Nat) (f : Slice → Slice) : (b.onSlice h f).heldHost = b.heldHost := rfl
@[simp] theorem Block.onSlice_freeCount (b : Block) (h : Nat) (f : Slice → Slice) : (b.onSlice h f).freeCount = b.freeCount := rfl
@[simp] theorem Block.onSlice_wr (b : Block) (h : Nat) (f : Slice → Slice) : (b.onSlice h f).wr = b.wr := rfl

/-! ### onSched -/
@[simp] theorem Block.onSched_eng (b : Block) (h : Nat) (f : Sched → Sched) : (b.onSched h f).eng = b.eng := rfl
@[simp] theorem Block.onSched_hubs (b : Block) (h : Nat) (f : Sched → Sched) : (b.onSched h f).hubs = b.hubs.modify h fun x => { x with sched := f x.sched } := rfl
@[simp] theorem Block.onSched_dies (b : Block) (h : Nat) (f : Sched → Sched) : (b.onSched h f).dies = b.dies := rfl
@[simp] theorem Block.onSched_jobs (b : Block) (h : Nat) (f : Sched → Sched) : (b.onSched h f).jobs = b.jobs := rfl
@[simp] theorem Block.onSched_tables (b : Block) (h : Nat) (f : Sched → Sched) : (b.onSched h f).tables = b.tables := rfl
@[simp] theorem Block.onSched_progs (b : Block) (h : Nat) (f : Sched → Sched) : (b.onSched h f).progs = b.progs := rfl
@[simp] theorem Block.onSched_rings (b : Block) (h : Nat) (f : Sched → Sched) : (b.onSched h f).rings = b.rings := rfl
@[simp] theorem Block.onSched_works (b : Block) (h : Nat) (f : Sched → Sched) : (b.onSched h f).works = b.works := rfl
@[simp] theorem Block.onSched_outbox (b : Block) (h : Nat) (f : Sched → Sched) : (b.onSched h f).outbox = b.outbox := rfl
@[simp] theorem Block.onSched_heldHost (b : Block) (h : Nat) (f : Sched → Sched) : (b.onSched h f).heldHost = b.heldHost := rfl
@[simp] theorem Block.onSched_freeCount (b : Block) (h : Nat) (f : Sched → Sched) : (b.onSched h f).freeCount = b.freeCount := rfl
@[simp] theorem Block.onSched_wr (b : Block) (h : Nat) (f : Sched → Sched) : (b.onSched h f).wr = b.wr := rfl

/-! ### onXlat -/
@[simp] theorem Block.onXlat_eng (b : Block) (h : Nat) (f : Xlat → Xlat) : (b.onXlat h f).eng = b.eng := rfl
@[simp] theorem Block.onXlat_hubs (b : Block) (h : Nat) (f : Xlat → Xlat) : (b.onXlat h f).hubs = b.hubs.modify h fun x => { x with xlat := f x.xlat } := rfl
@[simp] theorem Block.onXlat_dies (b : Block) (h : Nat) (f : Xlat → Xlat) : (b.onXlat h f).dies = b.dies := rfl
@[simp] theorem Block.onXlat_jobs (b : Block) (h : Nat) (f : Xlat → Xlat) : (b.onXlat h f).jobs = b.jobs := rfl
@[simp] theorem Block.onXlat_tables (b : Block) (h : Nat) (f : Xlat → Xlat) : (b.onXlat h f).tables = b.tables := rfl
@[simp] theorem Block.onXlat_progs (b : Block) (h : Nat) (f : Xlat → Xlat) : (b.onXlat h f).progs = b.progs := rfl
@[simp] theorem Block.onXlat_rings (b : Block) (h : Nat) (f : Xlat → Xlat) : (b.onXlat h f).rings = b.rings := rfl
@[simp] theorem Block.onXlat_works (b : Block) (h : Nat) (f : Xlat → Xlat) : (b.onXlat h f).works = b.works := rfl
@[simp] theorem Block.onXlat_outbox (b : Block) (h : Nat) (f : Xlat → Xlat) : (b.onXlat h f).outbox = b.outbox := rfl
@[simp] theorem Block.onXlat_heldHost (b : Block) (h : Nat) (f : Xlat → Xlat) : (b.onXlat h f).heldHost = b.heldHost := rfl
@[simp] theorem Block.onXlat_freeCount (b : Block) (h : Nat) (f : Xlat → Xlat) : (b.onXlat h f).freeCount = b.freeCount := rfl
@[simp] theorem Block.onXlat_wr (b : Block) (h : Nat) (f : Xlat → Xlat) : (b.onXlat h f).wr = b.wr := rfl

/-! ### onRegs -/
@[simp] theorem Block.onRegs_eng (b : Block) (h : Nat) (f : Regs → Regs) : (b.onRegs h f).eng = b.eng := rfl
@[simp] theorem Block.onRegs_hubs (b : Block) (h : Nat) (f : Regs → Regs) : (b.onRegs h f).hubs = b.hubs.modify h fun x => { x with regs := f x.regs } := rfl
@[simp] theorem Block.onRegs_dies (b : Block) (h : Nat) (f : Regs → Regs) : (b.onRegs h f).dies = b.dies := rfl
@[simp] theorem Block.onRegs_jobs (b : Block) (h : Nat) (f : Regs → Regs) : (b.onRegs h f).jobs = b.jobs := rfl
@[simp] theorem Block.onRegs_tables (b : Block) (h : Nat) (f : Regs → Regs) : (b.onRegs h f).tables = b.tables := rfl
@[simp] theorem Block.onRegs_progs (b : Block) (h : Nat) (f : Regs → Regs) : (b.onRegs h f).progs = b.progs := rfl
@[simp] theorem Block.onRegs_rings (b : Block) (h : Nat) (f : Regs → Regs) : (b.onRegs h f).rings = b.rings := rfl
@[simp] theorem Block.onRegs_works (b : Block) (h : Nat) (f : Regs → Regs) : (b.onRegs h f).works = b.works := rfl
@[simp] theorem Block.onRegs_outbox (b : Block) (h : Nat) (f : Regs → Regs) : (b.onRegs h f).outbox = b.outbox := rfl
@[simp] theorem Block.onRegs_heldHost (b : Block) (h : Nat) (f : Regs → Regs) : (b.onRegs h f).heldHost = b.heldHost := rfl
@[simp] theorem Block.onRegs_freeCount (b : Block) (h : Nat) (f : Regs → Regs) : (b.onRegs h f).freeCount = b.freeCount := rfl
@[simp] theorem Block.onRegs_wr (b : Block) (h : Nat) (f : Regs → Regs) : (b.onRegs h f).wr = b.wr := rfl

/-! ### onChan -/
@[simp] theorem Block.onChan_eng (b : Block) (c : Nat) (f : Chan → Chan) : (b.onChan c f).eng = b.eng := rfl
@[simp] theorem Block.onChan_hubs (b : Block) (c : Nat) (f : Chan → Chan) : (b.onChan c f).hubs = b.hubs := rfl
@[simp] theorem Block.onChan_dies (b : Block) (c : Nat) (f : Chan → Chan) : (b.onChan c f).dies = b.dies.modify (c / 64) fun d => { d with chans := d.chans.put c (f (d.chans.getD c {})) } := rfl
@[simp] theorem Block.onChan_jobs (b : Block) (c : Nat) (f : Chan → Chan) : (b.onChan c f).jobs = b.jobs := rfl
@[simp] theorem Block.onChan_tables (b : Block) (c : Nat) (f : Chan → Chan) : (b.onChan c f).tables = b.tables := rfl
@[simp] theorem Block.onChan_progs (b : Block) (c : Nat) (f : Chan → Chan) : (b.onChan c f).progs = b.progs := rfl
@[simp] theorem Block.onChan_rings (b : Block) (c : Nat) (f : Chan → Chan) : (b.onChan c f).rings = b.rings := rfl
@[simp] theorem Block.onChan_works (b : Block) (c : Nat) (f : Chan → Chan) : (b.onChan c f).works = b.works := rfl
@[simp] theorem Block.onChan_outbox (b : Block) (c : Nat) (f : Chan → Chan) : (b.onChan c f).outbox = b.outbox := rfl
@[simp] theorem Block.onChan_heldHost (b : Block) (c : Nat) (f : Chan → Chan) : (b.onChan c f).heldHost = b.heldHost := rfl
@[simp] theorem Block.onChan_freeCount (b : Block) (c : Nat) (f : Chan → Chan) : (b.onChan c f).freeCount = b.freeCount := rfl
@[simp] theorem Block.onChan_wr (b : Block) (c : Nat) (f : Chan → Chan) : (b.onChan c f).wr = b.wr := rfl

/-! ### onWork -/
@[simp] theorem Block.onWork_eng (b : Block) (r p : Nat) (f : Work → Work) : (b.onWork r p f).eng = b.eng := rfl
@[simp] theorem Block.onWork_hubs (b : Block) (r p : Nat) (f : Work → Work) : (b.onWork r p f).hubs = b.hubs := rfl
@[simp] theorem Block.onWork_dies (b : Block) (r p : Nat) (f : Work → Work) : (b.onWork r p f).dies = b.dies := rfl
@[simp] theorem Block.onWork_jobs (b : Block) (r p : Nat) (f : Work → Work) : (b.onWork r p f).jobs = b.jobs := rfl
@[simp] theorem Block.onWork_tables (b : Block) (r p : Nat) (f : Work → Work) : (b.onWork r p f).tables = b.tables := rfl
@[simp] theorem Block.onWork_progs (b : Block) (r p : Nat) (f : Work → Work) : (b.onWork r p f).progs = b.progs := rfl
@[simp] theorem Block.onWork_rings (b : Block) (r p : Nat) (f : Work → Work) : (b.onWork r p f).rings = b.rings := rfl
@[simp] theorem Block.onWork_works (b : Block) (r p : Nat) (f : Work → Work) : (b.onWork r p f).works = b.works.modify (workKey r p) f := rfl
@[simp] theorem Block.onWork_outbox (b : Block) (r p : Nat) (f : Work → Work) : (b.onWork r p f).outbox = b.outbox := rfl
@[simp] theorem Block.onWork_heldHost (b : Block) (r p : Nat) (f : Work → Work) : (b.onWork r p f).heldHost = b.heldHost := rfl
@[simp] theorem Block.onWork_freeCount (b : Block) (r p : Nat) (f : Work → Work) : (b.onWork r p f).freeCount = b.freeCount := rfl
@[simp] theorem Block.onWork_wr (b : Block) (r p : Nat) (f : Work → Work) : (b.onWork r p f).wr = b.wr := rfl

/-! ### putWork -/
@[simp] theorem Block.putWork_eng (b : Block) (w : Work) : (b.putWork w).eng = b.eng := rfl
@[simp] theorem Block.putWork_hubs (b : Block) (w : Work) : (b.putWork w).hubs = b.hubs := rfl
@[simp] theorem Block.putWork_dies (b : Block) (w : Work) : (b.putWork w).dies = b.dies := rfl
@[simp] theorem Block.putWork_jobs (b : Block) (w : Work) : (b.putWork w).jobs = b.jobs := rfl
@[simp] theorem Block.putWork_tables (b : Block) (w : Work) : (b.putWork w).tables = b.tables := rfl
@[simp] theorem Block.putWork_progs (b : Block) (w : Work) : (b.putWork w).progs = b.progs := rfl
@[simp] theorem Block.putWork_rings (b : Block) (w : Work) : (b.putWork w).rings = b.rings := rfl
@[simp] theorem Block.putWork_works (b : Block) (w : Work) : (b.putWork w).works = b.works.put (workKey w.ring w.p) w := rfl
@[simp] theorem Block.putWork_outbox (b : Block) (w : Work) : (b.putWork w).outbox = b.outbox := rfl
@[simp] theorem Block.putWork_heldHost (b : Block) (w : Work) : (b.putWork w).heldHost = b.heldHost := rfl
@[simp] theorem Block.putWork_freeCount (b : Block) (w : Work) : (b.putWork w).freeCount = b.freeCount := rfl
@[simp] theorem Block.putWork_wr (b : Block) (w : Work) : (b.putWork w).wr = b.wr := rfl

/-! ### delWork -/
@[simp] theorem Block.delWork_eng (b : Block) (r p : Nat) : (b.delWork r p).eng = b.eng := rfl
@[simp] theorem Block.delWork_hubs (b : Block) (r p : Nat) : (b.delWork r p).hubs = b.hubs := rfl
@[simp] theorem Block.delWork_dies (b : Block) (r p : Nat) : (b.delWork r p).dies = b.dies := rfl
@[simp] theorem Block.delWork_jobs (b : Block) (r p : Nat) : (b.delWork r p).jobs = b.jobs := rfl
@[simp] theorem Block.delWork_tables (b : Block) (r p : Nat) : (b.delWork r p).tables = b.tables := rfl
@[simp] theorem Block.delWork_progs (b : Block) (r p : Nat) : (b.delWork r p).progs = b.progs := rfl
@[simp] theorem Block.delWork_rings (b : Block) (r p : Nat) : (b.delWork r p).rings = b.rings := rfl
@[simp] theorem Block.delWork_works (b : Block) (r p : Nat) : (b.delWork r p).works = b.works.del (workKey r p) := rfl
@[simp] theorem Block.delWork_outbox (b : Block) (r p : Nat) : (b.delWork r p).outbox = b.outbox := rfl
@[simp] theorem Block.delWork_heldHost (b : Block) (r p : Nat) : (b.delWork r p).heldHost = b.heldHost := rfl
@[simp] theorem Block.delWork_freeCount (b : Block) (r p : Nat) : (b.delWork r p).freeCount = b.freeCount := rfl
@[simp] theorem Block.delWork_wr (b : Block) (r p : Nat) : (b.delWork r p).wr = b.wr := rfl

/-! ### onPair -/
@[simp] theorem Block.onPair_eng (b : Block) (h k : Nat) (f : Pair → Pair) : (b.onPair h k f).eng = b.eng := rfl
@[simp] theorem Block.onPair_hubs (b : Block) (h k : Nat) (f : Pair → Pair) : (b.onPair h k f).hubs = b.hubs.modify h fun x => { x with pairs := x.pairs.put k (f (x.pairs.getD k {})) } := rfl
@[simp] theorem Block.onPair_dies (b : Block) (h k : Nat) (f : Pair → Pair) : (b.onPair h k f).dies = b.dies := rfl
@[simp] theorem Block.onPair_jobs (b : Block) (h k : Nat) (f : Pair → Pair) : (b.onPair h k f).jobs = b.jobs := rfl
@[simp] theorem Block.onPair_tables (b : Block) (h k : Nat) (f : Pair → Pair) : (b.onPair h k f).tables = b.tables := rfl
@[simp] theorem Block.onPair_progs (b : Block) (h k : Nat) (f : Pair → Pair) : (b.onPair h k f).progs = b.progs := rfl
@[simp] theorem Block.onPair_rings (b : Block) (h k : Nat) (f : Pair → Pair) : (b.onPair h k f).rings = b.rings := rfl
@[simp] theorem Block.onPair_works (b : Block) (h k : Nat) (f : Pair → Pair) : (b.onPair h k f).works = b.works := rfl
@[simp] theorem Block.onPair_outbox (b : Block) (h k : Nat) (f : Pair → Pair) : (b.onPair h k f).outbox = b.outbox := rfl
@[simp] theorem Block.onPair_heldHost (b : Block) (h k : Nat) (f : Pair → Pair) : (b.onPair h k f).heldHost = b.heldHost := rfl
@[simp] theorem Block.onPair_freeCount (b : Block) (h k : Nat) (f : Pair → Pair) : (b.onPair h k f).freeCount = b.freeCount := rfl
@[simp] theorem Block.onPair_wr (b : Block) (h k : Nat) (f : Pair → Pair) : (b.onPair h k f).wr = b.wr := rfl

/-! ### send -/
@[simp] theorem Block.send_eng (b : Block) (o : Out) : (b.send o).eng = b.eng := rfl
@[simp] theorem Block.send_hubs (b : Block) (o : Out) : (b.send o).hubs = b.hubs := rfl
@[simp] theorem Block.send_dies (b : Block) (o : Out) : (b.send o).dies = b.dies := rfl
@[simp] theorem Block.send_jobs (b : Block) (o : Out) : (b.send o).jobs = b.jobs := rfl
@[simp] theorem Block.send_tables (b : Block) (o : Out) : (b.send o).tables = b.tables := rfl
@[simp] theorem Block.send_progs (b : Block) (o : Out) : (b.send o).progs = b.progs := rfl
@[simp] theorem Block.send_rings (b : Block) (o : Out) : (b.send o).rings = b.rings := rfl
@[simp] theorem Block.send_works (b : Block) (o : Out) : (b.send o).works = b.works := rfl
@[simp] theorem Block.send_outbox (b : Block) (o : Out) : (b.send o).outbox = b.outbox ++ [o] := rfl
@[simp] theorem Block.send_heldHost (b : Block) (o : Out) : (b.send o).heldHost = b.heldHost := rfl
@[simp] theorem Block.send_freeCount (b : Block) (o : Out) : (b.send o).freeCount = b.freeCount := rfl
@[simp] theorem Block.send_wr (b : Block) (o : Out) : (b.send o).wr = b.wr := rfl

/-! ### push -/
@[simp] theorem Block.push_eng (b : Block) (w : Wr) : (b.push w).eng = b.eng := rfl
@[simp] theorem Block.push_hubs (b : Block) (w : Wr) : (b.push w).hubs = b.hubs := rfl
@[simp] theorem Block.push_dies (b : Block) (w : Wr) : (b.push w).dies = b.dies := rfl
@[simp] theorem Block.push_jobs (b : Block) (w : Wr) : (b.push w).jobs = b.jobs := rfl
@[simp] theorem Block.push_tables (b : Block) (w : Wr) : (b.push w).tables = b.tables := rfl
@[simp] theorem Block.push_progs (b : Block) (w : Wr) : (b.push w).progs = b.progs := rfl
@[simp] theorem Block.push_rings (b : Block) (w : Wr) : (b.push w).rings = b.rings := rfl
@[simp] theorem Block.push_works (b : Block) (w : Wr) : (b.push w).works = b.works := rfl
@[simp] theorem Block.push_outbox (b : Block) (w : Wr) : (b.push w).outbox = b.outbox := rfl
@[simp] theorem Block.push_heldHost (b : Block) (w : Wr) : (b.push w).heldHost = b.heldHost := rfl
@[simp] theorem Block.push_freeCount (b : Block) (w : Wr) : (b.push w).freeCount = b.freeCount := rfl
@[simp] theorem Block.push_wr (b : Block) (w : Wr) : (b.push w).wr = b.wr ++ [w] := rfl

/-! ### sample -/
@[simp] theorem Block.sample_eng (b : Block) (mon inst v : Nat) : (b.sample mon inst v).eng = { b.eng with monitors := b.eng.monitors.put (monKey mon inst) ((b.eng.monitors.getD (monKey mon inst) {}).take v) } := rfl
@[simp] theorem Block.sample_hubs (b : Block) (mon inst v : Nat) : (b.sample mon inst v).hubs = b.hubs := rfl
@[simp] theorem Block.sample_dies (b : Block) (mon inst v : Nat) : (b.sample mon inst v).dies = b.dies := rfl
@[simp] theorem Block.sample_jobs (b : Block) (mon inst v : Nat) : (b.sample mon inst v).jobs = b.jobs := rfl
@[simp] theorem Block.sample_tables (b : Block) (mon inst v : Nat) : (b.sample mon inst v).tables = b.tables := rfl
@[simp] theorem Block.sample_progs (b : Block) (mon inst v : Nat) : (b.sample mon inst v).progs = b.progs := rfl
@[simp] theorem Block.sample_rings (b : Block) (mon inst v : Nat) : (b.sample mon inst v).rings = b.rings := rfl
@[simp] theorem Block.sample_works (b : Block) (mon inst v : Nat) : (b.sample mon inst v).works = b.works := rfl
@[simp] theorem Block.sample_outbox (b : Block) (mon inst v : Nat) : (b.sample mon inst v).outbox = b.outbox := rfl
@[simp] theorem Block.sample_heldHost (b : Block) (mon inst v : Nat) : (b.sample mon inst v).heldHost = b.heldHost := rfl
@[simp] theorem Block.sample_freeCount (b : Block) (mon inst v : Nat) : (b.sample mon inst v).freeCount = b.freeCount := rfl
@[simp] theorem Block.sample_wr (b : Block) (mon inst v : Nat) : (b.sample mon inst v).wr = b.wr := rfl

/-! ### The end of a command -/
@[simp] theorem settle_pending (s : State) (b : Block) : (settle s b).pending = s.pending := rfl
@[simp] theorem settle_store (s : State) (b : Block) : (settle s b).store = s.store.apply b.wr := rfl
@[simp] theorem settle_eng (s : State) (b : Block) : (settle s b).blk.eng = b.eng := rfl
@[simp] theorem settle_hubs (s : State) (b : Block) : (settle s b).blk.hubs = b.hubs := rfl
@[simp] theorem settle_dies (s : State) (b : Block) : (settle s b).blk.dies = b.dies := rfl
@[simp] theorem settle_jobs (s : State) (b : Block) : (settle s b).blk.jobs = b.jobs := rfl
@[simp] theorem settle_tables (s : State) (b : Block) : (settle s b).blk.tables = b.tables := rfl
@[simp] theorem settle_progs (s : State) (b : Block) : (settle s b).blk.progs = b.progs := rfl
@[simp] theorem settle_rings (s : State) (b : Block) : (settle s b).blk.rings = b.rings := rfl
@[simp] theorem settle_works (s : State) (b : Block) : (settle s b).blk.works = b.works := rfl
@[simp] theorem settle_outbox (s : State) (b : Block) : (settle s b).blk.outbox = b.outbox := rfl
@[simp] theorem settle_heldHost (s : State) (b : Block) : (settle s b).blk.heldHost = b.heldHost := rfl
@[simp] theorem settle_freeCount (s : State) (b : Block) : (settle s b).blk.freeCount = b.freeCount := rfl
@[simp] theorem settle_wr (s : State) (b : Block) : (settle s b).blk.wr = [] := rfl
@[simp] theorem State.start_eng (s : State) : s.start.eng = s.blk.eng := rfl
@[simp] theorem State.start_hubs (s : State) : s.start.hubs = s.blk.hubs := rfl
@[simp] theorem State.start_dies (s : State) : s.start.dies = s.blk.dies := rfl
@[simp] theorem State.start_jobs (s : State) : s.start.jobs = s.blk.jobs := rfl
@[simp] theorem State.start_tables (s : State) : s.start.tables = s.blk.tables := rfl
@[simp] theorem State.start_progs (s : State) : s.start.progs = s.blk.progs := rfl
@[simp] theorem State.start_rings (s : State) : s.start.rings = s.blk.rings := rfl
@[simp] theorem State.start_works (s : State) : s.start.works = s.blk.works := rfl
@[simp] theorem State.start_outbox (s : State) : s.start.outbox = s.blk.outbox := rfl
@[simp] theorem State.start_heldHost (s : State) : s.start.heldHost = s.blk.heldHost := rfl
@[simp] theorem State.start_freeCount (s : State) : s.start.freeCount = s.blk.freeCount := rfl
@[simp] theorem State.start_wr (s : State) : s.start.wr = [] := rfl

/-- A command that has made no interrupt write to the engine's own memory leaves none to be made. -/
theorem Block.interrupts_none (b : Block) (h : ∀ k a d, Wr.intr k a d ∉ b.wr) : ∀ fuel, b.interrupts fuel = b
  | 0 => rfl
  | fuel + 1 => by
    unfold Block.interrupts
    rw [if_pos]
    rw [List.isEmpty_iff, List.filter_eq_nil_iff]
    intro w hw
    cases w <;> simp_all

/-- A command that runs answers the state settled from what its effect left, its interrupt writes made. -/
theorem run_eq (f : Store → Block → Block) (s : State) : run f s = .next (settle s ((f s.store s.start).interrupts 16)) := rfl

/-- With no interrupt write to the engine's own memory, the state is settled from what the effect left. -/
theorem run_eq_settle (f : Store → Block → Block) (s : State) (h : ∀ k a d, Wr.intr k a d ∉ (f s.store s.start).wr) :
    run f s = .next (settle s (f s.store s.start)) := by
  rw [run_eq, Block.interrupts_none _ h]

theorem live_eq (f : Store → Block → Block) (s : State) (h : s.start.fatal = false) : live f s = run f s := by
  simp [live, run, h]

/-- A fatal engine no longer does it. -/
theorem live_fatal (f : Store → Block → Block) (s : State) (h : s.start.fatal = true) : live f s = .next (settle s s.start) := by
  unfold live
  rw [run_eq_settle] <;> simp [h]

theorem firmware_eq (f : Store → Block → Block) (s : State) (h : s.start.fatal = false)
    (k : (s.start.fw s.start.eng.leader == .handover) = false) : firmware f s = run f s := by
  unfold firmware
  rw [live_eq _ _ h, run_eq, run_eq, k]
  rfl

end Sys2Proof.Machine

namespace Sys2Proof

/-! ### Tables: what a lookup answers after an update -/

@[simp] theorem Tbl.get?_put_same {α : Type} (t : Tbl α) (k : Nat) (v : α) : Tbl.get? (Tbl.put t k v) k = some v := by
  induction t with
  | nil => simp [Tbl.put, Tbl.get?]
  | cons x t ih =>
    obtain ⟨q, w⟩ := x
    simp only [Tbl.put]
    split
    · simp [Tbl.get?]
    · split
      · simp [Tbl.get?]
      · rename_i h1 h2
        have hq : ¬ q = k := by omega
        have hk : ¬ k < q := by omega
        simp [Tbl.get?, hq, hk, ih]

theorem Tbl.get?_put_other {α : Type} (t : Tbl α) (k q : Nat) (v : α) (h : q ≠ k) : Tbl.get? (Tbl.put t k v) q = Tbl.get? t q := by
  induction t with
  | nil =>
    simp only [Tbl.put, Tbl.get?]
    split
    · omega
    · split <;> rfl
  | cons x t ih =>
    obtain ⟨n, w⟩ := x
    simp only [Tbl.put]
    split
    · rename_i h1
      simp only [Tbl.get?]
      split
      · omega
      · split
        · split
          · omega
          · split
            · rfl
            · omega
        · rfl
    · split
      · rename_i h1 h2
        subst h2
        simp only [Tbl.get?]
        split
        · omega
        · rfl
      · simp only [Tbl.get?, ih]

@[simp] theorem Tbl.getD_put_same {α : Type} (t : Tbl α) (k : Nat) (v d : α) : Tbl.getD (Tbl.put t k v) k d = v := by simp [Tbl.getD]

theorem Tbl.getD_put_other {α : Type} (t : Tbl α) (k q : Nat) (v d : α) (h : q ≠ k) : Tbl.getD (Tbl.put t k v) q d = Tbl.getD t q d := by
  simp [Tbl.getD, Tbl.get?_put_other t k q v h]

@[simp] theorem Tbl.get?_modify_same {α : Type} (t : Tbl α) (k : Nat) (f : α → α) : Tbl.get? (Tbl.modify t k f) k = (Tbl.get? t k).map f := by
  unfold Tbl.modify
  split
  · rename_i h; simp [h]
  · rename_i v h; simp [h]

theorem Tbl.get?_modify_other {α : Type} (t : Tbl α) (k q : Nat) (f : α → α) (h : q ≠ k) :
    Tbl.get? (Tbl.modify t k f) q = Tbl.get? t q := by
  unfold Tbl.modify
  split
  · rfl
  · rw [Tbl.get?_put_other _ _ _ _ h]

theorem Tbl.getD_modify_same {α : Type} (t : Tbl α) (k : Nat) (f : α → α) (v d : α) (h : Tbl.get? t k = some v) :
    Tbl.getD (Tbl.modify t k f) k d = f v := by simp [Tbl.getD, h]

theorem Tbl.getD_modify_other {α : Type} (t : Tbl α) (k q : Nat) (f : α → α) (d : α) (h : q ≠ k) :
    Tbl.getD (Tbl.modify t k f) q d = Tbl.getD t q d := by simp [Tbl.getD, Tbl.get?_modify_other t k q f h]

end Sys2Proof

namespace Sys2Proof.Machine

/-! ### Records of hubs and row dies -/

theorem Block.hub_onHub_same (b : Block) (h : Nat) (f : Hub → Hub) (x : Hub) (e : b.hubs.get? h = some x) : (b.onHub h f).hub h = f x := by
  simp [Block.hub, Tbl.getD_modify_same _ _ _ x _ e]

theorem Block.hub_onHub_other (b : Block) (h g : Nat) (f : Hub → Hub) (e : g ≠ h) : (b.onHub h f).hub g = b.hub g := by
  simp [Block.hub, Tbl.getD_modify_other _ _ _ _ _ e]

theorem Block.hub_of_get (b : Block) (h : Nat) (x : Hub) (e : b.hubs.get? h = some x) : b.hub h = x := by simp [Block.hub, Tbl.getD, e]

theorem Block.die_onDie_same (b : Block) (s : Nat) (f : RowDie → RowDie) (x : RowDie) (e : b.dies.get? s = some x) : (b.onDie s f).die s = f x := by
  simp [Block.die, Tbl.getD_modify_same _ _ _ x _ e]

theorem Block.die_onDie_other (b : Block) (s q : Nat) (f : RowDie → RowDie) (e : q ≠ s) : (b.onDie s f).die q = b.die q := by
  simp [Block.die, Tbl.getD_modify_other _ _ _ _ _ e]

theorem Block.die_of_get (b : Block) (s : Nat) (x : RowDie) (e : b.dies.get? s = some x) : b.die s = x := by simp [Block.die, Tbl.getD, e]

end Sys2Proof.Machine
end

