-- ==== Sys2Proof/Laws/Fields.lean ====
section
/-! SUPPORT. Bit fields and bytes: what a field of a packed structure reads, what replacing a field leaves, and that bytes and numbers
agree. -/
namespace Sys2Proof.Machine

theorem testBit_bits (x lo n i : Nat) : (bits x lo n).testBit i = (decide (i < n) && x.testBit (lo + i)) := by
  simp [bits, Nat.testBit_mod_two_pow, Nat.testBit_shiftRight]

theorem bits_lt (x lo n : Nat) : bits x lo n < 2 ^ n := Nat.mod_lt _ (Nat.two_pow_pos n)

theorem testBit_pack_cons (lo n v : Nat) (fs : List (Nat × Nat × Nat)) (i : Nat) :
    (pack ((lo, n, v) :: fs)).testBit i = ((decide (lo ≤ i) && decide (i - lo < n) && v.testBit (i - lo)) || (pack fs).testBit i) := by
  simp only [pack, Nat.testBit_or, Nat.testBit_shiftLeft, Nat.testBit_mod_two_pow, Bool.and_assoc]

/-- A field that no other entry touches reads its own value, cut to its width. -/
theorem bits_pack_here (lo n v : Nat) (fs : List (Nat × Nat × Nat)) (h : bits (pack fs) lo n = 0) :
    bits (pack ((lo, n, v) :: fs)) lo n = v % 2 ^ n := by
  apply Nat.eq_of_testBit_eq
  intro i
  have h0 : (bits (pack fs) lo n).testBit i = false := by rw [h]; simp
  rw [testBit_bits] at h0
  rw [testBit_bits, testBit_pack_cons, Nat.testBit_mod_two_pow]
  by_cases hi : i < n
  · simp [hi] at h0 ⊢
    simp [h0]
  · simp [hi]

/-- A field apart from an entry does not see it. -/
theorem bits_pack_skip (lo n lo' n' v : Nat) (fs : List (Nat × Nat × Nat)) (h : lo + n ≤ lo' ∨ lo' + n' ≤ lo) :
    bits (pack ((lo', n', v) :: fs)) lo n = bits (pack fs) lo n := by
  apply Nat.eq_of_testBit_eq
  intro i
  rw [testBit_bits, testBit_bits, testBit_pack_cons]
  by_cases hi : i < n
  · have : (decide (lo' ≤ lo + i) && decide (lo + i - lo' < n')) = false := by
      simp only [Bool.and_eq_false_iff, decide_eq_false_iff_not]
      omega
    simp [hi, this]
  · simp [hi]

@[simp] theorem bits_pack_nil (lo n : Nat) : bits (pack []) lo n = 0 := by simp [bits, pack]

theorem testBit_setBits (x lo n v i : Nat) :
    (setBits x lo n v).testBit i = if lo ≤ i ∧ i < lo + n then v.testBit (i - lo) else x.testBit i := by
  simp only [setBits, Nat.testBit_or, Nat.testBit_shiftLeft, Nat.testBit_shiftRight, Nat.testBit_mod_two_pow]
  by_cases h1 : i < lo
  · have a : ¬ (lo ≤ i ∧ i < lo + n) := by omega
    have c : ¬ (lo + n ≤ i) := by omega
    have d : ¬ (lo ≤ i) := by omega
    simp [h1, c, d]
  · by_cases h2 : i < lo + n
    · have d : lo ≤ i := by omega
      have c : ¬ (lo + n ≤ i) := by omega
      have e : i - lo < n := by omega
      simp [h1, h2, d, c, e]
    · have c : lo + n ≤ i := by omega
      have e : ¬ (i - lo < n) := by omega
      have f : lo + n + (i - (lo + n)) = i := by omega
      have g : ¬ (i < lo + n) := h2
      simp [h1, g, c, e, f]

/-- The field that was replaced reads the new value, cut to its width. -/
theorem bits_setBits_same (x lo n v : Nat) : bits (setBits x lo n v) lo n = v % 2 ^ n := by
  apply Nat.eq_of_testBit_eq
  intro i
  rw [testBit_bits, testBit_setBits, Nat.testBit_mod_two_pow]
  by_cases hi : i < n
  · have : lo ≤ lo + i ∧ lo + i < lo + n := by omega
    simp [hi]
  · simp [hi]

/-- A field apart from the one replaced reads as before. -/
theorem bits_setBits_other (x lo n v lo' n' : Nat) (h : lo' + n' ≤ lo ∨ lo + n ≤ lo') : bits (setBits x lo n v) lo' n' = bits x lo' n' := by
  apply Nat.eq_of_testBit_eq
  intro i
  rw [testBit_bits, testBit_bits, testBit_setBits]
  by_cases hi : i < n'
  · have : ¬ (lo ≤ lo' + i ∧ lo' + i < lo + n) := by omega
    simp [hi, this]
  · simp [hi]

/-- A field inside a field that was replaced whole. -/
theorem bits_setBits_inside (x lo n v lo' n' : Nat) (h1 : lo ≤ lo') (h2 : lo' + n' ≤ lo + n) :
    bits (setBits x lo n v) lo' n' = bits v (lo' - lo) n' := by
  apply Nat.eq_of_testBit_eq
  intro i
  rw [testBit_bits, testBit_bits, testBit_setBits]
  by_cases hi : i < n'
  · have a : lo ≤ lo' + i ∧ lo' + i < lo + n := by omega
    have c : lo' + i - lo = lo' - lo + i := by omega
    simp [hi, a, c]
  · simp [hi]

theorem bits_or (x y lo n : Nat) : bits (x ||| y) lo n = bits x lo n ||| bits y lo n := by
  apply Nat.eq_of_testBit_eq
  intro i
  simp [testBit_bits, Nat.testBit_or]
  by_cases hi : i < n <;> simp [hi]

/-- A field below the part of a number that was kept reads 0. -/
theorem bits_high (x c lo n : Nat) (h : lo + n ≤ c) : bits ((x >>> c) <<< c) lo n = 0 := by
  apply Nat.eq_of_testBit_eq
  intro i
  rw [testBit_bits, Nat.testBit_shiftLeft]
  by_cases hi : i < n
  · have : ¬ (c ≤ lo + i) := by omega
    simp [this]
  · simp [hi]

/-- Cutting a number above a field does not change the field. -/
theorem bits_mod (x k lo n : Nat) (h : lo + n ≤ k) : bits (x % 2 ^ k) lo n = bits x lo n := by
  apply Nat.eq_of_testBit_eq
  intro i
  rw [testBit_bits, testBit_bits, Nat.testBit_mod_two_pow]
  by_cases hi : i < n
  · have : lo + i < k := by omega
    simp [hi, this]
  · simp [hi]

@[simp] theorem toBytes_length (n x : Nat) : (toBytes n x).length = n := by
  induction n generalizing x with
  | zero => rfl
  | succ n ih => simp [toBytes, ih]

theorem ofBytes_toBytes (n x : Nat) : ofBytes (toBytes n x) = x % 256 ^ n := by
  induction n generalizing x with
  | zero => simp [toBytes, ofBytes, Nat.mod_one]
  | succ n ih =>
    simp only [toBytes, ofBytes, ih, BitVec.toNat_ofNat]
    have h : x % 256 ^ (n + 1) = x % 256 + 256 * (x / 256 % 256 ^ n) := by
      rw [Nat.pow_succ, Nat.mul_comm, Nat.mod_mul]
    rw [h]

theorem ofBytes_lt (bs : List Byte) : ofBytes bs < 256 ^ bs.length := by
  induction bs with
  | nil => simp [ofBytes]
  | cons b bs ih =>
    simp only [ofBytes, List.length_cons, Nat.pow_succ]
    have := b.isLt
    omega

theorem toBytes_ofBytes (bs : List Byte) : toBytes bs.length (ofBytes bs) = bs := by
  induction bs with
  | nil => rfl
  | cons b bs ih =>
    have hb := b.isLt
    simp only [List.length_cons, toBytes, ofBytes]
    have h1 : (b.toNat + 256 * ofBytes bs) / 256 = ofBytes bs := by omega
    have h2 : BitVec.ofNat 8 (b.toNat + 256 * ofBytes bs) = b := by
      apply BitVec.eq_of_toNat_eq
      simp only [BitVec.toNat_ofNat]
      omega
    rw [h1, h2, ih]

end Sys2Proof.Machine
end

