-- ==== Sys2Proof/Laws/Mail.lean ====
section
/-! SUPPORT. Mailbox laws: what a pair holds after a reply (R361, Table 13-6), and what a message command comes to once its checks are
passed. -/
namespace Sys2Proof.Machine

theorem pairKey_lt_64 (mb : Mbox) (k : Nat) (h : pairExists mb k = true) : pairKey mb k < 64 ↔ mb = .fabric := by
  cases mb
  · simp [pairKey, pairExists] at *
    omega
  · simp [pairKey]

theorem Block.pair_onPair_same (b : Block) (h k : Nat) (f : Pair → Pair) (x : Hub) (e : b.hubs.get? h = some x) :
    (b.onPair h k f).pair h k = f (b.pair h k) := by
  unfold Block.pair Block.onPair
  rw [Block.hub_onHub_same b h _ x e, Block.hub_of_get b h x e]
  simp

theorem Block.pair_onPair_other (b : Block) (h k q : Nat) (f : Pair → Pair) (e : q ≠ k) :
    (b.onPair h k f).pair h q = b.pair h q := by
  unfold Block.pair Block.onPair
  cases hx : b.hubs.get? h with
  | none =>
    have : b.onHub h (fun x => { x with pairs := x.pairs.put k (f (x.pairs.getD k {})) }) = b := by
      simp [Block.onHub, Tbl.modify, hx]
    rw [this]
  | some x =>
    rw [Block.hub_onHub_same b h _ x hx, Block.hub_of_get b h x hx]
    simp [Tbl.getD_put_other _ _ _ _ _ e]

theorem Block.pair_onPair_hub (b : Block) (h g k q : Nat) (f : Pair → Pair) (e : g ≠ h) : (b.onPair h k f).pair g q = b.pair g q := by
  unfold Block.pair Block.onPair
  rw [Block.hub_onHub_other b h g _ e]

/-- A change of a hub's registers leaves its pairs. -/
theorem Block.pair_onRegs (b : Block) (h g k : Nat) (f : Regs → Regs) : (b.onRegs h f).pair g k = b.pair g k := by
  unfold Block.pair Block.onRegs
  by_cases e : g = h
  · subst e
    cases hx : b.hubs.get? g with
    | none =>
      have : b.onHub g (fun x => { x with regs := f x.regs }) = b := by simp [Block.onHub, Tbl.modify, hx]
      rw [this]
    | some x => rw [Block.hub_onHub_same b g _ x hx, Block.hub_of_get b g x hx]
  · rw [Block.hub_onHub_other b h g _ e]

@[simp] theorem Block.sample_hub (b : Block) (m i v g : Nat) : (b.sample m i v).hub g = b.hub g := rfl
@[simp] theorem Block.push_hub (b : Block) (w : Wr) (g : Nat) : (b.push w).hub g = b.hub g := rfl
@[simp] theorem Block.send_hub (b : Block) (o : Out) (g : Nat) : (b.send o).hub g = b.hub g := rfl

@[simp] theorem Block.msiWrite_hubs (b : Block) (h : Nat) : (b.msiWrite h).hubs = b.hubs := by
  simp only [Block.msiWrite]
  split
  · rfl
  · split
    · split <;> rfl
    · split <;> rfl

theorem Block.pair_raise (b : Block) (h g k cause : Nat) : (b.raise h cause).pair g k = b.pair g k := by
  unfold Block.raise
  simp only []
  split
  · have : ∀ c : Block, (c.msiWrite h).pair g k = c.pair g k := by
      intro c; simp only [Block.pair, Block.hub, Block.msiWrite_hubs]
    rw [this, Block.pair_onRegs]
  · rw [Block.pair_onRegs]

/-- Telling software of a DONE reply leaves every pair as it is. -/
theorem reply_notice_pair (b1 : Block) (m : Msg) (rstate g q : Nat) :
    (if rstate ≠ 2 then b1
     else if m.key < 64 then b1.raise m.hub intREPLY
     else b1.onHub m.hub fun x =>
       if x.i3c.events.testBit 0 then { x with i3c := { x.i3c with ibi := x.i3c.ibi ++ [BitVec.ofNat 8 (0x10 + (m.key - 64))] } } else x).pair g q
      = b1.pair g q := by
  split
  · rfl
  · split
    · rw [Block.pair_raise]
    · unfold Block.pair
      by_cases hg : g = m.hub
      · subst hg
        cases hx : b1.hubs.get? m.hub with
        | none =>
          have h2 : ∀ (c : Block) (f : Hub → Hub), c.hubs.get? m.hub = none → c.onHub m.hub f = c := by
            intro c f hc; simp [Block.onHub, Tbl.modify, hc]
          rw [h2 _ _ hx]
        | some y =>
          rw [Block.hub_onHub_same _ _ _ y hx, Block.hub_of_get _ _ y hx]
          split <;> rfl
      · rw [Block.hub_onHub_other _ _ _ _ hg]

/-- After a reply, the pair is DONE or PENDING and its reply slot shows STATUS, RSTATE, CODE, DETAIL and TAG. -/
theorem Block.reply_pair (b : Block) (m : Msg) (len rstate status detail ans body : Nat) (x : Hub) (e : b.hubs.get? m.hub = some x) :
    (b.reply m len rstate status detail ans body).pair m.hub m.key =
      { b.pair m.hub m.key with
        rep := BitVec.ofNat 2048 (setBits (b.pair m.hub m.key).rep.toNat 0 (8 * len)
          (replyHeader m (len / 8) rstate status detail ans ||| (body >>> 128) <<< 128))
        st := if rstate = 2 then .done else .pending } := by
  have k := Block.pair_onPair_same b m.hub m.key (fun p =>
    { p with rep := BitVec.ofNat 2048 (setBits p.rep.toNat 0 (8 * len)
                (replyHeader m (len / 8) rstate status detail ans ||| (body >>> 128) <<< 128))
             st := if rstate = 2 then .done else .pending }) x e
  exact (reply_notice_pair _ m rstate m.hub m.key).trans k

/-- A field of a reply's first 16 bytes. -/
theorem reply_header_bits (old m_ body len lo n : Nat) (h1 : lo + n ≤ 128) (h2 : 16 ≤ len) (h3 : len ≤ 256) :
    bits (BitVec.ofNat 2048 (setBits old 0 (8 * len) (m_ ||| (body >>> 128) <<< 128))).toNat lo n = bits m_ lo n := by
  rw [BitVec.toNat_ofNat, bits_mod _ _ _ _ (by omega), bits_setBits_inside _ _ _ _ _ _ (Nat.zero_le _) (by omega), bits_or,
    Nat.sub_zero, bits_high _ _ _ _ h1]
  simp

/-- A field of a reply's body. -/
theorem reply_body_bits (old m_ body len lo n : Nat) (h0 : m_ < 2 ^ 128) (h1 : 128 ≤ lo) (h2 : lo + n ≤ 8 * len) (h3 : len ≤ 256) :
    bits (BitVec.ofNat 2048 (setBits old 0 (8 * len) (m_ ||| (body >>> 128) <<< 128))).toNat lo n = bits body lo n := by
  rw [BitVec.toNat_ofNat, bits_mod _ _ _ _ (by omega), bits_setBits_inside _ _ _ _ _ _ (Nat.zero_le _) (by omega), bits_or, Nat.sub_zero]
  apply Nat.eq_of_testBit_eq
  intro i
  simp only [Nat.testBit_or, testBit_bits, Nat.testBit_shiftLeft, Nat.testBit_shiftRight]
  by_cases hi : i < n
  · have a : m_.testBit (lo + i) = false := Nat.testBit_lt_two_pow (Nat.lt_of_lt_of_le h0 (Nat.pow_le_pow_right (by omega) (by omega)))
    have c : 128 ≤ lo + i := by omega
    have d : 128 + (lo + i - 128) = lo + i := by omega
    simp [hi, a, c, d]
  · simp [hi]

theorem replyHeader_status (m : Msg) (lenw rstate status detail ans : Nat) : bits (replyHeader m lenw rstate status detail ans) 80 16 = status % 2 ^ 16 := by
  unfold replyHeader
  rw [bits_pack_skip _ _ _ _ _ _ (by omega), bits_pack_skip _ _ _ _ _ _ (by omega), bits_pack_skip _ _ _ _ _ _ (by omega),
    bits_pack_skip _ _ _ _ _ _ (by omega), bits_pack_skip _ _ _ _ _ _ (by omega), bits_pack_skip _ _ _ _ _ _ (by omega),
    bits_pack_skip _ _ _ _ _ _ (by omega)]
  exact bits_pack_here _ _ _ _ (by rw [bits_pack_skip _ _ _ _ _ _ (by omega)]; simp)

theorem replyHeader_rstate (m : Msg) (lenw rstate status detail ans : Nat) : bits (replyHeader m lenw rstate status detail ans) 64 8 = rstate % 2 ^ 8 := by
  unfold replyHeader
  rw [bits_pack_skip _ _ _ _ _ _ (by omega), bits_pack_skip _ _ _ _ _ _ (by omega), bits_pack_skip _ _ _ _ _ _ (by omega),
    bits_pack_skip _ _ _ _ _ _ (by omega), bits_pack_skip _ _ _ _ _ _ (by omega), bits_pack_skip _ _ _ _ _ _ (by omega)]
  exact bits_pack_here _ _ _ _ (by
    rw [bits_pack_skip _ _ _ _ _ _ (by omega), bits_pack_skip _ _ _ _ _ _ (by omega)]; simp)

theorem replyHeader_tag (m : Msg) (lenw rstate status detail ans : Nat) : bits (replyHeader m lenw rstate status detail ans) 48 16 = m.tag % 2 ^ 16 := by
  unfold replyHeader
  rw [bits_pack_skip _ _ _ _ _ _ (by omega), bits_pack_skip _ _ _ _ _ _ (by omega), bits_pack_skip _ _ _ _ _ _ (by omega),
    bits_pack_skip _ _ _ _ _ _ (by omega), bits_pack_skip _ _ _ _ _ _ (by omega)]
  exact bits_pack_here _ _ _ _ (by
    rw [bits_pack_skip _ _ _ _ _ _ (by omega), bits_pack_skip _ _ _ _ _ _ (by omega), bits_pack_skip _ _ _ _ _ _ (by omega)]; simp)

theorem replyHeader_code (m : Msg) (lenw rstate status detail ans : Nat) : bits (replyHeader m lenw rstate status detail ans) 8 16 = m.code % 2 ^ 16 := by
  unfold replyHeader
  rw [bits_pack_skip _ _ _ _ _ _ (by omega)]
  exact bits_pack_here _ _ _ _ (by
    rw [bits_pack_skip _ _ _ _ _ _ (by omega), bits_pack_skip _ _ _ _ _ _ (by omega), bits_pack_skip _ _ _ _ _ _ (by omega),
      bits_pack_skip _ _ _ _ _ _ (by omega), bits_pack_skip _ _ _ _ _ _ (by omega), bits_pack_skip _ _ _ _ _ _ (by omega),
      bits_pack_skip _ _ _ _ _ _ (by omega)]; simp)

/-- A posted message that passes the header and body checks comes to `applyMsg` on the block with its slot taken. -/
theorem message_eq (c : Card) (act : Store → Block → Msg → Ans) (h : Nat) (mb : Mbox) (k : Nat) (s : State)
    (hp : pairExists mb k = true) (hc : s.start.copies h c.wide = true) (hs : (s.start.pair h (pairKey mb k)).st = .posted)
    (ht : c.takes (s.start.pair h (pairKey mb k)).req = true) :
    let p := s.start.pair h (pairKey mb k)
    let m : Msg := { hub := h, key := pairKey mb k, pm := p.pm, x := (copyOf p.req).toNat }
    let b := s.start.onPair h (pairKey mb k) fun q => { q with st := .taken, copy := copyOf p.req }
    headerCheck s.start.eng m true = OK → bodyCheck s.start.eng c m = OK →
      message c act h mb k s = .next (settle s ((applyMsg c act (fun _ _ m => objOf m) b.eng.pend false s.store b m).interrupts 16)) := by
  intro p m b h1 h2
  unfold message run messageAt
  have e1 : (s.start.onPair h (pairKey mb k) fun q => { q with st := .taken, copy := copyOf p.req }).eng = s.start.eng := rfl
  simp only [hp, hc, hs, ht]
  simp only [Bool.not_true, Bool.false_or, bne_self_eq_false, Bool.false_eq_true, if_false]
  rw [e1]
  rw [if_neg (by simpa using h1), if_neg (by simpa using h2)]

end Sys2Proof.Machine
end

