-- ==== Sys2Proof/Laws/Memory.lean ====
section
/-! SUPPORT. Memory: every operation keeps the canonical form, a read after a write to the same byte gives what was written, and a write
leaves every other byte alone. -/
namespace Sys2Proof

/-! ### Tables keep their rising keys -/

theorem Tbl.wfFrom_le {α : Type} {lo hi : Nat} {t : Tbl α} (h : Tbl.wfFrom hi t = true) (e : lo ≤ hi) : Tbl.wfFrom lo t = true := by
  cases t with
  | nil => rfl
  | cons x t =>
    obtain ⟨k, v⟩ := x
    simp only [Tbl.wfFrom, Bool.and_eq_true, decide_eq_true_eq] at *
    exact ⟨by omega, h.2⟩

theorem Tbl.wfFrom_put {α : Type} (t : Tbl α) : ∀ (lo k : Nat) (v : α), Tbl.wfFrom lo t = true → lo ≤ k → Tbl.wfFrom lo (Tbl.put t k v) = true := by
  induction t with
  | nil => intro lo k v _ e; simp [Tbl.put, Tbl.wfFrom, e]
  | cons x t ih =>
    obtain ⟨q, w⟩ := x
    intro lo k v h e
    simp only [Tbl.wfFrom, Bool.and_eq_true, decide_eq_true_eq] at h
    simp only [Tbl.put]
    split
    · rename_i hk
      simp only [Tbl.wfFrom, Bool.and_eq_true, decide_eq_true_eq]
      exact ⟨e, by omega, h.2⟩
    · split
      · rename_i _ hk
        subst hk
        simp only [Tbl.wfFrom, Bool.and_eq_true, decide_eq_true_eq]
        exact ⟨e, h.2⟩
      · simp only [Tbl.wfFrom, Bool.and_eq_true, decide_eq_true_eq]
        exact ⟨h.1, ih _ _ _ h.2 (by omega)⟩

theorem Tbl.wfFrom_del {α : Type} (t : Tbl α) : ∀ (lo k : Nat), Tbl.wfFrom lo t = true → Tbl.wfFrom lo (Tbl.del t k) = true := by
  induction t with
  | nil => intro lo k h; exact h
  | cons x t ih =>
    obtain ⟨q, w⟩ := x
    intro lo k h
    simp only [Tbl.del]
    split
    · exact h
    · simp only [Tbl.wfFrom, Bool.and_eq_true, decide_eq_true_eq] at h
      split
      · exact Tbl.wfFrom_le h.2 (by omega)
      · simp only [Tbl.wfFrom, Bool.and_eq_true, decide_eq_true_eq]
        exact ⟨h.1, ih _ _ h.2⟩

theorem Tbl.wf_put {α : Type} (t : Tbl α) (k : Nat) (v : α) (h : Tbl.wf t = true) : Tbl.wf (Tbl.put t k v) = true :=
  Tbl.wfFrom_put t 0 k v h (Nat.zero_le k)

theorem Tbl.wf_del {α : Type} (t : Tbl α) (k : Nat) (h : Tbl.wf t = true) : Tbl.wf (Tbl.del t k) = true := Tbl.wfFrom_del t 0 k h

/-- A key below every key of a table is not in it. -/
theorem Tbl.get?_none_of_lt {α : Type} (t : Tbl α) (lo k : Nat) (h : Tbl.wfFrom lo t = true) (e : k < lo) : Tbl.get? t k = none := by
  cases t with
  | nil => rfl
  | cons x t =>
    obtain ⟨q, w⟩ := x
    simp only [Tbl.wfFrom, Bool.and_eq_true, decide_eq_true_eq] at h
    have h1 : ¬ q = k := by omega
    have h2 : k < q := by omega
    simp [Tbl.get?, h1, h2]

theorem Tbl.get?_del_same {α : Type} (t : Tbl α) : ∀ (lo k : Nat), Tbl.wfFrom lo t = true → Tbl.get? (Tbl.del t k) k = none := by
  induction t with
  | nil => intro lo k _; rfl
  | cons x t ih =>
    obtain ⟨q, w⟩ := x
    intro lo k h
    have hh := h
    simp only [Tbl.wfFrom, Bool.and_eq_true, decide_eq_true_eq] at hh
    simp only [Tbl.del]
    split
    · rename_i hk
      have h1 : ¬ q = k := by omega
      simp [Tbl.get?, h1, hk]
    · split
      · rename_i _ hk
        exact Tbl.get?_none_of_lt t (q + 1) k hh.2 (by omega)
      · rename_i h1 h2
        have h3 : ¬ q = k := fun e => h2 e.symm
        simp [Tbl.get?, h3, h1, ih _ _ hh.2]

theorem Tbl.get?_del_other {α : Type} (t : Tbl α) : ∀ (lo k q : Nat), Tbl.wfFrom lo t = true → q ≠ k → Tbl.get? (Tbl.del t k) q = Tbl.get? t q := by
  induction t with
  | nil => intro lo k q _ _; rfl
  | cons x t ih =>
    obtain ⟨n, w⟩ := x
    intro lo k q h e
    simp only [Tbl.wfFrom, Bool.and_eq_true, decide_eq_true_eq] at h
    simp only [Tbl.del]
    split
    · rfl
    · split
      · rename_i _ hk
        subst hk
        have h1 : ¬ k = q := fun x => e x.symm
        simp only [Tbl.get?, h1, if_false]
        split
        · exact Tbl.get?_none_of_lt t (k + 1) q h.2 (by omega)
        · rfl
      · simp only [Tbl.get?]
        rw [ih _ _ _ h.2 e]

end Sys2Proof

namespace Sys2Proof.Machine

/-! ### Bytes -/

theorem all_put (m : List Host.Cell) (a : Nat) (v : Byte) (hv : v ≠ unlisted) :
    m.all (fun c => c.2 != unlisted) = true → (Tbl.put m a v).all (fun c => c.2 != unlisted) = true := by
  induction m with
  | nil => intro _; simp [Tbl.put, hv]
  | cons x m ih =>
    obtain ⟨q, w⟩ := x
    intro h
    simp only [List.all_cons, Bool.and_eq_true] at h
    simp only [Tbl.put]
    split
    · simp [hv, h.1, h.2] at *
    · split
      · simp [hv] at *
        exact h.2
      · simp only [List.all_cons, Bool.and_eq_true]
        exact ⟨h.1, ih h.2⟩

theorem all_del (m : List Host.Cell) (a : Nat) :
    m.all (fun c => c.2 != unlisted) = true → (Tbl.del m a).all (fun c => c.2 != unlisted) = true := by
  induction m with
  | nil => exact id
  | cons x m ih =>
    obtain ⟨q, w⟩ := x
    intro h
    simp only [List.all_cons, Bool.and_eq_true] at h
    simp only [Tbl.del]
    split
    · simp only [List.all_cons, Bool.and_eq_true]; exact h
    · split
      · exact h.2
      · simp only [List.all_cons, Bool.and_eq_true]; exact ⟨h.1, ih h.2⟩

theorem writeByte_wf (m : List Host.Cell) (a : Nat) (v : Byte) (h : Memory.wf m = true) : Memory.wf (writeByte m a v) = true := by
  simp only [Memory.wf, Bool.and_eq_true] at *
  unfold writeByte
  split
  · exact ⟨Tbl.wf_del m a h.1, all_del m a h.2⟩
  · rename_i hv
    exact ⟨Tbl.wf_put m a v h.1, all_put m a v hv h.2⟩

theorem writeBytes_wf (vs : List Byte) : ∀ (m : List Host.Cell) (a : Nat), Memory.wf m = true → Memory.wf (writeBytes m a vs) = true := by
  induction vs with
  | nil => intro m a h; exact h
  | cons v vs ih => intro m a h; exact ih _ _ (writeByte_wf m a v h)

theorem readByte_writeByte_same (m : List Host.Cell) (a : Nat) (v : Byte) (h : Memory.wf m = true) : readByte (writeByte m a v) a = v := by
  simp only [Memory.wf, Bool.and_eq_true] at h
  unfold writeByte readByte
  split
  · rename_i hv
    rw [Tbl.get?_del_same m 0 a h.1, hv]
    rfl
  · simp

theorem readByte_writeByte_other (m : List Host.Cell) (a q : Nat) (v : Byte) (h : Memory.wf m = true) (e : q ≠ a) :
    readByte (writeByte m a v) q = readByte m q := by
  simp only [Memory.wf, Bool.and_eq_true] at h
  unfold writeByte readByte
  split
  · rw [Tbl.get?_del_other m 0 a q h.1 e]
  · rw [Tbl.get?_put_other _ _ _ _ e]

theorem readByte_writeBytes_outside (vs : List Byte) : ∀ (m : List Host.Cell) (a q : Nat), Memory.wf m = true →
    (q < a ∨ a + vs.length ≤ q) → readByte (writeBytes m a vs) q = readByte m q := by
  induction vs with
  | nil => intro m a q _ _; rfl
  | cons v vs ih =>
    intro m a q h e
    simp only [List.length_cons] at e
    simp only [writeBytes]
    rw [ih _ _ _ (writeByte_wf m a v h) (by omega), readByte_writeByte_other m a q v h (by omega)]

theorem readByte_writeBytes_inside (vs : List Byte) : ∀ (m : List Host.Cell) (a i : Nat), Memory.wf m = true → (hi : i < vs.length) →
    readByte (writeBytes m a vs) (a + i) = vs[i] := by
  induction vs with
  | nil => intro m a i _ hi; simp at hi
  | cons v vs ih =>
    intro m a i h hi
    simp only [writeBytes]
    cases i with
    | zero =>
      rw [readByte_writeBytes_outside vs _ _ _ (writeByte_wf m a v h) (by omega)]
      simpa using readByte_writeByte_same m a v h
    | succ i =>
      have := ih (writeByte m a v) (a + 1) i (writeByte_wf m a v h) (by simpa using hi)
      simpa [Nat.add_assoc, Nat.add_comm 1 i] using this

/-- A read of what was just written gives it back. -/
theorem readBytes_writeBytes (vs : List Byte) : ∀ (m : List Host.Cell) (a : Nat), Memory.wf m = true →
    readBytes (writeBytes m a vs) a vs.length = vs := by
  induction vs with
  | nil => intro m a _; rfl
  | cons v vs ih =>
    intro m a h
    simp only [List.length_cons, readBytes, writeBytes, List.cons.injEq]
    refine ⟨?_, ih _ _ (writeByte_wf m a v h)⟩
    rw [readByte_writeBytes_outside vs _ _ _ (writeByte_wf m a v h) (by omega), readByte_writeByte_same m a v h]

/-! ### Poisoned atoms -/

theorem risingFrom_le {lo hi : Nat} {xs : List Nat} (h : risingFrom hi xs = true) (e : lo ≤ hi) : risingFrom lo xs = true := by
  cases xs with
  | nil => rfl
  | cons x xs =>
    simp only [risingFrom, Bool.and_eq_true, decide_eq_true_eq] at *
    exact ⟨by omega, h.2⟩

theorem risingFrom_addN (xs : List Nat) : ∀ (lo y : Nat), risingFrom lo xs = true → lo ≤ y → risingFrom lo (addN xs y) = true := by
  induction xs with
  | nil => intro lo y _ e; simp [addN, risingFrom, e]
  | cons x xs ih =>
    intro lo y h e
    simp only [risingFrom, Bool.and_eq_true, decide_eq_true_eq] at h
    simp only [addN]
    split
    · simp only [risingFrom, Bool.and_eq_true, decide_eq_true_eq]; exact ⟨e, by omega, h.2⟩
    · split
      · simp only [risingFrom, Bool.and_eq_true, decide_eq_true_eq]; exact h
      · simp only [risingFrom, Bool.and_eq_true, decide_eq_true_eq]; exact ⟨h.1, ih _ _ h.2 (by omega)⟩

theorem risingFrom_filter (p : Nat → Bool) (xs : List Nat) : ∀ lo, risingFrom lo xs = true → risingFrom lo (xs.filter p) = true := by
  induction xs with
  | nil => intro lo h; exact h
  | cons x xs ih =>
    intro lo h
    simp only [risingFrom, Bool.and_eq_true, decide_eq_true_eq] at h
    simp only [List.filter_cons]
    split
    · simp only [risingFrom, Bool.and_eq_true, decide_eq_true_eq]; exact ⟨h.1, ih _ h.2⟩
    · exact ih _ (risingFrom_le h.2 (by omega))

theorem risingFrom_dropN (xs : List Nat) (y lo : Nat) (h : risingFrom lo xs = true) : risingFrom lo (dropN xs y) = true :=
  risingFrom_filter _ xs lo h

theorem risingFrom_addAll (ys : List Nat) : ∀ xs, risingFrom 0 xs = true → risingFrom 0 (ys.foldl addN xs) = true := by
  induction ys with
  | nil => intro xs h; exact h
  | cons y ys ih => intro xs h; exact ih _ (risingFrom_addN xs 0 y h (Nat.zero_le y))

theorem risingFrom_dropAll (ys : List Nat) : ∀ xs, risingFrom 0 xs = true → risingFrom 0 (ys.foldl dropN xs) = true := by
  induction ys with
  | nil => intro xs h; exact h
  | cons y ys ih => intro xs h; exact ih _ (risingFrom_dropN xs y 0 h)

/-! ### The store -/

theorem Store.wf_iff (st : Store) : st.wf = true ↔ Memory.wf st.mem = true ∧ Memory.wf st.host = true ∧ risingFrom 0 st.poison = true ∧
    risingFrom 0 st.hostPoison = true := by
  simp [Store.wf, and_assoc]

/-- The same bytes written to each atom of a list (the zeros of an atom whose value is lost) keep the canonical form. -/
theorem sameAtoms_wf (vs : List Byte) (atoms : List Nat) : ∀ m : List Host.Cell, Memory.wf m = true →
    Memory.wf (atoms.foldl (fun m a => writeBytes m (64 * a) vs) m) = true := by
  induction atoms with
  | nil => intro m h; exact h
  | cons a atoms ih => intro m h; exact ih _ (writeBytes_wf vs m _ h)

theorem Store.writeAtom_wf (st : Store) (a : Nat) (data : List Byte) (h : st.wf = true) : (st.writeAtom a data).wf = true := by
  rw [Store.wf_iff] at h
  unfold Store.writeAtom
  split
  · rw [Store.wf_iff]; exact h
  · split
    · rw [Store.wf_iff]; exact ⟨writeBytes_wf _ _ _ h.1, h.2.1, risingFrom_dropN _ _ _ h.2.2.1, h.2.2.2⟩
    · split
      · rw [Store.wf_iff]; exact h
      · rw [Store.wf_iff]; exact ⟨writeBytes_wf _ _ _ h.1, h.2⟩

theorem Store.writeMem_wf (fuel : Nat) : ∀ (st : Store) (a : Nat) (data : List Byte), st.wf = true → (st.writeMem a fuel data).wf = true := by
  induction fuel with
  | zero => intro st a data h; exact h
  | succ n ih =>
    intro st a data h
    simp only [Store.writeMem]
    split
    · exact h
    · exact ih _ _ _ (Store.writeAtom_wf st a _ h)

/-- Every write keeps the store's canonical form. -/
theorem Store.apply1_wf (st : Store) (w : Wr) (h : st.wf = true) : (st.apply1 w).wf = true := by
  cases w with
  | mem a data => exact Store.writeMem_wf _ st a data h
  | host a data =>
    rw [Store.wf_iff] at h
    simp only [Store.apply1]
    rw [Store.wf_iff]
    exact ⟨h.1, writeBytes_wf _ _ _ h.2.1, h.2.2.1, risingFrom_dropAll _ _ h.2.2.2⟩
  | hostPoison atoms =>
    rw [Store.wf_iff] at h
    simp only [Store.apply1]
    rw [Store.wf_iff]
    exact ⟨h.1, h.2.1, h.2.2.1, risingFrom_addAll _ _ h.2.2.2⟩
  | under a data =>
    rw [Store.wf_iff] at h
    simp only [Store.apply1]
    rw [Store.wf_iff]
    exact ⟨writeBytes_wf _ _ _ h.1, h.2⟩
  | intr _ _ _ => exact h
  | poison atoms =>
    rw [Store.wf_iff] at h
    simp only [Store.apply1]
    rw [Store.wf_iff]
    exact ⟨sameAtoms_wf _ _ _ h.1, h.2.1, risingFrom_addAll _ _ h.2.2.1, h.2.2.2⟩
  | heal atoms =>
    rw [Store.wf_iff] at h
    simp only [Store.apply1]
    rw [Store.wf_iff]
    exact ⟨h.1, h.2.1, risingFrom_dropAll _ _ h.2.2.1, h.2.2.2⟩
  | wipe =>
    rw [Store.wf_iff] at h
    simp only [Store.apply1]
    rw [Store.wf_iff]
    exact ⟨rfl, h.2.1, rfl, h.2.2.2⟩

theorem Store.apply_wf (ws : List Wr) : ∀ st : Store, st.wf = true → (st.apply ws).wf = true := by
  induction ws with
  | nil => intro st h; exact h
  | cons w ws ih => intro st h; exact ih _ (Store.apply1_wf st w h)

/-- Whatever a command's effect wrote, the settled state's memory is in its canonical form. -/
theorem settle_wf (s : State) (b : Block) (h : s.store.wf = true) : (settle s b).store.wf = true := Store.apply_wf _ _ h

@[simp] theorem Store.apply_nil (st : Store) : st.apply [] = st := rfl
theorem Store.apply_append (st : Store) (xs ys : List Wr) : st.apply (xs ++ ys) = (st.apply xs).apply ys := by simp [Store.apply]

/-! ### Writes within one memory leave the other alone -/

theorem Store.writeAtom_host (st : Store) (a : Nat) (data : List Byte) : (st.writeAtom a data).host = st.host := by
  unfold Store.writeAtom
  repeat' split
  all_goals rfl

theorem Store.writeMem_host (fuel : Nat) : ∀ (st : Store) (a : Nat) (data : List Byte), (st.writeMem a fuel data).host = st.host := by
  induction fuel with
  | zero => intro st a data; rfl
  | succ n ih =>
    intro st a data
    simp only [Store.writeMem]
    split
    · rfl
    · rw [ih, Store.writeAtom_host]

theorem Store.apply1_host (st : Store) (w : Wr) (h : ∀ a d, w ≠ .host a d) : (st.apply1 w).host = st.host := by
  cases w with
  | mem a data => exact Store.writeMem_host _ st a data
  | host a data => exact absurd rfl (h a data)
  | hostPoison atoms => rfl
  | under a data => rfl
  | intr _ _ _ => rfl
  | poison atoms => rfl
  | heal atoms => rfl
  | wipe => rfl

/-- A part of a write inside one atom leaves every byte outside it as it was. -/
theorem Store.writeAtom_outside (st : Store) (a q : Nat) (data : List Byte) (h : st.wf = true) (e : q < a ∨ a + data.length ≤ q) :
    readByte (st.writeAtom a data).mem q = readByte st.mem q := by
  rw [Store.wf_iff] at h
  unfold Store.writeAtom
  split
  · rfl
  · split
    · exact readByte_writeBytes_outside data st.mem a q h.1 e
    · split
      · rfl
      · exact readByte_writeBytes_outside data st.mem a q h.1 e

/-- A write to stack memory leaves every byte outside it as it was. -/
theorem Store.writeMem_outside (fuel : Nat) : ∀ (st : Store) (a q : Nat) (data : List Byte), st.wf = true →
    (q < a ∨ a + data.length ≤ q) → readByte (st.writeMem a fuel data).mem q = readByte st.mem q := by
  induction fuel with
  | zero => intro st a q data _ _; rfl
  | succ n ih =>
    intro st a q data h e
    simp only [Store.writeMem]
    split
    · rfl
    · have h1 := Store.writeAtom_outside st a q (data.take (64 - a % 64)) h (by rw [List.length_take]; omega)
      have h2 := ih (st.writeAtom a (data.take (64 - a % 64))) (a + (64 - a % 64)) q (data.drop (64 - a % 64))
        (Store.writeAtom_wf st a _ h) (by rw [List.length_drop]; omega)
      rw [h2, h1]

end Sys2Proof.Machine
end

