-- ==== Sys2Proof/WellFormed.lean ====
section
/-! DEFINITION. Which commands are well formed: every operand within the range that the manual gives its object. The meanings take any
operand; a command that is not well formed names an object the engine does not have. -/
namespace Sys2Proof

/-- A mailbox pair: 64 in the fabric mailbox, 4 in the management mailbox (R358, R370). -/
def pairOk (mb : Mbox) (k : Nat) : Bool := match mb with | .fabric => decide (k < 64) | .mgmt => decide (k < 4)

/-- The header of a Telemark frame (Table 14-1). -/
def FrameHdr.ok (x : FrameHdr) : Bool :=
  decide (x.link < 4) && decide (x.shub < 4) && decide (x.dhub < 4) && decide (x.pairId < 2 ^ 32) && decide (x.fseq < 2 ^ 32) && decide (x.version < 256)

/-- An entry of a DIGEST frame (Table 14-2). -/
def DigestEntry.ok (x : DigestEntry) : Bool :=
  decide (x.table < 2 ^ 20) && decide (x.lrow < 2 ^ 40) && decide (x.bseq < 2 ^ 64) && decide (x.digest < 2 ^ 32) && decide (x.mdigest < 2 ^ 32)

/-- The row of a ROW frame (Table 14-2). -/
def RowPayload.ok (x : RowPayload) : Bool := decide (x.table < 2 ^ 20) && decide (x.lrow < 2 ^ 40) && decide (x.bseq < 2 ^ 64)

/-- An inbound access through a window (R322, R324). -/
def WinAccess.ok (x : WinAccess) : Bool :=
  decide (x.hub < 4) && decide (x.x < 256) && decide (x.y < 256) && decide (x.z < 256) && decide (x.fromWin < 4096) && decide (x.win < 4096)
    && decide (x.offset < 65536)

/-- What start-up finds: one entry of each list for each stack, and sixteen identifications; the places that it names exist (Table 9-4). -/
def StartReport.ok (x : StartReport) : Bool :=
  decide (x.hubFail < 16) && decide (x.imageFail < 16) && decide (x.fabUp < 16) && decide (x.tlmUp < 16) && decide (x.stackFail < 4096)
    && x.trained.length == 12 && x.ucie.length == 12 && x.trep.length == 12 && x.dieIds.length == 16 && decide (x.bankBad < 4)
    && x.lanes.all (fun (ch, lane) => decide (ch < 768) && (decide (lane < 36) || decide (64 ≤ lane)))
    && x.onDie.all (fun (ch, bank, page, _) => decide (ch < 768) && decide (bank < 64) && decide (page < 2 ^ 24))

/-- A command is well formed. -/
def Instr.wf : Instr → Bool
  | .pwrgdRise => true
  | .orderlyStop => true
  | .startUp rep => rep.ok
  | .testReset hub => decide (hub < 4)
  | .bypass hub => decide (hub < 4)
  | .idcode hub => decide (hub < 4)
  | .samplePreload hub _ => decide (hub < 4)
  | .extest hub => decide (hub < 4)
  | .clamp hub => decide (hub < 4)
  | .highz hub => decide (hub < 4)
  | .i3cPrivateWrite hub data => decide (hub < 4) && !data.isEmpty
  | .i3cPrivateRead hub => decide (hub < 4)
  | .enec hub events => decide (hub < 4) && decide (events < 256)
  | .disec hub events => decide (hub < 4) && decide (events < 256)
  | .rstdaa hub => decide (hub < 4)
  | .entdaa hub addr => decide (hub < 4) && decide (addr < 128)
  | .setdasa hub addr => decide (hub < 4) && decide (addr < 128)
  | .setnewda hub addr => decide (hub < 4) && decide (addr < 128)
  | .getpid hub => decide (hub < 4)
  | .getbcr hub => decide (hub < 4)
  | .getdcr hub => decide (hub < 4)
  | .getstatus hub => decide (hub < 4)
  | .getmwl hub => decide (hub < 4)
  | .setmwl hub len => decide (hub < 4) && decide (len < 65536)
  | .getmrl hub => decide (hub < 4)
  | .setmrl hub len => decide (hub < 4) && decide (len < 65536)
  | .rstact hub defining => decide (hub < 4) && decide (defining < 256)
  | .requestSlotWrite hub _ offset data => decide (hub < 4) && decide (0x4000 ≤ offset) && decide (offset + data.length ≤ 0x8000) && !data.isEmpty
  | .intStatusWrite hub _ => decide (hub < 4)
  | .intEnableWrite hub _ => decide (hub < 4)
  | .registerWrite hub offset _ =>
    decide (hub < 4) && (decide (offset < 0x4000) || decide (0x8000 ≤ offset)) && decide (offset < 65536) && offset % 8 == 0
  | .doneReply hub mb pair => decide (hub < 4) && pairOk mb pair
  | .hello hub mb pair => decide (hub < 4) && pairOk mb pair
  | .almanacRead hub mb pair => decide (hub < 4) && pairOk mb pair
  | .eventRead hub mb pair => decide (hub < 4) && pairOk mb pair
  | .monitorRead hub mb pair => decide (hub < 4) && pairOk mb pair
  | .jobOpen hub mb pair => decide (hub < 4) && pairOk mb pair
  | .jobClose hub mb pair => decide (hub < 4) && pairOk mb pair
  | .tableDefine hub mb pair => decide (hub < 4) && pairOk mb pair
  | .tableRetire hub mb pair => decide (hub < 4) && pairOk mb pair
  | .tableStats hub mb pair => decide (hub < 4) && pairOk mb pair
  | .updateStatus hub mb pair => decide (hub < 4) && pairOk mb pair
  | .programLoad hub mb pair => decide (hub < 4) && pairOk mb pair
  | .programUnload hub mb pair => decide (hub < 4) && pairOk mb pair
  | .ringCreate hub mb pair => decide (hub < 4) && pairOk mb pair
  | .ringDestroy hub mb pair => decide (hub < 4) && pairOk mb pair
  | .ringHalt hub mb pair => decide (hub < 4) && pairOk mb pair
  | .ringResumeContinue hub mb pair => decide (hub < 4) && pairOk mb pair
  | .ringResumeRetry hub mb pair => decide (hub < 4) && pairOk mb pair
  | .hostlostRead hub mb pair => decide (hub < 4) && pairOk mb pair
  | .ledgerSet hub mb pair => decide (hub < 4) && pairOk mb pair
  | .schedSet hub mb pair => decide (hub < 4) && pairOk mb pair
  | .layoutSetPlan hub mb pair => decide (hub < 4) && pairOk mb pair
  | .layoutSetCommit hub mb pair => decide (hub < 4) && pairOk mb pair
  | .channelMapoutPlan hub mb pair => decide (hub < 4) && pairOk mb pair
  | .channelMapoutCommit hub mb pair => decide (hub < 4) && pairOk mb pair
  | .pageRetire hub mb pair => decide (hub < 4) && pairOk mb pair
  | .repairRead hub mb pair => decide (hub < 4) && pairOk mb pair
  | .channelTestScan hub mb pair => decide (hub < 4) && pairOk mb pair
  | .channelTestMarch hub mb pair => decide (hub < 4) && pairOk mb pair
  | .channelTestPattern hub mb pair => decide (hub < 4) && pairOk mb pair
  | .channelTestStop hub mb pair => decide (hub < 4) && pairOk mb pair
  | .cachePartition hub mb pair => decide (hub < 4) && pairOk mb pair
  | .cacheFlush hub mb pair => decide (hub < 4) && pairOk mb pair
  | .cacheStatus hub mb pair => decide (hub < 4) && pairOk mb pair
  | .mogulRead hub mb pair => decide (hub < 4) && pairOk mb pair
  | .invalidate hub mb pair => decide (hub < 4) && pairOk mb pair
  | .harvestArm hub mb pair => decide (hub < 4) && pairOk mb pair
  | .faultResume hub mb pair => decide (hub < 4) && pairOk mb pair
  | .faultResumeAbort hub mb pair => decide (hub < 4) && pairOk mb pair
  | .prefetch hub mb pair => decide (hub < 4) && pairOk mb pair
  | .adviseWarm hub mb pair => decide (hub < 4) && pairOk mb pair
  | .adviseDemote hub mb pair => decide (hub < 4) && pairOk mb pair
  | .migratePage job vpage => decide (job < 64) && decide (vpage < 2 ^ 40)
  | .windowSet hub mb pair => decide (hub < 4) && pairOk mb pair
  | .windowClear hub mb pair => decide (hub < 4) && pairOk mb pair
  | .regionRegister hub mb pair => decide (hub < 4) && pairOk mb pair
  | .regionRelease hub mb pair => decide (hub < 4) && pairOk mb pair
  | .twinPair hub mb pair => decide (hub < 4) && pairOk mb pair
  | .twinUnpair hub mb pair => decide (hub < 4) && pairOk mb pair
  | .twinUnpairPlanned hub mb pair => decide (hub < 4) && pairOk mb pair
  | .twinStatus hub mb pair => decide (hub < 4) && pairOk mb pair
  | .dumpArm hub mb pair => decide (hub < 4) && pairOk mb pair
  | .fwStage hub mb pair => decide (hub < 4) && pairOk mb pair
  | .fwHandover hub mb pair => decide (hub < 4) && pairOk mb pair
  | .recalibrate hub mb pair => decide (hub < 4) && pairOk mb pair
  | .stackServiceRelease hub mb pair => decide (hub < 4) && pairOk mb pair
  | .stackServiceAdmit hub mb pair trained _ => decide (hub < 4) && pairOk mb pair && decide (trained < 2 ^ 64)
  | .hubServiceRelease hub mb pair => decide (hub < 4) && pairOk mb pair
  | .hubServiceAdmit hub mb pair _ => decide (hub < 4) && pairOk mb pair
  | .signalWord hub _ => decide (hub < 4)
  | .arrivalSignalApply hub sem => decide (hub < 4) && decide (sem < 65536)
  | .hostWindowWrite port addr data _ => decide (port < 4) && decide (addr + data.length ≤ 2 ^ 64) && !data.isEmpty
  | .hostWindowRead port addr len _ => decide (port < 4) && decide (addr + len ≤ 2 ^ 64) && decide (0 < len)
  | .windowAccess acc => acc.ok
  | .windowResponse ring p _ => decide (ring < 2048 + 4096) && decide (p < 2 ^ 64)
  | .slotLookahead ring _ => decide (ring < 1024)
  | .slotStale ring => decide (ring < 1024)
  | .lookupPool ring => decide (ring < 1024)
  | .lookupGather ring => decide (ring < 1024)
  | .prefetchRows ring => decide (ring < 1024)
  | .scatterAccum ring => decide (ring < 1024)
  | .applyUpdate ring => decide (ring < 1024)
  | .requant ring => decide (ring < 1024)
  | .zeroRows ring => decide (ring < 1024)
  | .copyPermuteSend ring => decide (ring < 1024)
  | .copyPermuteCommit ring => decide (ring < 1024)
  | .copyPermuteAbandon ring => decide (ring < 1024)
  | .digestExchange ring => decide (ring < 1024)
  | .solstice ring => decide (ring < 1024)
  | .signal ring => decide (ring < 1024)
  | .signalFire ring p => decide (ring < 1024) && decide (p < 2 ^ 64)
  | .tileStart ring slot => decide (ring < 1024) && decide (slot.p < 2 ^ 64)
  | .translationWalk hub _ _ => decide (hub < 4)
  | .harvestDeliver => true
  | .rowFetch ring p lrow _ => decide (ring < 1024) && decide (p < 2 ^ 64) && decide (lrow < 2 ^ 40)
  | .partialCombine ring p _ stack => decide (ring < 1024) && decide (p < 2 ^ 64) && decide (stack < 12)
  | .slotComplete ring p => decide (ring < 1024) && decide (p < 2 ^ 64)
  | .gateRequest ring p stack => decide (ring < 1024) && decide (p < 2 ^ 64) && decide (stack < 12)
  | .gateDecision ring p => decide (ring < 1024) && decide (p < 2 ^ 64)
  | .runAdd stack table _ => decide (stack < 12) && decide (table < 2 ^ 20)
  | .overflowReplay stack _ => decide (stack < 12)
  | .rowApply stack table _ => decide (stack < 12) && decide (table < 2 ^ 20)
  | .rowProgramRestart stack table => decide (stack < 12) && decide (table < 2 ^ 20)
  | .masterWriteAck stack table => decide (stack < 12) && decide (table < 2 ^ 20)
  | .shareRetire stack table => decide (stack < 12) && decide (table < 2 ^ 20)
  | .scoreboardRetire stack _ => decide (stack < 12)
  | .rederive job table lrow => decide (job < 64) && decide (table < 2 ^ 20) && decide (lrow < 2 ^ 40)
  | .solsticeArrival ring => decide (ring < 1024)
  | .remoteArrival win job solid epoch => decide (win < 4096) && decide (job < 64) && decide (solid < 256) && decide (epoch < 2 ^ 64)
  | .arrivalResend _ => true
  | .slotTimeout ring p => decide (ring < 1024) && decide (p < 2 ^ 64)
  | .slotDeadline ring p => decide (ring < 1024) && decide (p < 2 ^ 64)
  | .taskDispatch hub cluster chain ctx => decide (hub < 4) && decide (cluster < 1024) && decide (chain < 32) && decide (ctx < 2)
  | .taskEnd hub _ _ => decide (hub < 4)
  | .instalmentCharge hub _ => decide (hub < 4)
  | .ledgerCredit hub => decide (hub < 4)
  | .backgroundPromotion hub _ => decide (hub < 4)
  | .operatingPointChoice hub cluster => decide (hub < 4) && decide (cluster < 1024)
  | .operatingPointChangeDone hub cluster => decide (hub < 4) && decide (cluster < 1024)
  | .stackTempRead stack _ _ => decide (stack < 12)
  | .tempReadingGap stack => decide (stack < 12)
  | .level4Timeout stack => decide (stack < 12)
  | .throttleIdle channel => decide (channel < 768)
  | .snowplowFrame channel => decide (channel < 768)
  | .burstGroup channel => decide (channel < 768)
  | .bankRefresh channel bank => decide (channel < 768) && decide (bank < 64)
  | .wcbDrain stack => decide (stack < 12)
  | .patrolScrub channel loc _ => decide (channel < 768) && loc % 64 == 0
  | .pageRepair channel bank page _ => decide (channel < 768) && decide (bank < 64) && decide (page < 2 ^ 24)
  | .marchStep channel _ => decide (channel < 768)
  | .channelLoss channel _ => decide (channel < 768)
  | .rowDieFailure stack => decide (stack < 12)
  | .relayoutStripe => true
  | .laneRecalibration stack _ => decide (stack < 12)
  | .cacheFill hub _ => decide (hub < 4)
  | .evictionOffer hub _ => decide (hub < 4)
  | .mogulHalve hub => decide (hub < 4)
  | .hostLinkRetrain => true
  | .hostLinkLoss _ => true
  | .hostRetrainTimeout => true
  | .hubHeartbeat hub _ => decide (hub < 4)
  | .hubLoss hub => decide (hub < 4)
  | .leaderTakeover => true
  | .hubDieLoss hub => decide (hub < 4)
  | .stewardCoreFailure hub => decide (hub < 4)
  | .clusterFailure cluster => decide (cluster < 1024)
  | .ucieReplay rowDie modul _ _ => decide (rowDie < 12) && decide (modul < 6)
  | .fabricReplay hub _ _ => decide (hub < 4)
  | .telemarkReplay hub _ _ => decide (hub < 4)
  | .telemarkLinkDown hub => decide (hub < 4)
  | .pairFrameSend => true
  | .pairFrame hdr _ => hdr.ok
  | .pairingTimeout => true
  | .aliveSend hub => decide (hub < 4)
  | .aliveFrame hdr => hdr.ok
  | .digestSend hub => decide (hub < 4)
  | .digestFrame hdr entries => hdr.ok && entries.all DigestEntry.ok
  | .fenceFrame hdr table _ bseq => hdr.ok && decide (table < 2 ^ 20) && decide (bseq < 2 ^ 64)
  | .rowFrame hdr row => hdr.ok && row.ok
  | .sweepFrame hdr table first _ => hdr.ok && decide (table < 2 ^ 20) && decide (first < 2 ^ 40)
  | .resyncFrame hdr table applied _ => hdr.ok && decide (table < 2 ^ 20) && decide (applied < 2 ^ 64)
  | .unpairFrame hdr cause => hdr.ok && decide (cause ≤ 2)
  | .frameDiscard hdr kind _ => hdr.ok && decide (kind < 16)
  | .twinLoss => true
  | .repairFenceStart table => decide (table < 2 ^ 20)
  | .fenceTimeout table => decide (table < 2 ^ 20)
  | .digestSweep table => decide (table < 2 ^ 20)
  | .resyncPass table => decide (table < 2 ^ 20)
  | .fatal hub cause => decide (hub < 4) && decide (0 < cause) && decide (cause ≤ 3)
  | .handoverTimeout => true
  | .monitorSample monitor _ _ => decide (0 < monitor) && decide (monitor ≤ 0x0A)
  | .pwrgdFall => true
  | .hostLinkReconnect => true
  | .telemarkLinkUp hub => decide (hub < 4)
  | .throttleIdleEnd channel => decide (channel < 768)
  | .arrivalAck _ => true

/-- The hub that a command concerns: the one it names, or the one whose group or rings hold the object it names (R24, R189, R441). -/
def Instr.hub? : Instr → Option Nat
  | .pwrgdRise => none
  | .orderlyStop => none
  | .startUp _ => none
  | .testReset hub => some hub
  | .bypass hub => some hub
  | .idcode hub => some hub
  | .samplePreload hub _ => some hub
  | .extest hub => some hub
  | .clamp hub => some hub
  | .highz hub => some hub
  | .i3cPrivateWrite hub _ => some hub
  | .i3cPrivateRead hub => some hub
  | .enec hub _ => some hub
  | .disec hub _ => some hub
  | .rstdaa hub => some hub
  | .entdaa hub _ => some hub
  | .setdasa hub _ => some hub
  | .setnewda hub _ => some hub
  | .getpid hub => some hub
  | .getbcr hub => some hub
  | .getdcr hub => some hub
  | .getstatus hub => some hub
  | .getmwl hub => some hub
  | .setmwl hub _ => some hub
  | .getmrl hub => some hub
  | .setmrl hub _ => some hub
  | .rstact hub _ => some hub
  | .requestSlotWrite hub _ _ _ => some hub
  | .intStatusWrite hub _ => some hub
  | .intEnableWrite hub _ => some hub
  | .registerWrite hub _ _ => some hub
  | .doneReply hub _ _ => some hub
  | .hello hub _ _ => some hub
  | .almanacRead hub _ _ => some hub
  | .eventRead hub _ _ => some hub
  | .monitorRead hub _ _ => some hub
  | .jobOpen hub _ _ => some hub
  | .jobClose hub _ _ => some hub
  | .tableDefine hub _ _ => some hub
  | .tableRetire hub _ _ => some hub
  | .tableStats hub _ _ => some hub
  | .updateStatus hub _ _ => some hub
  | .programLoad hub _ _ => some hub
  | .programUnload hub _ _ => some hub
  | .ringCreate hub _ _ => some hub
  | .ringDestroy hub _ _ => some hub
  | .ringHalt hub _ _ => some hub
  | .ringResumeContinue hub _ _ => some hub
  | .ringResumeRetry hub _ _ => some hub
  | .hostlostRead hub _ _ => some hub
  | .ledgerSet hub _ _ => some hub
  | .schedSet hub _ _ => some hub
  | .layoutSetPlan hub _ _ => some hub
  | .layoutSetCommit hub _ _ => some hub
  | .channelMapoutPlan hub _ _ => some hub
  | .channelMapoutCommit hub _ _ => some hub
  | .pageRetire hub _ _ => some hub
  | .repairRead hub _ _ => some hub
  | .channelTestScan hub _ _ => some hub
  | .channelTestMarch hub _ _ => some hub
  | .channelTestPattern hub _ _ => some hub
  | .channelTestStop hub _ _ => some hub
  | .cachePartition hub _ _ => some hub
  | .cacheFlush hub _ _ => some hub
  | .cacheStatus hub _ _ => some hub
  | .mogulRead hub _ _ => some hub
  | .invalidate hub _ _ => some hub
  | .harvestArm hub _ _ => some hub
  | .faultResume hub _ _ => some hub
  | .faultResumeAbort hub _ _ => some hub
  | .prefetch hub _ _ => some hub
  | .adviseWarm hub _ _ => some hub
  | .adviseDemote hub _ _ => some hub
  | .migratePage _ _ => none
  | .windowSet hub _ _ => some hub
  | .windowClear hub _ _ => some hub
  | .regionRegister hub _ _ => some hub
  | .regionRelease hub _ _ => some hub
  | .twinPair hub _ _ => some hub
  | .twinUnpair hub _ _ => some hub
  | .twinUnpairPlanned hub _ _ => some hub
  | .twinStatus hub _ _ => some hub
  | .dumpArm hub _ _ => some hub
  | .fwStage hub _ _ => some hub
  | .fwHandover hub _ _ => some hub
  | .recalibrate hub _ _ => some hub
  | .stackServiceRelease hub _ _ => some hub
  | .stackServiceAdmit hub _ _ _ _ => some hub
  | .hubServiceRelease hub _ _ => some hub
  | .hubServiceAdmit hub _ _ _ => some hub
  | .signalWord hub _ => some hub
  | .arrivalSignalApply hub _ => some hub
  | .hostWindowWrite port _ _ _ => some port
  | .hostWindowRead port _ _ _ => some port
  | .windowAccess acc => some acc.hub
  | .windowResponse ring _ _ => if ring < 1024 then some (ring / 256) else if ring < 1028 then some (ring - 1024) else none
  | .slotLookahead ring _ => some (ring / 256)
  | .slotStale ring => some (ring / 256)
  | .lookupPool ring => some (ring / 256)
  | .lookupGather ring => some (ring / 256)
  | .prefetchRows ring => some (ring / 256)
  | .scatterAccum ring => some (ring / 256)
  | .applyUpdate ring => some (ring / 256)
  | .requant ring => some (ring / 256)
  | .zeroRows ring => some (ring / 256)
  | .copyPermuteSend ring => some (ring / 256)
  | .copyPermuteCommit ring => some (ring / 256)
  | .copyPermuteAbandon ring => some (ring / 256)
  | .digestExchange ring => some (ring / 256)
  | .solstice ring => some (ring / 256)
  | .signal ring => some (ring / 256)
  | .signalFire ring _ => some (ring / 256)
  | .tileStart ring _ => some (ring / 256)
  | .translationWalk hub _ _ => some hub
  | .harvestDeliver => none
  | .rowFetch ring _ _ _ => some (ring / 256)
  | .partialCombine ring _ _ _ => some (ring / 256)
  | .slotComplete ring _ => some (ring / 256)
  | .gateRequest ring _ _ => some (ring / 256)
  | .gateDecision ring _ => some (ring / 256)
  | .runAdd stack _ _ => some (stack / 3)
  | .overflowReplay stack _ => some (stack / 3)
  | .rowApply stack _ _ => some (stack / 3)
  | .rowProgramRestart stack _ => some (stack / 3)
  | .masterWriteAck stack _ => some (stack / 3)
  | .shareRetire stack _ => some (stack / 3)
  | .scoreboardRetire stack _ => some (stack / 3)
  | .rederive _ _ _ => none
  | .solsticeArrival ring => some (ring / 256)
  | .remoteArrival _ _ _ _ => none
  | .arrivalResend _ => none
  | .slotTimeout ring _ => some (ring / 256)
  | .slotDeadline ring _ => some (ring / 256)
  | .taskDispatch hub _ _ _ => some hub
  | .taskEnd hub _ _ => some hub
  | .instalmentCharge hub _ => some hub
  | .ledgerCredit hub => some hub
  | .backgroundPromotion hub _ => some hub
  | .operatingPointChoice hub _ => some hub
  | .operatingPointChangeDone hub _ => some hub
  | .stackTempRead stack _ _ => some (stack / 3)
  | .tempReadingGap stack => some (stack / 3)
  | .level4Timeout stack => some (stack / 3)
  | .throttleIdle channel => some (channel / 192)
  | .snowplowFrame channel => some (channel / 192)
  | .burstGroup channel => some (channel / 192)
  | .bankRefresh channel _ => some (channel / 192)
  | .wcbDrain stack => some (stack / 3)
  | .patrolScrub channel _ _ => some (channel / 192)
  | .pageRepair channel _ _ _ => some (channel / 192)
  | .marchStep channel _ => some (channel / 192)
  | .channelLoss channel _ => some (channel / 192)
  | .rowDieFailure stack => some (stack / 3)
  | .relayoutStripe => none
  | .laneRecalibration stack _ => some (stack / 3)
  | .cacheFill hub _ => some hub
  | .evictionOffer hub _ => some hub
  | .mogulHalve hub => some hub
  | .hostLinkRetrain => none
  | .hostLinkLoss _ => none
  | .hostRetrainTimeout => none
  | .hubHeartbeat hub _ => some hub
  | .hubLoss hub => some hub
  | .leaderTakeover => none
  | .hubDieLoss hub => some hub
  | .stewardCoreFailure hub => some hub
  | .clusterFailure _ => none
  | .ucieReplay rowDie _ _ _ => some (rowDie / 3)
  | .fabricReplay hub _ _ => some hub
  | .telemarkReplay hub _ _ => some hub
  | .telemarkLinkDown hub => some hub
  | .pairFrameSend => none
  | .pairFrame hdr _ => some hdr.link
  | .pairingTimeout => none
  | .aliveSend hub => some hub
  | .aliveFrame hdr => some hdr.link
  | .digestSend hub => some hub
  | .digestFrame hdr _ => some hdr.link
  | .fenceFrame hdr _ _ _ => some hdr.link
  | .rowFrame hdr _ => some hdr.link
  | .sweepFrame hdr _ _ _ => some hdr.link
  | .resyncFrame hdr _ _ _ => some hdr.link
  | .unpairFrame hdr _ => some hdr.link
  | .frameDiscard hdr _ _ => some hdr.link
  | .twinLoss => none
  | .repairFenceStart _ => none
  | .fenceTimeout _ => none
  | .digestSweep _ => none
  | .resyncPass _ => none
  | .fatal hub _ => some hub
  | .handoverTimeout => none
  | .monitorSample _ _ _ => none
  | .pwrgdFall => none
  | .hostLinkReconnect => none
  | .telemarkLinkUp hub => some hub
  | .throttleIdleEnd channel => some (channel / 192)
  | .arrivalAck _ => none

end Sys2Proof
end

