-- ==== Sys2Proof/Laws/PerInstr.lean ====
section
/-! SUPPORT. A law of every command as syntax, one lemma for each constructor: a well-formed command concerns one of the four hubs. -/
set_option Elab.async false
set_option linter.unusedSimpArgs false
namespace Sys2Proof.Laws.Operands

/-- A well-formed command that concerns a hub concerns one of the four. -/
def Statement (i : Instr) : Prop := i.wf = true → ∀ h, i.hub? = some h → h < 4

theorem pwrgdRise : Statement (.pwrgdRise) := fun _ _ e => by cases e

theorem orderlyStop : Statement (.orderlyStop) := fun _ _ e => by cases e

theorem startUp (rep : StartReport) : Statement (.startUp rep) := fun _ _ e => by cases e

theorem testReset (hub : Nat) : Statement (.testReset hub) := by
  intro w h e
  simp only [Instr.wf, Instr.hub?, FrameHdr.ok, WinAccess.ok, Bool.and_eq_true, decide_eq_true_eq, Option.some.injEq] at w e
  omega

theorem bypass (hub : Nat) : Statement (.bypass hub) := by
  intro w h e
  simp only [Instr.wf, Instr.hub?, FrameHdr.ok, WinAccess.ok, Bool.and_eq_true, decide_eq_true_eq, Option.some.injEq] at w e
  omega

theorem idcode (hub : Nat) : Statement (.idcode hub) := by
  intro w h e
  simp only [Instr.wf, Instr.hub?, FrameHdr.ok, WinAccess.ok, Bool.and_eq_true, decide_eq_true_eq, Option.some.injEq] at w e
  omega

theorem samplePreload (hub load : Nat) : Statement (.samplePreload hub load) := by
  intro w h e
  simp only [Instr.wf, Instr.hub?, FrameHdr.ok, WinAccess.ok, Bool.and_eq_true, decide_eq_true_eq, Option.some.injEq] at w e
  omega

theorem extest (hub : Nat) : Statement (.extest hub) := by
  intro w h e
  simp only [Instr.wf, Instr.hub?, FrameHdr.ok, WinAccess.ok, Bool.and_eq_true, decide_eq_true_eq, Option.some.injEq] at w e
  omega

theorem clamp (hub : Nat) : Statement (.clamp hub) := by
  intro w h e
  simp only [Instr.wf, Instr.hub?, FrameHdr.ok, WinAccess.ok, Bool.and_eq_true, decide_eq_true_eq, Option.some.injEq] at w e
  omega

theorem highz (hub : Nat) : Statement (.highz hub) := by
  intro w h e
  simp only [Instr.wf, Instr.hub?, FrameHdr.ok, WinAccess.ok, Bool.and_eq_true, decide_eq_true_eq, Option.some.injEq] at w e
  omega

theorem i3cPrivateWrite (hub : Nat) (data : List Byte) : Statement (.i3cPrivateWrite hub data) := by
  intro w h e
  simp only [Instr.wf, Instr.hub?, FrameHdr.ok, WinAccess.ok, Bool.and_eq_true, decide_eq_true_eq, Option.some.injEq] at w e
  omega

theorem i3cPrivateRead (hub : Nat) : Statement (.i3cPrivateRead hub) := by
  intro w h e
  simp only [Instr.wf, Instr.hub?, FrameHdr.ok, WinAccess.ok, Bool.and_eq_true, decide_eq_true_eq, Option.some.injEq] at w e
  omega

theorem enec (hub events : Nat) : Statement (.enec hub events) := by
  intro w h e
  simp only [Instr.wf, Instr.hub?, FrameHdr.ok, WinAccess.ok, Bool.and_eq_true, decide_eq_true_eq, Option.some.injEq] at w e
  omega

theorem disec (hub events : Nat) : Statement (.disec hub events) := by
  intro w h e
  simp only [Instr.wf, Instr.hub?, FrameHdr.ok, WinAccess.ok, Bool.and_eq_true, decide_eq_true_eq, Option.some.injEq] at w e
  omega

theorem rstdaa (hub : Nat) : Statement (.rstdaa hub) := by
  intro w h e
  simp only [Instr.wf, Instr.hub?, FrameHdr.ok, WinAccess.ok, Bool.and_eq_true, decide_eq_true_eq, Option.some.injEq] at w e
  omega

theorem entdaa (hub addr : Nat) : Statement (.entdaa hub addr) := by
  intro w h e
  simp only [Instr.wf, Instr.hub?, FrameHdr.ok, WinAccess.ok, Bool.and_eq_true, decide_eq_true_eq, Option.some.injEq] at w e
  omega

theorem setdasa (hub addr : Nat) : Statement (.setdasa hub addr) := by
  intro w h e
  simp only [Instr.wf, Instr.hub?, FrameHdr.ok, WinAccess.ok, Bool.and_eq_true, decide_eq_true_eq, Option.some.injEq] at w e
  omega

theorem setnewda (hub addr : Nat) : Statement (.setnewda hub addr) := by
  intro w h e
  simp only [Instr.wf, Instr.hub?, FrameHdr.ok, WinAccess.ok, Bool.and_eq_true, decide_eq_true_eq, Option.some.injEq] at w e
  omega

theorem getpid (hub : Nat) : Statement (.getpid hub) := by
  intro w h e
  simp only [Instr.wf, Instr.hub?, FrameHdr.ok, WinAccess.ok, Bool.and_eq_true, decide_eq_true_eq, Option.some.injEq] at w e
  omega

theorem getbcr (hub : Nat) : Statement (.getbcr hub) := by
  intro w h e
  simp only [Instr.wf, Instr.hub?, FrameHdr.ok, WinAccess.ok, Bool.and_eq_true, decide_eq_true_eq, Option.some.injEq] at w e
  omega

theorem getdcr (hub : Nat) : Statement (.getdcr hub) := by
  intro w h e
  simp only [Instr.wf, Instr.hub?, FrameHdr.ok, WinAccess.ok, Bool.and_eq_true, decide_eq_true_eq, Option.some.injEq] at w e
  omega

theorem getstatus (hub : Nat) : Statement (.getstatus hub) := by
  intro w h e
  simp only [Instr.wf, Instr.hub?, FrameHdr.ok, WinAccess.ok, Bool.and_eq_true, decide_eq_true_eq, Option.some.injEq] at w e
  omega

theorem getmwl (hub : Nat) : Statement (.getmwl hub) := by
  intro w h e
  simp only [Instr.wf, Instr.hub?, FrameHdr.ok, WinAccess.ok, Bool.and_eq_true, decide_eq_true_eq, Option.some.injEq] at w e
  omega

theorem setmwl (hub len : Nat) : Statement (.setmwl hub len) := by
  intro w h e
  simp only [Instr.wf, Instr.hub?, FrameHdr.ok, WinAccess.ok, Bool.and_eq_true, decide_eq_true_eq, Option.some.injEq] at w e
  omega

theorem getmrl (hub : Nat) : Statement (.getmrl hub) := by
  intro w h e
  simp only [Instr.wf, Instr.hub?, FrameHdr.ok, WinAccess.ok, Bool.and_eq_true, decide_eq_true_eq, Option.some.injEq] at w e
  omega

theorem setmrl (hub len : Nat) : Statement (.setmrl hub len) := by
  intro w h e
  simp only [Instr.wf, Instr.hub?, FrameHdr.ok, WinAccess.ok, Bool.and_eq_true, decide_eq_true_eq, Option.some.injEq] at w e
  omega

theorem rstact (hub defining : Nat) : Statement (.rstact hub defining) := by
  intro w h e
  simp only [Instr.wf, Instr.hub?, FrameHdr.ok, WinAccess.ok, Bool.and_eq_true, decide_eq_true_eq, Option.some.injEq] at w e
  omega

theorem requestSlotWrite (hub : Nat) (agent : Agent) (offset : Nat) (data : List Byte) : Statement (.requestSlotWrite hub agent offset data) := by
  intro w h e
  simp only [Instr.wf, Instr.hub?, FrameHdr.ok, WinAccess.ok, Bool.and_eq_true, decide_eq_true_eq, Option.some.injEq] at w e
  omega

theorem intStatusWrite (hub : Nat) (value : BitVec 64) : Statement (.intStatusWrite hub value) := by
  intro w h e
  simp only [Instr.wf, Instr.hub?, FrameHdr.ok, WinAccess.ok, Bool.and_eq_true, decide_eq_true_eq, Option.some.injEq] at w e
  omega

theorem intEnableWrite (hub : Nat) (value : BitVec 64) : Statement (.intEnableWrite hub value) := by
  intro w h e
  simp only [Instr.wf, Instr.hub?, FrameHdr.ok, WinAccess.ok, Bool.and_eq_true, decide_eq_true_eq, Option.some.injEq] at w e
  omega

theorem registerWrite (hub offset : Nat) (value : BitVec 64) : Statement (.registerWrite hub offset value) := by
  intro w h e
  simp only [Instr.wf, Instr.hub?, FrameHdr.ok, WinAccess.ok, Bool.and_eq_true, decide_eq_true_eq, Option.some.injEq] at w e
  omega

theorem doneReply (hub : Nat) (mb : Mbox) (pair : Nat) : Statement (.doneReply hub mb pair) := by
  intro w h e
  simp only [Instr.wf, Instr.hub?, FrameHdr.ok, WinAccess.ok, Bool.and_eq_true, decide_eq_true_eq, Option.some.injEq] at w e
  omega

theorem hello (hub : Nat) (mb : Mbox) (pair : Nat) : Statement (.hello hub mb pair) := by
  intro w h e
  simp only [Instr.wf, Instr.hub?, FrameHdr.ok, WinAccess.ok, Bool.and_eq_true, decide_eq_true_eq, Option.some.injEq] at w e
  omega

theorem almanacRead (hub : Nat) (mb : Mbox) (pair : Nat) : Statement (.almanacRead hub mb pair) := by
  intro w h e
  simp only [Instr.wf, Instr.hub?, FrameHdr.ok, WinAccess.ok, Bool.and_eq_true, decide_eq_true_eq, Option.some.injEq] at w e
  omega

theorem eventRead (hub : Nat) (mb : Mbox) (pair : Nat) : Statement (.eventRead hub mb pair) := by
  intro w h e
  simp only [Instr.wf, Instr.hub?, FrameHdr.ok, WinAccess.ok, Bool.and_eq_true, decide_eq_true_eq, Option.some.injEq] at w e
  omega

theorem monitorRead (hub : Nat) (mb : Mbox) (pair : Nat) : Statement (.monitorRead hub mb pair) := by
  intro w h e
  simp only [Instr.wf, Instr.hub?, FrameHdr.ok, WinAccess.ok, Bool.and_eq_true, decide_eq_true_eq, Option.some.injEq] at w e
  omega

theorem jobOpen (hub : Nat) (mb : Mbox) (pair : Nat) : Statement (.jobOpen hub mb pair) := by
  intro w h e
  simp only [Instr.wf, Instr.hub?, FrameHdr.ok, WinAccess.ok, Bool.and_eq_true, decide_eq_true_eq, Option.some.injEq] at w e
  omega

theorem jobClose (hub : Nat) (mb : Mbox) (pair : Nat) : Statement (.jobClose hub mb pair) := by
  intro w h e
  simp only [Instr.wf, Instr.hub?, FrameHdr.ok, WinAccess.ok, Bool.and_eq_true, decide_eq_true_eq, Option.some.injEq] at w e
  omega

theorem tableDefine (hub : Nat) (mb : Mbox) (pair : Nat) : Statement (.tableDefine hub mb pair) := by
  intro w h e
  simp only [Instr.wf, Instr.hub?, FrameHdr.ok, WinAccess.ok, Bool.and_eq_true, decide_eq_true_eq, Option.some.injEq] at w e
  omega

theorem tableRetire (hub : Nat) (mb : Mbox) (pair : Nat) : Statement (.tableRetire hub mb pair) := by
  intro w h e
  simp only [Instr.wf, Instr.hub?, FrameHdr.ok, WinAccess.ok, Bool.and_eq_true, decide_eq_true_eq, Option.some.injEq] at w e
  omega

theorem tableStats (hub : Nat) (mb : Mbox) (pair : Nat) : Statement (.tableStats hub mb pair) := by
  intro w h e
  simp only [Instr.wf, Instr.hub?, FrameHdr.ok, WinAccess.ok, Bool.and_eq_true, decide_eq_true_eq, Option.some.injEq] at w e
  omega

theorem updateStatus (hub : Nat) (mb : Mbox) (pair : Nat) : Statement (.updateStatus hub mb pair) := by
  intro w h e
  simp only [Instr.wf, Instr.hub?, FrameHdr.ok, WinAccess.ok, Bool.and_eq_true, decide_eq_true_eq, Option.some.injEq] at w e
  omega

theorem programLoad (hub : Nat) (mb : Mbox) (pair : Nat) : Statement (.programLoad hub mb pair) := by
  intro w h e
  simp only [Instr.wf, Instr.hub?, FrameHdr.ok, WinAccess.ok, Bool.and_eq_true, decide_eq_true_eq, Option.some.injEq] at w e
  omega

theorem programUnload (hub : Nat) (mb : Mbox) (pair : Nat) : Statement (.programUnload hub mb pair) := by
  intro w h e
  simp only [Instr.wf, Instr.hub?, FrameHdr.ok, WinAccess.ok, Bool.and_eq_true, decide_eq_true_eq, Option.some.injEq] at w e
  omega

theorem ringCreate (hub : Nat) (mb : Mbox) (pair : Nat) : Statement (.ringCreate hub mb pair) := by
  intro w h e
  simp only [Instr.wf, Instr.hub?, FrameHdr.ok, WinAccess.ok, Bool.and_eq_true, decide_eq_true_eq, Option.some.injEq] at w e
  omega

theorem ringDestroy (hub : Nat) (mb : Mbox) (pair : Nat) : Statement (.ringDestroy hub mb pair) := by
  intro w h e
  simp only [Instr.wf, Instr.hub?, FrameHdr.ok, WinAccess.ok, Bool.and_eq_true, decide_eq_true_eq, Option.some.injEq] at w e
  omega

theorem ringHalt (hub : Nat) (mb : Mbox) (pair : Nat) : Statement (.ringHalt hub mb pair) := by
  intro w h e
  simp only [Instr.wf, Instr.hub?, FrameHdr.ok, WinAccess.ok, Bool.and_eq_true, decide_eq_true_eq, Option.some.injEq] at w e
  omega

theorem ringResumeContinue (hub : Nat) (mb : Mbox) (pair : Nat) : Statement (.ringResumeContinue hub mb pair) := by
  intro w h e
  simp only [Instr.wf, Instr.hub?, FrameHdr.ok, WinAccess.ok, Bool.and_eq_true, decide_eq_true_eq, Option.some.injEq] at w e
  omega

theorem ringResumeRetry (hub : Nat) (mb : Mbox) (pair : Nat) : Statement (.ringResumeRetry hub mb pair) := by
  intro w h e
  simp only [Instr.wf, Instr.hub?, FrameHdr.ok, WinAccess.ok, Bool.and_eq_true, decide_eq_true_eq, Option.some.injEq] at w e
  omega

theorem hostlostRead (hub : Nat) (mb : Mbox) (pair : Nat) : Statement (.hostlostRead hub mb pair) := by
  intro w h e
  simp only [Instr.wf, Instr.hub?, FrameHdr.ok, WinAccess.ok, Bool.and_eq_true, decide_eq_true_eq, Option.some.injEq] at w e
  omega

theorem ledgerSet (hub : Nat) (mb : Mbox) (pair : Nat) : Statement (.ledgerSet hub mb pair) := by
  intro w h e
  simp only [Instr.wf, Instr.hub?, FrameHdr.ok, WinAccess.ok, Bool.and_eq_true, decide_eq_true_eq, Option.some.injEq] at w e
  omega

theorem schedSet (hub : Nat) (mb : Mbox) (pair : Nat) : Statement (.schedSet hub mb pair) := by
  intro w h e
  simp only [Instr.wf, Instr.hub?, FrameHdr.ok, WinAccess.ok, Bool.and_eq_true, decide_eq_true_eq, Option.some.injEq] at w e
  omega

theorem layoutSetPlan (hub : Nat) (mb : Mbox) (pair : Nat) : Statement (.layoutSetPlan hub mb pair) := by
  intro w h e
  simp only [Instr.wf, Instr.hub?, FrameHdr.ok, WinAccess.ok, Bool.and_eq_true, decide_eq_true_eq, Option.some.injEq] at w e
  omega

theorem layoutSetCommit (hub : Nat) (mb : Mbox) (pair : Nat) : Statement (.layoutSetCommit hub mb pair) := by
  intro w h e
  simp only [Instr.wf, Instr.hub?, FrameHdr.ok, WinAccess.ok, Bool.and_eq_true, decide_eq_true_eq, Option.some.injEq] at w e
  omega

theorem channelMapoutPlan (hub : Nat) (mb : Mbox) (pair : Nat) : Statement (.channelMapoutPlan hub mb pair) := by
  intro w h e
  simp only [Instr.wf, Instr.hub?, FrameHdr.ok, WinAccess.ok, Bool.and_eq_true, decide_eq_true_eq, Option.some.injEq] at w e
  omega

theorem channelMapoutCommit (hub : Nat) (mb : Mbox) (pair : Nat) : Statement (.channelMapoutCommit hub mb pair) := by
  intro w h e
  simp only [Instr.wf, Instr.hub?, FrameHdr.ok, WinAccess.ok, Bool.and_eq_true, decide_eq_true_eq, Option.some.injEq] at w e
  omega

theorem pageRetire (hub : Nat) (mb : Mbox) (pair : Nat) : Statement (.pageRetire hub mb pair) := by
  intro w h e
  simp only [Instr.wf, Instr.hub?, FrameHdr.ok, WinAccess.ok, Bool.and_eq_true, decide_eq_true_eq, Option.some.injEq] at w e
  omega

theorem repairRead (hub : Nat) (mb : Mbox) (pair : Nat) : Statement (.repairRead hub mb pair) := by
  intro w h e
  simp only [Instr.wf, Instr.hub?, FrameHdr.ok, WinAccess.ok, Bool.and_eq_true, decide_eq_true_eq, Option.some.injEq] at w e
  omega

theorem channelTestScan (hub : Nat) (mb : Mbox) (pair : Nat) : Statement (.channelTestScan hub mb pair) := by
  intro w h e
  simp only [Instr.wf, Instr.hub?, FrameHdr.ok, WinAccess.ok, Bool.and_eq_true, decide_eq_true_eq, Option.some.injEq] at w e
  omega

theorem channelTestMarch (hub : Nat) (mb : Mbox) (pair : Nat) : Statement (.channelTestMarch hub mb pair) := by
  intro w h e
  simp only [Instr.wf, Instr.hub?, FrameHdr.ok, WinAccess.ok, Bool.and_eq_true, decide_eq_true_eq, Option.some.injEq] at w e
  omega

theorem channelTestPattern (hub : Nat) (mb : Mbox) (pair : Nat) : Statement (.channelTestPattern hub mb pair) := by
  intro w h e
  simp only [Instr.wf, Instr.hub?, FrameHdr.ok, WinAccess.ok, Bool.and_eq_true, decide_eq_true_eq, Option.some.injEq] at w e
  omega

theorem channelTestStop (hub : Nat) (mb : Mbox) (pair : Nat) : Statement (.channelTestStop hub mb pair) := by
  intro w h e
  simp only [Instr.wf, Instr.hub?, FrameHdr.ok, WinAccess.ok, Bool.and_eq_true, decide_eq_true_eq, Option.some.injEq] at w e
  omega

theorem cachePartition (hub : Nat) (mb : Mbox) (pair : Nat) : Statement (.cachePartition hub mb pair) := by
  intro w h e
  simp only [Instr.wf, Instr.hub?, FrameHdr.ok, WinAccess.ok, Bool.and_eq_true, decide_eq_true_eq, Option.some.injEq] at w e
  omega

theorem cacheFlush (hub : Nat) (mb : Mbox) (pair : Nat) : Statement (.cacheFlush hub mb pair) := by
  intro w h e
  simp only [Instr.wf, Instr.hub?, FrameHdr.ok, WinAccess.ok, Bool.and_eq_true, decide_eq_true_eq, Option.some.injEq] at w e
  omega

theorem cacheStatus (hub : Nat) (mb : Mbox) (pair : Nat) : Statement (.cacheStatus hub mb pair) := by
  intro w h e
  simp only [Instr.wf, Instr.hub?, FrameHdr.ok, WinAccess.ok, Bool.and_eq_true, decide_eq_true_eq, Option.some.injEq] at w e
  omega

theorem mogulRead (hub : Nat) (mb : Mbox) (pair : Nat) : Statement (.mogulRead hub mb pair) := by
  intro w h e
  simp only [Instr.wf, Instr.hub?, FrameHdr.ok, WinAccess.ok, Bool.and_eq_true, decide_eq_true_eq, Option.some.injEq] at w e
  omega

theorem invalidate (hub : Nat) (mb : Mbox) (pair : Nat) : Statement (.invalidate hub mb pair) := by
  intro w h e
  simp only [Instr.wf, Instr.hub?, FrameHdr.ok, WinAccess.ok, Bool.and_eq_true, decide_eq_true_eq, Option.some.injEq] at w e
  omega

theorem harvestArm (hub : Nat) (mb : Mbox) (pair : Nat) : Statement (.harvestArm hub mb pair) := by
  intro w h e
  simp only [Instr.wf, Instr.hub?, FrameHdr.ok, WinAccess.ok, Bool.and_eq_true, decide_eq_true_eq, Option.some.injEq] at w e
  omega

theorem faultResume (hub : Nat) (mb : Mbox) (pair : Nat) : Statement (.faultResume hub mb pair) := by
  intro w h e
  simp only [Instr.wf, Instr.hub?, FrameHdr.ok, WinAccess.ok, Bool.and_eq_true, decide_eq_true_eq, Option.some.injEq] at w e
  omega

theorem faultResumeAbort (hub : Nat) (mb : Mbox) (pair : Nat) : Statement (.faultResumeAbort hub mb pair) := by
  intro w h e
  simp only [Instr.wf, Instr.hub?, FrameHdr.ok, WinAccess.ok, Bool.and_eq_true, decide_eq_true_eq, Option.some.injEq] at w e
  omega

theorem prefetch (hub : Nat) (mb : Mbox) (pair : Nat) : Statement (.prefetch hub mb pair) := by
  intro w h e
  simp only [Instr.wf, Instr.hub?, FrameHdr.ok, WinAccess.ok, Bool.and_eq_true, decide_eq_true_eq, Option.some.injEq] at w e
  omega

theorem adviseWarm (hub : Nat) (mb : Mbox) (pair : Nat) : Statement (.adviseWarm hub mb pair) := by
  intro w h e
  simp only [Instr.wf, Instr.hub?, FrameHdr.ok, WinAccess.ok, Bool.and_eq_true, decide_eq_true_eq, Option.some.injEq] at w e
  omega

theorem adviseDemote (hub : Nat) (mb : Mbox) (pair : Nat) : Statement (.adviseDemote hub mb pair) := by
  intro w h e
  simp only [Instr.wf, Instr.hub?, FrameHdr.ok, WinAccess.ok, Bool.and_eq_true, decide_eq_true_eq, Option.some.injEq] at w e
  omega

theorem migratePage (job vpage : Nat) : Statement (.migratePage job vpage) := fun _ _ e => by cases e

theorem windowSet (hub : Nat) (mb : Mbox) (pair : Nat) : Statement (.windowSet hub mb pair) := by
  intro w h e
  simp only [Instr.wf, Instr.hub?, FrameHdr.ok, WinAccess.ok, Bool.and_eq_true, decide_eq_true_eq, Option.some.injEq] at w e
  omega

theorem windowClear (hub : Nat) (mb : Mbox) (pair : Nat) : Statement (.windowClear hub mb pair) := by
  intro w h e
  simp only [Instr.wf, Instr.hub?, FrameHdr.ok, WinAccess.ok, Bool.and_eq_true, decide_eq_true_eq, Option.some.injEq] at w e
  omega

theorem regionRegister (hub : Nat) (mb : Mbox) (pair : Nat) : Statement (.regionRegister hub mb pair) := by
  intro w h e
  simp only [Instr.wf, Instr.hub?, FrameHdr.ok, WinAccess.ok, Bool.and_eq_true, decide_eq_true_eq, Option.some.injEq] at w e
  omega

theorem regionRelease (hub : Nat) (mb : Mbox) (pair : Nat) : Statement (.regionRelease hub mb pair) := by
  intro w h e
  simp only [Instr.wf, Instr.hub?, FrameHdr.ok, WinAccess.ok, Bool.and_eq_true, decide_eq_true_eq, Option.some.injEq] at w e
  omega

theorem twinPair (hub : Nat) (mb : Mbox) (pair : Nat) : Statement (.twinPair hub mb pair) := by
  intro w h e
  simp only [Instr.wf, Instr.hub?, FrameHdr.ok, WinAccess.ok, Bool.and_eq_true, decide_eq_true_eq, Option.some.injEq] at w e
  omega

theorem twinUnpair (hub : Nat) (mb : Mbox) (pair : Nat) : Statement (.twinUnpair hub mb pair) := by
  intro w h e
  simp only [Instr.wf, Instr.hub?, FrameHdr.ok, WinAccess.ok, Bool.and_eq_true, decide_eq_true_eq, Option.some.injEq] at w e
  omega

theorem twinUnpairPlanned (hub : Nat) (mb : Mbox) (pair : Nat) : Statement (.twinUnpairPlanned hub mb pair) := by
  intro w h e
  simp only [Instr.wf, Instr.hub?, FrameHdr.ok, WinAccess.ok, Bool.and_eq_true, decide_eq_true_eq, Option.some.injEq] at w e
  omega

theorem twinStatus (hub : Nat) (mb : Mbox) (pair : Nat) : Statement (.twinStatus hub mb pair) := by
  intro w h e
  simp only [Instr.wf, Instr.hub?, FrameHdr.ok, WinAccess.ok, Bool.and_eq_true, decide_eq_true_eq, Option.some.injEq] at w e
  omega

theorem dumpArm (hub : Nat) (mb : Mbox) (pair : Nat) : Statement (.dumpArm hub mb pair) := by
  intro w h e
  simp only [Instr.wf, Instr.hub?, FrameHdr.ok, WinAccess.ok, Bool.and_eq_true, decide_eq_true_eq, Option.some.injEq] at w e
  omega

theorem fwStage (hub : Nat) (mb : Mbox) (pair : Nat) : Statement (.fwStage hub mb pair) := by
  intro w h e
  simp only [Instr.wf, Instr.hub?, FrameHdr.ok, WinAccess.ok, Bool.and_eq_true, decide_eq_true_eq, Option.some.injEq] at w e
  omega

theorem fwHandover (hub : Nat) (mb : Mbox) (pair : Nat) : Statement (.fwHandover hub mb pair) := by
  intro w h e
  simp only [Instr.wf, Instr.hub?, FrameHdr.ok, WinAccess.ok, Bool.and_eq_true, decide_eq_true_eq, Option.some.injEq] at w e
  omega

theorem recalibrate (hub : Nat) (mb : Mbox) (pair : Nat) : Statement (.recalibrate hub mb pair) := by
  intro w h e
  simp only [Instr.wf, Instr.hub?, FrameHdr.ok, WinAccess.ok, Bool.and_eq_true, decide_eq_true_eq, Option.some.injEq] at w e
  omega

theorem stackServiceRelease (hub : Nat) (mb : Mbox) (pair : Nat) : Statement (.stackServiceRelease hub mb pair) := by
  intro w h e
  simp only [Instr.wf, Instr.hub?, FrameHdr.ok, WinAccess.ok, Bool.and_eq_true, decide_eq_true_eq, Option.some.injEq] at w e
  omega

theorem stackServiceAdmit (hub : Nat) (mb : Mbox) (pair : Nat) (trained trep : Nat) : Statement (.stackServiceAdmit hub mb pair trained trep) := by
  intro w h e
  simp only [Instr.wf, Instr.hub?, FrameHdr.ok, WinAccess.ok, Bool.and_eq_true, decide_eq_true_eq, Option.some.injEq] at w e
  omega

theorem hubServiceRelease (hub : Nat) (mb : Mbox) (pair : Nat) : Statement (.hubServiceRelease hub mb pair) := by
  intro w h e
  simp only [Instr.wf, Instr.hub?, FrameHdr.ok, WinAccess.ok, Bool.and_eq_true, decide_eq_true_eq, Option.some.injEq] at w e
  omega

theorem hubServiceAdmit (hub : Nat) (mb : Mbox) (pair : Nat) (starts : Bool) : Statement (.hubServiceAdmit hub mb pair starts) := by
  intro w h e
  simp only [Instr.wf, Instr.hub?, FrameHdr.ok, WinAccess.ok, Bool.and_eq_true, decide_eq_true_eq, Option.some.injEq] at w e
  omega

theorem signalWord (hub : Nat) (word : BitVec 64) : Statement (.signalWord hub word) := by
  intro w h e
  simp only [Instr.wf, Instr.hub?, FrameHdr.ok, WinAccess.ok, Bool.and_eq_true, decide_eq_true_eq, Option.some.injEq] at w e
  omega

theorem arrivalSignalApply (hub sem : Nat) : Statement (.arrivalSignalApply hub sem) := by
  intro w h e
  simp only [Instr.wf, Instr.hub?, FrameHdr.ok, WinAccess.ok, Bool.and_eq_true, decide_eq_true_eq, Option.some.injEq] at w e
  omega

theorem hostWindowWrite (port addr : Nat) (data : List Byte) (posted : Bool) : Statement (.hostWindowWrite port addr data posted) := by
  intro w h e
  simp only [Instr.wf, Instr.hub?, FrameHdr.ok, WinAccess.ok, Bool.and_eq_true, decide_eq_true_eq, Option.some.injEq] at w e
  omega

theorem hostWindowRead (port addr len : Nat) (err : ReadErr) : Statement (.hostWindowRead port addr len err) := by
  intro w h e
  simp only [Instr.wf, Instr.hub?, FrameHdr.ok, WinAccess.ok, Bool.and_eq_true, decide_eq_true_eq, Option.some.injEq] at w e
  omega

theorem windowAccess (acc : WinAccess) : Statement (.windowAccess acc) := by
  intro w h e
  simp only [Instr.wf, Instr.hub?, FrameHdr.ok, WinAccess.ok, Bool.and_eq_true, decide_eq_true_eq, Option.some.injEq] at w e
  omega

theorem windowResponse (ring p : Nat) (ans : WinAnswer) : Statement (.windowResponse ring p ans) := by
  intro _ h e
  simp only [Instr.hub?] at e
  split at e
  · have := Option.some.inj e; omega
  · split at e
    · have := Option.some.inj e; omega
    · cases e

theorem slotLookahead (ring k : Nat) : Statement (.slotLookahead ring k) := by
  intro w h e
  simp only [Instr.wf, Instr.hub?, FrameHdr.ok, WinAccess.ok, Bool.and_eq_true, decide_eq_true_eq, Option.some.injEq] at w e
  omega

theorem slotStale (ring : Nat) : Statement (.slotStale ring) := by
  intro w h e
  simp only [Instr.wf, Instr.hub?, FrameHdr.ok, WinAccess.ok, Bool.and_eq_true, decide_eq_true_eq, Option.some.injEq] at w e
  omega

theorem lookupPool (ring : Nat) : Statement (.lookupPool ring) := by
  intro w h e
  simp only [Instr.wf, Instr.hub?, FrameHdr.ok, WinAccess.ok, Bool.and_eq_true, decide_eq_true_eq, Option.some.injEq] at w e
  omega

theorem lookupGather (ring : Nat) : Statement (.lookupGather ring) := by
  intro w h e
  simp only [Instr.wf, Instr.hub?, FrameHdr.ok, WinAccess.ok, Bool.and_eq_true, decide_eq_true_eq, Option.some.injEq] at w e
  omega

theorem prefetchRows (ring : Nat) : Statement (.prefetchRows ring) := by
  intro w h e
  simp only [Instr.wf, Instr.hub?, FrameHdr.ok, WinAccess.ok, Bool.and_eq_true, decide_eq_true_eq, Option.some.injEq] at w e
  omega

theorem scatterAccum (ring : Nat) : Statement (.scatterAccum ring) := by
  intro w h e
  simp only [Instr.wf, Instr.hub?, FrameHdr.ok, WinAccess.ok, Bool.and_eq_true, decide_eq_true_eq, Option.some.injEq] at w e
  omega

theorem applyUpdate (ring : Nat) : Statement (.applyUpdate ring) := by
  intro w h e
  simp only [Instr.wf, Instr.hub?, FrameHdr.ok, WinAccess.ok, Bool.and_eq_true, decide_eq_true_eq, Option.some.injEq] at w e
  omega

theorem requant (ring : Nat) : Statement (.requant ring) := by
  intro w h e
  simp only [Instr.wf, Instr.hub?, FrameHdr.ok, WinAccess.ok, Bool.and_eq_true, decide_eq_true_eq, Option.some.injEq] at w e
  omega

theorem zeroRows (ring : Nat) : Statement (.zeroRows ring) := by
  intro w h e
  simp only [Instr.wf, Instr.hub?, FrameHdr.ok, WinAccess.ok, Bool.and_eq_true, decide_eq_true_eq, Option.some.injEq] at w e
  omega

theorem copyPermuteSend (ring : Nat) : Statement (.copyPermuteSend ring) := by
  intro w h e
  simp only [Instr.wf, Instr.hub?, FrameHdr.ok, WinAccess.ok, Bool.and_eq_true, decide_eq_true_eq, Option.some.injEq] at w e
  omega

theorem copyPermuteCommit (ring : Nat) : Statement (.copyPermuteCommit ring) := by
  intro w h e
  simp only [Instr.wf, Instr.hub?, FrameHdr.ok, WinAccess.ok, Bool.and_eq_true, decide_eq_true_eq, Option.some.injEq] at w e
  omega

theorem copyPermuteAbandon (ring : Nat) : Statement (.copyPermuteAbandon ring) := by
  intro w h e
  simp only [Instr.wf, Instr.hub?, FrameHdr.ok, WinAccess.ok, Bool.and_eq_true, decide_eq_true_eq, Option.some.injEq] at w e
  omega

theorem digestExchange (ring : Nat) : Statement (.digestExchange ring) := by
  intro w h e
  simp only [Instr.wf, Instr.hub?, FrameHdr.ok, WinAccess.ok, Bool.and_eq_true, decide_eq_true_eq, Option.some.injEq] at w e
  omega

theorem solstice (ring : Nat) : Statement (.solstice ring) := by
  intro w h e
  simp only [Instr.wf, Instr.hub?, FrameHdr.ok, WinAccess.ok, Bool.and_eq_true, decide_eq_true_eq, Option.some.injEq] at w e
  omega

theorem signal (ring : Nat) : Statement (.signal ring) := by
  intro w h e
  simp only [Instr.wf, Instr.hub?, FrameHdr.ok, WinAccess.ok, Bool.and_eq_true, decide_eq_true_eq, Option.some.injEq] at w e
  omega

theorem signalFire (ring p : Nat) : Statement (.signalFire ring p) := by
  intro w h e
  simp only [Instr.wf, Instr.hub?, FrameHdr.ok, WinAccess.ok, Bool.and_eq_true, decide_eq_true_eq, Option.some.injEq] at w e
  omega

theorem tileStart (ring : Nat) (slot : SlotRead) : Statement (.tileStart ring slot) := by
  intro w h e
  simp only [Instr.wf, Instr.hub?, FrameHdr.ok, WinAccess.ok, Bool.and_eq_true, decide_eq_true_eq, Option.some.injEq] at w e
  omega

theorem translationWalk (hub walk : Nat) (err : ReadErr) : Statement (.translationWalk hub walk err) := by
  intro w h e
  simp only [Instr.wf, Instr.hub?, FrameHdr.ok, WinAccess.ok, Bool.and_eq_true, decide_eq_true_eq, Option.some.injEq] at w e
  omega

theorem harvestDeliver : Statement (.harvestDeliver) := fun _ _ e => by cases e

theorem rowFetch (ring p lrow : Nat) (err : ReadErr) : Statement (.rowFetch ring p lrow err) := by
  intro w h e
  simp only [Instr.wf, Instr.hub?, FrameHdr.ok, WinAccess.ok, Bool.and_eq_true, decide_eq_true_eq, Option.some.injEq] at w e
  omega

theorem partialCombine (ring p bag stack : Nat) : Statement (.partialCombine ring p bag stack) := by
  intro w h e
  simp only [Instr.wf, Instr.hub?, FrameHdr.ok, WinAccess.ok, Bool.and_eq_true, decide_eq_true_eq, Option.some.injEq] at w e
  omega

theorem slotComplete (ring p : Nat) : Statement (.slotComplete ring p) := by
  intro w h e
  simp only [Instr.wf, Instr.hub?, FrameHdr.ok, WinAccess.ok, Bool.and_eq_true, decide_eq_true_eq, Option.some.injEq] at w e
  omega

theorem gateRequest (ring p stack : Nat) : Statement (.gateRequest ring p stack) := by
  intro w h e
  simp only [Instr.wf, Instr.hub?, FrameHdr.ok, WinAccess.ok, Bool.and_eq_true, decide_eq_true_eq, Option.some.injEq] at w e
  omega

theorem gateDecision (ring p : Nat) : Statement (.gateDecision ring p) := by
  intro w h e
  simp only [Instr.wf, Instr.hub?, FrameHdr.ok, WinAccess.ok, Bool.and_eq_true, decide_eq_true_eq, Option.some.injEq] at w e
  omega

theorem runAdd (stack table : Nat) (err : ReadErr) : Statement (.runAdd stack table err) := by
  intro w h e
  simp only [Instr.wf, Instr.hub?, FrameHdr.ok, WinAccess.ok, Bool.and_eq_true, decide_eq_true_eq, Option.some.injEq] at w e
  omega

theorem overflowReplay (stack : Nat) (err : ReadErr) : Statement (.overflowReplay stack err) := by
  intro w h e
  simp only [Instr.wf, Instr.hub?, FrameHdr.ok, WinAccess.ok, Bool.and_eq_true, decide_eq_true_eq, Option.some.injEq] at w e
  omega

theorem rowApply (stack table : Nat) (err : ReadErr) : Statement (.rowApply stack table err) := by
  intro w h e
  simp only [Instr.wf, Instr.hub?, FrameHdr.ok, WinAccess.ok, Bool.and_eq_true, decide_eq_true_eq, Option.some.injEq] at w e
  omega

theorem rowProgramRestart (stack table : Nat) : Statement (.rowProgramRestart stack table) := by
  intro w h e
  simp only [Instr.wf, Instr.hub?, FrameHdr.ok, WinAccess.ok, Bool.and_eq_true, decide_eq_true_eq, Option.some.injEq] at w e
  omega

theorem masterWriteAck (stack table : Nat) : Statement (.masterWriteAck stack table) := by
  intro w h e
  simp only [Instr.wf, Instr.hub?, FrameHdr.ok, WinAccess.ok, Bool.and_eq_true, decide_eq_true_eq, Option.some.injEq] at w e
  omega

theorem shareRetire (stack table : Nat) : Statement (.shareRetire stack table) := by
  intro w h e
  simp only [Instr.wf, Instr.hub?, FrameHdr.ok, WinAccess.ok, Bool.and_eq_true, decide_eq_true_eq, Option.some.injEq] at w e
  omega

theorem scoreboardRetire (stack entry : Nat) : Statement (.scoreboardRetire stack entry) := by
  intro w h e
  simp only [Instr.wf, Instr.hub?, FrameHdr.ok, WinAccess.ok, Bool.and_eq_true, decide_eq_true_eq, Option.some.injEq] at w e
  omega

theorem rederive (job table lrow : Nat) : Statement (.rederive job table lrow) := fun _ _ e => by cases e

theorem solsticeArrival (ring : Nat) : Statement (.solsticeArrival ring) := by
  intro w h e
  simp only [Instr.wf, Instr.hub?, FrameHdr.ok, WinAccess.ok, Bool.and_eq_true, decide_eq_true_eq, Option.some.injEq] at w e
  omega

theorem remoteArrival (win job solid epoch : Nat) : Statement (.remoteArrival win job solid epoch) := fun _ _ e => by cases e

theorem arrivalResend (index : Nat) : Statement (.arrivalResend index) := fun _ _ e => by cases e

theorem slotTimeout (ring p : Nat) : Statement (.slotTimeout ring p) := by
  intro w h e
  simp only [Instr.wf, Instr.hub?, FrameHdr.ok, WinAccess.ok, Bool.and_eq_true, decide_eq_true_eq, Option.some.injEq] at w e
  omega

theorem slotDeadline (ring p : Nat) : Statement (.slotDeadline ring p) := by
  intro w h e
  simp only [Instr.wf, Instr.hub?, FrameHdr.ok, WinAccess.ok, Bool.and_eq_true, decide_eq_true_eq, Option.some.injEq] at w e
  omega

theorem taskDispatch (hub cluster chain ctx : Nat) : Statement (.taskDispatch hub cluster chain ctx) := by
  intro w h e
  simp only [Instr.wf, Instr.hub?, FrameHdr.ok, WinAccess.ok, Bool.and_eq_true, decide_eq_true_eq, Option.some.injEq] at w e
  omega

theorem taskEnd (hub task steps : Nat) : Statement (.taskEnd hub task steps) := by
  intro w h e
  simp only [Instr.wf, Instr.hub?, FrameHdr.ok, WinAccess.ok, Bool.and_eq_true, decide_eq_true_eq, Option.some.injEq] at w e
  omega

theorem instalmentCharge (hub task : Nat) : Statement (.instalmentCharge hub task) := by
  intro w h e
  simp only [Instr.wf, Instr.hub?, FrameHdr.ok, WinAccess.ok, Bool.and_eq_true, decide_eq_true_eq, Option.some.injEq] at w e
  omega

theorem ledgerCredit (hub : Nat) : Statement (.ledgerCredit hub) := by
  intro w h e
  simp only [Instr.wf, Instr.hub?, FrameHdr.ok, WinAccess.ok, Bool.and_eq_true, decide_eq_true_eq, Option.some.injEq] at w e
  omega

theorem backgroundPromotion (hub task : Nat) : Statement (.backgroundPromotion hub task) := by
  intro w h e
  simp only [Instr.wf, Instr.hub?, FrameHdr.ok, WinAccess.ok, Bool.and_eq_true, decide_eq_true_eq, Option.some.injEq] at w e
  omega

theorem operatingPointChoice (hub cluster : Nat) : Statement (.operatingPointChoice hub cluster) := by
  intro w h e
  simp only [Instr.wf, Instr.hub?, FrameHdr.ok, WinAccess.ok, Bool.and_eq_true, decide_eq_true_eq, Option.some.injEq] at w e
  omega

theorem operatingPointChangeDone (hub cluster : Nat) : Statement (.operatingPointChangeDone hub cluster) := by
  intro w h e
  simp only [Instr.wf, Instr.hub?, FrameHdr.ok, WinAccess.ok, Bool.and_eq_true, decide_eq_true_eq, Option.some.injEq] at w e
  omega

theorem stackTempRead (stack : Nat) (reading : Int) (reported : Nat) : Statement (.stackTempRead stack reading reported) := by
  intro w h e
  simp only [Instr.wf, Instr.hub?, FrameHdr.ok, WinAccess.ok, Bool.and_eq_true, decide_eq_true_eq, Option.some.injEq] at w e
  omega

theorem tempReadingGap (stack : Nat) : Statement (.tempReadingGap stack) := by
  intro w h e
  simp only [Instr.wf, Instr.hub?, FrameHdr.ok, WinAccess.ok, Bool.and_eq_true, decide_eq_true_eq, Option.some.injEq] at w e
  omega

theorem level4Timeout (stack : Nat) : Statement (.level4Timeout stack) := by
  intro w h e
  simp only [Instr.wf, Instr.hub?, FrameHdr.ok, WinAccess.ok, Bool.and_eq_true, decide_eq_true_eq, Option.some.injEq] at w e
  omega

theorem throttleIdle (channel : Nat) : Statement (.throttleIdle channel) := by
  intro w h e
  simp only [Instr.wf, Instr.hub?, FrameHdr.ok, WinAccess.ok, Bool.and_eq_true, decide_eq_true_eq, Option.some.injEq] at w e
  omega

theorem snowplowFrame (channel : Nat) : Statement (.snowplowFrame channel) := by
  intro w h e
  simp only [Instr.wf, Instr.hub?, FrameHdr.ok, WinAccess.ok, Bool.and_eq_true, decide_eq_true_eq, Option.some.injEq] at w e
  omega

theorem burstGroup (channel : Nat) : Statement (.burstGroup channel) := by
  intro w h e
  simp only [Instr.wf, Instr.hub?, FrameHdr.ok, WinAccess.ok, Bool.and_eq_true, decide_eq_true_eq, Option.some.injEq] at w e
  omega

theorem bankRefresh (channel bank : Nat) : Statement (.bankRefresh channel bank) := by
  intro w h e
  simp only [Instr.wf, Instr.hub?, FrameHdr.ok, WinAccess.ok, Bool.and_eq_true, decide_eq_true_eq, Option.some.injEq] at w e
  omega

theorem wcbDrain (stack : Nat) : Statement (.wcbDrain stack) := by
  intro w h e
  simp only [Instr.wf, Instr.hub?, FrameHdr.ok, WinAccess.ok, Bool.and_eq_true, decide_eq_true_eq, Option.some.injEq] at w e
  omega

theorem patrolScrub (channel loc : Nat) (err : ReadErr) : Statement (.patrolScrub channel loc err) := by
  intro w h e
  simp only [Instr.wf, Instr.hub?, FrameHdr.ok, WinAccess.ok, Bool.and_eq_true, decide_eq_true_eq, Option.some.injEq] at w e
  omega

theorem pageRepair (channel bank page : Nat) (applied : Bool) : Statement (.pageRepair channel bank page applied) := by
  intro w h e
  simp only [Instr.wf, Instr.hub?, FrameHdr.ok, WinAccess.ok, Bool.and_eq_true, decide_eq_true_eq, Option.some.injEq] at w e
  omega

theorem marchStep (channel : Nat) (pass : Bool) : Statement (.marchStep channel pass) := by
  intro w h e
  simp only [Instr.wf, Instr.hub?, FrameHdr.ok, WinAccess.ok, Bool.and_eq_true, decide_eq_true_eq, Option.some.injEq] at w e
  omega

theorem channelLoss (channel : Nat) (pairToo : Bool) : Statement (.channelLoss channel pairToo) := by
  intro w h e
  simp only [Instr.wf, Instr.hub?, FrameHdr.ok, WinAccess.ok, Bool.and_eq_true, decide_eq_true_eq, Option.some.injEq] at w e
  omega

theorem rowDieFailure (stack : Nat) : Statement (.rowDieFailure stack) := by
  intro w h e
  simp only [Instr.wf, Instr.hub?, FrameHdr.ok, WinAccess.ok, Bool.and_eq_true, decide_eq_true_eq, Option.some.injEq] at w e
  omega

theorem relayoutStripe : Statement (.relayoutStripe) := fun _ _ e => by cases e

theorem laneRecalibration (stack : Nat) (bad : List (Nat × Nat)) : Statement (.laneRecalibration stack bad) := by
  intro w h e
  simp only [Instr.wf, Instr.hub?, FrameHdr.ok, WinAccess.ok, Bool.and_eq_true, decide_eq_true_eq, Option.some.injEq] at w e
  omega

theorem cacheFill (hub fill : Nat) : Statement (.cacheFill hub fill) := by
  intro w h e
  simp only [Instr.wf, Instr.hub?, FrameHdr.ok, WinAccess.ok, Bool.and_eq_true, decide_eq_true_eq, Option.some.injEq] at w e
  omega

theorem evictionOffer (hub offer : Nat) : Statement (.evictionOffer hub offer) := by
  intro w h e
  simp only [Instr.wf, Instr.hub?, FrameHdr.ok, WinAccess.ok, Bool.and_eq_true, decide_eq_true_eq, Option.some.injEq] at w e
  omega

theorem mogulHalve (hub : Nat) : Statement (.mogulHalve hub) := by
  intro w h e
  simp only [Instr.wf, Instr.hub?, FrameHdr.ok, WinAccess.ok, Bool.and_eq_true, decide_eq_true_eq, Option.some.injEq] at w e
  omega

theorem hostLinkRetrain : Statement .hostLinkRetrain := fun _ _ e => by cases e

theorem hostLinkLoss (cause : HostLossCause) : Statement (.hostLinkLoss cause) := fun _ _ e => by cases e

theorem hostRetrainTimeout : Statement (.hostRetrainTimeout) := fun _ _ e => by cases e

theorem hubHeartbeat (hub : Nat) (alive : Bool) : Statement (.hubHeartbeat hub alive) := by
  intro w h e
  simp only [Instr.wf, Instr.hub?, FrameHdr.ok, WinAccess.ok, Bool.and_eq_true, decide_eq_true_eq, Option.some.injEq] at w e
  omega

theorem hubLoss (hub : Nat) : Statement (.hubLoss hub) := by
  intro w h e
  simp only [Instr.wf, Instr.hub?, FrameHdr.ok, WinAccess.ok, Bool.and_eq_true, decide_eq_true_eq, Option.some.injEq] at w e
  omega

theorem leaderTakeover : Statement (.leaderTakeover) := fun _ _ e => by cases e

theorem hubDieLoss (hub : Nat) : Statement (.hubDieLoss hub) := by
  intro w h e
  simp only [Instr.wf, Instr.hub?, FrameHdr.ok, WinAccess.ok, Bool.and_eq_true, decide_eq_true_eq, Option.some.injEq] at w e
  omega

theorem stewardCoreFailure (hub : Nat) : Statement (.stewardCoreFailure hub) := by
  intro w h e
  simp only [Instr.wf, Instr.hub?, FrameHdr.ok, WinAccess.ok, Bool.and_eq_true, decide_eq_true_eq, Option.some.injEq] at w e
  omega

theorem clusterFailure (cluster : Nat) : Statement (.clusterFailure cluster) := fun _ _ e => by cases e

theorem ucieReplay (rowDie modul ns : Nat) (out : ReplayEnd) : Statement (.ucieReplay rowDie modul ns out) := by
  intro w h e
  simp only [Instr.wf, Instr.hub?, FrameHdr.ok, WinAccess.ok, Bool.and_eq_true, decide_eq_true_eq, Option.some.injEq] at w e
  omega

theorem fabricReplay (hub ns : Nat) (out : ReplayEnd) : Statement (.fabricReplay hub ns out) := by
  intro w h e
  simp only [Instr.wf, Instr.hub?, FrameHdr.ok, WinAccess.ok, Bool.and_eq_true, decide_eq_true_eq, Option.some.injEq] at w e
  omega

theorem telemarkReplay (hub ns : Nat) (out : ReplayEnd) : Statement (.telemarkReplay hub ns out) := by
  intro w h e
  simp only [Instr.wf, Instr.hub?, FrameHdr.ok, WinAccess.ok, Bool.and_eq_true, decide_eq_true_eq, Option.some.injEq] at w e
  omega

theorem telemarkLinkDown (hub : Nat) : Statement (.telemarkLinkDown hub) := by
  intro w h e
  simp only [Instr.wf, Instr.hub?, FrameHdr.ok, WinAccess.ok, Bool.and_eq_true, decide_eq_true_eq, Option.some.injEq] at w e
  omega

theorem pairFrameSend : Statement (.pairFrameSend) := fun _ _ e => by cases e

theorem pairFrame (hdr : FrameHdr) (payload : PairPayload) : Statement (.pairFrame hdr payload) := by
  intro w h e
  simp only [Instr.wf, Instr.hub?, FrameHdr.ok, WinAccess.ok, Bool.and_eq_true, decide_eq_true_eq, Option.some.injEq] at w e
  omega

theorem pairingTimeout : Statement (.pairingTimeout) := fun _ _ e => by cases e

theorem aliveSend (hub : Nat) : Statement (.aliveSend hub) := by
  intro w h e
  simp only [Instr.wf, Instr.hub?, FrameHdr.ok, WinAccess.ok, Bool.and_eq_true, decide_eq_true_eq, Option.some.injEq] at w e
  omega

theorem aliveFrame (hdr : FrameHdr) : Statement (.aliveFrame hdr) := by
  intro w h e
  simp only [Instr.wf, Instr.hub?, FrameHdr.ok, WinAccess.ok, Bool.and_eq_true, decide_eq_true_eq, Option.some.injEq] at w e
  omega

theorem digestSend (hub : Nat) : Statement (.digestSend hub) := by
  intro w h e
  simp only [Instr.wf, Instr.hub?, FrameHdr.ok, WinAccess.ok, Bool.and_eq_true, decide_eq_true_eq, Option.some.injEq] at w e
  omega

theorem digestFrame (hdr : FrameHdr) (entries : List DigestEntry) : Statement (.digestFrame hdr entries) := by
  intro w h e
  simp only [Instr.wf, Instr.hub?, FrameHdr.ok, WinAccess.ok, Bool.and_eq_true, decide_eq_true_eq, Option.some.injEq] at w e
  omega

theorem fenceFrame (hdr : FrameHdr) (table : Nat) (phase : FencePhase) (bseq : Nat) : Statement (.fenceFrame hdr table phase bseq) := by
  intro w h e
  simp only [Instr.wf, Instr.hub?, FrameHdr.ok, WinAccess.ok, Bool.and_eq_true, decide_eq_true_eq, Option.some.injEq] at w e
  omega

theorem rowFrame (hdr : FrameHdr) (row : RowPayload) : Statement (.rowFrame hdr row) := by
  intro w h e
  simp only [Instr.wf, Instr.hub?, FrameHdr.ok, WinAccess.ok, Bool.and_eq_true, decide_eq_true_eq, Option.some.injEq] at w e
  omega

theorem sweepFrame (hdr : FrameHdr) (table first : Nat) (rows : List (Nat × Nat)) : Statement (.sweepFrame hdr table first rows) := by
  intro w h e
  simp only [Instr.wf, Instr.hub?, FrameHdr.ok, WinAccess.ok, Bool.and_eq_true, decide_eq_true_eq, Option.some.injEq] at w e
  omega

theorem resyncFrame (hdr : FrameHdr) (table applied : Nat) (digests : List (Nat × Nat)) : Statement (.resyncFrame hdr table applied digests) := by
  intro w h e
  simp only [Instr.wf, Instr.hub?, FrameHdr.ok, WinAccess.ok, Bool.and_eq_true, decide_eq_true_eq, Option.some.injEq] at w e
  omega

theorem unpairFrame (hdr : FrameHdr) (cause : Nat) : Statement (.unpairFrame hdr cause) := by
  intro w h e
  simp only [Instr.wf, Instr.hub?, FrameHdr.ok, WinAccess.ok, Bool.and_eq_true, decide_eq_true_eq, Option.some.injEq] at w e
  omega

theorem frameDiscard (hdr : FrameHdr) (kind : Nat) (reserved : Bool) : Statement (.frameDiscard hdr kind reserved) := by
  intro w h e
  simp only [Instr.wf, Instr.hub?, FrameHdr.ok, WinAccess.ok, Bool.and_eq_true, decide_eq_true_eq, Option.some.injEq] at w e
  omega

theorem twinLoss : Statement (.twinLoss) := fun _ _ e => by cases e

theorem repairFenceStart (table : Nat) : Statement (.repairFenceStart table) := fun _ _ e => by cases e

theorem fenceTimeout (table : Nat) : Statement (.fenceTimeout table) := fun _ _ e => by cases e

theorem digestSweep (table : Nat) : Statement (.digestSweep table) := fun _ _ e => by cases e

theorem resyncPass (table : Nat) : Statement (.resyncPass table) := fun _ _ e => by cases e

theorem fatal (hub cause : Nat) : Statement (.fatal hub cause) := by
  intro w h e
  simp only [Instr.wf, Instr.hub?, FrameHdr.ok, WinAccess.ok, Bool.and_eq_true, decide_eq_true_eq, Option.some.injEq] at w e
  omega

theorem handoverTimeout : Statement (.handoverTimeout) := fun _ _ e => by cases e

theorem monitorSample (monitor inst value : Nat) : Statement (.monitorSample monitor inst value) := fun _ _ e => by cases e

theorem pwrgdFall : Statement (.pwrgdFall) := fun _ _ e => by cases e

theorem hostLinkReconnect : Statement (.hostLinkReconnect) := fun _ _ e => by cases e

theorem telemarkLinkUp (hub : Nat) : Statement (.telemarkLinkUp hub) := by
  intro w h e
  simp only [Instr.wf, Instr.hub?, FrameHdr.ok, WinAccess.ok, Bool.and_eq_true, decide_eq_true_eq, Option.some.injEq] at w e
  omega

theorem throttleIdleEnd (channel : Nat) : Statement (.throttleIdleEnd channel) := by
  intro w h e
  simp only [Instr.wf, Instr.hub?, FrameHdr.ok, WinAccess.ok, Bool.and_eq_true, decide_eq_true_eq, Option.some.injEq] at w e
  omega

theorem arrivalAck (index : Nat) : Statement (.arrivalAck index) := fun _ _ e => by cases e

end Sys2Proof.Laws.Operands
end

