-- ==== Sys2Proof/Tests/Slice0.lean ====
section
/-! SUPPORT. The model's own tests: an ill-formed command for each check of well-formedness, and for each statement small states that
meet its hypotheses, clause by clause, with what the manual's rule gives there. Expected values come from the rule that the statement cites. -/
namespace Sys2Proof.Tests
set_option Elab.async false
open Sys2Proof.Machine Sys2Proof.Spec

/-! ## Small states -/

/-- A hub with its functions and its ring stop, running. -/
def hubA : Hub := { inService := true, ringStop := true, regs := { fw := .run, age := 2000000000, fabUp := true, tlmUp := true } }
/-- A stack in service. -/
def dieA : RowDie := { st := 1, active := 2 ^ 64 - 1, ucieUp := 63 }
/-- Four hubs and twelve stacks in service, HELLO done, channels 0 to 3 of stack 0 in the layout. -/
def up : State :=
  { blk := { hubs := [(0, hubA), (1, hubA), (2, hubA), (3, hubA)], dies := (List.range 12).map fun s => (s, dieA)
             eng := { power := { pwrgd := true, rstn := true }, hello := true, features := 2 ^ 64 - 1 } } }

def onEng (f : Eng → Eng) (s : State) : State := { s with blk := s.blk.onEng f }
def onHub (h : Nat) (f : Hub → Hub) (s : State) : State := { s with blk := s.blk.onHub h f }
def onDie (q : Nat) (f : RowDie → RowDie) (s : State) : State := { s with blk := s.blk.onDie q f }
def onBlk (f : Block → Block) (s : State) : State := { s with blk := f s.blk }

/-- The command runs and the next state meets a test. -/
def ok (i : Instr) (s : State) (p : State → Bool) : Bool := match exec i s with | .next t => p t | _ => false

/-- A request slot with a message: CODE, length in bytes, JOB, TAG 7, GO, and fields of its body (first byte, bytes, value). -/
def slot (code len job : Nat) (fs : List (Nat × Nat × Nat)) : BitVec 2048 :=
  BitVec.ofNat 2048 (pack ([(0, 8, 0x20), (8, 16, code), (24, 8, len / 8), (32, 6, job), (48, 16, 7), (64, 1, 1)]
    ++ fs.map fun (lo, n, v) => (8 * lo, 8 * n, v)))

/-- The message stands posted in pair 0 of the fabric mailbox of hub 0. -/
def post (code len job : Nat) (fs : List (Nat × Nat × Nat)) (s : State) : State :=
  onHub 0 (fun x => { x with pairs := [(0, { st := .posted, req := slot code len job fs })] }) s

/-- No hub has an interrupt address. -/
def quiet (s : State) : Bool := s.blk.hubs.vals.all fun x => x.regs.msiAddr == 0

theorem getD_of_all {α : Type} (p : α → Bool) (d : α) (hd : p d = true) : ∀ (t : Tbl α), t.vals.all p = true → ∀ k, p (t.getD k d) = true
  | [], _, k => by simpa [Tbl.getD, Tbl.get?] using hd
  | (q, v) :: t, h, k => by
    simp only [Tbl.vals, List.map_cons, List.all_cons, Bool.and_eq_true] at h
    simp only [Tbl.getD, Tbl.get?]
    split
    · simpa using h.1
    · split
      · simpa using hd
      · exact getD_of_all p d hd t h.2 k

theorem quiet_of (s : State) (h : quiet s = true) : Quiet s := fun g => by
  have := getD_of_all (fun x : Hub => x.regs.msiAddr == 0) {} (by decide) s.blk.hubs h g
  exact eq_of_beq this

/-- Whether a message is accepted. -/
def accepted (c : Card) (s : State) : Bool :=
  let m := msgAt s 0 .fabric 0
  (s.blk.hubs.get? 0).isSome && s.blk.copies 0 c.wide && (s.blk.pair 0 0).st == .posted && c.takes (s.blk.pair 0 0).req
    && headerCheck s.blk.eng m true == OK && bodyCheck s.blk.eng c m == OK && s.blk.jobCheck c m == OK && s.blk.featCheck c == OK
    && !s.blk.behind s.blk.eng.pend m (objOf m) && quiet s

theorem accepted_of (c : Card) (s : State) (h : accepted c s = true) : Accepted c 0 .fabric 0 s := by
  simp only [accepted, Bool.and_eq_true, Bool.not_eq_true', beq_iff_eq] at h
  obtain ⟨⟨⟨⟨⟨⟨⟨⟨⟨a, b⟩, c'⟩, d⟩, e⟩, f⟩, g⟩, i⟩, j⟩, k⟩ := h
  refine ⟨⟨?_, rfl, b, ?_, d⟩, e, f, g, i, j, quiet_of s k⟩
  · intro e0; rw [e0] at a; exact Bool.noConfusion a
  · exact c'

/-- STATUS of the reply in pair 0 of hub 0. -/
def statusOf (t : State) : Nat := if (t.blk.pair 0 0).st == .done then bits (t.blk.pair 0 0).rep.toNat 80 16 else 0xFFFF
/-- Bytes of the reply. -/
def rep (t : State) (lo n : Nat) : Nat := bits (t.blk.pair 0 0).rep.toNat (8 * lo) (8 * n)

/-- Bytes in stack memory. -/
def put (a : Nat) (bs : List Byte) (s : State) : State := { s with store := { s.store with mem := writeBytes s.store.mem a bs } }
/-- A 64-bit word in stack memory. -/
def put8 (a v : Nat) (s : State) : State := put a (toBytes 8 v) s

/-- Descriptor of a table of 16 FP32 elements at address 0x10000000 of its job, class 0. -/
def tdesc (job table : Nat) (fs : List (Nat × Nat × Nat)) : BitVec 512 :=
  BitVec.ofNat 512 (fs.foldl (fun x (lo, n, v) => setBits x lo n v) (pack [(0, 8, 0x20), (8, 8, 0x01), (24, 8, 0x01), (32, 12, 15), (56, 6, job),
    (64, 20, table), (128, 48, 64), (256, 41, 64), (320, 56, 0x10000000)]))

/-- Job 1 with an identity map of its first GiB on stack memory and of its second on host memory; channels 0 to 3 in the layout. -/
def upJ : State :=
  put8 0 0x100001 (put8 0x100000 0x73 (put8 0x100008 0x77 (onEng (fun e => { e with layout := { ord := [0, 1, 2, 3] } })
    { up with blk := { up.blk with jobs := [(1, { semBase := [0, 0, 0, 0], semCount := [64, 64, 64, 64] })] } })))

/-- And table 5 of job 1. -/
def upT : State := onBlk (fun b => { b with tables := [(5, { desc := tdesc 1 5 [] })] }) upJ

/-- Ring descriptor: 4 slots of job 1 at 0x400000, status block at 0x500000, semaphores 0 and 1. -/
def rdesc (fs : List (Nat × Nat × Nat)) : BitVec 512 :=
  BitVec.ofNat 512 (fs.foldl (fun x (lo, n, v) => setBits x lo n v) (pack [(0, 8, 0x20), (16, 6, 1), (22, 2, 1), (24, 16, 3), (40, 12, 3), (128, 16, 0),
    (144, 16, 1), (256, 56, 0x400000), (320, 56, 0x500000)]))
/-- And ring 0 of hub 0. -/
def upR : State := onBlk (fun b => { b with rings := [(0, { desc := rdesc [] })] }) upT

/-! ## The queue, reset, the test port, I3C and the registers -/

theorem test_step_runs_front : (step { up with pending := [.idcode 0, .clamp 1] }) = exec (.idcode 0) { up with pending := [.clamp 1] } := rfl
theorem test_reset_idles : step State.reset = .next State.reset := rfl
theorem test_reset_memory : MemInv State.reset := by unfold MemInv; decide +kernel
theorem test_step_keeps_memory : MemInv { up with pending := [.idcode 0] } := by unfold MemInv; decide +kernel
theorem test_idcode : ok (.idcode 0) up (fun t => (t.blk.hub 0).tap.ir == .idcode) = true := by decide +kernel
theorem test_extest_drives_in_reset : ok (.extest 1) State.reset (fun t => (t.blk.hub 1).tap.driven && (t.blk.hub 1).tap.ir == .extest) = true := by
  decide +kernel
theorem test_clamp_leaves_pins_out_of_reset : ok (.clamp 1) up (fun t => !(t.blk.hub 1).tap.driven) = true := by decide +kernel

theorem test_entdaa : up.blk.winUp 0 = true ∧ (up.blk.hub 0).i3c.dyn = none ∧ ok (.entdaa 0 127) up (fun t => (t.blk.hub 0).i3c.dyn == some 127) = true := by
  decide +kernel

def upDyn : State := onHub 0 (fun x => { x with i3c := { x.i3c with dyn := some 8 } }) up
theorem test_setnewda : upDyn.blk.winUp 0 = true ∧ (upDyn.blk.hub 0).i3c.dyn ≠ none ∧
    ok (.setnewda 0 0) upDyn (fun t => (t.blk.hub 0).i3c.dyn == some 0) = true := by decide +kernel
theorem test_getpid : ok (.getpid 0) upDyn (fun t => (t.blk.hub 0).i3c.out.length == 6) = true := by decide +kernel
theorem test_setmwl_top : ok (.setmwl 0 257) upDyn (fun t => (t.blk.hub 0).i3c.mwl == 257) = true := by decide +kernel

def goSlot : List Byte := toBytes 256 (slot 0x0001 32 0 [(24, 8, 0)]).toNat
theorem test_private_write_posts : goSlot.length = 256 ∧ 257 ≤ (upDyn.blk.hub 0).i3c.mwl ∧ (goSlot.getD 8 0).getLsbD 0 = true ∧
    (upDyn.blk.pair 0 67).st.busy = false ∧ msgCodes.contains (ofBytes ((goSlot.drop 1).take 2)) = true ∧
    ok (.i3cPrivateWrite 0 (3 :: goSlot)) upDyn (fun t => (t.blk.pair 0 67).st == .posted) = true := by decide +kernel
theorem test_private_write_selects : 1 ≤ (upDyn.blk.hub 0).i3c.mwl ∧
    ok (.i3cPrivateWrite 0 [0x13]) upDyn (fun t => (t.blk.hub 0).i3c.sel == 3) = true := by decide +kernel
theorem test_int_status_write_one_to_clear :
    ok (.intStatusWrite 0 5) (onHub 0 (fun x => { x with regs := { x.regs with intStatus := 7 } }) up) (fun t => (t.blk.hub 0).regs.intStatus == 2) = true := by
  decide +kernel
def caused : State := onHub 0 (fun x => { x with regs := { x.regs with intStatus := 7 } }) up
theorem test_int_enable_write : caused.blk.winUp 0 = true ∧ (caused.blk.hub 0).regs.msiAddr = 0 ∧
    ok (.intEnableWrite 0 0xF05) caused (fun t => (t.blk.hub 0).regs.intEnable == 5 && t.blk.outbox == []) = true := by decide +kernel
theorem test_register_writes : ok (.registerWrite 0 0x0100 5) caused (fun t => (t.blk.hub 0).regs.intStatus == 2) = true ∧
    ok (.registerWrite 0 0x0108 0xF05) caused (fun t => (t.blk.hub 0).regs.intEnable == 5) = true ∧
    ok (.registerWrite 0 0x0110 7) caused (fun t => (t.blk.hub 0).regs.msiAddr == 4) = true ∧
    ok (.registerWrite 0 0x0400 (2 ^ 33 + 3)) caused (fun t => (t.blk.hub 0).regs.monSel == 3) = true ∧
    ok (.registerWrite 0 0x3FF8 9) caused (fun t => t.blk == caused.blk) = true := by decide +kernel
theorem test_private_read : (upDyn.blk.hub 0).i3c.dyn ≠ none ∧ ok (.i3cPrivateRead 0) upDyn (fun t => (t.blk.hub 0).i3c.ack && (t.blk.hub 0).i3c.out == []) = true := by
  decide +kernel

/-! ## Request slots and the messages' checks -/

def free0 : State := up
theorem test_whole_slot_write_posts : goSlot.length = 256 ∧ (up.blk.pair 0 63).st.busy = false ∧
    ok (.requestSlotWrite 0 .pm (0x4000 + 256 * 63) goSlot) up (fun t => (t.blk.pair 0 63).st == .posted && (t.blk.pair 0 63).pm) = true := by decide +kernel
def hello0 : State := post 0x0001 32 0 [(24, 8, 3)] up
theorem test_busy_slot_write_is_refused : (hello0.blk.pair 0 0).st.busy = true ∧ (hello0.blk.hub 0).regs.refused < 2 ^ 32 - 1 ∧
    ok (.requestSlotWrite 0 .pm (0x4000 + 252) [1, 2, 3, 4]) hello0 (fun t => (t.blk.hub 0).regs.refused == 1 && (t.blk.pair 0 0).req == (hello0.blk.pair 0 0).req)
      = true := by decide +kernel
theorem test_message_needs_posting : ok (.hello 0 .fabric 1) hello0 (fun t => (t.blk.pair 0 0).st == .posted) = true := by decide +kernel
/-- A version not understood. -/
def badVersion : State := onHub 0 (fun x => { x with pairs := [(0, { st := .posted, req := BitVec.ofNat 2048 (setBits (slot 0x0002 24 0 []).toNat 0 8 0x90) })] }) up
theorem test_header_fails_first : headerCheck badVersion.blk.eng (msgAt badVersion 0 .fabric 0) true ≠ OK ∧
    ok (.almanacRead 0 .fabric 0) badVersion (fun t => statusOf t == VERSION_UNSUPPORTED) = true := by decide +kernel
def badLength : State := post 0x0002 32 0 [] up
theorem test_body_fails_second : headerCheck badLength.blk.eng (msgAt badLength 0 .fabric 0) true = OK ∧
    bodyCheck badLength.blk.eng cardAlmanacRead (msgAt badLength 0 .fabric 0) ≠ OK ∧
    ok (.almanacRead 0 .fabric 0) badLength (fun t => statusOf t == MESSAGE_INVALID) = true := by decide +kernel
def closedJob : State := post 0x0022 24 9 [(16, 4, 5)] upT
theorem test_closed_job_slot : cardTableStats.jobScope = true ∧ closedJob.blk.jobOpen 9 = false ∧
    bodyCheck closedJob.blk.eng cardTableStats (msgAt closedJob 0 .fabric 0) = OK ∧ (closedJob.blk.hub 0).regs.msiAddr = 0 ∧
    ok (.tableStats 0 .fabric 0) closedJob (fun t => statusOf t == JOB_CLOSED) = true := by decide +kernel

/-! ## Session, jobs, tables and programs -/

theorem test_hello : accepted cardHello (onEng (fun e => { e with hello := false }) hello0) = true ∧
    ok (.hello 0 .fabric 0) (onEng (fun e => { e with hello := false }) hello0) (fun t => t.blk.eng.hello) = true := by decide +kernel
def helloOpen : State := post 0x0001 32 0 [(24, 8, 0)] (onEng (fun e => { e with features := 5 }) upJ)
theorem test_hello_with_a_job_only_reports : accepted cardHello helloOpen = true ∧ helloOpen.blk.jobs ≠ [] ∧
    ok (.hello 0 .fabric 0) helloOpen (fun t => t.blk.eng.features == 5) = true := by decide +kernel
def almanac0 : State := post 0x0002 24 0 [(16, 4, 8)] up
theorem test_almanac_read : accepted cardAlmanacRead almanac0 = true ∧ (msgAt almanac0 0 .fabric 0).at 16 4 % 8 = 0 ∧
    (msgAt almanac0 0 .fabric 0).at 20 4 = 0 ∧ almanac0.blk.almanac.length < 2 ^ 32 := by decide +kernel
theorem test_almanac_read_past_the_end : almanac0.blk.almanac.length ≤ 65536 ∧ accepted cardAlmanacRead (post 0x0002 24 0 [(16, 4, 65536)] up) = true ∧
    ok (.almanacRead 0 .fabric 0) (post 0x0002 24 0 [(16, 4, 65536)] up) (fun t => statusOf t == OK && rep t 24 4 == 0) = true := by decide +kernel
theorem test_almanac_changed : accepted cardAlmanacRead (post 0x0002 24 0 [(20, 4, 5)] up) = true ∧ up.blk.eng.almGen ≠ 5 ∧
    ok (.almanacRead 0 .fabric 0) (post 0x0002 24 0 [(20, 4, 5)] up) (fun t => statusOf t == ALMANAC_CHANGED && rep t 16 4 == up.blk.eng.almGen) = true := by decide +kernel
def busyI3c : State := onHub 0 (fun x => { x with pairs := [(65, { st := .posted })], i3c := { x.i3c with dyn := some 8 } }) up
theorem test_busy_private_write_is_refused : (busyI3c.blk.pair 0 65).st.busy = true ∧
    ok (.i3cPrivateWrite 0 [1, 0x55]) busyI3c (fun t => t.blk.pair 0 65 == busyI3c.blk.pair 0 65 && (t.blk.hub 0).regs.refused == 1 && (t.blk.hub 0).regs.intStatus.getLsbD intMISUSE) = true := by
  decide +kernel
def events0 : State := post 0x0004 24 0 [(16, 8, 2)] (onEng (fun e => { e with eseq := 3, events := [1, 2, 3].map fun n => BitVec.ofNat 256 (pack [(16, 48, n), (64, 8, n)]) }) up)
theorem test_event_read : accepted cardEventRead events0 = true ∧
    ok (.eventRead 0 .fabric 0) events0 (fun t => statusOf t == OK && rep t 24 2 == 2 && rep t 34 6 == 2) = true := by decide +kernel
def mon0 : State := post 0x0005 24 0 [(16, 2, 0x13), (18, 2, 11), (20, 1, 2)] (onEng (fun e => { e with monitors := [(monKey 0x13 11, { min := 4, max := 9, samples := 2 })] }) up)
theorem test_monitor_read_clears : accepted cardMonitorRead mon0 = true ∧ monInstances 0x13 = some 12 ∧
    ok (.monitorRead 0 .fabric 0) mon0 (fun t => statusOf t == OK && rep t 16 8 == 4 && rep t 24 8 == 9 && rep t 32 8 == 2 && t.blk.eng.monitors == []) = true := by
  decide +kernel

def jobOpen0 : State := post 0x0010 56 2 [(24, 8, 0x200000), (32, 1, 4), (40, 2, 64), (48, 2, 8)] upJ
theorem test_job_open : accepted cardJobOpen jobOpen0 = true ∧ jobOpen0.blk.jobs.has 2 = false ∧ jobOpen0.blk.eng.layout.inCap 0x200000 (2 ^ 20) = true ∧
    ((List.range 4).all fun g => !jobOpen0.blk.semRangeBad g ((msgAt jobOpen0 0 .fabric 0).semBases.getD g 0) ((msgAt jobOpen0 0 .fabric 0).semCounts.getD g 0)) = true ∧
    ok (.jobOpen 0 .fabric 0) jobOpen0 (fun t => statusOf t == OK && (t.blk.jobs.getD 2 {}).weight == 4) = true := by decide +kernel
def jobClose0 : State := post 0x0011 16 1 [] upJ
theorem test_job_close : accepted cardJobClose jobClose0 = true ∧ jobClose0.blk.rings = [] ∧ jobClose0.blk.tables = [] ∧
    ok (.jobClose 0 .fabric 0) jobClose0 (fun t => statusOf t == OK && t.blk.jobs == []) = true := by decide +kernel

def define0 : State := post 0x0020 80 1 [(16, 64, (tdesc 1 5 []).toNat)] upJ
theorem test_table_define : accepted cardTableDefine define0 = true ∧ tdStages (tdesc 1 5 []) 0 = OK ∧ (tdOf (tdesc 1 5 [])).fieldsOk = true ∧
    ok (.tableDefine 0 .fabric 0) define0 (fun t => statusOf t == OK && (t.blk.tables.getD 5 {}).desc == tdesc 1 5 [] && (t.blk.die 11).replay.has 5) = true := by
  decide +kernel
def retire0 : State := post 0x0021 24 1 [(16, 4, 5)] upT
theorem test_table_retire : accepted cardTableRetire retire0 = true ∧ retire0.blk.works = [] ∧
    ok (.tableRetire 0 .fabric 0) retire0 (fun t => statusOf t == OK && t.blk.tables == []) = true := by decide +kernel
def stats0 : State := post 0x0022 24 1 [(16, 4, 5), (20, 1, 1)] (onBlk (fun b => b.onTable 5 fun x => { x with recodes := 6, satRows := 7 }) upT)
theorem test_table_stats : accepted cardTableStats stats0 = true ∧ (stats0.blk.tables.get? 5).isSome = true ∧
    ok (.tableStats 0 .fabric 0) stats0 (fun t => statusOf t == OK && rep t 16 8 == 6 && rep t 24 8 == 7 && (t.blk.tables.getD 5 {}).recodes == 0) = true := by
  decide +kernel
def ustatus0 : State := post 0x0023 24 1 [(16, 4, 5)] (onDie 2 (fun d => { d with replay := [(5, { applied := 3 })] }) upT)
theorem test_update_status : accepted cardUpdateStatus ustatus0 = true ∧
    ok (.updateStatus 0 .fabric 0) ustatus0 (fun t => statusOf t == OK && rep t 32 8 == 3 && rep t 40 8 == 0) = true := by decide +kernel

/-- An image of one EXIT, handle 7, at 0x600000. -/
def imageBytes : List Byte := toBytes 64 (pack [(0, 8, 0x20), (32, 10, 1), (48, 16, 7), (192, 32, crc32c [0, 0, 0, 0xD8])]) ++ [0, 0, 0, 0xD8]
def load0 : State := post 0x0030 24 1 [(16, 8, 0x600000)] (put 0x600000 imageBytes upJ)
def load0b : Block := load0.start.onPair 0 0 fun p => { p with st := .taken, copy := copyOf p.req }
theorem test_program_load_image : (let m := msgAt load0 0 .fabric 0
      (msgRead load0.store load0b m 0 0x600000 64 = (load0b, .ok (imageBytes.take 64)) ∧ msgRead load0.store load0b m 0 0x600040 4 = (load0b, .ok (imageBytes.drop 64)))) ∧
    imageHeaderCheck 0 (ofBytes (imageBytes.take 64)) = OK ∧ bits (ofBytes (imageBytes.take 64)) 32 10 = 1 ∧
    (imageCheck 0 (ofBytes (imageBytes.take 64)) [0xD8000000]).1 = OK ∧ words32 1 (imageBytes.drop 64) = [0xD8000000] ∧ progSpace [] 1 = some 256 := by decide +kernel
theorem test_program_load : accepted cardProgramLoad load0 = true ∧ load0.blk.behind load0.blk.eng.pend (msgAt load0 0 .fabric 0) (.prog 1 7) = false ∧
    ok (.programLoad 0 .fabric 0) load0 (fun t => statusOf t == OK && t.blk.progs.length == 1 && rep t 16 4 == 1) = true := by decide +kernel
def unload0 : State := post 0x0031 24 1 [(16, 2, 7)] (onBlk (fun b => { b with progs := [({ job := 1, handle := 7, base := 256, code := [0xD8000000] } : Prog)] }) upJ)
theorem test_program_unload : accepted cardProgramUnload unload0 = true ∧ (unload0.blk.progOf 1 7).isSome = true ∧
    ok (.programUnload 0 .fabric 0) unload0 (fun t => statusOf t == OK && t.blk.progs == []) = true := by decide +kernel

/-! ## Rings, energy, layout, repair, cache -/

def rcreate0 : State := post 0x0040 80 1 [(16, 64, (rdesc [(8, 8, 255), (176, 1, 1), (160, 16, 2)]).toNat)] upJ
theorem test_ring_create : accepted cardRingCreate rcreate0 = true ∧ ringStages (rdesc [(8, 8, 255), (176, 1, 1), (160, 16, 2)]).toNat 0 = OK ∧
    (let r : Ring := { desc := rdesc [(8, 8, 255), (176, 1, 1), (160, 16, 2)] }
     r.job = 1 ∧ rcreate0.blk.rings.has 255 = false ∧ r.paramsBad = false ∧ rcreate0.blk.ringSemsBad 0 r = false ∧ r.xprog = 0 ∧ r.basesBad = false) ∧
    ok (.ringCreate 0 .fabric 0) rcreate0 (fun t => statusOf t == OK && t.blk.rings.has 255) = true := by decide +kernel
def rhalt0 : State := post 0x0042 24 1 [] upR
theorem test_ring_halt : accepted cardRingHalt rhalt0 = true ∧ (rhalt0.blk.ringNamed (msgAt rhalt0 0 .fabric 0)).isSome = true ∧
    ok (.ringHalt 0 .fabric 0) rhalt0 (fun t => statusOf t == OK && hasReason (t.blk.rings.getD 0 {}).halt haltREQUEST) = true := by decide +kernel
/-- Ring 0 stands with these reasons in force. -/
def halted (why : Nat) (s : State) : State := onBlk (fun b => b.onRing 0 fun r => { r with halt := why, err := .slot 0, haltStatus := 5 }) s
def resume0 : State := post 0x0043 24 1 [] (halted haltREQUEST upR)
theorem test_ring_resume : accepted (cardRingResume false) resume0 = true ∧
    ok (.ringResumeContinue 0 .fabric 0) resume0 (fun t => statusOf t == OK && (t.blk.rings.getD 0 {}).halt == 0) = true := by decide +kernel
def retry0 : State := post 0x0043 24 1 [(18, 1, 1)] (halted haltERROR upR)
theorem test_ring_resume_retry : accepted (cardRingResume true) retry0 = true ∧ hasReason (retry0.blk.rings.getD 0 {}).halt haltERROR = true ∧
    ok (.ringResumeRetry 0 .fabric 0) retry0 (fun t => statusOf t == OK && (t.blk.rings.getD 0 {}).retry == [0]) = true := by decide +kernel
def destroy0 : State := post 0x0041 24 1 [] (onBlk (fun b => b.onRing 0 fun r => { r with tail := 3, head := 1 }) upR)
theorem test_ring_destroy : accepted cardRingDestroy destroy0 = true ∧ destroy0.blk.ringWorks 0 = [] ∧
    ok (.ringDestroy 0 .fabric 0) destroy0 (fun t => statusOf t == OK && t.blk.rings == [] && rep t 16 4 == 2) = true := by decide +kernel
def hostlost0 : State := post 0x0044 24 0 [] (onBlk (fun b => b.onRing 0 fun r => { r with hostLost := some (1, 2, 3) }) upR)
theorem test_hostlost_read : accepted cardHostlostRead hostlost0 = true ∧ (msgAt hostlost0 0 .fabric 0).flag 18 0 = false ∧
    ok (.hostlostRead 0 .fabric 0) hostlost0 (fun t => statusOf t == OK && rep t 16 2 == 1) = true := by decide +kernel

/-- The same message written by the platform manager. -/
def asPm (s : State) : State := onHub 0 (fun x => { x with pairs := x.pairs.mapVal fun _ p => { p with pm := true } }) s
def ledger0 : State := asPm (post 0x0050 32 0 [(16, 1, 2), (26, 2, 1000)] up)
theorem test_ledger_set_fills_the_engine : accepted cardLedgerSet ledger0 = true ∧ (msgAt ledger0 0 .fabric 0).flag 16 1 = true ∧
    ok (.ledgerSet 0 .fabric 0) ledger0 (fun t => statusOf t == OK && (t.blk.hub 1).sched.budget == 1000) = true := by decide +kernel
def ledger1 : State := asPm (post 0x0050 32 0 [(16, 1, 2), (26, 2, 1001)] up)
theorem test_ledger_set_over_the_engine : accepted cardLedgerSet ledger1 = true ∧
    ok (.ledgerSet 0 .fabric 0) ledger1 (fun t => statusOf t == BUDGET_INVALID && (t.blk.hub 1).sched.budget == 1000) = true := by decide +kernel
def sched0 : State := post 0x0051 32 0 [(16, 1, 8), (17, 1, 4), (28, 1, 40), (29, 1, 12), (30, 1, 12)] up
theorem test_sched_set : accepted cardSchedSet sched0 = true ∧ ((List.range 4).all fun g => !((msgAt sched0 0 .fabric 0).flag 16 g && sched0.blk.schedBad (msgAt sched0 0 .fabric 0) g)) = true ∧
    ok (.schedSet 0 .fabric 0) sched0 (fun t => statusOf t == OK && (t.blk.hub 3).sched.shareRead == 40 && (t.blk.hub 2).sched.shareRead == 36) = true := by decide +kernel

def started0 (s : State) : Block := s.start.onPair 0 0 fun p => { p with st := .taken, copy := copyOf p.req }
def mapout0 : State := post 0x0061 48 0 [(24, 8, 8)] upJ
def mapoutPlan : Plan := { layout := ({ ord := [0, 1, 2, 3] } : Layout).less [3], id := layoutId (({ ord := [0, 1, 2, 3] } : Layout).less [3]), mapout := true, out := [3] }
theorem test_mapout_plan : accepted (cardMapout 0) mapout0 = true ∧ mapout0.blk.jobFor (msgAt mapout0 0 .fabric 0) [0] = OK ∧
    (msgAt mapout0 0 .fabric 0).mapoutChans = [3] ∧ layoutOk ((List.range 12).map fun _ => 2 ^ 64 - 1) mapoutPlan.layout = true ∧
    ok (.channelMapoutPlan 0 .fabric 0) mapout0 (fun t => statusOf t == OK && t.blk.eng.plan == some mapoutPlan) = true := by decide +kernel
theorem test_mapout_plan_writes_no_list : msgWrite mapout0.store ((started0 mapout0).keepPlan 0 mapoutPlan 1).1 (msgAt mapout0 0 .fabric 0) 0 0 (vacateBytes []) =
    .ok ((started0 mapout0).keepPlan 0 mapoutPlan 1).1 := by rfl
/-- A layout record of one zone in each domain at 0x700000, and one stack with four channels. -/
def layoutRecord : List Byte := toBytes 128 (pack [(0, 8, 0x20), (8, 8, 1), (16, 8, 1), (8 * 112 + 32, 9, 1), (8 * 120 + 32, 9, 1)])
def small : State := onBlk (fun b => { b with dies := [(0, { dieA with active := 15 })] }) upJ
def layout0 : State := post 0x0060 48 1 [(24, 8, 0x700000)] (put 0x700000 layoutRecord small)
theorem test_layout_plan : accepted (cardLayoutSet 0) layout0 = true ∧ layout0.blk.jobFor (msgAt layout0 0 .fabric 0) [0x700000, 0] = OK ∧
    msgRead layout0.store (started0 layout0) (msgAt layout0 0 .fabric 0) 0 0x700000 112 = (started0 layout0, .ok (layoutRecord.take 112)) ∧
    msgRead layout0.store (started0 layout0) (msgAt layout0 0 .fabric 0) 0 0x700070 16 = (started0 layout0, .ok (layoutRecord.drop 112)) ∧
    ok (.layoutSetPlan 0 .fabric 0) layout0 (fun t => statusOf t == OK && t.blk.eng.plan.isSome) = true := by decide +kernel
def commit0 (code : Nat) : State := post code 48 0 [(16, 1, 1), (20, 4, mapoutPlan.id)] (onEng (fun e => { e with plan := some mapoutPlan }) upJ)
theorem test_mapout_commit : accepted (cardMapout 1) (commit0 0x61) = true ∧ (commit0 0x61).blk.replan mapoutPlan = mapoutPlan.id ∧ layoutOk ((List.range 12).map fun _ => 2 ^ 64 - 1) mapoutPlan.layout = true ∧ zerosMapout (msgAt (commit0 0x61) 0 .fabric 0) = true ∧
    ok (.channelMapoutCommit 0 .fabric 0) (commit0 0x61) (fun t => t.blk.eng.relayout.isSome && t.blk.eng.plan == some mapoutPlan && (t.blk.pair 0 0).st == .pending) = true := by
  decide +kernel
theorem test_layout_commit : accepted (cardLayoutSet 1) (commit0 0x60) = true ∧ zerosLayoutSet (msgAt (commit0 0x60) 0 .fabric 0) = true ∧
    ok (.layoutSetCommit 0 .fabric 0) (commit0 0x60) (fun t => t.blk.eng.relayout.isSome) = true := by decide +kernel

def pretire0 : State := post 0x0062 24 0 [(16, 8, 0x20000)] upJ
theorem test_page_retire : accepted cardPageRetire pretire0 = true ∧ pretire0.blk.eng.layout.inCap 0x20000 65536 = true ∧ pretire0.blk.framePinned pretire0.store 0x20000 = false ∧
    pretire0.blk.usesGone pretire0.blk.eng.nextUse (fun _ p => p.onFrame 0x20000) = true ∧
    ok (.pageRetire 0 .fabric 0) pretire0 (fun t => statusOf t == OK && t.blk.eng.retired == [0x20000]) = true := by decide +kernel
def pretire1 : State := onEng (fun e => { e with retired := [0x20000] }) pretire0
theorem test_page_retired_already : accepted cardPageRetire pretire1 = true ∧
    ok (.pageRetire 0 .fabric 0) pretire1 (fun t => statusOf t == OK && t.blk.eng.retired == [0x20000]) = true := by decide +kernel
def repair0 : State := post 0x0063 24 0 [(16, 1, 11), (20, 4, 1)] (onDie 11 (fun d => { d with ledger := [1, 2, 3] }) up)
theorem test_repair_read : accepted cardRepairRead repair0 = true ∧
    ok (.repairRead 0 .fabric 0) repair0 (fun t => statusOf t == OK && rep t 16 4 == 3 && rep t 20 4 == 2 && rep t 32 16 == 2) = true := by decide +kernel
def ctest0 (mode ch first : Nat) : State := post 0x0064 48 0 [(16, 2, ch), (18, 1, mode), (24, 8, first), (32, 8, chanBytesAll - 1)] upJ
theorem test_channel_test_scan : (ctest0 0 767 0).blk.testPermitted 767 0 0 = true ∧ accepted (cardChannelTest 0) (ctest0 0 767 0) = true ∧
    ok (.channelTestScan 0 .fabric 0) (ctest0 0 767 0) (fun t => statusOf t == OK && (t.blk.chan 767).test.isSome) = true := by decide +kernel
theorem test_channel_test_march : (ctest0 1 3 0).blk.testPermitted 3 1 0 = true ∧ accepted (cardChannelTest 1) (ctest0 1 3 0) = true ∧
    ok (.channelTestMarch 0 .fabric 0) (ctest0 1 3 0) (fun t => statusOf t == OK && (t.blk.chan 3).test.isSome) = true := by decide +kernel
theorem test_channel_test_pattern : (ctest0 2 4 0).blk.testPermitted 4 2 0 = true ∧ accepted (cardChannelTest 2) (ctest0 2 4 0) = true ∧
    ok (.channelTestPattern 0 .fabric 0) (ctest0 2 4 0) (fun t => statusOf t == OK && (t.blk.chan 4).test.isSome) = true := by decide +kernel
def ctestStop : State := onBlk (fun b => b.onChan 4 fun c => { c with test := some { mode := 0, first := 0, last := 64 } }) (ctest0 3 4 0)
theorem test_channel_test_stop : accepted (cardChannelTest 3) ctestStop = true ∧
    ok (.channelTestStop 0 .fabric 0) ctestStop (fun t => statusOf t == OK && (t.blk.chan 4).test.isNone) = true := by decide +kernel

/-- One line of granule (0, 0), partition 2, in way 3 of hub 0. -/
def line0 : Line := { ch := 0, row := 0, part := 2 }
def cached : State := onHub 0 (fun x => { x with slice := { x.slice with cache := { sets := [(cacheSet 0 0, { ways := [(3, line0)] })] }, fills := [{ id := 1, granules := [(1, 0)], part := 2 }] } }) up
theorem test_cached_alone : CachedAlone (cached.blk.hub 0).slice.cache 0 0 3 line0 := by unfold CachedAlone; decide +kernel
def part0 : State := post 0x0070 32 0 [(16, 16, pack [(0, 8, 0x20), (8, 4, 2), (32, 16, 7), (24, 8, 1)])] cached
theorem test_cache_partition : accepted cardCachePartition part0 = true ∧ partStages ((msgAt part0 0 .fabric 0).struct 16 16) 0 = OK ∧
    (part0.blk.upHubs.all fun g => decide (2 ≤ (part0.blk.hub g).slice.enabledIn 7)) = true ∧
    ok (.cachePartition 0 .fabric 0) part0 (fun t => statusOf t == OK && ((t.blk.hub 0).slice.cache.line? (cacheSet 0 0) 0 0).isNone) = true := by decide +kernel
def flush0 : State := post 0x0071 24 0 [(16, 1, 2), (18, 1, 1)] cached
theorem test_cache_flush : accepted cardCacheFlush flush0 = true ∧ (flush0.blk.hub 0).slice.anyHeld (flush0.blk.flushes (msgAt flush0 0 .fabric 0)) = false ∧
    flush0.blk.flushes (msgAt flush0 0 .fabric 0) 3 line0 = true ∧
    ok (.cacheFlush 0 .fabric 0) flush0 (fun t => statusOf t == OK && ((t.blk.hub 0).slice.cache.line? (cacheSet 0 0) 0 0).isNone && (t.blk.hub 0).slice.fills.all (·.stale))
      = true := by decide +kernel
def cstatus0 : State := post 0x0072 24 0 [] (onHub 0 (fun x => { x with slice := { x.slice with hits := 9 } }) up)
theorem test_cache_status : accepted cardCacheStatus cstatus0 = true ∧ cstatus0.blk.hubCheck 0 = OK ∧
    ok (.cacheStatus 0 .fabric 0) cstatus0 (fun t => statusOf t == OK && rep t 96 8 == 9) = true := by decide +kernel
def mogul0 (from_ : Nat) : State := post 0x0073 24 0 [(16, 1, 1), (17, 1, 4), (20, 4, from_)] (onHub 1 (fun x => { x with slice := { x.slice with
  mogul := [(0, [{ table := 5, lrow := 1, count := 4 }, { table := 5, lrow := 2, count := 3 }, { table := 5, lrow := 3, count := 7 }])], snapshot := some [{}, {}, {}] } }) up)
theorem test_mogul_read_snapshot : accepted cardMogulRead (mogul0 0) = true ∧
    ok (.mogulRead 0 .fabric 0) (mogul0 0) (fun t => statusOf t == OK && rep t 16 4 == 2 && ((t.blk.hub 1).slice.snapshot.map (·.map (·.lrow))) == some [3, 1]) = true := by
  decide +kernel
theorem test_mogul_read_on : accepted cardMogulRead (mogul0 2) = true ∧
    ok (.mogulRead 0 .fabric 0) (mogul0 2) (fun t => statusOf t == OK && rep t 16 4 == 3 && rep t 20 4 == 1) = true := by decide +kernel

/-! ## Translation, faults, windows, migrations, twin, firmware, service -/

def harvest0 : State := post 0x0081 40 0 [(24, 8, 0x800000), (32, 1, 16), (34, 2, 9), (36, 2, 10000)] (put8 0x800000 0x77 (put8 0x800080 0x55 upJ))
theorem test_harvest_arm : accepted cardHarvestArm harvest0 = true ∧ harvest0.blk.eng.layout.inCap 0x800000 (128 + 128 * 2 ^ 16) = true ∧ harvest0.store.wf = true ∧
    ok (.harvestArm 0 .fabric 0) harvest0 (fun t => statusOf t == OK && t.blk.eng.harvest.armed && readByte t.store.mem 0x800080 == 0x55) = true := by decide +kernel
def wrec : Nat := pack [(0, 8, 0x20), (8, 12, 4095), (20, 6, 1), (26, 3, 3), (128, 56, 0x10000), (192, 28, 1)]
def wset0 : State := post 0x0085 48 1 [(16, 32, wrec)] upJ
theorem test_window_set : accepted cardWindowSet wset0 = true ∧ windowStages wrec 0 = OK ∧ wset0.blk.windowSet 4095 = false ∧ rangeBad 0x10000 1 = false ∧
    ok (.windowSet 0 .fabric 0) wset0 (fun t => statusOf t == OK && t.blk.eng.windows.has 4095) = true := by decide +kernel
def wclear0 : State := post 0x0086 24 1 [(16, 2, 4095)] (onEng (fun e => { e with windows := [(4095, BitVec.ofNat 256 wrec)] }) upJ)
theorem test_window_clear : accepted cardWindowClear wclear0 = true ∧ jobOf (BitVec.ofNat 256 wrec) 20 = 1 ∧ wclear0.blk.windowFree 4095 wclear0.blk.eng.nextUse = true ∧
    ok (.windowClear 0 .fabric 0) wclear0 (fun t => statusOf t == OK && t.blk.eng.windows == []) = true := by decide +kernel
def rrec : Nat := pack [(0, 8, 0x20), (24, 12, 4095), (36, 6, 1), (46, 2, 3), (48, 16, 63), (128, 56, 0x10000), (192, 28, 2)]
def rreg0 : State := post 0x0087 48 1 [(16, 32, rrec)] upJ
theorem test_region_register : accepted cardRegionRegister rreg0 = true ∧ regionStages rrec 0 = OK ∧ rreg0.blk.allotted 3 1 63 = true ∧ rreg0.blk.arrivalSem 3 63 = false ∧
    rreg0.blk.freeOrDone 3 63 = false ∧ firstUnwritable rreg0.store rreg0.start 1 0x10000 2 REGION_INVALID = none ∧
    ok (.regionRegister 0 .fabric 0) rreg0 (fun t => statusOf t == OK && t.blk.eng.regions.has 4095) = true := by decide +kernel
def rrel0 : State := post 0x0088 24 1 [(16, 2, 4095)] (onEng (fun e => { e with regions := [(4095, BitVec.ofNat 256 rrec)] }) upJ)
theorem test_region_release : accepted cardRegionRelease rrel0 = true ∧ jobOf (BitVec.ofNat 256 rrec) 36 = 1 ∧ rrel0.blk.eng.arrivals = [] ∧
    ok (.regionRelease 0 .fabric 0) rrel0 (fun t => statusOf t == OK && t.blk.eng.regions == []) = true := by decide +kernel

/-- Slot 2 of ring 0 waits on the open record 4. -/
def faulted : State := onEng (fun e => { e with harvest := { e.harvest with records := [{ hseq := 4, job := 1, need := 3, reqs := [{ who := .unit 0 2 }] }] } })
  (onBlk (fun b => { b with works := [(workKey 0 2, { ring := 0, p := 2, job := 1, phase := .faulted })] }) upR)
def fresume0 : State := post 0x0082 24 0 [(16, 4, 4)] faulted
theorem test_fault_resume : accepted (cardFaultResume false) fresume0 = true ∧ (fresume0.blk.work? 0 2).isSome = true ∧
    ok (.faultResume 0 .fabric 0) fresume0 (fun t => statusOf t == OK && rep t 16 2 == 1 && rep t 18 1 == 3 && ((t.blk.work? 0 2).map (·.phase)) == some .active) = true := by
  decide +kernel
def atHead (who : Who) : State := post 0x0082 24 0 [(16, 4, 4)] (onBlk (fun b => b.onRing 0 fun r => { r with headFault := true }) (onEng (fun e => { e with harvest := { e.harvest with
  records := [{ hseq := 4, job := 1, need := 1, reqs := [{ who := who }] }] } }) upR))
theorem test_fault_resume_at_head : accepted (cardFaultResume false) (atHead (.slotBytes 0)) = true ∧
    ok (.faultResume 0 .fabric 0) (atHead (.slotBytes 0)) (fun t => statusOf t == OK && !(t.blk.rings.getD 0 {}).headFault && t.blk.eng.harvest.records.all (!·.opened)) = true := by
  decide +kernel
theorem test_fault_resume_of_a_status_block : accepted (cardFaultResume false) (atHead (.status 0)) = true ∧
    ok (.faultResume 0 .fabric 0) (atHead (.status 0)) (fun t => statusOf t == OK && (t.blk.rings.getD 0 {}).head == 0) = true := by decide +kernel
def fabort0 : State := post 0x0082 24 0 [(16, 4, 4), (20, 1, 1)] faulted
theorem test_fault_resume_abort : accepted (cardFaultResume true) fabort0 = true ∧
    ok (.faultResumeAbort 0 .fabric 0) fabort0 (fun t => statusOf t == OK && ((t.blk.work? 0 2).map (·.status)) == some FAULT_ABORTED) = true := by decide +kernel

/-- A job whose first 64 KiB pages are mapped one by one: page 0 on the host, page 1 in stack memory. -/
def upP : State := put8 0x200000 0x201001 (put8 0x201000 0x202001 (put8 0x202000 0x203001 (put8 0x203000 (0x30000 + 0x77) (put8 0x203008 (0x30000 + 0x73)
  (onBlk (fun b => { b with jobs := [(1, { root := 0x200000 })] }) (onEng (fun e => { e with layout := { ord := [0, 1, 2, 3] } }) up))))))
def prefetch0 : State := post 0x0083 48 1 [(24, 8, 0), (32, 4, 1), (40, 8, 0x40000)] upP
theorem test_prefetch : accepted cardPrefetch prefetch0 = true ∧ crossesStart prefetch0.store prefetch0.start 1 0 = false ∧ rangeBad 0 1 = false ∧
    migrateFail prefetch0.store prefetch0.start 1 0 65536 2 0 = none ∧ 0x40000 % largestPage prefetch0.store prefetch0.start 1 0 65536 2 0 = 0 ∧
    prefetch0.blk.eng.layout.inCap 0x40000 65536 = true ∧
    ok (.prefetch 0 .fabric 0) prefetch0 (fun t => (t.blk.pair 0 0).st == .pending && t.blk.eng.migrations.length == 1) = true := by decide +kernel
def demote0 : State := post 0x0084 48 1 [(16, 1, 1), (24, 8, 0x10000), (32, 4, 1), (40, 8, 0x50000)] upP
theorem test_advise_demote : accepted (cardAdvise 1) demote0 = true ∧ migrateFail demote0.store demote0.start 1 0x10000 65536 2 0 = none := by decide +kernel
def migrating : State := onEng (fun e => { e with migrations := [{ job := 1, va := 0x10000, pages := 1, dest := 0x50000, demote := true }] }) upP
theorem test_migrate_page : (match leafAt migrating.store migrating.start 1 0x10000 with | .ok (some e) => e.size == 65536 && e.target == 0 | _ => false) = true ∧ migrating.blk.uses = [] ∧
    migrating.blk.fatal = false ∧ migrating.blk.fw migrating.blk.eng.leader ≠ .handover ∧ migrating.blk.usesGone 0 (inRange 1 0x10000 0) = true ∧ migrating.blk.hostUp = true ∧ migrating.blk.works = [] ∧
    ok (.migratePage 1 1) migrating (fun t => t.blk.eng.migrations == []) = true := by decide +kernel

def invalidate0 : State := post 0x0080 40 1 [(24, 8, 0x10000), (32, 4, 1)] (onHub 2 (fun x => { x with xlat := { x.xlat with
  sets := [(1, { ways := [(0, { job := 1, va := 0x10000 }), (1, { job := 1, va := 0x410000 })] })] } }) upJ)
theorem test_invalidate_drops_what_it_meets : accepted cardInvalidate invalidate0 = true ∧ invalidate0.blk.pinned 1 0x10000 65536 = false ∧
    ok (.invalidate 0 .fabric 0) invalidate0 (fun t => statusOf t == OK && ((t.blk.hub 2).xlat.sets.vals.map fun c => c.ways.vals.map (·.va)) == [[0x410000]]) = true := by
  decide +kernel
def invalidate1 : State := post 0x0080 40 1 [(16, 1, 1)] upJ
theorem test_invalidate_all : accepted cardInvalidate invalidate1 = true ∧ invalidate1.blk.pinned 1 0 (2 ^ 56) = false ∧
    ok (.invalidate 0 .fabric 0) invalidate1 (fun t => statusOf t == OK) = true := by decide +kernel
def warm0 : State := post 0x0084 48 1 [(24, 8, 0x20000), (32, 4, 1)] upR
theorem test_advise_warm : accepted (cardAdvise 0) warm0 = true ∧ ((List.range 4).filter fun i => (warm0.blk.ringsOf i).any fun x => x.2.job == 1) = [0] ∧
    (warm0.blk.hub 0).xlat.find 1 0x20000 = none ∧ (walkAll warm0.store warm0.start 1 { va := 0x20000, read := true }).2.isSome = true ∧
    ok (.adviseWarm 0 .fabric 0) warm0 (fun t => statusOf t == OK && ((t.blk.hub 0).xlat.find 1 0x20000).isSome) = true := by decide +kernel

/-- A mirrored table in place of table 5. -/
def upM : State := onBlk (fun b => { b with tables := [(5, { desc := tdesc 1 5 [(22, 1, 1)] })] }) upJ
/-- Paired, as the primary of pair 9. -/
def paired : State := onEng (fun e => { e with twin := { e.twin with state := .paired, role := 1, pairId := 9, lastPairId := 9 } }) upM
def pair0 : State := post 0x0090 24 0 [(16, 1, 1), (20, 4, 9)] upM
theorem test_twin_pair : accepted cardTwinPair pair0 = true ∧ pair0.blk.eng.twin.state = .unpaired ∧
    ok (.twinPair 0 .fabric 0) pair0 (fun t => (t.blk.pair 0 0).st == .pending && t.blk.eng.twin.state == .pairing && t.blk.eng.twin.pairId == 9) = true := by decide +kernel
def unpair0 : State := post 0x0091 24 0 [] paired
theorem test_twin_unpair : accepted (cardTwinUnpair 0) unpair0 = true ∧ unpairOk unpair0.blk.eng.twin = true ∧
    ok (.twinUnpair 0 .fabric 0) unpair0 (fun t => statusOf t == OK && t.blk.eng.twin.state == .solo) = true := by decide +kernel
def unpair1 : State := post 0x0091 24 0 [(16, 1, 1)] paired
theorem test_twin_unpair_planned : accepted { cardTwinUnpair 1 with first := false } unpair1 = true ∧ unpair1.blk.mirrored.map (·.1) = [5] ∧ unpair1.blk.fence? 5 = none ∧
    ok (.twinUnpairPlanned 0 .fabric 0) unpair1 (fun t => (t.blk.pair 0 0).st == .pending && (t.blk.fence? 5).isSome) = true := by decide +kernel
def tstatus0 : State := post 0x0092 16 0 [] paired
theorem test_twin_status : accepted cardTwinStatus tstatus0 = true ∧ ok (.twinStatus 0 .fabric 0) tstatus0 (fun t => statusOf t == OK && rep t 16 1 == 2 && rep t 20 4 == 9) = true := by
  decide +kernel

def fwImage : List Byte := toBytes 64 (pack [(0, 8, 0x20), (8, 8, 2), (32, 32, 6), (64, 32, 4), (96, 32, crc32c [1, 2, 3, 4]), (128, 16, 0x5A02)]) ++ [1, 2, 3, 4]
def fwStage0 : State := post 0x00A1 40 1 [(24, 8, 0x600000), (32, 4, 68), (36, 4, crc32c fwImage)] (put 0x600000 fwImage upJ)
theorem test_fw_stage : accepted cardFwStage fwStage0 = true ∧ msgRead fwStage0.store (started0 fwStage0) (msgAt fwStage0 0 .fabric 0) 0 0x600000 68 = (started0 fwStage0, .ok fwImage) ∧
    imageBad (ofBytes (fwImage.take 64)) 68 = false ∧
    ok (.fwStage 0 .fabric 0) fwStage0 (fun t => (t.blk.pair 0 0).st == .pending && t.blk.eng.boot.bank1.size == 4 && t.blk.eng.boot.otherState == 0) = true := by decide +kernel
def handover0 : State := post 0x00A2 24 0 [(16, 1, 1)] (onEng (fun e => { e with boot := { e.boot with otherState := 1 } }) up)
theorem test_fw_handover : accepted cardFwHandover handover0 = true ∧ handover0.blk.runBank = 0 ∧
    ok (.fwHandover 0 .fabric 0) handover0 (fun t => (t.blk.pair 0 0).st == .pending && (List.range 4).all fun g => t.blk.fw g == .handover) = true := by decide +kernel
def recal0 : State := post 0x00A3 32 0 [(16, 1, 11), (24, 8, 2 ^ 63)] up
theorem test_recalibrate : accepted cardRecalibrate recal0 = true ∧ recal0.blk.recalChans (msgAt recal0 0 .fabric 0) = [767] ∧ recal0.blk.dieUp 11 = true ∧
    ok (.recalibrate 0 .fabric 0) recal0 (fun t => (t.blk.pair 0 0).st == .pending && (t.blk.chan 767).recalAge == 1) = true := by decide +kernel
def srelease0 : State := post 0x00A4 24 0 [(17, 1, 11)] upJ
theorem test_stack_release : accepted (cardStackService 0) srelease0 = true ∧ (srelease0.blk.die 11).st = 1 ∧ ((srelease0.blk.eng.layout.ord).all fun c => c / 64 != 11) = true ∧
    ok (.stackServiceRelease 0 .fabric 0) srelease0 (fun t => (t.blk.pair 0 0).st == .pending && (t.blk.die 11).st == 2) = true := by decide +kernel
def sadmit0 : State := post 0x00A4 24 0 [(16, 1, 1), (17, 1, 11)] (onDie 11 (fun d => { d with st := 0 }) upJ)
theorem test_stack_admit : accepted (cardStackService 1) sadmit0 = true ∧ (sadmit0.blk.hub 3).ringStop = true ∧
    ok (.stackServiceAdmit 0 .fabric 0 1 95) sadmit0 (fun t => (t.blk.pair 0 0).st == .pending && (t.blk.die 11).st == 3) = true := by decide +kernel
def hrelease0 : State := post 0x00A5 24 0 [(17, 1, 3)] upJ
theorem test_hub_release : accepted (cardHubService 0) hrelease0 = true ∧ hrelease0.blk.ringsOf 3 = [] ∧
    ok (.hubServiceRelease 0 .fabric 0) hrelease0 (fun t => (t.blk.pair 0 0).st == .pending && !t.blk.hubUp 3 && (t.blk.hub 3).ringStop) = true := by decide +kernel
def hadmit0 : State := post 0x00A5 24 0 [(16, 1, 1), (17, 1, 3)] (onHub 3 (fun x => { x with inService := false, rebudgeted := true }) upJ)
theorem test_hub_admit : accepted (cardHubService 1) hadmit0 = true ∧ (hadmit0.blk.hub 3).ringStop = true ∧
    ok (.hubServiceAdmit 0 .fabric 0 true) hadmit0 (fun t => (t.blk.pair 0 0).st == .pending && (t.blk.hub 3).admitting) = true := by decide +kernel
/-- RELEASE of stack 11 stands pending in pair 0 of hub 0. -/
def pendRelease : PendMsg := { hub := 0, key := 0, code := 0x00A4, copy := (slot 0x00A4 24 0 [(17, 1, 11)]).toNat, obj := .stack 11 }
def released : State := onEng (fun e => { e with pend := [pendRelease] }) (onDie 11 (fun d => { d with st := 2 }) (onHub 0 (fun x => { x with pairs := [(0, { st := .pending })] }) upJ))
theorem test_done_reply_powers_the_stack_off : (cardStackService 0).takes (BitVec.ofNat 2048 pendRelease.copy) = true ∧ released.blk.mayReply pendRelease true = true ∧
    pendRelease.copy < 2 ^ 2048 ∧ ok (.doneReply 0 .fabric 0) released (fun t => statusOf t == OK && (t.blk.die 11).st == 0) = true := by decide +kernel

/-! ## Power, the fabric, windows and the host link -/

def armed : State := onEng (fun e => { e with power := { pwrgd := true } }) State.reset
/-- Hub 0 fails its self-test; stack 3 trains one channel and the others fail. -/
def report : StartReport :=
  { hubFail := 1, imageFail := 0, fabUp := 15, tlmUp := 15, stackFail := 2 ^ 12 - 1 - 8, trained := [0, 0, 0, 1, 0, 0, 0, 0, 0, 0, 0, 0], ucie := List.replicate 12 63
    trep := List.replicate 12 95, bootUnreadable := false, bankBad := 0, fuses := [], candidates := [], spares := [], dieIds := List.replicate 16 0 }
theorem test_pwrgd_rise : State.reset.blk.eng.power.pwrgd = false ∧ ok .pwrgdRise State.reset (fun t => t.blk.eng.power.pwrgd && !t.blk.eng.power.rstn) = true := by
  decide +kernel
theorem test_start_up : startBank armed.blk.eng.boot report = some (0, false) ∧ bootFailOf armed.blk.eng.boot report 1 = 0 ∧ bootFailOf armed.blk.eng.boot report 0 = 1 ∧
    ok (.startUp report) armed (fun t => t.blk.eng.leader == 1 && t.blk.hubUp 1 && !t.blk.hubUp 0 && (t.blk.die 3).st == 1 && t.blk.fw 1 == .run) = true := by decide +kernel
theorem test_pwrgd_fall : ok .pwrgdFall upR (fun t => t.store.mem == [] && t.blk.rings == [] && t.blk.upHubs == []) = true := by decide +kernel
theorem test_orderly_stop : upT.blk.upHubs ≠ [] ∧ upT.blk.fatal = false ∧ (upT.blk.dies.vals.all fun d => d.journals == []) = true ∧
    ok .orderlyStop upT (fun t => t.blk.eng.power.stopped && t.blk.jobs == [] && t.store == upT.store && (t.blk.die 0).warmMarker) = true := by decide +kernel
def handing : State := onEng (fun e => { e with handover := some (1, 0) }) { up with blk := { up.blk with hubs := up.blk.hubs.mapVal fun _ x => { x with regs := { x.regs with fw := .handover } } } }
theorem test_handover_timeout : quiet handing = true ∧ handing.blk.fatal = false ∧ handoverBound ≤ handing.blk.age 0 ∧
    ok .handoverTimeout handing (fun t => t.blk.fw 3 == .run && t.blk.eng.handover.isNone) = true := by decide +kernel
theorem test_fatal : quiet paired = true ∧ paired.blk.fatal = false ∧
    ok (.fatal 3 2) paired (fun t => t.blk.fatal && t.blk.eng.eseq == 1 && t.blk.eng.twin.state == .solo) = true := by decide +kernel

/-- A signal word: version 2, a semaphore, a count and a job slot. -/
def sig (sem count job : Nat) : BitVec 64 := BitVec.ofNat 64 (pack [(0, 8, 0x20), (8, 16, sem), (24, 16, count - 1), (40, 6, job)])
theorem test_signal_word : upJ.blk.allotted 0 1 63 = true ∧ upJ.blk.freeOrDone 0 63 = false ∧ upJ.blk.arrivalSem 0 63 = false ∧ upJ.blk.fillRing 0 63 = none ∧
    ok (.signalWord 0 (sig 63 65536 1)) upJ (fun t => t.blk.sem 0 63 == 65536) = true := by decide +kernel
theorem test_signal_fills_the_ring : upR.blk.allotted 0 1 0 = true ∧ upR.blk.freeOrDone 0 0 = false ∧ upR.blk.arrivalSem 0 0 = false ∧ (upR.blk.fillRing 0 0).isSome = true ∧
    ok (.signalWord 0 (sig 0 4 1)) upR (fun t => (t.blk.rings.getD 0 {}).tail == 4 && t.blk.sem 0 0 == 4) = true := by decide +kernel
theorem test_signal_overrun_halts : ok (.signalWord 0 (sig 0 5 1)) upR (fun t => (t.blk.rings.getD 0 {}).tail == 0 && hasReason (t.blk.rings.getD 0 {}).halt haltOVERRUN) = true := by
  decide +kernel
theorem test_signal_latched : rrel0.blk.allotted 3 1 63 = true ∧ rrel0.blk.freeOrDone 3 63 = false ∧ rrel0.blk.arrivalSem 3 63 = true ∧
    ok (.signalWord 3 (sig 63 2 1)) rrel0 (fun t => t.blk.eng.arrivals.length == 1 && t.blk.sem 3 63 == 0) = true := by decide +kernel
def latched : State := onEng (fun e => { e with arrivals := [{ hub := 3, sem := 63, count := 2, job := 1 }, { hub := 3, sem := 63, count := 5, job := 1 }] }) rrel0
theorem test_arrival_apply : (takeFirst (fun x : Arrival => x.hub == 3 && x.sem == 63) latched.blk.eng.arrivals).isSome = true ∧ latched.blk.fillRing 3 63 = none ∧
    ok (.arrivalSignalApply 3 63) latched (fun t => t.blk.sem 3 63 == 2 && t.blk.eng.arrivals.length == 1) = true := by decide +kernel

/-- The window's physical base is one of the identities left open: what stands there is tested by the statement's hypotheses. -/
theorem test_host_window : upJ.blk.hostAccess 0x100F8 8 = true ∧ (upJ.blk.locate 0x100F8).isSome = true ∧ upJ.store.wf = true ∧
    ((atomsOf 0x100F8 8).all fun a => !upJ.store.poison.contains a) = true ∧ upJ.blk.lostIn 0x100F8 8 = false := by decide +kernel

/-- Window 7 lets engine (1, 2, 3) window 4 read, write and signal one page of job 1 at 0x10000. -/
def windowed : State := onEng (fun e => { e with windows := [(7, BitVec.ofNat 256 (pack [(0, 8, 0x20), (8, 12, 7), (20, 6, 1), (26, 4, 15), (32, 8, 1), (40, 8, 2), (48, 8, 3),
  (56, 12, 4), (128, 56, 0x10000), (192, 28, 1)]))] }) (put8 0x10008 0x99 upJ)
def access (w off : Nat) (op : WinOp) : WinAccess := { hub := 2, x := 1, y := 2, z := 3, fromWin := 4, win := w, page := 0, offset := off, op := op }
def lastOut (t : State) : Option Out := t.blk.outbox.getLast?
theorem test_window_absent : windowed.blk.eng.windows.get? 8 = none ∧ ok (.windowAccess (access 8 0 (.read 8 []))) windowed (fun t => lastOut t == some (.winAnswer 8 .refused)) = true := by
  decide +kernel
theorem test_window_arrival : windowed.blk.eng.arrivals = [] ∧ windowed.blk.winTakes ((windowed.blk.eng.windows.getD 7 0).toNat) (access 7 0 (.arrival 3 1)) = true ∧
    ok (.windowAccess (access 7 0 (.arrival 3 1))) windowed (fun t => lastOut t == some (.winAnswer 7 .accepted) && t.blk.eng.arrivals.map (·.sol) == [some (3, 1)]) = true := by decide +kernel
theorem test_window_signal : windowed.blk.freeOrDone 1 63 = false ∧ windowed.blk.arrivalSem 1 63 = false ∧ windowed.blk.fillRing 1 63 = none ∧
    ok (.windowAccess (access 7 0 (.signal 1 63 9))) windowed (fun t => lastOut t == some (.winAnswer 7 .accepted) && t.blk.sem 1 63 == 9) = true := by
  decide +kernel
theorem test_window_read_last_bytes : (match winPages windowed.store 2 1 false (pagesOf 0x10008 8) windowed.start with
      | (_, .ok [p]) => p.target == 0 && windowed.blk.outsideOpen (p.span 0x10008 8).1 (p.span 0x10008 8).2.2 && p.span 0x10008 8 == (0x10008, 0, 8) | _ => false) = true ∧
    ((atomsOf 0x10008 8).all fun i => !poisonedIn windowed.store windowed.start (64 * i) 64 && !windowed.blk.lostAt (64 * i)) = true ∧
    ok (.windowAccess (access 7 8 (.read 8 []))) windowed (fun t => lastOut t == some (.winAnswer 7 (.data [0x99, 0, 0, 0, 0, 0, 0, 0]))) = true ∧
    ok (.windowAccess (access 7 65529 (.read 8 []))) windowed (fun t => lastOut t == some (.winAnswer 7 .refused)) = true := by decide +kernel
theorem test_window_write : quiet windowed = true ∧ (pagesOf 0x10010 2).any (fun v => windowed.blk.migrating 1 { va := v, write := true }) = false ∧
    (match winPages windowed.store 2 1 true (pagesOf 0x10010 2) windowed.start with | (_, .ok [p]) => p.target == 0 | _ => false) = true ∧
    ok (.windowAccess (access 7 16 (.write [1, 2]))) windowed (fun t => lastOut t == some (.winAnswer 7 .accepted) && readBytes t.store.mem 0x10010 2 == [1, 2]) = true := by
  decide +kernel

/-- Slot 2 of ring 0, its work ended, waits for one read of window 7. -/
def waiting (read : Bool) : State := onEng (fun e => { e with winOut := [{ ring := 0, p := 2, win := 7, read := read }] }) <| onBlk (fun b => { b with works := [(workKey 0 2, { ring := 0, p := 2, job := 1, phase := .visible, outstanding := 1, reads := [(7, 16, 2)] })] }) upR
theorem test_window_response_data : (waiting true).blk.answered 0 2 (.data [5, 6]) = some { ring := 0, p := 2, win := 7, read := true } ∧
    (waiting true).blk.answerFits 0 2 (.data [5, 6]) = true ∧ ok (.windowResponse 0 2 (.data [5, 6])) (waiting true) (fun t => ((t.blk.work? 0 2).map fun w => (w.outstanding, w.reads.length, w.remote.get? (7 * 2 ^ 44 + 17))) == some (0, 0, some 6)) = true := by
  decide +kernel
theorem test_window_response_accepted : (waiting false).blk.answerFits 0 2 .accepted = true ∧ ok (.windowResponse 0 2 .accepted) (waiting false) (fun t => t.blk.eng.winOut == [] && ((t.blk.work? 0 2).map (·.outstanding)) == some 0) = true := by decide +kernel
theorem test_window_response_refused : ok (.windowResponse 0 2 .refused) (waiting true) (fun t => t.blk.eng.winOut == [] && ((t.blk.work? 0 2).map (·.status)) == some WINDOW_REFUSED) = true := by decide +kernel
def slotAsked : State := onEng (fun e => { e with winOut := [{ ring := 0, p := 0, win := 7, read := true }] }) <| onBlk (fun b => b.onRing 0 fun r => { r with slotAsked := true }) upR
theorem test_window_response_slot : slotAsked.blk.work? 0 0 = none ∧ slotAsked.blk.answered 0 0 (.data (List.replicate 256 5)) = some { ring := 0, p := 0, win := 7, read := true } ∧
    ok (.windowResponse 0 0 (.data (List.replicate 256 5))) slotAsked (fun t => (t.blk.rings.getD 0 {}).slotBytes == some (List.replicate 256 5)) = true := by decide +kernel
/-- An inbound access through window 7 that went on, and a read of hub 2's message. -/
def passedOn : State := onEng (fun e => { e with winOut := [{ ring := onward 7, win := 9, read := true }, { ring := 1026, p := 3, win := 9, read := true }]
                                                 msgReads := [{ hub := 2, key := 3, win := 9, off := 0, len := 2 }] }) upR
theorem test_window_response_passed_on : ok (.windowResponse (onward 7) 0 (.data [5])) passedOn (fun t => lastOut t == some (.winAnswer 7 (.data [5])) && t.blk.eng.winOut.length == 1)
    = true := by decide +kernel
theorem test_window_response_message : 1024 ≤ 1026 ∧ 1026 < onward 0 ∧
    ok (.windowResponse 1026 3 (.data [5, 6])) passedOn (fun t => t.blk.eng.msgReads.map (·.got) == [some [5, 6]] && t.blk.eng.winOut.length == 1) = true := by decide +kernel

def retraining : State := onBlk (fun b => { b with heldHost := [(0, 64, [1]), (1, 64, [2])] }) (onEng (fun e => { e with host := .retraining 0 1999000000 }) up)
theorem test_link_retrain : up.blk.eng.host = .up ∧ up.blk.upHubs ≠ [] ∧ ok .hostLinkRetrain up (fun t => match t.blk.eng.host with | .retraining _ _ => true | _ => false) = true := by
  decide +kernel
theorem test_link_loss : up.blk.eng.host ≠ .lost ∧ quiet up = true ∧ up.blk.works = [] ∧ (up.blk.dies.vals.all fun d => d.journals == []) = true ∧ ok (.hostLinkLoss .linkDown) up (fun t => t.blk.eng.host == .lost) = true := by decide +kernel
theorem test_retrain_timeout_at_its_bound : ok .hostRetrainTimeout retraining (fun t => t.blk.eng.host == .lost && t.blk.heldHost == []) = true := by decide +kernel
theorem test_retrain_timeout_before_its_bound : ok .hostRetrainTimeout (onEng (fun e => { e with host := .retraining 0 1999000001 }) up)
    (fun t => t.blk.eng.host == .retraining 0 1999000001) = true := by decide +kernel
theorem test_reconnect_writes_in_order : ok .hostLinkReconnect retraining (fun t => t.blk.eng.host == .up && readByte t.store.host 64 == 2) = true := by decide +kernel
theorem test_reconnect_after_loss : ok .hostLinkReconnect (onEng (fun e => { e with host := .lost }) up) (fun t => t.blk.eng.host == .up) = true := by decide +kernel

/-! ## Slots picked up -/

/-- The first GiB of job 1 as one cached leaf. -/
def leaf0 : XEntry := { job := 1, lg := 30, va := 0, run := 0, addr := 0, target := 0, rights := 7 }
/-- A slot's 2,048 bits: OPCODE, SSEQ and fields by bit. -/
def sl (op sseq : Nat) (fs : List (Nat × Nat × Nat)) : Nat := pack ([(0, 8, 0x20), (8, 8, op), (16, 2, 1), (32, 32, sseq)] ++ fs)
/-- Ring 0 with slot 0 ready in memory, its hub holding the translation. -/
def picked (x : Nat) (s : State) : State :=
  put 0x400000 (toBytes 256 x) (onBlk (fun b => b.onRing 0 fun r => { r with tail := 2 }) (onHub 0 (fun h => { h with xlat := { h.xlat with sets := [(0, { ways := [(0, leaf0)] })] } }) s))
/-- The ring picks up slot 0, and the command takes it: its work is active when its checks pass. -/
def takes (i : Instr) (x : Nat) (s : State) (active : Bool) : Bool :=
  (tryPick (picked x s).store (picked x s).start 0).2 == some (0, x) &&
    ok i (picked x s) (fun t => match t.blk.work? 0 0 with | some w => (w.phase == .active) == active && (t.blk.rings.getD 0 {}).head == 1 | none => false)

def lookupX : Nat := sl 0x01 0 [(225, 24, 64), (128, 1, 1), (129, 1, 1), (140, 20, 5), (192, 33, 2), (312, 8, 1), (448, 56, 0x900000), (512, 32, 3), (544, 32, 63)]
def gatherX : Nat := setBits lookupX 8 8 0x02
theorem test_lookup_pool_pick : upR.blk.lookupStatus { desc := rdesc [] } lookupX = OK ∧ takes (.lookupPool 0) lookupX upR true = true := by decide +kernel
theorem test_lookup_pool_undefined_opcode : takes (.lookupPool 0) (sl 0x7F 0 []) upR false = true := by decide +kernel
theorem test_lookup_gather_pick : takes (.lookupGather 0) gatherX upR true = true := by decide +kernel
theorem test_lookup_of_no_table : takes (.lookupPool 0) (setBits lookupX 140 20 6) upR false = true := by decide +kernel
def rowsX (op n : Nat) : Nat := sl op 0 [(236, 20, 5), (128, 64, 0), (256, 64, n)]
theorem test_requant_pick : upR.blk.resharding (rowsX 0x12 64) = false ∧ takes (.requant 0) (rowsX 0x12 64) upR true = true := by decide +kernel
theorem test_zero_rows_past_the_end : upR.blk.resharding (rowsX 0x13 65) = false ∧ takes (.zeroRows 0) (rowsX 0x13 65) upR false = true := by decide +kernel
theorem test_zero_rows_pick : takes (.zeroRows 0) (rowsX 0x13 64) upR true = true := by decide +kernel
def prefetchX : Nat := sl 0x03 0 [(236, 20, 5), (233, 1, 1), (192, 33, 1)]
theorem test_prefetch_pick : takes (.prefetchRows 0) prefetchX upR true = true := by decide +kernel
/-- The engine is PAIRED and table 5 mirrored. -/
def upRM : State := onBlk (fun b => { b with tables := [(5, { desc := tdesc 1 5 [(22, 1, 1)] })] }) (onEng (fun e => { e with twin := { e.twin with state := .paired, role := 1, pairId := 9, lastPairId := 9 } }) upR)
theorem test_digest_exchange_pick : takes (.digestExchange 0) (rowsX 0x21 64) upRM true = true := by decide +kernel
def updX (op apply prog hdr : Nat) : Nat := sl op 0 [(211, 1, apply), (220, 16, prog), (236, 20, 5), (128, 64, 1), (320, 56, hdr)]
def isUpdate (t : State) : Bool := match t.blk.work? 0 0 with | some w => (match w.data with | .update _ => true | _ => false) | none => false
theorem test_scatter_accum_pick : upR.blk.updateHead 1 1 (updX 0x10 0 0 0x700000) = OK ∧ upR.blk.updateCheck 1 (updX 0x10 0 0 0x700000) = OK ∧
    ok (.scatterAccum 0) (picked (updX 0x10 0 0 0x700000) upR) isUpdate = true := by decide +kernel
/-- Program 7 of job 1 is loaded. -/
def upProg : State := onBlk (fun b => { b with progs := [({ job := 1, handle := 7, kind := 0, base := 256, code := [0xD8000000], boundS := 1 } : Prog)] }) upR
theorem test_apply_update_pick : upProg.blk.updateCheck 1 (updX 0x11 1 7 0) = OK ∧ ok (.applyUpdate 0) (picked (updX 0x11 1 7 0) upProg) isUpdate = true := by
  decide +kernel
def permX (phase : Nat) : Nat := sl 0x20 0 [(234, 2, phase), (236, 20, 5)]
theorem test_copy_permute_send_undefined_phase : takes (.copyPermuteSend 0) (permX 3) upR false = true := by decide +kernel
theorem test_copy_permute_send_pick : ok (.copyPermuteSend 0) (picked (permX 0) upR) (fun t => (t.blk.work? 0 0).isSome) = true := by decide +kernel
theorem test_copy_permute_commit_pick : ok (.copyPermuteCommit 0) (picked (permX 1) upR) (fun t => (t.blk.work? 0 0).isSome) = true := by decide +kernel
theorem test_copy_permute_abandon_pick : ok (.copyPermuteAbandon 0) (picked (permX 2) upR) (fun t => (t.blk.work? 0 0).isSome) = true := by decide +kernel
def solX (rings : Nat) : Nat := sl 0x30 0 [(248, 8, 7), (224, 10, rings - 1), (128, 64, 1)]
theorem test_solstice_pick : takes (.solstice 0) (solX 1) upR true = true := by decide +kernel
def sigX : Nat := sl 0x31 0 [(240, 16, 9), (224, 16, 4)]
theorem test_signal_pick : takes (.signal 0) sigX upR true = true := by decide +kernel
theorem test_signal_pick_of_another_semaphore : takes (.signal 0) (setBits sigX 240 16 64) upR false = true := by decide +kernel
theorem test_pickup_frame : pickCommand sigX 0 = some (.signal 0) ∧ (picked sigX upR).store.wf = true ∧ quiet (picked sigX upR) = true := by decide +kernel

def stale : State := onBlk (fun b => b.onRing 0 fun r => { r with staleSince := some 1999999800 }) (picked (sl 0x31 4 []) upR)
theorem test_slot_stale_at_its_bound : (stale.blk.mayPick 0 (stale.blk.rings.getD 0 {})) = true ∧
    (slotFetch stale.store stale.start 0 (stale.blk.rings.getD 0 {}) 0).2.isSome = true ∧
    ok (.slotStale 0) stale (fun t => ((t.blk.work? 0 0).map (·.status)) == some SLOT_STALE) = true := by decide +kernel
def ahead : State := onBlk (fun b => b.onRing 0 fun r => { r with tail := 2, desc := rdesc [(56, 8, 1)] }) upR
theorem test_lookahead_walks : 1 ≤ (ahead.blk.rings.getD 0 {}).lookahead ∧ (ahead.blk.hub 0).xlat.walks = [] ∧ (ahead.blk.hub 0).xlat.find 1 0x400000 = none ∧ (ahead.blk.hub 0).xlat.walking .ahead (0x400000 / 65536) = false ∧
    ok (.slotLookahead 0 1) ahead (fun t => ((t.blk.hub 0).xlat.walks.vals.map fun w => (w.need.va, w.level)) == [(0x400000, 0)]) = true := by decide +kernel

/-! ## Slots at work -/

/-- The state after a command. -/
def after (i : Instr) (s : State) : State := match exec i s with | .next t => t | _ => s
def td5 : TD := tdOf (tdesc 1 5 [])
/-- A sound row of sixteen ones, sealed. -/
def onesPay : List Byte := bytes32 (List.replicate 16 0x3F800000)
def onesRow : List Byte := (RowHdr.sealed { fmt := 1 } onesPay).bytes ++ onesPay
/-- Rows 3 and 63 of table 5 hold ones. -/
def rowed (s : State) : State := put (td5.slotVa 3) onesRow (put (td5.slotVa 63) onesRow s)
def lookup1 : State := after (.lookupPool 0) (rowed (picked lookupX upR))
def lookup2 : State := after (.tileStart 0 ⟨0, []⟩) lookup1
def lookupOf (s : State) (p : Nat) : Lookup := match s.blk.work? 0 p with | some w => (match w.data with | .lookup l => l | _ => {}) | none => {}
theorem test_tile_start : (match lookup1.blk.work? 0 0 with | some w => w.phase == .active && w.group.isNone && !lookup1.blk.commitAhead w | none => false) = true ∧
    (match planTile lookup1.store lookup1.start 0 0 with | (b, some _) => [3, 63].all fun k => (b.rowVia 0 0 td5 k).2 == OK | _ => false) = true ∧ (planTile lookup1.store lookup1.start 0 0).2.isSome = true ∧ lookup1.blk.members 0 0 = [0] ∧
    (lookupOf lookup2 0).running = true ∧ (lookupOf lookup2 0).fetches.map (·.lrow) = [3, 63] := by decide +kernel
/-- The same slot over a layout of four stacks, its rows served by their channels. -/
def four (s : State) : State := onEng (fun e => { e with layout := { ord := [0, 64, 128, 192] } }) s
def lookup3 : State := after (.tileStart 0 ⟨0, []⟩) (after (.lookupPool 0) (rowed (picked lookupX (four upR))))
def serve (ch : Nat) (s : State) : State := after (.burstGroup ch) (after (.snowplowFrame ch) s)
def noTasks (s : State) : State := { s with blk := { s.blk with hubs := s.blk.hubs.mapVal fun _ h => { h with sched := { h.sched with ready := [], running := [] } } } }
def served : State := serve 128 (serve 192 lookup3)
def row63 : RowRef := { td := td5, lrow := 63, parts := ((lookupOf served 0).fetches.getD 1 {}).pieces, ch := 128 }
theorem test_row_fetch : served.blk.rowQueued 128 0 0 63 = false ∧
    (match served.start.wideFetch row63 [] with
     | (b1, some (st, e)) => (match readRowHealed served.store b1 (served.blk.homeHub 2) row63 st e with | (_, .row _ _) => true | _ => false)
     | _ => false) = true ∧
    (lookupOf (after (.rowFetch 0 0 63 []) served) 0).fetches.map (fun f => (f.got, f.elems.headD 0)) = [(false, 0), (true, 0x3F800000)] := by decide +kernel
def fetched : State := noTasks (after (.rowFetch 0 0 3 []) (after (.rowFetch 0 0 63 []) served))
theorem test_partial_combine : (lookupOf fetched 0).bags.map (·.left) = [[2, 3]] ∧ fetched.blk.taskStands 0 0 (some 2) = false ∧ fetched.blk.taskStands 0 0 none = false ∧
    (lookupOf (after (.partialCombine 0 0 0 2) fetched) 0).bags.map (fun g => (g.left, g.acc)) = [([3], some (List.replicate 16 0x3F800000))] := by decide +kernel
theorem test_partial_combine_last : (lookupOf (after (.partialCombine 0 0 0 3) (after (.partialCombine 0 0 0 2) fetched)) 0).bags.map (fun g => (g.left, g.acc)) =
    [([], some (List.replicate 16 0x40000000))] := by decide +kernel

/-- A prefetch walk of hub 0 for the page at `va`, at a level whose table stands at `table`. -/
def walking (va level table : Nat) : State := onHub 0 (fun h => { h with xlat := { h.xlat with walks := [(1, { who := .ahead, job := 1, need := { va := va, read := true }, level := level, table := table, asked := true })] } }) upJ
def walkOf (s : State) : Option (Nat × Nat) := ((s.blk.hub 0).xlat.walks.get? 1).map fun w => (w.level, w.table)
theorem test_walk_advances : (((walking 0x10000 0 0).blk.hub 0).xlat.walks.get? 1).isSome = true ∧ entryStatus (walking 0x10000 0 0).store (walking 0x10000 0 0).start 0 = OK ∧
    walkOf (after (.translationWalk 0 1 []) (walking 0x10000 0 0)) = some (1, 0x100000) := by decide +kernel
theorem test_walk_leaf_is_cached : walkOf (after (.translationWalk 0 1 []) (walking 0x10000 1 0x100000)) = none ∧
    (((after (.translationWalk 0 1 []) (walking 0x10000 1 0x100000)).blk.hub 0).xlat.find 1 0x10000).isSome = true := by decide +kernel
theorem test_walk_absent_ends_a_prefetch : walkOf (after (.translationWalk 0 1 []) (walking 0x80000000 1 0x100000)) = none ∧
    (after (.translationWalk 0 1 []) (walking 0x80000000 1 0x100000)).blk.eng = (walking 0x80000000 1 0x100000).blk.eng := by decide +kernel
def dueRecord : Harvest := { hseq := 1, job := 1, vpn := 3, age := 5 }
def delivering : State := onEng (fun e => { e with harvest := { e.harvest with armed := true, base := 0x800000, sem := 9, records := [dueRecord] } }) upJ
theorem test_harvest_deliver : delivering.blk.eng.harvest.due = [dueRecord] ∧ dueRecord.age + delivering.blk.eng.harvest.gdelay ≤ delivering.blk.age 0 ∧
    delivering.blk.fillRing 0 9 = none ∧ 1 ≤ 2 ^ 6 - (0 - rdNat delivering.store delivering.start 0x800010 8) ∧ quiet delivering = true ∧
    ok .harvestDeliver delivering (fun t => t.blk.eng.harvest.hprod == 1 && t.blk.sem 0 9 == 1 && (t.blk.hub 0).regs.intStatus.getLsbD intHARVEST) = true := by decide +kernel

/-- The slot of a SOLSTICE with n rings has been picked up by ring 0. -/
def soled (n : Nat) : State := after (.solstice 0) (picked (solX n) upR)
theorem test_solstice_arrival_waits : ((soled 2).start.recsHeld 0 0).2 = true ∧ ((soled 2).blk.work? 0 0).map (fun w => (w.phase, w.winStatus, w.late)) = some (.active, 0, false) ∧
    (soled 2).blk.eng.barriers = [] ∧ ((soled 2).blk.ringWorks 0).length = 1 ∧
    (after (.solsticeArrival 0) (soled 2)).blk.eng.barriers.map (fun x => (x.solid, x.nrings, x.rings)) = [(7, 2, [(0, 0)])] := by decide +kernel
theorem test_solstice_arrival_releases : (after (.solsticeArrival 0) (soled 1)).blk.eng.barriers = [] ∧
    ((after (.solsticeArrival 0) (soled 1)).blk.work? 0 0).map (fun w => (w.phase, w.status)) = some (.visible, OK) ∧
    ((after (.solsticeArrival 0) (soled 1)).blk.jobs.getD 1 {}).epochOf 7 = 2 := by decide +kernel
theorem test_remote_arrival : windowed.blk.windowOf 1 7 = true ∧ (after (.remoteArrival 7 1 3 1) windowed).blk.eng.barriers.map (fun x => (x.solid, x.epoch, x.remote)) = [(3, 1, [7])] ∧
    lastOut (after (.remoteArrival 7 1 3 1) windowed) = some (.arrivalAck 7 3 1) := by decide +kernel
theorem test_remote_arrival_stale : quiet windowed = true ∧ (after (.remoteArrival 7 1 3 3) windowed).blk.eng.barriers = [] ∧
    lastOut (after (.remoteArrival 7 1 3 3) windowed) = some (.arrivalAck 7 3 3) := by decide +kernel
def unacked : State := onEng (fun e => { e with unacked := [{ win := some 7, job := 1, solid := 3, epoch := 0 }] }) windowed
theorem test_arrival_resend : unacked.blk.eng.unacked[0]?.isSome = true ∧ lastOut (after (.arrivalResend 0) unacked) = some (.winArrival 7 (unacked.blk.winHead unacked.blk.eng.leader 7 0) 1 3 0) ∧
    (after (.arrivalAck 0) unacked).blk.eng.unacked = [] := ⟨by decide +kernel, by rfl, by decide +kernel⟩

def recPage : Page := { vpn := 0x50, target := 0, addr := 0x500000, rights := 7 }
/-- Slot 0's work has ended and its record's page is at hand. -/
def ended : State := onBlk (fun b => { b with works := [(workKey 0 0, { ring := 0, p := 0, job := 1, slot := BitVec.ofNat 2048 (sl 0x31 0 []), phase := .visible, recPages := [recPage], data := .none })] })
  (onBlk (fun b => b.onRing 0 fun r => { r with head := 1, tail := 2 }) (picked 0 upR))
theorem test_slot_complete : (ended.blk.work? 0 0).isSome = true ∧ ((ended.blk.works.vals.headD {}).recNeeds (ended.blk.rings.getD 0 {})) = [] ∧
    ok (.slotComplete 0 0) ended (fun t => (t.blk.work? 0 0).isNone && (t.blk.rings.getD 0 {}).done == 1) = true := by decide +kernel
def timed : State := onBlk (fun b => { b with works := [(workKey 0 0, { ring := 0, p := 0, job := 1, slot := BitVec.ofNat 2048 lookupX, startAge := 1999998800, deadlineAge := 1999998800, data := .lookup {} })] })
  (onBlk (fun b => b.onRing 0 fun r => { r with head := 1, tail := 2, desc := rdesc [(64, 32, 1200)] }) upR)
theorem test_slot_timeout_at_its_bound : ((timed.blk.rings.getD 0 {}).timeout = 1200) ∧
    ok (.slotTimeout 0 0) timed (fun t => ((t.blk.work? 0 0).map fun w => (w.status, w.late, w.deadline)) == some (LATE, true, false)) = true := by decide +kernel
def deadlined : State := onBlk (fun b => b.onRing 0 fun r => { r with desc := rdesc [(22, 2, 0), (96, 32, 1200)] }) timed
theorem test_slot_deadline : (deadlined.blk.rings.getD 0 {}).rt = true ∧
    ok (.slotDeadline 0 0) deadlined (fun t => ((t.blk.work? 0 0).map fun w => (w.status, w.late, w.deadline)) == some (LATE, true, true)) = true := by decide +kernel
def signalled (x : Nat) : State := onBlk (fun b => { b with works := [(workKey 0 0, { ring := 0, p := 0, job := 1, slot := BitVec.ofNat 2048 x, recPages := [recPage] })] }) (onBlk (fun b => { b with rings := upR.blk.rings }) windowed)
theorem test_signal_fire : ((signalled sigX).start.recsHeld 0 0).2 = true ∧ (signalled sigX).blk.arrivalSem 0 9 = false ∧ (signalled sigX).blk.freeOrDone 0 9 = false ∧ (signalled sigX).blk.fillRing 0 9 = none ∧
    ok (.signalFire 0 0) (signalled sigX) (fun t => t.blk.sem 0 9 == 5 && ((t.blk.work? 0 0).map (·.status)) == some OK) = true := by decide +kernel
def remoteX : Nat := sl 0x31 0 [(240, 16, 9), (224, 16, 4), (212, 12, 7), (211, 1, 1), (208, 2, 2)]
theorem test_signal_fire_remote : ((signalled remoteX).start.recsHeld 0 0).2 = true ∧ sigRemote remoteX = true ∧ (signalled remoteX).blk.eng.windows.has 7 = true ∧
    (match lastOut (after (.signalFire 0 0) (signalled remoteX)) with | some (.winSignal 0 0 7 _ 2 9 5) => true | _ => false) = true := by decide +kernel

/-! ## Updates at work -/

/-- A stream of form 0: a contribution of sixteen ones (BF16) to row 3 and one to row 63. -/
def streamed (s : State) : State :=
  put 0x700000 (toBytes 64 (pack [(0, 8, 0x20), (8, 2, 0), (32, 33, 2), (65, 24, 64), (128, 64, 1), (256, 56, 0x720000), (320, 56, 0x710000)]))
    (put 0x710000 (toBytes 16 (pack [(0, 48, 3), (48, 32, 0), (80, 24, 0)]) ++ toBytes 16 (pack [(0, 48, 63), (48, 32, 1), (80, 24, 0)]))
      (put 0x720000 (bytes32 (List.replicate 32 0x3F803F80)) s))
/-- A sound slot with its master record. -/
def onesSlot : List Byte := padTo 80 onesRow ++ masterBytes td5 { vals := List.replicate 16 0x3F800000 }
def mastered (s : State) : State := put (td5.slotVa 3) onesSlot (put (td5.slotVa 63) onesSlot s)
def upd0 : State := after (.scatterAccum 0) (mastered (streamed (picked (updX 0x10 1 7 0x700000) upProg)))
def updOf (s : State) : Update := match s.blk.work? 0 0 with | some w => (match w.data with | .update u => u | _ => {}) | none => {}
/-- The batch with the row dies' answers. -/
def gated (f : Nat → Gate) : State :=
  onBlk (fun b => b.onWork 0 0 fun w => { w with data := .update { updOf upd0 with gates := (List.range 12).map fun q => (q, f q) } }) upd0
def upd1 : State := gated fun _ => .start
def upd2 : State := after (.gateDecision 0 0) upd1
/-- A share of rows 3 and 63 with runs of one contribution of ones left, and sums of other rows. -/
def sharing (left : List Nat) (summed : List Nat) : State :=
  onDie 0 (fun d => { d with
    shares := [(5, { job := 1, bseq := 1, ring := 0, p := 0, apply := true, prog := 7, counters := [2, 2, 0, 0, 0, 0, 0, 0, 0, 0, 0, 0, 0],
                     runs := left.map fun k => { lrow := k, contribs := [List.replicate 16 0x3F800000] },
                     slots := [(3, [(0, 0x10000300, 256)]), (63, [(0, 0x10003F00, 256)])] })],
    replay := [(5, { inprog := some { bseq := 1, digest := 99, added := summed } })],
    accs := summed.map fun k => (accKey 5 k, { job := 1, sbseq := 1, tidx := 1, vec := List.replicate 16 0x3F800000 }) }) (mastered upProg)
def shareOf (s : State) : Share := (s.blk.die 0).shares.getD 5 {}
def upd2n : State := sharing [3, 63] []
def upd4 : State := sharing [] [3, 63]
def upd5 : State := after (.rowApply 0 5 []) upd4
def upd6 : State := sharing [] []

theorem test_gate_request : upd0.blk.dieUp 0 = true ∧ upd0.blk.tableHeld 5 = false ∧ upd0.blk.startHeld 5 1 = false ∧ (updOf upd0).distributed = true ∧
    (updOf upd0).started = false ∧ (updOf (after (.gateRequest 0 0 0) upd0)).gates = [(0, .start)] := by decide +kernel
def endOf (s : State) : Option (Phase × Nat) := (s.blk.work? 0 0).map fun w => (w.phase, w.status)
theorem test_gate_decision_mismatch : endOf (after (.gateDecision 0 0) (gated fun q => if q = 4 then .mismatch else .start)) = some (.visible, REPLAY_MISMATCH) := by
  decide +kernel
theorem test_gate_decision_replayed : ((gated fun q => if q = 4 then .stale else .replay).blk.work? 0 0).map (fun w => (w.late, w.winStatus)) = some (false, 0) ∧
    endOf (after (.gateDecision 0 0) (gated fun q => if q = 4 then .stale else .replay)) = some (.visible, REPLAYED) := by decide +kernel
def u1 : UOp := uop (updX 0x10 1 7 0x700000)
def asked : Block := (List.range 12).foldl (fun b q => b.askGate 0 0 q) upd1.start
theorem test_gate_decision_starts : quiet upd1 = true ∧ u1.params = 0 ∧
    ((List.range 12).all fun q => !upd1.blk.tableHeld 5 && upd1.blk.eng.relayout.isNone && !upd1.blk.startHeld 5 1 && !(upd1.blk.hub (q / 3)).admitting &&
      gateOf ((upd1.blk.die q).replay.getD 5 {}) 1 (updOf upd1).digest false == .start) = true ∧
    ((updOf upd1).runs.all fun x => x.2 == [] || upd1.blk.dieUp x.1) = true ∧ upd1.blk.batchRows u1 ((updOf upd1).runs.vals.flatMap fun rs => rs.map (·.lrow)) = [3, 63] ∧
    (match asked.ensure 0 0 (rowsNeeds td5 u1 [3, 63]) with
     | (b, true) => ([3, 63].all fun k => (b.rowVia 0 0 td5 k).2 == OK) && !b.accFull (updOf upd1) u1 16 (List.range 12)
     | _ => false) = true ∧
    (updOf upd2).started = true ∧ (updOf upd2).open_ = List.range 12 ∧ (shareOf upd2).runs.map (·.lrow) = [3, 63] := by decide +kernel
theorem test_run_add : (shareOf upd2n).runs.map (·.lrow) = [3, 63] ∧ upd2n.blk.rowTask 0 0 3 = false ∧ upd2n.blk.stalls 0 5 3 [] = false ∧ quiet upd2n = true ∧ td5.table = 5 ∧
     (upd2n.blk.die 0).wcbUsed + accBytes 16 ≤ Config.wcbBytes ∧
    upd2n.blk.rowBlocked (upd2n.blk.rowRef td5 3 ((shareOf upd2n).slots.getD 3 [])).1 = false ∧
    ((after (.runAdd 0 5 []) upd2n).blk.die 0).accs.map (fun x => (x.1, x.2.vec)) = [(accKey 5 3, List.replicate 16 0x3F800000)] := by decide +kernel
def upd2f : State := onDie 0 (fun d => { d with wcb := [{ addr := 0, len := Config.wcbBytes }] }) upd2n
theorem test_run_add_to_the_log : Config.wcbBytes < (upd2f.blk.die 0).wcbUsed + accBytes 16 ∧
    ((after (.runAdd 0 5 []) upd2f).blk.die 0).log.map (fun e => (e.table, e.lrow, e.remain)) = [(5, 3, [List.replicate 16 0x3F800000])] := by decide +kernel
def logged : State := onDie 0 (fun d => { d with wcb := [] }) (after (.runAdd 0 5 []) upd2f)
theorem test_overflow_replay : ((after (.overflowReplay 0 []) logged).blk.die 0).log = [] ∧
    ((after (.overflowReplay 0 []) logged).blk.die 0).accs.map (fun x => (x.1, x.2.vec)) = [(accKey 5 3, List.replicate 16 0x3F800000)] := by decide +kernel
def applies (s : State) : Bool := (shareOf s).apply && (shareOf s).runs.isEmpty && (s.blk.nextApply 0 5 (shareOf s)).isSome && !s.blk.rowTask 0 0 3 &&
  !s.blk.stalls 0 5 3 (s.blk.rowLocs (s.blk.rowRef td5 3 ((shareOf s).slots.getD 3 [])).1) && (s.blk.die 0).log.isEmpty && (s.blk.die 0).journals.isEmpty && Tbl.wf (s.blk.die 0).accs && quiet s
def row3 (s : State) : RowRef := (s.blk.rowRef td5 3 ((shareOf s).slots.getD 3 [])).1
theorem test_row_apply : applies upd4 = true ∧ Memory.wf upd4.store.mem = true ∧ upd4.blk.rowBlocked (row3 upd4) = false ∧
    upd4.blk.readWaits (row3 upd4) = false ∧
    (match upd4.start.bufferRead (row3 upd4) [] (upd4.blk.shareClass (shareOf upd4)) with
     | (b1, st) => match readRow upd4.store b1 (upd4.blk.homeHub 0) (row3 upd4) st [] with
       | (b2, .row hd pl) => b2.wr.isEmpty && !b2.rowStalls (row3 upd4) && (match rowInputs upd4.store b2 (row3 upd4) [] hd pl with | .ready m _ => m.vals == List.replicate 16 0x3F800000 | _ => false)
       | _ => false) = true ∧
    (shareOf upd5).passed = some 3 ∧ (shareOf upd5).counters.take 3 = [2, 2, 1] ∧ (upd5.blk.die 0).accs.keys = [accKey 5 63] := by decide +kernel
def skipping : State := onDie 0 (fun d => { d with shares := d.shares.mapVal fun _ x => { x with skip := true } }) upd4
theorem test_row_apply_skips : applies skipping = true ∧ (shareOf (after (.rowApply 0 5 []) skipping)).passed = some 3 ∧
    (shareOf (after (.rowApply 0 5 []) skipping)).counters.take 9 = [2, 2, 0, 0, 0, 0, 0, 0, 1] ∧
    (after (.rowApply 0 5 []) skipping).store = skipping.store := by decide +kernel
def nonFinite : State := onDie 0 (fun d => { d with accs := d.accs.mapVal fun _ a => { a with nf := true } }) upd4
theorem test_row_apply_not_finite : applies nonFinite = true ∧ nonFinite.blk.lostAt 0x10000300 = false ∧ (row3 nonFinite).headParts = [(0, 0x10000300, 16)] ∧
    (fun t : State => ((shareOf t).counters.take 8, (t.blk.die 0).accs.keys)) (after (.rowApply 0 5 []) nonFinite) = ([2, 2, 0, 0, 0, 0, 0, 1], [accKey 5 63]) ∧
    (hdrOf (readBytes (after (.rowApply 0 5 []) nonFinite).store.mem 0x10000300 16)).nonfinite = true ∧
    readBytes (after (.rowApply 0 5 []) nonFinite).store.mem 0x10000310 144 = onesSlot.drop 16 := by decide +kernel
/-- A class 1 row whose record is on its way to host memory. -/
def journalled : State := onDie 0 (fun d => { d with journals := [{ table := 5, lrow := 3, bseq := 1, record := masterBytes td5 { vals := List.replicate 16 0x3F800000 } }] })
  (onEng (fun e => { e with host := .up }) (onBlk (fun b => { b with tables := [(5, { desc := tdesc 1 5 [(16, 4, 1)] })] }) upd4))
theorem test_master_write_ack : journalled.blk.hostUp = true ∧ (tdOf (journalled.blk.tables.getD 5 {}).desc).table = 5 ∧
    journalled.blk.rowBlocked (journalled.blk.rowRef (tdOf (journalled.blk.tables.getD 5 {}).desc) 3 ((shareOf journalled).slots.getD 3 [])).1 = false ∧
    (shareOf (after (.masterWriteAck 0 5) journalled)).passed = some 3 ∧ (shareOf (after (.masterWriteAck 0 5) journalled)).counters.take 3 = [2, 2, 1] ∧
    ((after (.masterWriteAck 0 5) journalled).blk.die 0).journals = [] := by decide +kernel
/-- Row 3's program runs as task 4 of hub 0. -/
def running4 : State := onHub 0 (fun h => { h with sched := { h.sched with running := [{ id := 4, kind := .program, cls := 1, job := 1, stack := some 0, row := some 3, cluster := 5, chain := 2, charged := 90, estimate := 90 }] } }) upd4
theorem test_row_program_restart : running4.blk.eng.passing = false ∧ quiet running4 = true ∧
    ok (.rowProgramRestart 0 4) running4 (fun t => t.blk.eng.eseq == running4.blk.eng.eseq + 1 && (t.blk.hub 0).sched.running.isEmpty &&
      (t.blk.hub 0).sched.ready.map (fun k => (k.id, k.avoid, k.charged)) == [(4, some (5, 2), 90)]) = true := by decide +kernel
def upd3 : State := onDie 0 (fun d => { d with board := [{ table := 5, lrow := 3 }, { table := 5, lrow := 63 }] }) upJ
theorem test_scoreboard_retire : (upd3.blk.die 0).board.map (fun e => (e.lrow, e.finished)) = [(3, true), (63, true)] ∧
    ((after (.scoreboardRetire 0 0) upd3).blk.die 0).board.map (·.lrow) = [63] ∧
    (after (.scoreboardRetire 0 5) upd3).blk.dies = upd3.blk.dies := by decide +kernel
theorem test_share_retire : ((upd6.blk.die 0).replay.get? 5).isSome = true ∧ (shareOf upd6).runs = [] ∧ upd6.blk.shareTasks 0 (shareOf upd6) = false ∧
    upd6.blk.nextApply 0 5 (shareOf upd6) = none ∧ (upd6.blk.die 0).board = [] ∧ (upd6.blk.die 0).journals = [] ∧ upd6.blk.fence? 5 = none ∧
    ((after (.shareRetire 0 5) upd6).blk.die 0).replay = [(5, { applied := 1, inprog := none, last := [(1, 99)] })] := by decide +kernel
/-- Row 3's slot with its first atom poisoned, its master record sound. -/
def unsound : State := (fun s => { s with store := { s.store with poison := [td5.slotVa 3 / 64] } }) (mastered upT)
def unsoundParts : List (Nat × Nat × Nat) := [(0, 0x10000300, 256)]
def unsoundRow : RowRef := (unsound.blk.rowRef td5 3 unsoundParts).1
theorem test_rederive : partsVia (fun v => match walkAll unsound.store unsound.start 1 { va := v, read := true, place := 1, domain := td5.domain } with
      | (.page pg, _) => some pg.addr
      | _ => none) (td5.slotVa 3) td5.S = some unsoundParts ∧
    (unsound.blk.tableOf 1 5).isSome = true ∧ (unsound.blk.rowRef td5 3 unsoundParts).2 = 0 ∧ ((hdrOf (unsoundRow.read unsound.store unsound.start 0 16)).poison || (unsoundRow.atoms 0 td5.rowBytes).any unsound.store.poison.contains) = true ∧
    td5.hasSource = true ∧ (rederiveRow unsound.store unsound.start 0 unsoundRow).2 = .done ∧ quiet unsound = true ∧ Memory.wf unsound.store.mem = true ∧
    (after (.rederive 1 5 3) unsound).store.poison = [] := by decide +kernel

/-! ## Tasks, energy and heat -/

/-- Two accumulate tasks stand ready on stack 0, with energy for them. -/
def charged0 : State := onHub 0 (fun h => { h with sched := { h.sched with mainBal := 10000000, reserve := 5000, ready := [1, 2].map fun i =>
  { id := i, kind := .accumulate, cls := 1, job := 1, stack := some 0, row := some i, ops := 32, readyAge := 2000000000, pickOrder := i } } }) upJ
def schedOf (s : State) : Sched := (s.blk.hub 0).sched
theorem test_task_dispatch : charged0.blk.clusterHub 0 = 0 ∧ charged0.blk.clusterUp 0 = true ∧ (charged0.blk.die 0).level = 0 ∧ (schedOf charged0).running = [] ∧
    ((sortBy charged0.blk.taskBefore ((schedOf charged0).ready.filter fun y => y.runsOn 0 0 (charged0.blk.keptCtx 0 0 0) (charged0.blk.bare 0) && charged0.blk.isReady y && y.avoid != some (0, 0) && charged0.blk.mayPlace 0 y 0 0)).find?
      fun y => (schedOf charged0).fits y (charged0.blk.rateAt 0)).map (·.id) = some 1 ∧
    (schedOf (after (.taskDispatch 0 0 0 0) charged0)).running.map (fun y => (y.id, y.charged, y.estimate)) = [(1, 32 * 180, 32 * 180)] ∧
    (schedOf (after (.taskDispatch 0 0 0 0) charged0)).mainBal = 10000000 - 32 * 180 ∧
    ((after (.taskDispatch 0 0 0 0) charged0).blk.jobs.getD 1 {}).charged = 32 * 180 := by decide +kernel
def instal : State := onHub 0 (fun h => { h with sched := { h.sched with running := [{ id := 9, cls := 1, job := 1, ops := 100, rate := 180, charged := 1000, estimate := 18000 }] } }) charged0
theorem test_instalment_charge : Nat.min (schedOf instal).instalment (18000 - 1000) = 17000 ∧
    (schedOf (after (.instalmentCharge 0 9) instal)).running.map (·.charged) = [18000] ∧
    (schedOf (after (.instalmentCharge 0 9) instal)).mainBal + 17000 = 10000000 := by decide +kernel
def runsOut : State := after (.instalmentCharge 0 9) instal
theorem test_task_end : (schedOf runsOut).running.map (fun y => (y.estimate, y.charged)) = [(18000, 18000)] ∧
    (schedOf (after (.taskEnd 0 9 1) runsOut)).running = [] ∧ (schedOf (after (.taskEnd 0 9 1) runsOut)).reserve = 5000 + (100 - 32) * 180 := by
  decide +kernel
theorem test_ledger_credit : (upJ.blk.hub 0).regs.fw = .run ∧ (schedOf upJ).newBudget = false ∧ (schedOf upJ).mainBal ≤ (schedOf upJ).capNow ∧
    ((after (.ledgerCredit 0) upJ).blk.age 0, (schedOf (after (.ledgerCredit 0) upJ)).reserve, (schedOf (after (.ledgerCredit 0) upJ)).mainBal) =
      (upJ.blk.age 0 + 1, 1250000000, 0) := by decide +kernel
theorem test_ledger_credit_past_the_reserve :
    (schedOf (after (.ledgerCredit 0) (onHub 0 (fun h => { h with sched := { h.sched with reserve := 15999000000 } }) upJ))).mainBal = 1249000000 := by decide +kernel
def rebudgeted : State := onHub 0 (fun h => { h with sched := { h.sched with newBudget := true, budget := 10, mainBal := 2000000000000 } }) upJ
theorem test_ledger_credit_new_budget : (schedOf (after (.ledgerCredit 0) rebudgeted)).newBudget = false ∧
    (schedOf (after (.ledgerCredit 0) rebudgeted)).capNow = 125000000000 ∧ (schedOf (after (.ledgerCredit 0) rebudgeted)).mainBal ≤ 125000000000 := by decide +kernel
def background : State := onHub 0 (fun h => { h with sched := { h.sched with ready := [{ id := 4, cls := 2, readyAge := 1999899999 }, { id := 5, cls := 2, readyAge := 1999900000 }] } }) upJ
theorem test_background_promotion : (schedOf (after (.backgroundPromotion 0 4) background)).ready.map (·.promoted) = [true, false] ∧
    (schedOf (after (.backgroundPromotion 0 5) background)).ready.map (·.promoted) = [false, false] := by decide +kernel
/-- Cluster 0 of hub 0 stands at a point. -/
def pointed (p t : Nat) : State := onHub 0 (fun h => { h with sched := { h.sched with points := [(0, { point := p, target := t })] } }) upJ
theorem test_operating_point_falls_without_tasks : (pointed 2 2).blk.rtCluster 0 = false ∧ (pointed 2 2).blk.queued 0 = [] ∧
    (schedOf (after (.operatingPointChoice 0 0) (pointed 2 2))).points = [(0, { point := 2, target := 1, chosenAge := 2000000000, changeAge := 2000000000 })] := by decide +kernel
theorem test_operating_point_falls_in_heat : (onDie 0 (fun d => { d with level := 2 }) (pointed 1 1)).blk.thermalCap 0 = 0 ∧
    ((schedOf (after (.operatingPointChoice 0 0) (onDie 0 (fun d => { d with level := 2 }) (pointed 1 1)))).points.getD 0 {}).target = 0 := by decide +kernel
theorem test_operating_point_change_done : ((schedOf (after (.operatingPointChangeDone 0 0) (pointed 2 1))).points.getD 0 {}).point = 1 := by decide +kernel
theorem test_stack_temp_read : quiet upJ = true ∧ (upJ.blk.dies.get? 3).isSome = true ∧ (fun t => ((t.blk.die 3).trep, (t.blk.die 3).reading, (t.blk.die 3).level))
    (after (.stackTempRead 3 90 200) upJ) = (95, 90, nextLevel 95 90 0) := by decide +kernel
def stale3 : State := onDie 3 (fun d => { d with readAge := 1999990000 }) upJ
theorem test_temp_reading_gap : (fun t => ((t.blk.die 3).gap, (t.blk.die 3).reading)) (after (.tempReadingGap 3) stale3) = (true, 95) ∧
    (after (.tempReadingGap 3) (onDie 3 (fun d => { d with readAge := 1999990001 }) upJ)).blk.dies = (onDie 3 (fun d => { d with readAge := 1999990001 }) upJ).blk.dies := by
  decide +kernel
def burning : State := onDie 3 (fun d => { d with level := 4, level4Age := 1990000000, chans := [(192, {}), (193, {})] }) upJ
theorem test_level4_timeout : (fun t => ((t.blk.die 3).failed, (t.blk.die 3).st, (t.blk.chan 192).lost, (t.blk.chan 193).lost)) (after (.level4Timeout 3) burning) =
    (true, 1, true, true) := by decide +kernel
def hot3 : State := onEng (fun e => { e with layout := { e.layout with priv := [192] } }) (onDie 3 (fun d => { d with level := 3, chans := [(192, {})] }) upJ)
theorem test_throttle_idle : ((after (.throttleIdle 192) hot3).blk.chan 192).idle = true ∧
    ((after (.throttleIdleEnd 192) (after (.throttleIdle 192) hot3)).blk.chan 192).idle = false := by decide +kernel

/-! ## Channels, memory and repair -/

def chanOf (s : State) : Chan := s.blk.chan 0
def onChan0 (f : Chan → Chan) (s : State) : State := onBlk (fun b => b.onChan 0 f) (onDie 0 (fun d => { d with chans := [(0, {}), (1, {})] }) s)
def framed : State := onHub 0 (fun h => { h with sched := { h.sched with shareWrite := 16, shareRemote := 12 } }) (onChan0 id upJ)
theorem test_snowplow_frame : framed.blk.frameSlots 0 = 64 ∧
    (fun c : Chan => (c.leftRead, c.leftWrite, c.leftRemote)) (chanOf (after (.snowplowFrame 0) framed)) = (36, 16, 12) := by decide +kernel
def queued0 : State := onChan0 (fun c => { c with leftRead := 8, leftWrite := 4, narrow := [{ traffic := .write }], wide := [{ row := 5 }, { row := 9 }] }) upJ
theorem test_burst_group_narrow : (chanOf queued0).narrow.length = 1 ∧ (chanOf (after (.burstGroup 0) queued0)).narrow = [] ∧
    (chanOf (after (.burstGroup 0) queued0)).leftWrite = 3 := by decide +kernel
def queued1 : State := onChan0 (fun c => { c with leftRead := 8, wide := [{ row := 5 }, { row := 9 }] }) upJ
theorem test_burst_group_wide : queued1.blk.admitsAt 0 = true ∧ (let a := (chanOf queued1).takeIn; a.nextNarrow.isNone && !a.idleDue && a.serve.isSome && a.wide.all fun q => decide (0 < q.atoms)) = true ∧ (chanOf (after (.burstGroup 0) queued1)).wide.length < 2 := by decide +kernel
theorem test_bank_refresh : (chanOf (after (.bankRefresh 0 5) (onChan0 id upJ))).refreshes = [(5, 2000000000)] ∧
    (chanOf (after (.bankRefresh 0 5) (onChan0 (fun c => { c with refreshes := [(5, 1999999610)] }) upJ))).refreshes = [(5, 2000000000)] ∧
    (chanOf (after (.bankRefresh 0 5) (onChan0 (fun c => { c with refreshes := [(5, 1999999611)] }) upJ))).refreshes = [(5, 1999999611)] := by decide +kernel
def writing : State := onDie 0 (fun d => { d with wcb := [{ addr := 0x300, len := 256 }] }) (onChan0 id upJ)
theorem test_wcb_drain : (writing.blk.locate 0x300).isSome = true ∧ (writing.blk.locate 0x300).map (·.1 / 64) = some 0 ∧
    ((after (.wcbDrain 0) writing).blk.die 0).wcb = [] ∧
    (((writing.blk.locate 0x300).map fun x => ((after (.wcbDrain 0) writing).blk.chan x.1).wide.map (fun q => (q.row, q.isWrite)))) =
      (writing.blk.locate 0x300).map fun x => [(x.2, true)] := by decide +kernel
/-- A write of a part of an atom waits in the buffer, with these operations on the scoreboard. -/
def partial0 (ops : List SbEntry) : State := onDie 0 (fun d => { d with wcb := [{ addr := 0x310, len := 8 }], board := ops }) (onChan0 id upJ)
def place0 : Nat × Nat := (upJ.blk.locate 0x310).getD (0, 0)
theorem test_wcb_drain_of_a_part : upJ.blk.locate 0x310 = some place0 ∧ atomsOf 0x310 8 = [12] ∧ upJ.blk.locate (64 * 12) = some place0 ∧
    (partial0 []).blk.granStalls 0 [place0] = false ∧ ((after (.wcbDrain 0) (partial0 [])).blk.die 0).board.map (·.granules) = [[place0]] ∧
    (queued ((after (.wcbDrain 0) (partial0 [])).blk.chan place0.1)).map (·.isWrite) = [false, true] := by decide +kernel
theorem test_wcb_drain_stalls : (partial0 [{ granules := [place0] }]).blk.granStalls 0 [place0] = true ∧
    (after (.wcbDrain 0) (partial0 [{ granules := [place0] }])).blk = (partial0 [{ granules := [place0] }]).start := by decide +kernel
def scanning : State := onChan0 (fun c => { c with test := some { mode := 0, first := 0, last := 4095, next := 128 } }) upJ
theorem test_patrol_scrub : scanning.blk.dieUp 0 = true ∧ quiet scanning = true ∧ scanning.blk.admitsAt 0 = true ∧ (scanning.blk.die 0).active.testBit 0 = true ∧
    Block.slotAt scanning.store scanning.start 128 = none ∧ (chanOf (after (.patrolScrub 0 130 []) scanning)).test.map (·.next) = some 192 ∧
    (chanOf (after (.patrolScrub 0 130 []) scanning)).wide.map (·.what) = [.scrub] := by decide +kernel
theorem test_patrol_scrub_poisons : scanning.blk.eng.layout.unlocate 0 0 = some 0 ∧ poisonedIn scanning.store scanning.start 128 64 = false ∧
    (after (.patrolScrub 0 130 [{ wrong := 2 }]) scanning).store.poison = [2] := by decide +kernel
def marching : State := onChan0 (fun c => { c with test := some { mode := 1, first := 0, last := 4095, next := 1024 } }) upJ
theorem test_march_step : pageBank 4 = (1, 0) ∧ marching.blk.pageFree 0 1 0 = true ∧
    ((after (.marchStep 0 true) marching).blk.die 0).board.map (·.copies) = [pagePlaces 0 1 0] ∧
    (chanOf (after (.marchStep 0 false) marching)).candidates = [2 ^ 24] ∧ (chanOf (after (.marchStep 0 true) marching)).candidates = [] ∧
    (chanOf (after (.marchStep 0 false) marching)).test.map (fun y => (y.next, y.errors)) = some (2048, 1) := by decide +kernel
def failing (n : Nat) : State := onChan0 (fun c => { c with candidates := [2 ^ 24], spareRows := [(1, n)] }) upJ
theorem test_page_repair : (failing 2).blk.pageFree 0 1 0 = true ∧ ((failing 2).blk.die 0).ledger = [] ∧ (chanOf (failing 2)).repaired = [] ∧ (failing 2).blk.eng.dump.armed = false ∧
    (fun t => ((chanOf t).candidates, (chanOf t).repaired, (chanOf t).spareRows, t.blk.eng.boot.repairQueue.length)) (after (.pageRepair 0 1 0 true) (failing 2)) =
      ([], [2 ^ 24], [(1, 1)], 1) := by decide +kernel
theorem test_page_repair_retires : (fun t => ((chanOf t).candidates, (chanOf t).gone, t.blk.eng.boot.repairQueue.length)) (after (.pageRepair 0 1 0 true) (failing 0)) =
    ([], [2 ^ 24], 0) ∧ (chanOf (after (.pageRepair 0 1 0 false) (failing 2))).gone = [2 ^ 24] := by decide +kernel
theorem test_channel_loss : (fun t => ((chanOf t).lost, (t.blk.chan 1).lost, t.blk.eng.plan.map fun p => (p.out.contains 0, p.posted)))
    (after (.channelLoss 0 true) (onChan0 id upJ)) = (true, true, some (true, true)) := by decide +kernel
theorem test_row_die_failure : (fun t => ((t.blk.die 0).st, (t.blk.die 0).failed, (chanOf t).lost)) (after (.rowDieFailure 0) (onChan0 id upJ)) = (0, true, true) := by
  decide +kernel
theorem test_lane_recalibration : ((after (.laneRecalibration 0 [(0, 3)]) (onChan0 id upJ)).blk.die 0).recalAge = 2000000000 ∧
    (chanOf (after (.laneRecalibration 0 [(0, 3)]) (onChan0 id upJ))).spareLanes = 1 ∧
    ((after (.laneRecalibration 0 []) (onChan0 (fun c => { c with recalAge := 7 }) upJ)).blk.die 0).chans.map (·.2.recalAge) = [0, 0] := by decide +kernel
def asking (c : Nat → Nat) : State :=
  onDie 0 (fun d => { d with recalAge := 2000000000, chans := [(0, { recalAge := c 0 }), (1, { recalAge := c 1 })] }) upJ
theorem test_lane_recalibration_of_named_channels :
    (fun t => ((t.blk.chan 0).spareLanes, (t.blk.chan 1).spareLanes, (t.blk.chan 0).recalAge)) (after (.laneRecalibration 0 [(0, 3), (1, 3)]) (asking fun n => 1 - n)) = (1, 2, 0) := by
  decide +kernel
theorem test_lane_recalibration_of_a_command_lane : (chanOf (onChan0 id upJ)).spareCa ≠ 0 ∧ (upJ.blk.die 0).recalAge + 10000000 ≤ upJ.blk.age 0 ∧
    (chanOf (after (.laneRecalibration 0 [(0, 64)]) (onChan0 id upJ))).spareCa + 1 = (chanOf (onChan0 id upJ)).spareCa ∧
    (chanOf (after (.laneRecalibration 0 [(0, 64)]) (onChan0 id upJ))).lost = false := by decide +kernel
def relaying (n : Nat) : State := onEng (fun e => { e with relayout := some { plan := { layout := { ord := [0, 1] } }, old := e.layout, left := n } }) upJ
theorem test_relayout_stripe : quiet (relaying 2) = true ∧ ((relaying 2).blk.dies.vals.all fun d => d.shares.isEmpty && d.board.isEmpty) = true ∧
    (after .relayoutStripe (relaying 2)).blk.eng.relayout.map (·.left) = some 1 ∧ (after .relayoutStripe (relaying 2)).blk.eng.layout.ord = [0, 1, 2, 3] := by decide +kernel
theorem test_relayout_last_stripe : (after .relayoutStripe (relaying 1)).blk.eng.relayout = none ∧ (after .relayoutStripe (relaying 1)).blk.eng.layout.ord = [0, 1] := by
  decide +kernel

/-! ## The row cache -/

def sliceOf (s : State) : Slice := (s.blk.hub 0).slice
def filling (f : Fill) : State := onHub 0 (fun h => { h with slice := { h.slice with fills := [f], offers := [{ ch := 2, row := 8 }] } }) upJ
theorem test_cache_fill : (filling { id := 1, granules := [(0, 5)] }).blk.admitAt 0 0 ≠ 0 ∧
    (sliceOf (filling { id := 1, granules := [(0, 5)] })).fills.length = 1 ∧ (((sliceOf (filling { id := 1, granules := [(0, 5)] })).cache.fillRow cacheSet
      [fun _ => ((filling { id := 1, granules := [(0, 5)] }).blk.part 0).elig false] ((filling { id := 1, granules := [(0, 5)] }).start.lineLocked {}) false
      (rowLines 0 1 (fun _ => false) 0 [(0, 5)])).isSome) = true ∧
    ((sliceOf (after (.cacheFill 0 1) (filling { id := 1, granules := [(0, 5)] }))).cache.line? (cacheSet 0 5) 0 5).isSome = true := by decide +kernel
theorem test_cache_fill_stale : (sliceOf (after (.cacheFill 0 1) (filling { id := 1, granules := [(0, 5)], stale := true }))).fills = [] ∧
    (sliceOf (after (.cacheFill 0 1) (filling { id := 1, granules := [(0, 5)], stale := true }))).cache = {} := by decide +kernel
theorem test_eviction_offer : (fun x : Slice => (x.offers, x.offersAccepted + x.offersDeclined)) (sliceOf (after (.evictionOffer 0 0) (filling {}))) = ([], 1) := by decide +kernel
def counted (n : Nat) : State := onHub 0 (fun h => { h with slice := { h.slice with fetches := n, mogul := [(0, [{ table := 5, lrow := 3, count := 9 }])] } }) upJ
theorem test_mogul_halve : (fun x : Slice => (x.fetches, x.mogul.vals.flatten.map (·.count))) (sliceOf (after (.mogulHalve 0) (counted 4194304))) = (0, [4]) ∧
    (sliceOf (after (.mogulHalve 0) (counted 4194303))) = sliceOf (counted 4194303) := by decide +kernel

/-! ## Losses of hubs and clusters, links -/

def missing (n : Nat) : State := onHub 0 (fun h => { h with missed := n }) upR
theorem test_hub_heartbeat : upR.blk.hubUp 0 = true ∧ quiet upR = true ∧ Tbl.wf upR.blk.rings = true ∧
    ((after (.hubHeartbeat 0 false) (missing 20)).blk.hub 0).missed = 30 ∧ ((after (.hubHeartbeat 0 true) (missing 20)).blk.hub 0).missed = 0 := by decide +kernel
theorem test_hub_loss : (fun t : State => (t.blk.hubUp 0, t.blk.hubUp 1, t.blk.rings.keys, t.blk.eng.leader, t.blk.eng.passing, (t.blk.hub 0).ringStop))
    (after (.hubLoss 0) (missing 100000)) = (false, true, [], 1, true, true) ∧ (after (.hubLoss 0) (missing 99999)).blk = (missing 99999).start := by decide +kernel
theorem test_hub_die_loss : (fun t : State => (t.blk.hubUp 1, t.blk.eng.leader, (t.blk.hub 1).ringStop, (t.blk.die 3).st, (t.blk.die 5).failed, (t.blk.die 2).st))
    (after (.hubDieLoss 1) upR) = (false, 0, false, 0, true, 1) := by decide +kernel
theorem test_steward_core_failure : (fun t : State => (t.blk.hubUp 0, (t.blk.hub 0).stewards, t.blk.eng.almGen)) (after (.stewardCoreFailure 0) upR) =
      (true, 7, upR.blk.eng.almGen + 1) ∧
    (after (.stewardCoreFailure 0) (onHub 0 (fun h => { h with stewards := 1 }) upR)).blk.hubUp 0 = false := by decide +kernel
def taking : State := onEng (fun e => { e with passing := true, heldEvents := [1] }) upJ
theorem test_leader_takeover : taking.blk.fw taking.blk.eng.leader ≠ .handover ∧ (fun t : State => (t.blk.eng.passing, t.blk.eng.heldEvents, t.blk.eng.eseq))
    (after .leaderTakeover taking) = (false, [], taking.blk.eng.eseq + 1) := by decide +kernel
/-- PROGRAM_UNLOAD of hub 0's pair 0 was taken and answered OK before the leader was lost. -/
def recorded : State := onHub 0 (fun x => { x with pairs := [(0, { st := .taken, req := slot 0x31 24 1 [], copy := copyOf (slot 0x31 24 1 []) })] })
  (onEng (fun e => { e with passing := true, leaderRecs := [{ hub := 0, key := 0, tag := 7, code := 0x31, status := 0, len := 16, copies := [0, 3] }] }) upJ)
theorem test_leader_takeover_answers_again : quiet recorded = true ∧ recorded.blk.eng.twin.fences = [] ∧
    (recorded.blk.eng.leaderRecs.all fun r => r.copies.any recorded.blk.dieOn && (recorded.blk.againOf r).isSome) = true ∧
    statusOf (after .leaderTakeover recorded) = OK ∧ rep (after .leaderTakeover recorded) 6 2 = 7 := by decide +kernel
/-- A cluster of stack 0 and one of hub 0 run a task, with n spares left. -/
def failingCluster (n : Nat) : State := onHub 0 (fun h => { h with spares := n, sched := { h.sched with running := [{ id := 1, job := 1, cluster := 3 }, { id := 2, job := 1, cluster := 770 }] } })
  (onDie 0 (fun d => { d with spares := n }) upJ)
theorem test_cluster_failure_spared : (fun t : State => (t.blk.clusterUp 3, (t.blk.die 0).spares, (t.blk.die 0).clusters, (schedOf t).running.map (·.id)))
      (after (.clusterFailure 3) (failingCluster 2)) = (true, 1, 64, [2]) ∧
    (fun t : State => (t.blk.clusterUp 770, (t.blk.hub 0).spares, (t.blk.hub 0).clusters, (schedOf t).running.map (·.id)))
      (after (.clusterFailure 770) (failingCluster 2)) = (true, 1, 64, [1]) := by decide +kernel
theorem test_cluster_failure : (fun t : State => (t.blk.clusterUp 3, (t.blk.die 0).clusters, t.blk.eng.almGen, t.blk.eng.plan.map fun p => (p.out.contains 3, p.posted)))
      (after (.clusterFailure 3) (failingCluster 0)) = (false, 63, upJ.blk.eng.almGen + 1, some (true, true)) ∧
    (fun t : State => (t.blk.clusterUp 770, (t.blk.hub 0).clusters, t.blk.eng.almGen)) (after (.clusterFailure 770) (failingCluster 0)) =
      (false, 63, upJ.blk.eng.almGen + 1) := by decide +kernel
def monOf (s : State) (mon inst : Nat) : Nat × Nat × Nat := let m := s.blk.eng.monitors.getD (monKey mon inst) {}; (m.samples, m.min, m.max)
theorem test_ucie_replay : monOf (after (.ucieReplay 3 2 40 .replayed) upJ) 0x13 3 = (1, 40, 40) ∧
    ((after (.ucieReplay 3 2 40 .lost) upJ).blk.die 3).ucieUp = 63 - 4 ∧
    (fun t : State => ((t.blk.die 3).st, (t.blk.die 3).failed)) (after (.ucieReplay 3 2 40 .lost) (onDie 3 (fun d => { d with ucieUp := 4 }) upJ)) = (0, true) := by decide +kernel
theorem test_fabric_replay : monOf (after (.fabricReplay 1 40 .lost) upJ) 0x14 1 = (1, 40, 40) ∧ ((after (.fabricReplay 1 40 .lost) upJ).blk.hub 1).regs.fabUp = false ∧
    ((after (.fabricReplay 1 40 .replayed) upJ).blk.hub 1).regs.fabUp = true := by decide +kernel
theorem test_telemark_replay : upJ.blk.linkUp 2 = true ∧ monOf (after (.telemarkReplay 2 40 .replayed) upJ) 0x15 2 = (1, 40, 40) := by decide +kernel
theorem test_telemark_link_down : ((after (.telemarkLinkDown 2) upJ).blk.hub 2).regs.tlmUp = false ∧
    (after (.telemarkLinkDown 2) upJ).blk.eng.events.map (fun r => bits r.toNat 8 8) = [0x10] := by decide +kernel
def downed : State := onHub 2 (fun h => { h with regs := { h.regs with tlmUp := false }, fseq := 77 }) upJ
theorem test_telemark_link_up : (fun t : State => ((t.blk.hub 2).regs.tlmUp, (t.blk.hub 2).fseq, (t.blk.hub 2).lastSent)) (after (.telemarkLinkUp 2) downed) =
    (true, 0, 2000000000) := by decide +kernel
theorem test_monitor_sample : monInstances 0x06 = some 12 ∧ upJ.blk.levelValue 0x06 3 0 = some 0 ∧ upJ.blk.levelValue 0x07 3 800 = some 800 ∧
    monOf (after (.monitorSample 0x07 3 800) upJ) 0x07 3 = (1, 800, 800) ∧
    (after (.monitorSample 0x07 3 700) (after (.monitorSample 0x07 3 800) upJ)) = after (.monitorSample 0x07 3 800) upJ := by decide +kernel

/-! ## The twin -/

def pairingS : State := onEng (fun e => { e with twin := { state := .pairing, before := .unpaired, primaryAsked := true, pairId := 9, lastPairId := 8, pairAge := 1000000000 } }) upM
def hdr0 : FrameHdr := { link := 0, pairId := 9, fseq := 1, shub := 0, dhub := 0 }
def entry5 : PairEntry := { table := 5, overflow := false, incomplete := false, descCrc := pairCrc (tdesc 1 5 [(22, 1, 1)]), applied := List.replicate 12 0 }
def pp : PairPayload := { primary := false, resync := false, state := 0, lastPairId := 8, entries := [entry5] }
theorem test_pair_frame_send : quiet pairingS = true ∧ pairingS.blk.eng.passing = false ∧ pairingS.blk.fw pairingS.blk.eng.leader ≠ .handover ∧
    (match (after .pairFrameSend pairingS).blk.outbox with
     | [a, .frame 1 h (.pair p), c, d] => a == .frame 0 { h with link := 0, shub := 0, dhub := 0 } (.pair p) && c == .frame 2 { h with link := 2, shub := 2, dhub := 2 } (.pair p) &&
         d == .frame 3 { h with link := 3, shub := 3, dhub := 3 } (.pair p) && h == { hdr0 with link := 1, shub := 1, dhub := 1 } && p.primary && p.lastPairId == 8
     | _ => false) = true := by decide +kernel
def twinOf (t : State) : TwinState × List Nat := (t.blk.eng.twin.state, t.blk.eng.events.map fun r => bits r.toNat 8 8)
theorem test_pairing_timeout : 1000000000 + 1000000000 ≤ pairingS.blk.age 0 ∧ twinOf (after .pairingTimeout pairingS) = (.unpaired, [0x11]) := by decide +kernel
theorem test_pair_frame_roles : twinOf (after (.pairFrame hdr0 { pp with primary := true }) pairingS) = (.unpaired, [0x11]) := by decide +kernel
theorem test_pair_frame_sources : twinOf (after (.pairFrame hdr0 { pp with resync := true, state := 4 }) pairingS) = (.unpaired, [0x11]) := by decide +kernel
theorem test_pair_frame_tables : pairingS.blk.pairTables { pp with entries := [] } = some 5 ∧
    twinOf (after (.pairFrame hdr0 { pp with entries := [] }) pairingS) = (.unpaired, [0x11]) := by decide +kernel
theorem test_pair_frame_applied : pairingS.blk.pairTables { pp with entries := [{ entry5 with applied := [3] }] } = none ∧
    pairingS.blk.sameApplied { pp with entries := [{ entry5 with applied := [3] }] } = false ∧
    twinOf (after (.pairFrame hdr0 { pp with entries := [{ entry5 with applied := [3] }] }) pairingS) = (.unpaired, [0x11]) := by decide +kernel
theorem test_pair_frame_begins_sweeps : pairingS.blk.pairTables pp = none ∧ pairingS.blk.sameApplied pp = true ∧
    (fun w : Twin => (w.state, w.gotPair, w.role)) (after (.pairFrame hdr0 pp) pairingS).blk.eng.twin = (.pairing, true, 1) ∧
    (after (.pairFrame hdr0 pp) pairingS).blk.eng.twin.sweeps = [(5, 0, 64, true)] := by decide +kernel
theorem test_pair_frame_begins_resync :
    (fun w : Twin => (w.state, w.receiver, w.resyncs.map (·.table))) (after (.pairFrame hdr0 { pp with resync := true, state := 2, entries := [{ entry5 with applied := [3] }] }) pairingS).blk.eng.twin =
      (.resync, false, [5]) := by decide +kernel
theorem test_unpair_frame : twinTied paired.blk.eng.twin = true ∧ twinOf (after (.unpairFrame hdr0 1) paired) = (.solo, [0x11]) := by decide +kernel
theorem test_twin_loss : ((List.range 4).all fun l => decide ((paired.blk.hub l).heard + 100000 ≤ paired.blk.age l)) = true ∧
    twinOf (after .twinLoss paired) = (.solo, [0x11]) := by decide +kernel

theorem test_alive_send : paired.blk.linkUp 1 = true ∧ (paired.blk.hub 1).lastSent + 1000 ≤ paired.blk.age 1 ∧
    lastOut (after (.aliveSend 1) paired) = some (.frame 1 { hdr0 with link := 1, shub := 1, dhub := 1 } .alive) := by decide +kernel
theorem test_alive_frame : ((after (.aliveFrame hdr0) paired).blk.hub 0).heard = 2000000000 := by decide +kernel
theorem test_frame_discard : (after (.frameDiscard { hdr0 with pairId := 8 } 3 false) paired).blk.eng.events.map (fun r => bits r.toNat 8 8) = [0x10] ∧
    ((after (.frameDiscard { hdr0 with pairId := 8 } 3 false) paired).blk.hub 0).heard = 0 ∧
    (after (.frameDiscard hdr0 8 false) paired).blk.eng.eseq = 1 ∧ (after (.frameDiscard hdr0 3 true) paired).blk.eng.eseq = 1 := by decide +kernel
def dig (row d : Nat) : DigestEntry := { table := 5, lrow := row, bseq := 2, digest := d, mdigest := 7 }
def digesting : State := onHub 0 (fun h => { h with digests := { own := [dig 3 50], outgoing := [dig 3 50, dig 4 51] } }) paired
theorem test_digest_send : digesting.blk.linkFor 0 = some 0 ∧ lastOut (after (.digestSend 0) digesting) = some (.frame 0 hdr0 (.digest [dig 3 50, dig 4 51])) ∧
    ((after (.digestSend 0) digesting).blk.hub 0).digests.outgoing = [] := by decide +kernel
theorem test_digest_frame_pairs : ownerOf digesting.store (heardOn digesting 0) (tdOf (tdesc 1 5 [(22, 1, 1)])) 3 = some 0 ∧
    ((after (.digestFrame hdr0 [dig 3 50]) digesting).blk.hub 0).digests.own = [] ∧ (after (.digestFrame hdr0 [dig 3 50]) digesting).blk.eng = digesting.blk.eng ∧
    (after (.digestFrame hdr0 [dig 3 60]) digesting).blk.eng.twin.mismatched = [(5, 3, 2)] := by decide +kernel
theorem test_digest_frame_waits : ownerOf digesting.store (heardOn digesting 0) (tdOf (tdesc 1 5 [(22, 1, 1)])) 6 = some 0 ∧
    ((after (.digestFrame hdr0 [dig 6 50]) digesting).blk.hub 0).digests.theirs = [dig 6 50] := by decide +kernel
theorem test_digest_frame_of_a_batch_applied :
    (after (.digestFrame hdr0 [dig 6 50]) (onDie 0 (fun d => { d with replay := [(5, { applied := 2 })] }) digesting)).blk.eng.twin.mismatched = [(5, 6, 2)] := by decide +kernel

def differing : State := onEng (fun e => { e with twin := { e.twin with mismatched := [(5, 3, 0)] } }) paired
theorem test_repair_fence_start : differing.blk.fence? 5 = none ∧ differing.blk.eng.twin.abandoned = [] ∧
    (after (.repairFenceStart 5) differing).blk.outbox = [frameOn differing 0 1 0 0 (.fence 5 .request 0), frameOn differing 0 2 0 0 (.fence 5 .started 0)] ∧
    ((after (.repairFenceStart 5) differing).blk.fence? 5).map (fun f => (f.step, f.own)) = some (2, some 0) := by decide +kernel
theorem test_fence_frame_request : ((after (.fenceFrame hdr0 5 .request 0) paired).blk.fence? 5).map (fun f => (f.lead, f.own, f.theirs)) = some (false, some 0, none) ∧
    lastOut (after (.fenceFrame hdr0 5 .request 0) paired) = some (frameOn paired 0 1 0 0 (.fence 5 .started 0)) := by decide +kernel
def fenced (f : Fence) : State := onEng (fun e => { e with twin := { e.twin with fences := [f] } }) paired
theorem test_fence_frame_goes_on :
    ((after (.fenceFrame hdr0 5 .started 4) (fenced { table := 5, step := 2, own := some 0 })).blk.fence? 5).map (·.theirs) = some (some 4) ∧
    ((after (.fenceFrame hdr0 5 .reached 4) (fenced { table := 5, step := 2, own := some 0, theirs := some 0 })).blk.fence? 5).map (·.reachedTheirs) = some true ∧
    (fun t : State => (t.blk.fence? 5, t.blk.eng.twin.mismatched)) (after (.fenceFrame hdr0 5 .release 4) (fenced { table := 5, step := 4, rows := [(3, 2, 1), (4, 2, 8)] })) =
      (none, [(5, 3, 2)]) := by decide +kernel
theorem test_fence_timeout : (fun t : State => (t.blk.fence? 5, t.blk.eng.twin.abandoned, t.blk.eng.twin.mismatched))
    (after (.fenceTimeout 5) (fenced { table := 5, step := 2, age := 1999000000, rows := [(3, 2, 1)] })) = (none, [(5, 0)], [(5, 3, 2)]) := by decide +kernel
def sweeping : State := onEng (fun e => { e with twin := { e.twin with sweeps := [(5, 0, 64, true)] } }) paired
theorem test_digest_sweep : ((after (.digestSweep 5) sweeping).blk.fence? 5).map (fun f => (f.lead, f.own, f.repair, f.sweep)) = some (true, some 0, true, some (0, 64)) := by
  decide +kernel
/-- The twin's fence stands, row 3 to compare, listed, or asked about. -/
def compared (rows : List (Nat × Nat × Nat)) : State := mastered (fenced { table := 5, step := 4, lead := false, reachedOwn := true, rows := rows })
def tdM : TD := tdOf (tdesc 1 5 [(22, 1, 1)])
def own3 : Nat × Nat := ((onesSlot.drop 12).take 4 |> fun bs => ofBytes bs, recDigest (onesSlot.drop 80))
theorem test_sweep_frame_equal : twinTied (compared []).blk.eng.twin = true ∧ tdM.table = 5 ∧
    (rowAt (compared []).store (heardOn (compared []) 0) tdM 3).map (fun r => rowDigests (compared []).store (heardOn (compared []) 0) r) = some (some own3) ∧
    ((after (.sweepFrame hdr0 5 3 [own3]) (compared [(3, 2, 9), (4, 2, 9)])).blk.fence? 5).map (·.rows) = some [(4, 2, 9)] := by decide +kernel
theorem test_sweep_frame_lists : ((after (.sweepFrame hdr0 5 3 [(own3.1, own3.2 + 1)]) (compared [])).blk.fence? 5).map (·.rows) = some [(3, 0, 8)] := by decide +kernel
theorem test_sweep_frame_sends_the_row : ((after (.sweepFrame hdr0 5 3 [(own3.1, own3.2 + 1)]) (compared [(3, 0, 8)])).blk.fence? 5).map (·.rows) = some [(3, 0, 2)] ∧
    (match lastOut (after (.sweepFrame hdr0 5 3 [(own3.1, own3.2 + 1)]) (compared [(3, 0, 8)])) with
     | some (.frame 0 _ (.row p)) => p.table == 5 && p.lrow == 3 && p.slot.take 160 == onesSlot | _ => false) = true := by decide +kernel

def resyncing (receiver : Bool) (r : Resync) : State :=
  onEng (fun e => { e with twin := { e.twin with state := .resync, receiver := receiver, resyncs := [r] } }) paired
def passed (r : Resync) : Option (Nat × Nat × Option Nat) := ((after (.resyncPass 5) (resyncing false r)).blk.resync? 5).map fun x => (x.pass, x.next, x.hold)
theorem test_resync_pass_sends_a_tile : rowsFree (resyncing false { table := 5, full := true }).store tdM (resyncing false { table := 5, full := true }).start (List.range 64) = true ∧
    rowsFree (resyncing false { table := 5 }).store tdM (resyncing false { table := 5 }).start [] = true ∧ passed { table := 5, full := true } = some (1, 64, none) := by decide +kernel
theorem test_resync_pass_holds : ((resyncing false { table := 5 }).blk.newRows { table := 5 }).length < 65536 ∧ passed { table := 5 } = some (0, 0, some 0) ∧
    passed { table := 5, full := true, pass := 8 } = some (8, 0, some 0) := by decide +kernel
theorem test_resync_pass_ends : (resyncing false { table := 5, hold := some 0 }).blk.appliedAll 5 0 = true ∧ passed { table := 5, hold := some 0 } = none ∧
    (after (.resyncPass 5) (resyncing false { table := 5, hold := some 0 })).blk.eng.twin.sweeps = [(5, 0, 64, true)] ∧
    (match lastOut (after (.resyncPass 5) (resyncing false { table := 5, hold := some 0 })) with | some (.frame 0 _ (.resync 5 0 _)) => true | _ => false) = true := by
  decide +kernel
theorem test_resync_frame : (after (.resyncFrame hdr0 5 3 [(3, 77)]) (resyncing true { table := 5 })).blk.resync? 5 = none ∧
    ((after (.resyncFrame hdr0 5 3 [(3, 77)]) (resyncing true { table := 5 })).blk.die 4).replay = [(5, { applied := 3, last := [(3, 77)] })] := by decide +kernel
def rowP : RowPayload := { table := 5, lrow := 3, bseq := 0, slot := padTo 256 onesSlot, master := [], accum := [] }
def receiving : State := (fun s => { s with store := { s.store with poison := [td5.slotVa 3 / 64] } }) (resyncing true { table := 5 })
theorem test_row_frame : rowP.slot.length = tdM.S ∧ tdM.place = 0 ∧ quiet receiving = true ∧ Memory.wf receiving.store.mem = true ∧
    ((rowSeen receiving.store (heardOn receiving 0) tdM 3).map fun x => (x.1.parts, (receiving.blk.chan x.1.ch).lost || x.2 == ROW_SPLIT || x.2 == MEMORY_LOST || (heardOn receiving 0).rowStalls x.1)) =
      some ([(0, 0x10000300, 256)], false) ∧
    readBytes (after (.rowFrame hdr0 rowP) receiving).store.mem 0x10000300 96 = onesSlot.take 96 ∧ (after (.rowFrame hdr0 rowP) receiving).store.poison = [] := by decide +kernel

/-- Rows committed while a resynchronisation ran: row k of table 5 for every k below n. -/
def crowded (n : Nat) : State := onDie 0 (fun d => { d with twinJournal := (List.range n).map fun k => (5, k, 0) }) (resyncing false { table := 5 })
theorem mem_insertBy {α : Type} (lt : α → α → Bool) (x y : α) : ∀ l, y ∈ insertBy lt x l ↔ y = x ∨ y ∈ l
  | [] => by simp [insertBy]
  | z :: l => by
    unfold insertBy
    split
    · simp
    · simp [mem_insertBy lt x y l]; tauto
theorem mem_sortBy {α : Type} (lt : α → α → Bool) (y : α) (l : List α) : y ∈ sortBy lt l ↔ y ∈ l := by
  have h : ∀ (l acc : List α), y ∈ l.foldl (fun acc x => insertBy lt x acc) acc ↔ y ∈ acc ∨ y ∈ l := by
    intro l
    induction l with
    | nil => simp
    | cons x l ih => intro acc; simp [ih, mem_insertBy]; tauto
  simp [sortBy, h]
theorem mem_distinct (y : Nat) : ∀ l, y ∈ l → y ∈ distinct l
  | x :: l, h => by
    by_cases e : y = x
    · simp [distinct, e]
    · simp [distinct, e, mem_distinct y l (by simpa [e] using h)]
theorem crowded_rows (n : Nat) : n ≤ ((crowded n).blk.newRows { table := 5 }).length := by
  have h : List.range n ⊆ (crowded n).blk.newRows { table := 5 } := by
    intro k hk
    simp only [Block.newRows, mem_sortBy]
    apply mem_distinct
    simp only [List.mem_flatMap]
    refine ⟨0, by decide, ?_⟩
    have e : ((crowded n).blk.die 0).twinJournal = (List.range n).map fun k => (5, k, 0) := by rfl
    rw [e]
    simp only [List.getD, List.getElem?_nil, Option.getD_none, List.drop_zero, List.mem_map, List.mem_filter, List.mem_range] at hk ⊢
    exact ⟨(5, k, 0), ⟨⟨k, hk, rfl⟩, rfl⟩, rfl⟩
  simpa using (List.nodup_range.subperm h).length_le
theorem test_resync_pass_repeats : (crowded 65536).blk.resync? 5 = some { table := 5 } ∧ 65536 ≤ ((crowded 65536).blk.newRows { table := 5 }).length :=
  ⟨by rfl, crowded_rows 65536⟩

def dump0 : State := post 0x00A0 48 1 [(16, 32, pack [(0, 8, 0x20), (40, 6, 1), (64, 32, 4112), (128, 56, 0x10000000), (192, 32, 16)])] upJ
theorem test_dump_arm : accepted cardDumpArm dump0 = true ∧ dump0.blk.jobFor (msgAt dump0 0 .fabric 0) [0x10000000] = OK ∧
    dumpStages ((msgAt dump0 0 .fabric 0).struct 16 32) dump0.blk.eng.minor = OK ∧ rangeBad 0x10000000 4112 = false ∧ dump0.blk.regionMeets 1 0x10000000 4112 = false := by
  decide +kernel
def dumpBlk : Block := dump0.start.onPair 0 (pairKey .fabric 0) fun p => { p with st := .taken, copy := copyOf p.req }
/-- Every address of job 1's first GiB is mapped to stack memory, with the write right. -/
theorem dump_walk (va : Nat) (h : va < 2 ^ 30) : ∃ p x, walkAll dump0.store dumpBlk 1 { va := va, write := true } = (.page p, x) ∧ p.target = 0 := by
  have i0 : levelIndex 0 va = 0 := by simp [levelIndex, levelShift, levelBits, bits]; omega
  have i1 : levelIndex 1 va = 0 := by simp [levelIndex, levelShift, levelBits, bits]; omega
  have d1 : va / 1073741824 = 0 := by omega
  have d2 : ¬ 72057594037927936 ≤ va := by omega
  have t : (Nat.testBit 1048577 1, Nat.testBit 115 1, Nat.testBit 7 1) = (false, true, true) := by decide
  simp only [Prod.mk.injEq] at t
  have j : (dumpBlk.jobs.get? 1).map (·.root) = some 0 := by decide +kernel
  have a0 : entryStatus dump0.store dumpBlk 0 = OK := by decide +kernel
  have a1 : entryStatus dump0.store dumpBlk 0x100000 = OK := by decide +kernel
  have r0 : rdNat dump0.store dumpBlk 0 8 = 0x100001 := by decide +kernel
  have r1 : rdNat dump0.store dumpBlk 0x100000 8 = 0x73 := by decide +kernel
  have c0 : dumpBlk.eng.layout.inCap 0x100000 4096 = true := by decide +kernel
  have c1 : dumpBlk.eng.layout.inCap 0 1073741824 = true := by decide +kernel
  have e0 : entryOf dumpBlk 1 0 va 0x100001 = .table 0x100000 := by
    simp [entryOf, bit, bits, rsvSet, tableSize, levelBits, c0, t, d2]
  have e1 : entryOf dumpBlk 1 1 va 0x73 = .leaf { job := 1, lg := 30, va := 0, run := 0, addr := 0, target := 0, rights := 7 } := by
    simp [entryOf, bit, bits, rsvSet, rightsKnown, leafOk, i1, levelShift, c1, d1, t, d2]
  have p0 : dumpBlk.eng.retired = [] := by decide +kernel
  obtain ⟨J, hJ, hr⟩ := Option.map_eq_some_iff.mp j
  unfold walkAll
  rw [hJ]
  simp [walkFrom, entryAddr, hr, i0, i1, a0, a1, r0, r1, e0, e1, judge, Block.leafRetired, p0, Page.grants, Page.placed, Page.inDomain, XEntry.page, t]
theorem test_dump_arm_mapped : firstUnwritable dump0.store dumpBlk 1 0x10000000 4112 DUMP_INVALID = none := by
  unfold firstUnwritable
  rw [List.findSome?_eq_none_iff]
  intro k hk
  rw [List.mem_range] at hk
  obtain ⟨p, x, e, z⟩ := dump_walk (0x10000000 + 65536 * k) (by omega)
  simp only [e, z, if_true]

/-! ## Ill-formed commands, one for each check -/

theorem test_ill_formed_hubs_and_pairs : ([.testReset 4, .doneReply 4 .fabric 0, .doneReply 0 .fabric 64, .doneReply 0 .mgmt 4, .enec 4 0, .enec 0 256, .entdaa 4 0,
    .entdaa 0 128, .setmwl 4 0, .setmwl 0 65536, .i3cPrivateWrite 4 [0], .i3cPrivateWrite 0 [], .registerWrite 4 0 0, .registerWrite 0 65536 0, .registerWrite 0 4 0,
    .requestSlotWrite 4 .any 0x4000 [0], .requestSlotWrite 0 .any 0x3FFF [0], .requestSlotWrite 0 .any 0x7FFF [0, 0], .requestSlotWrite 0 .any 0x4000 [],
    .stackServiceAdmit 4 .fabric 0 0 0, .stackServiceAdmit 0 .fabric 64 0 0, .stackServiceAdmit 0 .fabric 0 (2 ^ 64) 0, .fatal 4 1, .fatal 0 0, .fatal 0 4] : List Instr).all
      (!·.wf) = true := by decide +kernel
theorem test_ill_formed_windows : ([.hostWindowWrite 4 0 [0] false, .hostWindowWrite 0 (2 ^ 64) [0] false, .hostWindowWrite 0 0 [] false, .hostWindowRead 4 0 1 [],
    .hostWindowRead 0 (2 ^ 64) 1 [], .hostWindowRead 0 0 0 []] : List Instr).all (!·.wf) = true := by decide +kernel
theorem test_ill_formed_objects : ([.rstact 4 0, .rstact 0 256, .migratePage 64 0, .migratePage 0 (2 ^ 40), .arrivalSignalApply 4 0, .arrivalSignalApply 0 65536, .lookupPool 1024,
    .gateRequest 1024 0 0, .gateRequest 0 (2 ^ 64) 0, .gateRequest 0 0 12, .runAdd 12 0 [], .runAdd 0 (2 ^ 20) [], .rowFetch 1024 0 0 [],
    .rowFetch 0 (2 ^ 64) 0 [], .rowFetch 0 0 (2 ^ 40) [], .rederive 64 0 0, .rederive 0 (2 ^ 20) 0, .rederive 0 0 (2 ^ 40), .remoteArrival 4096 0 0 0,
    .remoteArrival 0 64 0 0, .remoteArrival 0 0 256 0, .remoteArrival 0 0 0 (2 ^ 64)] : List Instr).all (!·.wf) = true := by decide +kernel
theorem test_ill_formed_places : ([.taskDispatch 4 0 0 0, .taskDispatch 0 1024 0 0, .taskDispatch 0 0 32 0, .taskDispatch 0 0 0 2, .operatingPointChoice 4 0,
    .operatingPointChoice 0 1024, .clusterFailure 1024, .stackTempRead 12 0 0, .snowplowFrame 768, .bankRefresh 768 0, .bankRefresh 0 64, .pageRepair 768 0 0 true,
    .pageRepair 0 64 0 true, .pageRepair 0 0 (2 ^ 24) true, .patrolScrub 768 0 [], .patrolScrub 0 1 [], .ucieReplay 12 0 0 .replayed,
    .ucieReplay 0 6 0 .replayed, .monitorSample 0 0 0, .monitorSample 0x0B 0 0, .fenceTimeout (2 ^ 20)] : List Instr).all (!·.wf) = true := by decide +kernel
theorem test_ill_formed_frames : ([.aliveFrame { hdr0 with link := 4 }, .aliveFrame { hdr0 with shub := 4 }, .aliveFrame { hdr0 with dhub := 4 },
    .aliveFrame { hdr0 with pairId := 2 ^ 32 }, .aliveFrame { hdr0 with fseq := 2 ^ 32 }, .aliveFrame { hdr0 with version := 256 }, .unpairFrame hdr0 3, .frameDiscard hdr0 16 false, .sweepFrame hdr0 (2 ^ 20) 0 [],
    .sweepFrame hdr0 5 (2 ^ 40) [], .resyncFrame hdr0 (2 ^ 20) 0 [], .resyncFrame hdr0 5 (2 ^ 64) [], .fenceFrame hdr0 (2 ^ 20) .request 0,
    .fenceFrame hdr0 5 .request (2 ^ 64), .digestFrame hdr0 [{ dig 3 50 with table := 2 ^ 20 }], .digestFrame hdr0 [{ dig 3 50 with lrow := 2 ^ 40 }],
    .digestFrame hdr0 [{ dig 3 50 with bseq := 2 ^ 64 }], .digestFrame hdr0 [dig 3 (2 ^ 32)], .digestFrame hdr0 [{ dig 3 50 with mdigest := 2 ^ 32 }],
    .rowFrame hdr0 { rowP with table := 2 ^ 20 }, .rowFrame hdr0 { rowP with lrow := 2 ^ 40 }, .rowFrame hdr0 { rowP with bseq := 2 ^ 64 }] : List Instr).all (!·.wf) = true := by
  decide +kernel
def inbound : WinAccess := { hub := 0, x := 1, y := 2, z := 3, fromWin := 4, win := 7, page := 0, offset := 0, op := .read 8 [] }
theorem test_ill_formed_window_accesses : (Instr.windowAccess inbound).wf = true ∧ ([{ inbound with hub := 4 }, { inbound with x := 256 }, { inbound with y := 256 },
    { inbound with z := 256 }, { inbound with fromWin := 4096 }, { inbound with win := 4096 }, { inbound with offset := 65536 }] : List WinAccess).all
      (fun a => !(Instr.windowAccess a).wf) = true := by decide +kernel
def found : StartReport :=
  { hubFail := 0, imageFail := 0, fabUp := 15, tlmUp := 15, stackFail := 0, trained := List.replicate 12 0, ucie := List.replicate 12 63, trep := List.replicate 12 95
    bootUnreadable := false, bankBad := 0, fuses := [], candidates := [], spares := [], dieIds := List.replicate 16 0 }
theorem test_ill_formed_start_reports : (Instr.startUp found).wf = true ∧ ([{ found with hubFail := 16 }, { found with imageFail := 16 }, { found with fabUp := 16 },
    { found with tlmUp := 16 }, { found with stackFail := 4096 }, { found with trained := [] }, { found with ucie := [] }, { found with trep := [] }, { found with dieIds := [] },
    { found with bankBad := 4 }] : List StartReport).all (fun r => !(Instr.startUp r).wf) = true := by decide +kernel

/-! ## The resident encode program of Worked example 6-5, on the row of Worked example 2-2 (R188) -/

def int4Encode : List Word := [0x98400000, 0xC0000003, 0xB0810000, 0x24880000, 0x1C448000, 0xD0440001, 0x34C40000, 0x8CCC0003, 0xC80C0001, 0xD8000001, 0x99400000,
  0xB8144000, 0xCC040005, 0x95003F80, 0xB8100000, 0xC0000001, 0xB4154000] ++ [0xD8000000, 0x950040E0, 0x15050000, 0x95800080, 0x1D118000, 0xB8100000, 0x99C3FFF9,
  0x9A000007, 0xC0000006, 0xB0810000, 0x14890000, 0x2C880002, 0x5889C000, 0x548A0000, 0xB4094000, 0xD8000000]
def row22 : List Word := [0x3F600000, 0xBF000000, 0x3E99999A, 0x3E400000, 0x3EA00000, 0xBD800000] ++ List.replicate 26 0
theorem test_encode_program : (runEncode { width := 32 } 0x21 int4Encode row22).map (fun e => (e.payload.take 4, e.scale, e.zp, e.saturated)) =
    some ([0xC7, 0x22, 0x02, 0x00], 0x3E000000, 0, false) := by decide +kernel
theorem test_encode_program_of_a_nonfinite_row : (runEncode { width := 32 } 0x21 int4Encode (row22.set 7 0x7F800000)).isNone = true := by decide +kernel

end Sys2Proof.Tests
end

section
/-!
SUPPORT. ROW_APPLY of a row that is not finite, whose slot lies where no channel is (R109, R253).

A row commit discards the pieces of its image that no channel holds, so that a header in such a place is not written. The apply looks at the
channel of the slot's first granule, not at the status MEMORY_LOST that locating the slot gives, and `Block.lostAt` is false of an address
without a channel: the row is counted and its accumulator consumed, and its header stays as it was.
-/
namespace Sys2Proof.UnplacedRow
open Sys2Proof.Machine Sys2Proof.Spec

/-! ### The counterexample -/

/-- The first address of the privileged domain, to which the layout below gives no channel. -/
def place : Nat := Config.privBase

/-- Table 5: rows of one FP32 value in class 2, so that a slot is 32 bytes, in the privileged domain (Tables 2-2 and 2-3). -/
def desc : BitVec 512 :=
  BitVec.ofNat 512 (pack [(0, 8, 0x20), (8, 8, 0x01), (16, 4, 2), (20, 2, 1), (64, 20, 5), (128, 48, 64), (256, 41, 64)])

/-- The row holds 1.0 under a sound header, with NONFINITE clear. -/
def payload : List Byte := bytes32 [0x3F800000]
def header : RowHdr := RowHdr.sealed { fmt := 0x01 } payload

/-- A sum that is not finite is pending for row 3. -/
def acc : Acc := { sbseq := 1, tidx := 1, nf := true, vec := [0x7F800000] }

/-- The share of batch 1 that applies row 3, with the place of its slot as translated. -/
def share : Share := { bseq := 1, apply := true, counters := List.replicate 13 0, slots := [(3, [(0, place, 32)])] }

/-- Hub 0 and stack 0 in service, with four channels in the ordinary domain and none in the privileged one. -/
def state : State :=
  { store := { mem := writeBytes [] place (header.bytes ++ payload) }
    blk := { eng := { layout := { ord := [0, 1, 2, 3] } }
             hubs := [(0, { inService := true })]
             dies := [(0, { st := 1, active := 15, shares := [(5, share)], accs := [(accKey 5 3, acc)] })]
             tables := [(5, { desc := desc })] } }

/-- The slot of row 3 as the apply finds it. -/
def slot : RowRef := (state.blk.rowRef (tdOf (state.blk.tables.getD 5 {}).desc) 3 (share.slots.getD 3 [])).1

/-! ### It meets the statement's hypotheses -/

theorem state_memInv : MemInv state := by unfold MemInv; decide +kernel

theorem state_quiet : Quiet state := by
  intro g
  simp only [state, Block.hub, Tbl.getD, Tbl.get?]
  split
  · rfl
  · split <;> rfl

theorem nextApply_row : state.blk.nextApply 0 5 share = some (3, acc) := by decide +kernel

/-- Nothing holds the row back: no task works on it, the scoreboard and the cache take its commit, and its channel admits the read. -/
theorem slot_free : state.blk.rowTask share.ring share.p 3 = false ∧ state.blk.stalls 0 5 3 (state.blk.rowLocs slot) = false ∧
    state.blk.rowBlocked slot = false ∧ state.blk.readWaits slot = false ∧ state.start.rowStalls slot = false := by decide +kernel

/-- No granule of the slot lies on a channel, so that the row buffer has nothing to fetch. -/
theorem bufferRead_slot : state.start.bufferRead slot [] (state.blk.shareClass share) = (state.start, false) := by decide +kernel

theorem readRow_slot : readRow state.store state.start (state.start.homeHub 0) slot false [] = (state.start, .row header payload) := by
  decide +kernel

theorem rowInputs_slot : rowInputs state.store state.start slot (share.masters.getD 3 []) header payload = .ready ⟨[0x3F800000], [], []⟩ [] := by
  decide +kernel

theorem headParts_slot : slot.headParts = [(0, place, 16)] := by decide +kernel

theorem locate_place : state.blk.locate place = none := by decide +kernel

/-- An address without a channel counts as not lost. -/
theorem place_not_lost : state.blk.lostAt place = false := by simp [Block.lostAt, locate_place]

/-! ### What the command answers -/

/-- The state after the command. -/
def applied : State := settle state ((rowApply 0 5 [] state.store state.start).interrupts 16)

theorem exec_rowApply : exec (.rowApply 0 5 []) state = .next applied := by
  have alive : state.start.fatal = false := by decide +kernel
  change live (rowApply 0 5 []) state = _
  simp [live, run, applied, alive]

/-- The apply takes the row for done: its accumulator is consumed, and it counts in NFROWS. -/
theorem applied_consumes : (applied.blk.die 0).accs = [] ∧
    ((applied.blk.die 0).shares.get? 5).map (·.counters) = some (share.count cNFROWS 1).counters := by decide +kernel

theorem applied_store : applied.store = state.store := by decide +kernel

/-- The bytes at the row's header are not those of the header that R109 commits: NONFINITE is clear in them. -/
theorem header_not_committed : readBytes applied.store.mem place 16 ≠ (RowHdr.sealed { header with nonfinite := true } payload).bytes := by
  rw [applied_store]
  decide +kernel

/-- Refutes O46: the clause on the header's bytes asks only that its place is not lost, which an address that the layout gives to no channel
meets. A row whose slot lies there is applied, counted and consumed, and its header is not written. -/
theorem not_nonFiniteRowsKeepTheirValues : ¬ Obligations.NonFiniteRowsKeepTheirValues := by
  unfold Obligations.NonFiniteRowsKeepTheirValues
  intro h
  obtain ⟨noTask, noStall, unblocked, noWait, noStallAfter⟩ := slot_free
  have accsWf : Tbl.wf (state.blk.die 0).accs = true := by decide
  have noLog : ∀ e ∈ (state.blk.die 0).log, e.table ≠ 5 := fun _ e => absurd e List.not_mem_nil
  have noJournal : ∀ j ∈ (state.blk.die 0).journals, j.table ≠ 5 := fun _ j => absurd j List.not_mem_nil
  obtain ⟨t, answers, -, -, -, -, -, commits⟩ :=
    h 0 5 [] state share 3 acc state.start state.start false header payload ⟨[0x3F800000], [], []⟩ []
      (by decide) state_quiet state_memInv rfl rfl rfl rfl rfl accsWf noLog noJournal nextApply_row noTask (by decide +kernel) noStall unblocked
      noWait bufferRead_slot readRow_slot rfl rowInputs_slot noStallAfter (.inl rfl)
  obtain rfl : applied = t := by simpa [exec_rowApply] using answers
  exact header_not_committed (commits place headParts_slot place_not_lost)

end Sys2Proof.UnplacedRow
end

section
/-!
SUPPORT. What a write to the engine's own memory leaves of the mailboxes. An interrupt write to one of the engine's own apertures comes back
in as an inbound write (R368); it passes the write buffers and the caches, and may list a lost write, whose event raises EVENT (R270).
None of it touches a pair or a count of refused writes, and no interrupt cause goes away.
-/
namespace Sys2Proof.Machine

/-! ### Parts of the write path that leave every hub -/

theorem Block.foldl_hubs {α : Type} (f : Block → α → Block) (keeps : ∀ b a, (f b a).hubs = b.hubs) (as : List α) (b : Block) :
    (as.foldl f b).hubs = b.hubs := by
  induction as generalizing b with
  | nil => rfl
  | cons a as ih => rw [List.foldl_cons, ih, keeps]

@[simp] theorem Block.request_hubs (b : Block) (ch : Nat) (rt : Bool) (q : Req) : (b.request ch rt q).hubs = b.hubs := by
  unfold Block.request
  split <;> rfl

@[simp] theorem Block.requestAtoms_hubs (b : Block) (rt : Bool) (q : Req) (atoms : List Nat) : (b.requestAtoms rt q atoms).hubs = b.hubs := by
  unfold Block.requestAtoms
  exact Block.foldl_hubs _ (fun b ⟨ch, _, _⟩ => b.request_hubs ch rt _) _ b

@[simp] theorem Block.drainOne_hubs (b : Block) (s : Nat) : (b.drainOne s).1.hubs = b.hubs := by
  unfold Block.drainOne
  split
  · rfl
  · dsimp only
    split
    · simp
    · split
      · rfl
      · simp [Block.enter]

@[simp] theorem Block.drainFor_hubs (b : Block) (s n fuel : Nat) : (b.drainFor s n fuel).hubs = b.hubs := by
  induction fuel generalizing b with
  | zero => rfl
  | succ fuel ih =>
    have drained := b.drainOne_hubs s
    unfold Block.drainFor
    split
    · rfl
    · split <;> simp_all

@[simp] theorem Block.wcbAccept_hubs (b : Block) (stack pa n cls : Nat) (remote : Bool) :
    (b.wcbAccept stack pa n cls remote).hubs = b.hubs := by
  simp [Block.wcbAccept]

@[simp] theorem Block.logRecord_hubs (b : Block) (r : BitVec 256) : (b.logRecord r).hubs = b.hubs := rfl

/-- A hub's record after a change of one hub: as it was, or changed. -/
theorem Block.hub_onHub_cases (b : Block) (h g : Nat) (f : Hub → Hub) :
    (b.onHub h f).hub g = b.hub g ∨ (b.onHub h f).hub g = f (b.hub g) := by
  by_cases same : g = h
  · subst same
    cases found : b.hubs.get? g with
    | none => exact .inl (by simp [Block.hub, Block.onHub, Tbl.modify, found])
    | some x => exact .inr (by rw [Block.hub_onHub_same b g f x found, Block.hub_of_get b g x found])
  · exact .inl (Block.hub_onHub_other b h g f same)

/-- What a change of a hub leaves of every hub's record, it leaves after the change too. -/
theorem Block.hub_onHub_proj {α : Type} (b : Block) (h g : Nat) (f : Hub → Hub) (p : Hub → α) (keeps : ∀ x, p (f x) = p x) :
    p ((b.onHub h f).hub g) = p (b.hub g) := by
  obtain e | e := b.hub_onHub_cases h g f <;> simp [e, keeps]

/-! ### Blocks that agree on the mailboxes -/

/-- Block c holds every pair and every count of refused writes as b does, and has at least the interrupt causes of b. -/
structure MailKept (b c : Block) : Prop where
  pair : ∀ g j, c.pair g j = b.pair g j
  refused : ∀ g, (c.hub g).regs.refused = (b.hub g).regs.refused
  causes : ∀ g i, (b.hub g).regs.intStatus.getLsbD i = true → (c.hub g).regs.intStatus.getLsbD i = true

namespace MailKept

theorem of_hubs {b c : Block} (e : c.hubs = b.hubs) : MailKept b c := by
  have hub : ∀ g, c.hub g = b.hub g := fun g => by simp only [Block.hub, e]
  constructor <;> simp [Block.pair, hub]

theorem refl (b : Block) : MailKept b b := of_hubs rfl

theorem trans {b c d : Block} (first : MailKept b c) (second : MailKept c d) : MailKept b d where
  pair g j := (second.pair g j).trans (first.pair g j)
  refused g := (second.refused g).trans (first.refused g)
  causes g i set := second.causes g i (first.causes g i set)

theorem foldl {α : Type} {f : Block → α → Block} (step : ∀ b a, MailKept b (f b a)) (as : List α) (b : Block) :
    MailKept b (as.foldl f b) := by
  induction as generalizing b with
  | nil => exact refl b
  | cons a as ih => exact (step b a).trans (ih (f b a))

/-- A change of one hub that keeps its pairs, its count and its causes. -/
theorem onHub (b : Block) (h : Nat) (f : Hub → Hub) (pairs : ∀ x, (f x).pairs = x.pairs) (count : ∀ x, (f x).regs.refused = x.regs.refused)
    (grows : ∀ x i, x.regs.intStatus.getLsbD i = true → (f x).regs.intStatus.getLsbD i = true) : MailKept b (b.onHub h f) := by
  constructor
  · intro g j
    exact b.hub_onHub_proj h g f (fun x => x.pairs.getD j {}) (fun x => by rw [pairs])
  · exact fun g => b.hub_onHub_proj h g f (fun x => x.regs.refused) count
  · intro g i set
    obtain e | e := b.hub_onHub_cases h g f
    · rwa [e]
    · rw [e]
      exact grows _ i set

theorem onSlice (b : Block) (h : Nat) (f : Slice → Slice) : MailKept b (b.onSlice h f) :=
  onHub b h _ (fun _ => rfl) (fun _ => rfl) (fun _ _ => id)

theorem onGroupSlice (b : Block) (s : Nat) (f : Slice → Slice) : MailKept b (b.onGroupSlice s f) := by
  unfold Block.onGroupSlice
  split
  · exact onSlice b _ f
  · exact refl b

/-- Raising a cause adds that cause; the interrupt write it may make is still to be done. -/
theorem raise (b : Block) (h cause : Nat) : MailKept b (b.raise h cause) := by
  have added : MailKept b (b.onRegs h fun r => { r with intStatus := r.intStatus ||| BitVec.ofNat 64 (2 ^ cause) }) :=
    onHub b h _ (fun _ => rfl) (fun _ => rfl) (fun x i set => by simp [set])
  unfold Block.raise
  dsimp only
  split
  · exact added.trans (of_hubs (Block.msiWrite_hubs _ h))
  · exact added

theorem report (b : Block) (r : BitVec 256) : MailKept b (b.report r) := by
  have logged : MailKept b (b.logRecord r) := of_hubs (b.logRecord_hubs r)
  unfold Block.report
  split
  · exact logged
  · exact logged.trans (foldl (fun b h => raise b h intEVENT) _ _)

theorem lostWrite (b : Block) (hub granule stack source : Nat) : MailKept b (b.lostWrite hub granule stack source) :=
  (of_hubs (b.sample_hubs 0x10 stack 0)).trans (report _ _)

theorem passTags (b : Block) (ch row : Nat) (zero : Bool) : MailKept b (b.passTags ch row zero) :=
  (onGroupSlice b (ch / 64) _).trans (of_hubs rfl)

/-- A write to stack memory, whether it is made or discarded for a lost granule. -/
theorem wrMem (b : Block) (hub pa : Nat) (data : List Byte) (source cls : Nat) : MailKept b (b.wrMem hub pa data source cls) := by
  refine foldl (fun b piece => ?_) _ b
  obtain ⟨a, off, n⟩ := piece
  dsimp only
  split
  · exact refl b
  · split
    · exact lostWrite b _ _ _ _
    · exact (of_hubs (by simp)).trans (passTags _ _ _ _)

theorem interrupt (b : Block) (w : Wr) : MailKept b (b.interrupt w) := by
  cases w with
  | intr h a d => exact wrMem b h a d 2 1
  | _ => exact refl b

/-- The interrupt writes at a command's end. -/
theorem interrupts (b : Block) (fuel : Nat) : MailKept b (b.interrupts fuel) := by
  induction fuel generalizing b with
  | zero => exact refl b
  | succ fuel ih =>
    unfold Block.interrupts
    dsimp only
    split
    · exact refl b
    · refine trans (trans ?_ (foldl interrupt _ _)) (ih _)
      exact of_hubs rfl

end MailKept

end Sys2Proof.Machine
end

section
/-!
SUPPORT. Raising an interrupt cause, and the write to a request slot that is busy (R360, R368).
-/
namespace Sys2Proof.Machine
open Sys2Proof.Spec

theorem Block.raise_hubs (b : Block) (h cause : Nat) :
    (b.raise h cause).hubs = (b.onRegs h fun r => { r with intStatus := r.intStatus ||| BitVec.ofNat 64 (2 ^ cause) }).hubs := by
  unfold Block.raise
  dsimp only
  split
  · exact Block.msiWrite_hubs _ h
  · rfl

/-- No hub's interrupt address, or one outside the engine: the interrupt write does not come back in. -/
theorem Block.msiWrite_wr (b : Block) (h : Nat) (out : (b.hub h).regs.msiAddr = 0 ∨ ¬ OwnAperture (b.hub h).regs.msiAddr.toNat) :
    (b.msiWrite h).wr = b.wr := by
  unfold Block.msiWrite
  dsimp only
  obtain none | away := out
  · simp [none]
  · simp only [OwnAperture, not_or] at away
    rw [if_neg away.1, if_neg away.2]
    split <;> rfl

/-- A hub's interrupt address after a change of registers that leaves it. -/
theorem Block.onRegs_msiAddr (b : Block) (h g : Nat) (f : Regs → Regs) (keeps : ∀ r, (f r).msiAddr = r.msiAddr) :
    ((b.onRegs h f).hub g).regs.msiAddr = (b.hub g).regs.msiAddr :=
  b.hub_onHub_proj h g _ (fun x => x.regs.msiAddr) (fun x => keeps x.regs)

theorem Block.raise_wr (b : Block) (h cause : Nat) (out : (b.hub h).regs.msiAddr = 0 ∨ ¬ OwnAperture (b.hub h).regs.msiAddr.toNat) :
    (b.raise h cause).wr = b.wr := by
  unfold Block.raise
  dsimp only
  split
  · rw [Block.msiWrite_wr _ _ (by rwa [Block.onRegs_msiAddr]; exact fun _ => rfl)]
    rfl
  · rfl

/-- What R360 does in place of a discarded write: the count goes up, and MISUSE is set. -/
def Block.refuseWrite (b : Block) (h : Nat) : Block := (b.onRegs h fun r => { r with refused := sat32 (r.refused + 1) }).raise h intMISUSE

theorem Block.slotWrite_busy (b : Block) (h key off : Nat) (data : List Byte) (go pm : Bool) (busy : (b.pair h key).st.busy = true) :
    b.slotWrite h key off data go pm = b.refuseWrite h := by
  simp [Block.slotWrite, busy, Block.refuseWrite]

theorem Block.refuseWrite_pair (b : Block) (h g j : Nat) : (b.refuseWrite h).pair g j = b.pair g j := by
  rw [Block.refuseWrite, Block.pair_raise, Block.pair_onRegs]

theorem Block.refuseWrite_regs (b : Block) (h : Nat) (x : Hub) (found : b.hubs.get? h = some x) :
    ((b.refuseWrite h).hub h).regs =
      { x.regs with refused := sat32 (x.regs.refused + 1), intStatus := x.regs.intStatus ||| BitVec.ofNat 64 (2 ^ intMISUSE) } := by
  simp [Block.refuseWrite, Block.hub, Block.raise_hubs, Tbl.getD, found]

theorem Block.refuseWrite_wr (b : Block) (h : Nat) (x : Hub) (found : b.hubs.get? h = some x)
    (out : x.regs.msiAddr = 0 ∨ ¬ OwnAperture x.regs.msiAddr.toNat) : (b.refuseWrite h).wr = b.wr := by
  rw [← Block.hub_of_get b h x found] at out
  exact Block.raise_wr _ h intMISUSE (by rwa [Block.onRegs_msiAddr]; exact fun _ => rfl)

end Sys2Proof.Machine

namespace Sys2Proof.Spec
open Sys2Proof.Machine

/-- What R360 asks of the state t after a discarded write at hub h, whose record was x in the state s before. -/
def WriteDiscarded (h : Nat) (x : Hub) (s t : State) : Prop :=
  (∀ g j, t.blk.pair g j = s.blk.pair g j) ∧ (t.blk.hub h).regs.refused = min (x.regs.refused + 1) (2 ^ 32 - 1) ∧
    (t.blk.hub h).regs.intStatus.getLsbD intMISUSE = true ∧
    (x.regs.msiAddr = 0 ∨ ¬ OwnAperture x.regs.msiAddr.toNat →
      (t.blk.hub h).regs.intStatus = x.regs.intStatus ||| BitVec.ofNat 64 (2 ^ intMISUSE))

/-- A command whose effect refuses a write, on a block with the pairs and the registers of the state, discards it. -/
theorem run_writeDiscarded (f : Block → Block) (h : Nat) (x y : Hub) (s : State) (b : Block)
    (effect : f s.start = b.refuseWrite h) (found : b.hubs.get? h = some y) (regs : y.regs = x.regs)
    (pairs : ∀ g j, b.pair g j = s.blk.pair g j) (noWrites : b.wr = []) :
    ∃ t, run (fun _ b => f b) s = .next t ∧ t.pending = s.pending ∧ WriteDiscarded h x s t := by
  have kept := MailKept.interrupts (b.refuseWrite h) 16
  have refused := b.refuseWrite_regs h y found
  rw [regs] at refused
  refine ⟨settle s ((b.refuseWrite h).interrupts 16), by rw [run_eq, effect], rfl, ?_, ?_, ?_, ?_⟩
  · intro g j
    exact ((kept.pair g j).trans (b.refuseWrite_pair h g j)).trans (pairs g j)
  · refine (kept.refused h).trans ?_
    rw [refused]
    rfl
  · refine kept.causes h intMISUSE ?_
    rw [refused, BitVec.getLsbD_or]
    simp [intMISUSE]
  · intro out
    have noInterrupt : ∀ k a d, Wr.intr k a d ∉ (b.refuseWrite h).wr := by
      simp [b.refuseWrite_wr h y found (regs ▸ out), noWrites]
    rw [Block.interrupts_none _ noInterrupt]
    exact congrArg Regs.intStatus refused

end Sys2Proof.Spec

namespace Sys2Proof.Machine
open Sys2Proof.Spec

/-- A write within one slot of the request slots, through the register window. -/
theorem requestSlotWrite_busy (h k off : Nat) (agent : Agent) (data : List Byte) (b : Block) (up : b.winUp h = true) (nonempty : data ≠ [])
    (slot : k < 64) (fits : off + data.length ≤ 256) (busy : (b.pair h k).st.busy = true) :
    requestSlotWrite h agent (0x4000 + 256 * k + off) data b = b.refuseWrite h := by
  have long : 0 < data.length := List.length_pos_of_ne_nil nonempty
  have within : (0x4000 + 256 * k + off) % 256 = off := by omega
  have key : (0x4000 + 256 * k + off - 0x4000) / 256 = k := by omega
  unfold requestSlotWrite
  rw [within, key, if_neg, Block.slotWrite_busy _ _ _ _ _ _ _ busy]
  simp only [up, Bool.not_true, Bool.false_or, Bool.or_eq_true, decide_eq_true_eq, List.isEmpty_iff, nonempty, or_false]
  omega

/-- An I3C write of at least one byte to a management pair's request slot (R370). -/
theorem i3cWrite_busy (h k : Nat) (data : List Byte) (b : Block) (up : b.winUp h = true) (nonempty : data ≠ []) (slot : k < 4)
    (addressed : (b.hub h).i3c.dyn ≠ none) (long : 2 ≤ (b.hub h).i3c.mwl) (busy : ((b.i3cAck h []).pair h (64 + k)).st.busy = true) :
    i3cWrite h (BitVec.ofNat 8 k :: data) b = (b.i3cAck h []).refuseWrite h := by
  obtain ⟨n, cut⟩ : ∃ n, (b.hub h).i3c.mwl = n + 2 := ⟨_, (Nat.sub_add_cancel long).symm⟩
  obtain ⟨v, vs, rfl⟩ := List.exists_cons_of_ne_nil nonempty
  have sel : (BitVec.ofNat 8 k).toNat = k := by
    rw [BitVec.toNat_ofNat]
    omega
  simp [i3cWrite, Block.i3cUp, up, addressed, cut, sel, slot, Block.slotWrite_busy _ _ _ _ _ _ _ busy]

/-- An answer of the target changes no pair. -/
theorem Block.pair_i3cAck (b : Block) (h g j : Nat) (out : List Byte) : (b.i3cAck h out).pair g j = b.pair g j :=
  b.hub_onHub_proj h g _ (fun x => x.pairs.getD j {}) (fun _ => rfl)

/-- Settles O8: both ways a write reaches a busy slot come to `Block.refuseWrite`, and the interrupt writes at the command's end, which may come
back in as inbound writes, keep what it left (`MailKept.interrupts`). -/
theorem writeToABusyRequestSlotIsDiscarded : Obligations.WriteToABusyRequestSlotIsDiscarded := by
  unfold Obligations.WriteToABusyRequestSlotIsDiscarded
  intro h data s x found up nonempty
  have hub : s.start.hub h = x := Block.hub_of_get s.start h x found
  constructor
  · intro k off agent slot fits busy
    exact run_writeDiscarded (requestSlotWrite h agent _ data) h x x s s.start
      (requestSlotWrite_busy h k off agent data s.start up nonempty slot fits busy) found rfl (fun _ _ => rfl) rfl
  · intro k slot addressed long busy
    have acked : (s.start.i3cAck h []).hubs.get? h = some { x with i3c := { x.i3c with ack := true, out := [] } } := by
      simp [Block.i3cAck, Block.onI3c, found]
    refine run_writeDiscarded (i3cWrite h _) h x _ s (s.start.i3cAck h []) (i3cWrite_busy h k data s.start up nonempty slot ?_ ?_ ?_) acked rfl
      (fun g j => s.start.pair_i3cAck h g j []) rfl
    · rwa [hub]
    · rwa [hub]
    · rwa [Block.pair_i3cAck]

end Sys2Proof.Machine
end

section
/-!
SUPPORT. Fields of a packed structure from the list of its entries: what a field reads that no entry touches, what the low part of an entry
reads, and how large the structure is.
-/
namespace Sys2Proof.Machine

/-- No entry of the list touches bits [lo, lo + n). -/
def Apart (fs : List (Nat × Nat × Nat)) (lo n : Nat) : Prop := ∀ e ∈ fs, lo + n ≤ e.1 ∨ e.1 + e.2.1 ≤ lo

theorem bits_pack_apart (fs : List (Nat × Nat × Nat)) (lo n : Nat) (apart : Apart fs lo n) : bits (pack fs) lo n = 0 := by
  induction fs with
  | nil => exact bits_pack_nil lo n
  | cons e fs ih =>
    rw [bits_pack_skip lo n e.1 e.2.1 e.2.2 fs (apart e List.mem_cons_self)]
    exact ih fun e' mem => apart e' (List.mem_cons_of_mem e mem)

/-- The low n' bits of a field that no other entry touches. -/
theorem bits_pack_low (lo n n' v : Nat) (fs : List (Nat × Nat × Nat)) (le : n' ≤ n) (apart : Apart fs lo n') :
    bits (pack ((lo, n, v) :: fs)) lo n' = v % 2 ^ n' := by
  apply Nat.eq_of_testBit_eq
  intro i
  have clear : (bits (pack fs) lo n').testBit i = false := by simp [bits_pack_apart fs lo n' apart]
  rw [testBit_bits] at clear
  rw [testBit_bits, testBit_pack_cons, Nat.testBit_mod_two_pow]
  by_cases inside : i < n'
  · have wide : i < n := by omega
    simp_all
  · simp [inside]

theorem pack_lt (fs : List (Nat × Nat × Nat)) (k : Nat) (below : ∀ e ∈ fs, e.1 + e.2.1 ≤ k) : pack fs < 2 ^ k := by
  induction fs with
  | nil => exact Nat.two_pow_pos k
  | cons e fs ih =>
    obtain ⟨lo, n, v⟩ := e
    refine Nat.or_lt_two_pow ?_ (ih fun e' mem => below e' (List.mem_cons_of_mem _ mem))
    have field : v % 2 ^ n < 2 ^ n := Nat.mod_lt _ (Nat.two_pow_pos n)
    rw [Nat.shiftLeft_eq]
    calc v % 2 ^ n * 2 ^ lo < 2 ^ n * 2 ^ lo := Nat.mul_lt_mul_of_pos_right field (Nat.two_pow_pos lo)
      _ = 2 ^ (lo + n) := by rw [← Nat.pow_add, Nat.add_comm]
      _ ≤ 2 ^ k := Nat.pow_le_pow_right (by omega) (below _ List.mem_cons_self)

theorem replyHeader_lt (m : Msg) (lenw rstate status detail ans : Nat) : replyHeader m lenw rstate status detail ans < 2 ^ 128 :=
  pack_lt _ 128 (by simp)

end Sys2Proof.Machine
end

section
/-!
SUPPORT. A message command from its acceptance to its reply, for a card that is not engine-wide and whose own part answers at once: the pair is
DONE, the reply slot shows the status and the body, and no memory changes.
-/
namespace Sys2Proof.Machine
open Sys2Proof.Spec

/-- The block once the hub has copied the message of a pair (R359). -/
def takenAt (s : State) (h : Nat) (mb : Mbox) (k : Nat) : Block :=
  s.start.onPair h (pairKey mb k) fun q => { q with st := .taken, copy := copyOf (s.blk.pair h (pairKey mb k)).req }

/-- An accepted message comes to its card's own part, on the block with the message copied. -/
theorem message_accepted (c : Card) (act : Store → Block → Msg → Ans) (h k : Nat) (mb : Mbox) (s : State) (acc : Accepted c h mb k s) :
    message c act h mb k s =
      .next (settle s (((act s.store (takenAt s h mb k) (msgAt s h mb k)).write c (msgAt s h mb k) false).interrupts 16)) := by
  obtain ⟨⟨-, pairThere, copies, posted, takes⟩, header, body, job, feature, first, -⟩ := acc
  rw [message_eq c act h mb k s pairThere copies posted takes header body]
  have job' : (takenAt s h mb k).jobCheck c (msgAt s h mb k) = OK := job
  have feature' : (takenAt s h mb k).featCheck c = OK := feature
  have first' : (takenAt s h mb k).behind (takenAt s h mb k).eng.pend (msgAt s h mb k) (objOf (msgAt s h mb k)) = false := first
  have checked : applyMsg c act (fun _ _ m => objOf m) (takenAt s h mb k).eng.pend false s.store (takenAt s h mb k) (msgAt s h mb k) =
      (act s.store (takenAt s h mb k) (msgAt s h mb k)).write c (msgAt s h mb k) false := by
    simp [applyMsg, job', feature', first']
  exact congrArg (fun b => Host.Outcome.next (settle s (Block.interrupts b 16))) checked

theorem Block.onPair_msiAddr (b : Block) (h g key : Nat) (f : Pair → Pair) :
    ((b.onPair h key f).hub g).regs.msiAddr = (b.hub g).regs.msiAddr := by
  unfold Block.onPair
  exact b.hub_onHub_proj h g _ (fun x => x.regs.msiAddr) (fun _ => rfl)

/-- With no interrupt address, a reply leaves no interrupt write to be made. -/
theorem Block.reply_wr (b : Block) (m : Msg) (len rstate status detail ans body : Nat) (quiet : (b.hub m.hub).regs.msiAddr = 0) :
    (b.reply m len rstate status detail ans body).wr = b.wr := by
  unfold Block.reply
  dsimp only
  split
  · rfl
  · split
    · refine (Block.raise_wr _ m.hub intREPLY (.inl ?_)).trans rfl
      rw [Block.onPair_msiAddr, quiet]
    · rfl

theorem Msg.code_lt (m : Msg) : m.code < 2 ^ 16 := bits_lt m.x 8 16

theorem Msg.tag_lt (m : Msg) : m.tag < 2 ^ 16 := bits_lt m.x 48 16

/-- The reply slot of a message answered DONE: STATUS and the header's fields, and the body's bytes within the card's length (Table 13-6). -/
theorem doneReply_of_reply (b : Block) (m : Msg) (t : State) (len status detail ans body : Nat) (x : Hub) (found : b.hubs.get? m.hub = some x)
    (written : t.blk.pair m.hub m.key = (b.reply m len 2 status detail ans body).pair m.hub m.key) (long : 16 ≤ len) (short : len ≤ 256)
    (fits : status < 2 ^ 16) :
    DoneReply t m status ∧ ∀ off n, 16 ≤ off → off + n ≤ len → replied t m off n = bits body (8 * off) (8 * n) := by
  rw [Block.reply_pair b m len 2 status detail ans body x found] at written
  constructor
  · refine ⟨?_, ?_, ?_, ?_, ?_⟩ <;> rw [written]
    · rfl
    · rw [reply_header_bits _ _ _ _ _ _ (by omega) long short, replyHeader_rstate]
      norm_num
    · rw [reply_header_bits _ _ _ _ _ _ (by omega) long short, replyHeader_status, Nat.mod_eq_of_lt fits]
    · rw [reply_header_bits _ _ _ _ _ _ (by omega) long short, replyHeader_code, Nat.mod_eq_of_lt m.code_lt]
    · rw [reply_header_bits _ _ _ _ _ _ (by omega) long short, replyHeader_tag, Nat.mod_eq_of_lt m.tag_lt]
  · intro off n low high
    rw [replied, written]
    exact reply_body_bits _ _ _ _ _ _ (replyHeader_lt m _ _ _ _ _) (by omega) (by omega) short

/-- An answer that ends the message is written as a DONE reply, on a block with the answer's hubs and writes. -/
theorem Ans.write_done (a : Ans) (c : Card) (m : Msg) (wasPending : Bool) (ends : a.pend = none) :
    ∃ (b : Block) (ans : Nat), a.write c m wasPending = b.reply m c.rep 2 a.status a.detail ans a.body ∧ b.hubs = a.b.hubs ∧ b.wr = a.b.wr := by
  unfold Ans.write
  rw [ends]
  dsimp only
  split
  · exact ⟨_, _, rfl, rfl, rfl⟩
  · exact ⟨_, _, rfl, rfl, rfl⟩

/-- An accepted message whose own part ends at once, changing neither hubs nor memory, runs to its DONE reply. -/
theorem message_answers (c : Card) (act : Store → Block → Msg → Ans) (h k : Nat) (mb : Mbox) (s : State) (a : Ans) (acc : Accepted c h mb k s)
    (answer : act s.store (takenAt s h mb k) (msgAt s h mb k) = a) (ends : a.pend = none) (hubs : a.b.hubs = (takenAt s h mb k).hubs)
    (noWrites : a.b.wr = []) (long : 16 ≤ c.rep) (short : c.rep ≤ 256) (fits : a.status < 2 ^ 16) :
    ∃ t, message c act h mb k s = .next t ∧ t.pending = s.pending ∧ DoneReply t (msgAt s h mb k) a.status ∧ t.store = s.store ∧
      ∀ off n, 16 ≤ off → off + n ≤ c.rep → replied t (msgAt s h mb k) off n = bits a.body (8 * off) (8 * n) := by
  have run := message_accepted c act h k mb s acc
  obtain ⟨⟨there, -⟩, -, -, -, -, -, quiet⟩ := acc
  obtain ⟨x, found⟩ := Option.ne_none_iff_exists'.mp there
  obtain ⟨b, ans, write, hubs', wr'⟩ := a.write_done c (msgAt s h mb k) false ends
  have silent : (b.hub h).regs.msiAddr = 0 := by
    rw [Block.hub, hubs', hubs]
    exact (s.start.onPair_msiAddr h h _ _).trans (quiet h)
  have unwritten : (b.reply (msgAt s h mb k) c.rep 2 a.status a.detail ans a.body).wr = [] :=
    (b.reply_wr _ _ _ _ _ _ _ silent).trans (wr'.trans noWrites)
  obtain ⟨y, found'⟩ : ∃ y, b.hubs.get? h = some y := by simp [hubs', hubs, takenAt, found]
  rw [answer, write, Block.interrupts_none _ (by simp [unwritten])] at run
  obtain ⟨done, body⟩ := doneReply_of_reply b (msgAt s h mb k) (settle s _) c.rep a.status a.detail ans a.body y found' rfl long short fits
  refine ⟨_, run, rfl, done, ?_, body⟩
  rw [settle_store, unwritten]
  rfl

end Sys2Proof.Machine
end

section
/-!
SUPPORT. ALMANAC_READ (R374): copying a message does not touch what the Almanac shows, and the reply's fields.
-/
namespace Sys2Proof.Machine
open Sys2Proof.Spec

/-- No field of the Almanac shows a mailbox (Tables 15-4 to 15-6). -/
theorem Block.almanac_onPair (b : Block) (h key : Nat) (f : Pair → Pair) : (b.onPair h key f).almanac = b.almanac := by
  have shown : ∀ {α : Type} (p : Hub → α), (∀ x ps, p { x with pairs := ps } = p x) → ∀ g, p ((b.onPair h key f).hub g) = p (b.hub g) :=
    fun p keeps g => b.hub_onHub_proj h g _ p (fun x => keeps x _)
  have up : (b.onPair h key f).hubUp = b.hubUp := funext (shown (·.inService) fun _ _ => rfl)
  have head : (b.onPair h key f).almHead = b.almHead := by
    unfold Block.almHead Block.upHubs
    rw [up]
    rfl
  have hubs : (b.onPair h key f).almHub = b.almHub := by
    funext g
    unfold Block.almHub Block.groupHub
    rw [up]
    simp only [shown (·.inService) (fun _ _ => rfl) g, shown (·.stewards) (fun _ _ => rfl) g, shown (·.clusters) (fun _ _ => rfl) g,
      shown (·.slice) (fun _ _ => rfl) g]
  unfold Block.almanac
  rw [head, hubs]
  rfl

theorem almanac_takenAt (s : State) (h : Nat) (mb : Mbox) (k : Nat) : (takenAt s h mb k).almanac = s.blk.almanac :=
  (s.start.almanac_onPair h _ _).trans rfl

/-- The body of the reply: ALMGEN, TOTAL, N and the bytes. -/
def almanacBody (gen total n bytes : Nat) : Nat := bodyOf [(16, 4, gen), (20, 4, total), (24, 4, n), (32, 224, bytes)]

theorem almanacBody_gen (gen total n bytes : Nat) : bits (almanacBody gen total n bytes) (8 * 16) (8 * 4) = gen % 2 ^ 32 :=
  bits_pack_low _ _ _ _ _ le_rfl (by simp [Apart])

theorem almanacBody_total (gen total n bytes : Nat) : bits (almanacBody gen total n bytes) (8 * 20) (8 * 4) = total % 2 ^ 32 := by
  refine (bits_pack_skip _ _ _ _ _ _ (by omega)).trans ?_
  exact bits_pack_low _ _ _ _ _ le_rfl (by simp [Apart])

theorem almanacBody_count (gen total n bytes : Nat) : bits (almanacBody gen total n bytes) (8 * 24) (8 * 4) = n % 2 ^ 32 := by
  refine (bits_pack_skip _ _ _ _ _ _ (by omega)).trans ((bits_pack_skip _ _ _ _ _ _ (by omega)).trans ?_)
  exact bits_pack_low _ _ _ _ _ le_rfl (by simp [Apart])

theorem almanacBody_bytes (gen total n bytes len : Nat) (fits : len ≤ 224) :
    bits (almanacBody gen total n bytes) (8 * 32) (8 * len) = bytes % 2 ^ (8 * len) := by
  refine (bits_pack_skip _ _ _ _ _ _ (by omega)).trans ((bits_pack_skip _ _ _ _ _ _ (by omega)).trans
    ((bits_pack_skip _ _ _ _ _ _ (by omega)).trans ?_))
  exact bits_pack_low _ _ _ _ _ (by omega) (by simp [Apart])

/-- Bytes of a list, through a number cut to as many bytes. -/
theorem toBytes_ofBytes_mod (bs : List Byte) : toBytes bs.length (ofBytes bs % 2 ^ (8 * bs.length)) = bs := by
  have small : ofBytes bs < 2 ^ (8 * bs.length) := by
    rw [Nat.pow_mul]
    exact ofBytes_lt bs
  rw [Nat.mod_eq_of_lt small, toBytes_ofBytes]

/-- ALMANAC_READ's own part where OFFSET is aligned and GENWANT, if given, is the current ALMGEN. -/
theorem msgAlmanacRead_reads (st : Store) (b : Block) (m : Msg) (aligned : m.at 16 4 % 8 = 0)
    (wanted : m.at 20 4 = 0 ∨ m.at 20 4 = b.eng.almGen) :
    msgAlmanacRead st b m = .ok b (almanacBody b.eng.almGen b.almanac.length (min 224 (b.almanac.length - m.at 16 4))
      (ofBytes ((b.almanac.drop (m.at 16 4)).take (min 224 (b.almanac.length - m.at 16 4))))) := by
  unfold msgAlmanacRead
  dsimp only
  rw [if_neg (by omega), if_neg (by tauto)]
  rfl

/-- ALMANAC_READ's own part where GENWANT is another generation. -/
theorem msgAlmanacRead_changed (st : Store) (b : Block) (m : Msg) (aligned : m.at 16 4 % 8 = 0) (given : m.at 20 4 ≠ 0)
    (other : m.at 20 4 ≠ b.eng.almGen) :
    msgAlmanacRead st b m = { b := b, status := ALMANAC_CHANGED, body := bodyOf [(16, 4, b.eng.almGen)] } := by
  unfold msgAlmanacRead
  dsimp only
  rw [if_neg (by omega), if_pos ⟨given, other⟩]

/-- Settles O13: an accepted ALMANAC_READ comes to `msgAlmanacRead` on the Almanac as it stood, and `message_answers` reads its fields back from
the reply slot. -/
theorem almanacReadReturnsItsBytes : Obligations.AlmanacReadReturnsItsBytes := by
  unfold Obligations.AlmanacReadReturnsItsBytes
  intro h k mb s m total n acc aligned genFits totalFits
  have almanac := almanac_takenAt s h mb k
  have count : n = min 224 (total - m.at 16 4) := by
    dsimp only [n]
    split <;> omega
  constructor
  · intro wanted
    have reads := msgAlmanacRead_reads s.store (takenAt s h mb k) m aligned wanted
    rw [almanac, ← count] at reads
    obtain ⟨t, runs, pending, done, store, body⟩ := message_answers cardAlmanacRead msgAlmanacRead h k mb s _ acc reads rfl rfl rfl
      (by decide) le_rfl (Nat.two_pow_pos 16)
    refine ⟨t, runs, pending, done, store, ?_, ?_, ?_, ?_⟩
    · exact (body 16 4 (by decide) (by decide)).trans ((almanacBody_gen _ _ _ _).trans (Nat.mod_eq_of_lt genFits))
    · exact (body 20 4 (by decide) (by decide)).trans ((almanacBody_total _ _ _ _).trans (Nat.mod_eq_of_lt totalFits))
    · exact (body 24 4 (by decide) (by decide)).trans ((almanacBody_count _ _ _ _).trans (Nat.mod_eq_of_lt (by omega)))
    · have length : ((s.blk.almanac.drop (m.at 16 4)).take n).length = n := by
        rw [List.length_take, List.length_drop]
        omega
      have fits : n ≤ 224 := by omega
      have field := (body 32 n (by decide) (by change 32 + n ≤ 256; omega)).trans (almanacBody_bytes _ _ _ _ n fits)
      have bytes := toBytes_ofBytes_mod ((s.blk.almanac.drop (m.at 16 4)).take n)
      rw [length] at bytes
      rwa [field]
  · intro given other
    have changed := msgAlmanacRead_changed s.store (takenAt s h mb k) m aligned given other
    obtain ⟨t, runs, pending, done, store, body⟩ := message_answers cardAlmanacRead msgAlmanacRead h k mb s _ acc changed rfl rfl rfl
      (by decide) le_rfl (show ALMANAC_CHANGED < 2 ^ 16 by decide)
    refine ⟨t, runs, pending, done, store, ?_⟩
    exact (body 16 4 (by decide) (by decide)).trans ((bits_pack_low _ _ _ _ _ le_rfl (by simp [Apart])).trans (Nat.mod_eq_of_lt genFits))

end Sys2Proof.Machine
end

section
/-!
SUPPORT. Every command of the block is `run` of one effect on the block, so it answers a next state, leaves the queue, makes all its writes,
and keeps memory in its canonical form.
-/
namespace Sys2Proof.Machine

/-- Every command settles the state from a block that its effect left: the arms of `exec` are `run`, `live`, `firmware` and `message` (log 1). -/
theorem exec_settles (i : Instr) (s : State) : ∃ b, exec i s = .next (settle s b) := by
  cases i <;> exact ⟨_, rfl⟩

/-- Settles O1: the two branches of `step`. -/
theorem stepRunsTheFrontCommandOrIdles : Obligations.StepRunsTheFrontCommandOrIdles := by
  unfold Obligations.StepRunsTheFrontCommandOrIdles
  constructor
  · intro c cs s front
    rw [step, front]
  · intro s idle
    rw [step, idle]

/-- Settles O2: a settled state keeps the queue and has no write pending. -/
theorem everyCommandAnswersANextState : Obligations.EveryCommandAnswersANextState := by
  unfold Obligations.EveryCommandAnswersANextState
  intro i s
  obtain ⟨b, answers⟩ := exec_settles i s
  exact ⟨settle s b, answers, settle_pending s b, settle_wr s b⟩

/-- A command keeps memory in its canonical form: it only lists writes, and every write keeps it (`settle_wf`). -/
theorem exec_keeps_memInv (i : Instr) (s t : State) (inv : MemInv s) (runs : exec i s = .next t) : MemInv t := by
  obtain ⟨b, answers⟩ := exec_settles i s
  obtain rfl := Host.Outcome.next.inj (answers.symm.trans runs)
  exact settle_wf s b inv

/-- Settles O3: an idle step changes nothing, and any other is a command on the queue's rest. -/
theorem everyStepKeepsMemoryCanonical : Obligations.EveryStepKeepsMemoryCanonical := by
  unfold Obligations.EveryStepKeepsMemoryCanonical
  intro s t inv steps
  obtain ⟨front, idle⟩ := stepRunsTheFrontCommandOrIdles
  cases queue : s.pending with
  | nil =>
    rw [idle s queue] at steps
    obtain rfl := Host.Outcome.next.inj steps
    exact inv
  | cons c cs =>
    rw [front c cs s queue] at steps
    exact exec_keeps_memInv c { s with pending := cs } t inv steps

/-- Before power each of the four hubs is as the register maps reset it. -/
theorem reset_hub (h : Nat) (hub : h < 4) : State.reset.blk.hub h = {} := by
  interval_cases h <;> rfl

/-- Settles O4: no byte is listed, and each hub stands at its reset value (`reset_hub`). -/
theorem resetIsUnpoweredAndCanonical : Obligations.ResetIsUnpoweredAndCanonical := by
  unfold Obligations.ResetIsUnpoweredAndCanonical
  refine ⟨rfl, rfl, rfl, rfl, fun h hub => ?_⟩
  unfold Block.fw Block.age Block.pair
  rw [reset_hub h hub]
  exact ⟨rfl, rfl, rfl, rfl, rfl, rfl, rfl, rfl, fun _ => rfl⟩

end Sys2Proof.Machine
end

section
/-!
SUPPORT. A command whose effect leaves no write to be made: memory stands, and the block is what the effect left. Every statement about such a
command goes through `Runs.of_effect`.
-/
namespace Sys2Proof.Spec
open Sys2Proof.Machine

/-- A command whose effect leaves no interrupt write answers the state settled from it. -/
theorem Runs.of_settle {i : Instr} {s : State} {P : State → Prop} {e : Block} (arm : exec i s = .next (settle s (e.interrupts 16))) (b : Block)
    (effect : e = b) (silent : ∀ k a d, Wr.intr k a d ∉ b.wr) (holds : P (settle s b)) : Runs i s P := by
  subst effect
  rw [Block.interrupts_none _ silent] at arm
  exact ⟨_, arm, rfl, holds⟩

/-- A command whose effect writes nothing leaves memory and answers the effect's block. -/
theorem Runs.of_effect {i : Instr} {s : State} {P : State → Prop} {e : Block} (arm : exec i s = .next (settle s (e.interrupts 16))) (b : Block)
    (effect : e = b) (unwritten : b.wr = []) (holds : P { s with blk := b }) : Runs i s P := by
  refine Runs.of_settle arm b effect (by simp [unwritten]) ?_
  have same : settle s b = { s with blk := b } := by
    cases b
    cases unwritten
    rfl
  rwa [same]

/-- A command answers what one that runs the same does. -/
theorem Runs.mono {i : Instr} {s : State} {P Q : State → Prop} (runs : Runs i s P) (imp : ∀ t, P t → Q t) : Runs i s Q := by
  obtain ⟨t, answers, queue, holds⟩ := runs
  exact ⟨t, answers, queue, imp t holds⟩

end Sys2Proof.Spec
end

section
/-!
SUPPORT. The test access port (R440): each of its commands is one change of a hub's port, after at most one free value drawn.
-/
namespace Sys2Proof.Machine
open Sys2Proof.Spec

/-- A command that changes the test port of hub h, some free values drawn. -/
theorem runs_onTap {i : Instr} {s : State} {P : State → Prop} (h n : Nat) (f : Tap → Tap) (x : Hub) (found : s.blk.hubs.get? h = some x)
    (arm : exec i s = .next (settle s ((({ s.start with freeCount := n } : Block).onTap h f).interrupts 16)))
    (holds : ∀ t, OnlyTap s t h x → (t.blk.hub h).tap = f x.tap → P t) : Runs i s P := by
  have same : (({ s.start with freeCount := n } : Block).onTap h f).hub h = { x with tap := f x.tap } :=
    Block.hub_onHub_same _ h _ x found
  refine Runs.of_effect arm _ rfl rfl (holds _ ⟨rfl, rfl, ?_, ?_⟩ ?_)
  · exact fun g other => Block.hub_onHub_other _ h g _ other
  · exact same.trans (by rw [same])
  · exact congrArg Hub.tap same

/-- What the pins show of RSTN, PWRGD and ALERTN, whatever the other pins do (Table 15-10). -/
theorem pinSample_shows (b : Block) (h : Nat) : bits (b.pinSample h).1 0 1 = b2n b.eng.power.rstn ∧
    bits (b.pinSample h).1 1 1 = b2n b.eng.power.pwrgd ∧ bits (b.pinSample h).1 4 1 = b2n (!b.alert h) := by
  have oneBit : ∀ v : Bool, b2n v % 2 ^ 1 = b2n v := by decide
  unfold Block.pinSample
  refine ⟨?_, ?_, ?_⟩
  · rw [bits_setBits_other _ _ _ _ _ _ (by omega), bits_setBits_other _ _ _ _ _ _ (by omega), bits_setBits_same, oneBit]
    rfl
  · rw [bits_setBits_other _ _ _ _ _ _ (by omega), bits_setBits_same, oneBit]
    rfl
  · rw [bits_setBits_same, oneBit]
    rfl

/-- Settles O5: each command is `runs_onTap` with its own change of the port; the pins are those of `pinSample_shows`. -/
theorem testPortSelectsScansAndDrives : Obligations.TestPortSelectsScansAndDrives := by
  unfold Obligations.TestPortSelectsScansAndDrives
  constructor
  · intro h s x _ found
    refine ⟨?_, ?_, ?_, ?_, ?_⟩ <;>
      refine runs_onTap h s.blk.freeCount _ x found rfl fun t only port => ?_ <;>
      simp [only, port]
  · intro h load s x _ found
    have shows := pinSample_shows s.start h
    constructor <;>
      refine runs_onTap h (s.blk.freeCount + 1) _ x found rfl fun t only port => ?_ <;>
      refine ⟨only, ?_⟩ <;>
      simp only [port]
    · exact ⟨shows, by simp⟩
    · exact ⟨shows, by simp⟩

end Sys2Proof.Machine
end

section
/-!
SUPPORT. One hub changed: changes of a hub compose, and a command that only changes one hub leaves everything else.
-/
namespace Sys2Proof

@[simp] theorem Tbl.put_put_same {α : Type} (t : Tbl α) (k : Nat) (v w : α) : Tbl.put (Tbl.put t k v) k w = Tbl.put t k w := by
  induction t with
  | nil => simp [Tbl.put]
  | cons e t ih =>
    obtain ⟨q, u⟩ := e
    by_cases below : k < q
    · simp [Tbl.put, below]
    · by_cases here : q = k
      · simp [Tbl.put, here]
      · have other : ¬ k = q := fun same => here same.symm
        simp [Tbl.put, below, other, ih]

theorem Tbl.modify_of_none {α : Type} (t : Tbl α) (k : Nat) (f : α → α) (absent : Tbl.get? t k = none) : Tbl.modify t k f = t := by
  simp [Tbl.modify, absent]

@[simp] theorem Tbl.modify_modify_same {α : Type} (t : Tbl α) (k : Nat) (f g : α → α) :
    Tbl.modify (Tbl.modify t k f) k g = Tbl.modify t k fun x => g (f x) := by
  cases found : Tbl.get? t k with
  | none => simp [Tbl.modify_of_none, found]
  | some v => simp [Tbl.modify, found]

end Sys2Proof

namespace Sys2Proof.Machine
open Sys2Proof.Spec

theorem Block.onHub_onHub (b : Block) (h : Nat) (f g : Hub → Hub) : (b.onHub h f).onHub h g = b.onHub h fun x => g (f x) := by
  simp [Block.onHub]

/-- A command that changes one hub, from the hub's record as it was found. -/
theorem runs_onHub {i : Instr} {s : State} {P : State → Prop} {e : Block} (arm : exec i s = .next (settle s (e.interrupts 16))) (h : Nat)
    (g : Hub → Hub) (effect : e = s.start.onHub h g) (x : Hub) (found : s.blk.hubs.get? h = some x)
    (holds : ∀ t, OnlyHub s t h → t.blk.hub h = g x → P t) : Runs i s P :=
  Runs.of_effect arm _ effect rfl (holds _ ⟨rfl, rfl, fun q other => Block.hub_onHub_other _ h q _ other⟩ (Block.hub_onHub_same _ h _ x found))

end Sys2Proof.Machine
end

section
/-!
SUPPORT. The I3C target (R369, R370): a transfer that is acknowledged is one change of the target; fields of a number from its bytes; a whole
message written with GO.
-/
namespace Sys2Proof.Machine
open Sys2Proof.Spec

/-- What an acknowledged transfer leaves of the target: the change it makes, and the bytes it returns. -/
def I3c.acked (f : I3c → I3c) (out : List Byte) (y : I3c) : I3c := { f y with ack := true, out := out }

theorem Block.onI3c_i3cAck (b : Block) (h : Nat) (f : I3c → I3c) (out : List Byte) :
    (b.onI3c h f).i3cAck h out = b.onHub h fun x => { x with i3c := x.i3c.acked f out } :=
  b.onHub_onHub h _ _

theorem i3cBroadcast_up (h : Nat) (f : I3c → I3c) (b : Block) (up : b.winUp h = true) :
    i3cBroadcast h f b = b.onHub h fun x => { x with i3c := x.i3c.acked f [] } := by
  rw [i3cBroadcast, Block.i3cUp, if_pos up, Block.onI3c_i3cAck]

theorem i3cDirect_up (h : Nat) (f : I3c → I3c) (out : Block → List Byte) (b : Block) (up : b.winUp h = true) (addressed : (b.hub h).i3c.dyn ≠ none) :
    i3cDirect h f out b = b.onHub h fun x => { x with i3c := x.i3c.acked f (out b) } := by
  rw [i3cDirect, Block.i3cUp, if_pos (by simp [up, Option.isSome_iff_ne_none, addressed]), Block.onI3c_i3cAck]

/-- A transfer that the target acknowledges. -/
theorem runs_acked {i : Instr} {s : State} {P : State → Prop} {e : Block} (arm : exec i s = .next (settle s (e.interrupts 16)))
    (h : Nat) (g : I3c → I3c) (out : List Byte) (effect : e = s.start.onHub h fun x => { x with i3c := x.i3c.acked g out }) (x : Hub)
    (found : s.blk.hubs.get? h = some x) (holds : ∀ t, I3cAcks s t h x → (t.blk.hub h).i3c = x.i3c.acked g out → P t) : Runs i s P := by
  refine runs_onHub arm h _ effect x found fun t only hub => holds t ⟨only, ?_, ?_⟩ ?_ <;> rw [hub]
  rfl

/-- The low bits of a conjunction. -/
theorem and_mod_two (x r : Nat) : (x &&& r) % 2 = 1 ↔ x % 2 = 1 ∧ r % 2 = 1 := by
  have low := Nat.testBit_and x r 0
  simpa only [Nat.testBit_zero, ← Bool.decide_and, decide_eq_decide] using low

theorem testBit_clearReason (x r i : Nat) : (clearReason x r).testBit i = (x.testBit i && !r.testBit i) := by
  induction i generalizing x r with
  | zero =>
    have le : x &&& r ≤ x := Nat.and_le_left
    have low := and_mod_two x r
    simp only [clearReason, Nat.testBit_zero, ← decide_not, ← Bool.decide_and, decide_eq_decide]
    omega
  | succ i ih =>
    have halves : clearReason x r / 2 = clearReason (x / 2) (r / 2) := by
      have le : x &&& r ≤ x := Nat.and_le_left
      have half : (x &&& r) / 2 = x / 2 &&& r / 2 := Nat.and_div_two
      have low := and_mod_two x r
      simp only [clearReason, ← half]
      omega
    rw [Nat.testBit_succ, halves, ih, Nat.testBit_succ, Nat.testBit_succ]

/-- Enabling and disabling of target events (ENEC, DISEC): the operand's low eight bits. -/
theorem testBit_mod_256 (ev i : Nat) (low : i < 8) : (ev % 256).testBit i = ev.testBit i := by
  rw [show 256 = 2 ^ 8 from rfl, Nat.testBit_mod_two_pow]
  simp [low]

/-! ### Bytes of a whole message -/

theorem ofBytes_append (bs cs : List Byte) : ofBytes (bs ++ cs) = ofBytes bs + 256 ^ bs.length * ofBytes cs := by
  induction bs with
  | nil => simp [ofBytes]
  | cons b bs ih =>
    simp only [List.cons_append, ofBytes, ih, List.length_cons, Nat.pow_succ]
    ring

/-- A field of whole bytes of a number is the number of those bytes. -/
theorem bits_ofBytes (bs : List Byte) (i n : Nat) : bits (ofBytes bs) (8 * i) (8 * n) = ofBytes ((bs.drop i).take n) := by
  have high : ∀ (cs : List Byte) (j : Nat), ofBytes cs / 256 ^ j = ofBytes (cs.drop j) := by
    intro cs j
    induction j generalizing cs with
    | zero => simp
    | succ j ih =>
      cases cs with
      | nil => simp [ofBytes]
      | cons c cs =>
        have below := c.isLt
        rw [Nat.pow_succ', ← Nat.div_div_eq_div_mul, List.drop_succ_cons, ← ih]
        congr 1
        simp only [ofBytes]
        omega
  have low : ∀ cs : List Byte, ofBytes cs % 256 ^ n = ofBytes (cs.take n) := by
    intro cs
    by_cases short : cs.length ≤ n
    · rw [List.take_of_length_le short, Nat.mod_eq_of_lt]
      exact lt_of_lt_of_le (ofBytes_lt cs) (Nat.pow_le_pow_right (by omega) short)
    · have length : (cs.take n).length = n := by
        rw [List.length_take]
        omega
      have small := ofBytes_lt (cs.take n)
      rw [length] at small
      conv_lhs => rw [← List.take_append_drop n cs, ofBytes_append, length]
      rw [Nat.add_mul_mod_self_left, Nat.mod_eq_of_lt small]
  have bytes : ∀ k, 2 ^ (8 * k) = 256 ^ k := fun k => by rw [Nat.pow_mul]
  rw [bits, Nat.shiftRight_eq_div_pow, bytes, bytes, high, low]

/-- A request slot written whole holds the bytes written. -/
theorem slotPatch_whole (old : BitVec 2048) (data : List Byte) (whole : data.length = 256) : (slotPatch old 0 data).toNat = ofBytes data := by
  have fits : ofBytes data < 2 ^ (8 * 256) := by
    rw [Nat.pow_mul, ← whole]
    exact ofBytes_lt data
  have none : old.toNat >>> 2048 = 0 := by
    rw [Nat.shiftRight_eq_div_pow]
    exact Nat.div_eq_of_lt old.isLt
  rw [slotPatch, setBits, whole]
  simp only [Nat.mul_zero, Nat.zero_add, none, Nat.zero_shiftLeft, Nat.shiftLeft_zero, Nat.mod_eq_of_lt fits, pow_zero, Nat.mod_one, Nat.or_zero, Nat.zero_or, BitVec.toNat_ofNat]

/-- A whole message written with GO to a pair that is not busy is posted as written (R359). -/
theorem Block.slotWrite_posts (b : Block) (h key : Nat) (data : List Byte) (pm : Bool) (x : Hub) (found : b.hubs.get? h = some x)
    (free : (b.pair h key).st.busy = false) (whole : data.length = 256)
    (known : msgCodes.contains (ofBytes ((data.drop 1).take 2)) = true) :
    b.slotWrite h key 0 data true pm = b.onPair h key fun p => { p with req := slotPatch p.req 0 data, st := .posted, pm := pm } := by
  have written := b.pair_onPair_same h key (fun p => { p with req := slotPatch p.req 0 data, st := .posted, pm := pm }) x found
  have code : bits (ofBytes data) 8 16 = ofBytes ((data.drop 1).take 2) := bits_ofBytes data 1 2
  simp only [Block.slotWrite, free, Bool.false_eq_true, if_false, if_true, Block.answerUnknown, written, slotPatch_whole _ _ whole, code, known,
    Bool.or_true]

/-- What a whole message posted in a pair shows (R359). -/
theorem toBytes_slotPatch (old : BitVec 2048) (data : List Byte) (whole : data.length = 256) : toBytes 256 (slotPatch old 0 data).toNat = data := by
  rw [slotPatch_whole old data whole, ← whole, toBytes_ofBytes]

/-! ### Private transfers -/

/-- What an I3C read returns: the selected reply slot, ended after LENW times 8 bytes and at the maximum read length (R370). -/
def Block.i3cReply (b : Block) (h : Nat) : List Byte :=
  (toBytes 256 (b.pair h (64 + (b.hub h).i3c.sel)).rep.toNat).take
    (min (8 * bits (b.pair h (64 + (b.hub h).i3c.sel)).rep.toNat 24 8) (b.hub h).i3c.mrl)

/-- An I3C read takes the in-band interrupt of its reply slot. -/
theorem i3cRead_up (h : Nat) (b : Block) (up : b.winUp h = true) (addressed : (b.hub h).i3c.dyn ≠ none) :
    i3cRead h b = b.onHub h fun x =>
      { x with i3c := x.i3c.acked (fun y => { y with ibi := y.ibi.filter (· != BitVec.ofNat 8 (0x10 + (b.hub h).i3c.sel)) }) (b.i3cReply h) } := by
  rw [i3cRead, Block.i3cUp, if_neg (by simp [up, addressed]), Block.onI3c_i3cAck]
  rfl

/-- Selector 0x10 + k selects reply slot k (R370). -/
theorem i3cWrite_selects (h k : Nat) (b : Block) (up : b.winUp h = true) (addressed : (b.hub h).i3c.dyn ≠ none) (slot : k < 4)
    (long : 1 ≤ (b.hub h).i3c.mwl) :
    i3cWrite h [BitVec.ofNat 8 (0x10 + k)] b = b.onHub h fun x => { x with i3c := x.i3c.acked (fun y => { y with sel := k }) [] } := by
  have sel : (BitVec.ofNat 8 (0x10 + k)).toNat = 0x10 + k := by
    rw [BitVec.toNat_ofNat]
    omega
  obtain ⟨n, cut⟩ : ∃ n, (b.hub h).i3c.mwl = n + 1 := ⟨_, (Nat.sub_add_cancel long).symm⟩
  rw [← Block.onI3c_i3cAck]
  have selects : ¬ 16 + k < 4 ∧ 16 + k < 20 := by omega
  simp [i3cWrite, Block.i3cUp, up, addressed, cut, sel, selects]

/-- A whole message written with selector k and GO reaches request slot k (R370). -/
theorem i3cWrite_slot (h k : Nat) (data : List Byte) (b : Block) (up : b.winUp h = true) (addressed : (b.hub h).i3c.dyn ≠ none) (slot : k < 4)
    (whole : data.length = 256) (long : 257 ≤ (b.hub h).i3c.mwl) (go : (data.getD 8 0).getLsbD 0 = true) :
    i3cWrite h (BitVec.ofNat 8 k :: data) b = (b.i3cAck h []).slotWrite h (64 + k) 0 data true false := by
  have sel : (BitVec.ofNat 8 k).toNat = k := by
    rw [BitVec.toNat_ofNat]
    omega
  have all : (BitVec.ofNat 8 k :: data).take (b.hub h).i3c.mwl = BitVec.ofNat 8 k :: data := List.take_of_length_le (by simp; omega)
  have nonempty : data.isEmpty = false := by
    rw [List.isEmpty_eq_false_iff, ← List.length_pos_iff]
    omega
  simp only [i3cWrite, Block.i3cUp, up, all, sel, slot, whole, go, nonempty, List.take_of_length_le (le_of_eq whole)]
  simp [addressed]

theorem ofBytes_beBytes (n x : Nat) : ofBytes (beBytes n x).reverse = x % 256 ^ n := by
  rw [beBytes, List.reverse_reverse, ofBytes_toBytes]

/-- The provisional ID has 48 bits (R439). -/
theorem pidVal_lt (h : Nat) : pidVal h < 256 ^ 6 := pack_lt _ 48 (by simp)

/-- Settles O6: each transfer is one change of the target (`runs_acked`), but for a whole message, which posts it in its slot
(`Block.slotWrite_posts`). -/
theorem i3cCommandsAndTransfersAct : Obligations.I3cCommandsAndTransfersAct := by
  unfold Obligations.I3cCommandsAndTransfersAct
  refine ⟨fun h s x found up => ?_, fun h s x found up addressed => ?_, fun h s x found up addressed => ?_⟩
  · have hub : s.start.hub h = x := Block.hub_of_get s.start h x found
    have assigns : ∀ {i : Instr} {e : Block} (P : I3c → Prop) (g : I3c → I3c), exec i s = .next (settle s (e.interrupts 16)) →
        e = i3cBroadcast h g s.start → P (x.i3c.acked g []) → Runs i s fun t => I3cAcks s t h x ∧ P (t.blk.hub h).i3c :=
      fun P g arm effect holds => runs_acked arm h g [] (effect.trans (i3cBroadcast_up h g s.start up)) x found
        fun t acks target => ⟨acks, target ▸ holds⟩
    refine ⟨fun ev => ?_, fun ev => ?_, ?_, fun none a small => ?_, fun none a small => ?_, fun some a small => ?_, fun n fits => ?_,
      fun n fits => ?_, fun d known => ?_⟩
    · refine assigns (fun y => ∀ i, i < 8 → y.events.testBit i = (x.i3c.events.testBit i || ev.testBit i))
        (fun y => { y with events := y.events ||| ev % 256 }) rfl rfl fun i low => ?_
      exact (Nat.testBit_or _ _ i).trans (by rw [testBit_mod_256 ev i low])
    · refine assigns (fun y => ∀ i, i < 8 → y.events.testBit i = (x.i3c.events.testBit i && !ev.testBit i))
        (fun y => { y with events := clearReason y.events (ev % 256) }) rfl rfl fun i low => ?_
      exact (testBit_clearReason _ _ i).trans (by rw [testBit_mod_256 ev i low])
    · exact assigns (·.dyn = none) (fun y => { y with dyn := none }) rfl rfl rfl
    · exact assigns (·.dyn = some a) (fun y => { y with dyn := some (a % 128) }) rfl (if_pos (by simp [hub, none]))
        (congrArg some (Nat.mod_eq_of_lt small))
    · exact assigns (·.dyn = some a) (fun y => { y with dyn := some (a % 128) }) rfl (if_pos (by simp [hub, none]))
        (congrArg some (Nat.mod_eq_of_lt small))
    · exact runs_acked rfl h (fun y => { y with dyn := Option.some (a % 128) }) [] (i3cDirect_up h _ (fun _ => []) s.start up (hub.symm ▸ some)) x found
        fun t acks target => ⟨acks, (congrArg I3c.dyn target).trans (congrArg Option.some (Nat.mod_eq_of_lt small))⟩
    · exact assigns (·.mwl = n) (fun y => { y with mwl := min n 257 }) rfl rfl (Nat.min_eq_left fits)
    · exact assigns (·.mrl = n) (fun y => { y with mrl := min n 256 }) rfl rfl (Nat.min_eq_left fits)
    · exact assigns (fun y => y.dyn = x.i3c.dyn ∧ y.mwl = 257 ∧ y.mrl = 256) (fun y => { dyn := y.dyn }) rfl (if_pos known) ⟨rfl, rfl, rfl⟩
  · intro keeps
    have hub : s.start.hub h = x := Block.hub_of_get s.start h x found
    have reads : ∀ {i : Instr} {e : Block} (P : List Byte → Prop) (out : Block → List Byte), exec i s = .next (settle s (e.interrupts 16)) →
        e = i3cDirect h id out s.start → P (out s.start) → Runs i s fun t => keeps t ∧ P (t.blk.hub h).i3c.out := by
      intro i e P out arm effect holds
      refine runs_acked arm h id _ (effect.trans (i3cDirect_up h id out s.start up (hub.symm ▸ addressed))) x found fun t acks target => ?_
      exact ⟨⟨acks, by rw [target]; rfl⟩, by rw [target]; exact holds⟩
    refine ⟨?_, ?_, ?_, ?_, ?_, ?_⟩
    · refine reads (fun out => out.length = 6 ∧ ofBytes out.reverse = pidVal h) (fun _ => beBytes 6 (pidVal h)) rfl rfl ⟨by simp [beBytes], ?_⟩
      rw [ofBytes_beBytes, Nat.mod_eq_of_lt (pidVal_lt h)]
    · exact reads (· = [0x06]) (fun _ => [0x06]) rfl rfl rfl
    · exact reads (· = [0x00]) (fun _ => [0x00]) rfl rfl rfl
    · exact reads (·.head? = _) (fun b => [BitVec.ofNat 8 (b2n (b.mgmtDone h)), BitVec.ofNat 8 (b2n (!(b.hub h).i3c.ibi.isEmpty))]) rfl rfl rfl
    · refine reads (fun out => ofBytes out.reverse = x.i3c.mwl % 65536) (fun b => beBytes 2 (b.hub h).i3c.mwl) rfl rfl ?_
      rw [ofBytes_beBytes, hub, show 256 ^ 2 = 65536 from rfl]
    · refine reads (fun out => ofBytes out.reverse = x.i3c.mrl % 65536) (fun b => beBytes 2 (b.hub h).i3c.mrl) rfl rfl ?_
      rw [ofBytes_beBytes, hub, show 256 ^ 2 = 65536 from rfl]
  · have hub : s.start.hub h = x := Block.hub_of_get s.start h x found
    refine ⟨?_, fun k slot long => ?_, fun k data slot whole long go free known => ?_⟩
    · have effect := i3cRead_up h s.start up (hub.symm ▸ addressed)
      rw [Block.i3cReply, hub] at effect
      exact runs_acked rfl h _ _ effect x found fun t acks target => ⟨acks, congrArg I3c.out target⟩
    · refine runs_acked rfl h _ _ (i3cWrite_selects h k s.start up (hub.symm ▸ addressed) slot (hub.symm ▸ long)) x found fun t acks target => ?_
      exact ⟨acks, congrArg I3c.sel target⟩
    · have acked : (s.start.i3cAck h []).hubs.get? h = some { x with i3c := x.i3c.acked id [] } := by
        simp [Block.i3cAck, Block.onI3c, found, I3c.acked]
      have pair : (s.start.i3cAck h []).pair h (64 + k) = s.blk.pair h (64 + k) := s.start.pair_i3cAck h h (64 + k) []
      have posts := Block.slotWrite_posts (s.start.i3cAck h []) h (64 + k) data false _ acked (pair.symm ▸ free) whole known
      have shown := Block.pair_onPair_same (s.start.i3cAck h []) h (64 + k)
        (fun p => { p with req := slotPatch p.req 0 data, st := .posted, pm := false }) _ acked
      refine Runs.of_effect rfl _ ((i3cWrite_slot h k data s.start up (hub.symm ▸ addressed) slot whole (hub.symm ▸ long) go).trans posts) rfl ?_
      refine ⟨congrArg Pair.st shown, congrArg Pair.pm shown, ?_, rfl, rfl, fun g other => ?_⟩
      · exact (congrArg (fun p => toBytes 256 p.req.toNat) shown).trans (toBytes_slotPatch _ data whole)
      · exact (Block.hub_onHub_other _ h g _ other).trans (Block.hub_onHub_other _ h g _ other)

end Sys2Proof.Machine
end

section
/-!
SUPPORT. What the write path keeps: any relation of blocks that holds where the hubs stand, where a hub's cache slice changes and where EVENT is
raised, holds from before to after the interrupt writes at a command's end.
-/
namespace Sys2Proof.Machine

/-- The relation holds across each kind of change that a write to the engine's own memory makes. -/
structure WritePath (R : Block → Block → Prop) : Prop where
  of_hubs : ∀ b c, c.hubs = b.hubs → R b c
  trans : ∀ b c d, R b c → R c d → R b d
  onSlice : ∀ b h f, R b (b.onSlice h f)
  event : ∀ b h, R b (b.raise h intEVENT)

namespace WritePath

theorem foldl {R : Block → Block → Prop} (path : WritePath R) {α : Type} {f : Block → α → Block} (step : ∀ b a, R b (f b a)) (as : List α) (b : Block) :
    R b (as.foldl f b) := by
  induction as generalizing b with
  | nil => exact path.of_hubs b b rfl
  | cons a as ih => exact path.trans _ _ _ (step b a) (ih (f b a))

theorem report {R : Block → Block → Prop} (path : WritePath R) (b : Block) (r : BitVec 256) : R b (b.report r) := by
  have logged : R b (b.logRecord r) := path.of_hubs _ _ (b.logRecord_hubs r)
  unfold Block.report
  split
  · exact logged
  · exact path.trans _ _ _ logged (path.foldl (fun b h => path.event b h) _ _)

theorem lostWrite {R : Block → Block → Prop} (path : WritePath R) (b : Block) (hub granule stack source : Nat) :
    R b (b.lostWrite hub granule stack source) :=
  path.trans _ _ _ (path.of_hubs _ _ (b.sample_hubs 0x10 stack 0)) (path.report _ _)

theorem passTags {R : Block → Block → Prop} (path : WritePath R) (b : Block) (ch row : Nat) (zero : Bool) : R b (b.passTags ch row zero) := by
  refine path.trans _ _ _ ?_ (path.of_hubs _ _ (Block.onDie_hubs _ _ _))
  unfold Block.onGroupSlice
  split
  · exact path.onSlice b _ _
  · exact path.of_hubs b b rfl

theorem wrMem {R : Block → Block → Prop} (path : WritePath R) (b : Block) (hub pa : Nat) (data : List Byte) (source cls : Nat) :
    R b (b.wrMem hub pa data source cls) := by
  refine path.foldl (fun b piece => ?_) _ b
  obtain ⟨a, off, n⟩ := piece
  dsimp only
  split
  · exact path.of_hubs b b rfl
  · split
    · exact path.lostWrite b _ _ _ _
    · exact path.trans _ _ _ (path.of_hubs _ _ (by simp)) (path.passTags _ _ _ _)

theorem interrupts {R : Block → Block → Prop} (path : WritePath R) (b : Block) (fuel : Nat) : R b (b.interrupts fuel) := by
  induction fuel generalizing b with
  | zero => exact path.of_hubs b b rfl
  | succ fuel ih =>
    unfold Block.interrupts
    dsimp only
    split
    · exact path.of_hubs b b rfl
    · have made : ∀ b w, R b (Block.interrupt b w) := by
        intro b w
        cases w with
        | intr h a d => exact path.wrMem b h a d 2 1
        | _ => exact path.of_hubs b b rfl
      refine path.trans _ _ _ (path.trans _ _ _ ?_ (path.foldl made _ _)) (ih _)
      exact path.of_hubs _ _ rfl

end WritePath

/-- Block c holds every boundary register as b does, but for the EVENT cause. -/
def EventOnly (b c : Block) : Prop :=
  ∀ g, ∃ st, (c.hub g).regs = { (b.hub g).regs with intStatus := st } ∧ ∀ i, i ≠ intEVENT → st.getLsbD i = (b.hub g).regs.intStatus.getLsbD i

theorem EventOnly.of_regs {b c : Block} (same : ∀ g, (c.hub g).regs = (b.hub g).regs) : EventOnly b c :=
  fun g => ⟨_, same g, fun _ _ => rfl⟩

/-- Raising EVENT sets no other cause (R409). -/
theorem EventOnly.raise (b : Block) (h : Nat) : EventOnly b (b.raise h intEVENT) := by
  intro g
  have raised : (b.raise h intEVENT).hub g = (b.onRegs h fun r => { r with intStatus := r.intStatus ||| BitVec.ofNat 64 (2 ^ intEVENT) }).hub g := by
    simp only [Block.hub, Block.raise_hubs]
  obtain kept | changed := b.hub_onHub_cases h g fun x => { x with regs := { x.regs with intStatus := x.regs.intStatus ||| BitVec.ofNat 64 (2 ^ intEVENT) } }
  · exact ⟨_, congrArg Hub.regs (raised.trans kept), fun _ _ => rfl⟩
  · refine ⟨(b.hub g).regs.intStatus ||| BitVec.ofNat 64 (2 ^ intEVENT), congrArg Hub.regs (raised.trans changed), fun i other => ?_⟩
    have clear : (BitVec.ofNat 64 (2 ^ intEVENT)).getLsbD i = false := by
      simp only [BitVec.getLsbD_ofNat, Nat.testBit_two_pow, Bool.and_eq_false_imp, decide_eq_false_iff_not]
      exact fun _ => Ne.symm other
    rw [BitVec.getLsbD_or, clear, Bool.or_false]

theorem EventOnly.path : WritePath EventOnly where
  of_hubs _ _ same := .of_regs fun g => by simp only [Block.hub, same]
  trans b c d first second g := by
    obtain ⟨u, one, oneBits⟩ := first g
    obtain ⟨v, two, twoBits⟩ := second g
    exact ⟨v, by rw [two, one], fun i other => by rw [twoBits i other, one, oneBits i other]⟩
  onSlice b h f := .of_regs fun g => b.hub_onHub_proj h g _ (·.regs) fun _ => rfl
  event := EventOnly.raise

end Sys2Proof.Machine
end

section
/-!
SUPPORT. Writes of the boundary registers (R368, R441).
-/
namespace Sys2Proof.Machine
open Sys2Proof.Spec

/-- An interrupt write that does not come back in only goes out (R368). -/
theorem Block.msiWrite_away (b : Block) (h : Nat) (out : (b.hub h).regs.msiAddr.toNat = 0 ∨ ¬ OwnAperture (b.hub h).regs.msiAddr.toNat) :
    b.msiWrite h = { b with outbox := b.outbox ++ if (b.hub h).regs.msiAddr.toNat != 0 then
      [Out.msi h (b.hub h).regs.msiAddr.toNat ((b.hub h).regs.msiData.toNat % 2 ^ 32)] else [] } := by
  unfold Block.msiWrite
  dsimp only
  by_cases unset : (b.hub h).regs.msiAddr.toNat = 0
  · simp [unset]
  · have away := out.resolve_left unset
    simp only [OwnAperture, not_or] at away
    rw [if_neg unset, if_neg away.1, if_neg away.2]
    simp [Block.send, unset]

/-- An address of 0 is an address that is not set. -/
theorem toNat_zero_iff (a : BitVec 64) : a.toNat = 0 ↔ a = 0 := by
  rw [← BitVec.toNat_inj]
  rfl

/-- What a register write at hub h leaves, whose record was x: the registers given and, where an interrupt write is due and an address is set,
that write. -/
def RegsWritten (s : State) (h : Nat) (x : Hub) (due : Bool) (r : Regs) (t : State) : Prop :=
  t.store = s.store ∧ (∀ g, g ≠ h → t.blk.hub g = s.blk.hub g) ∧ t.blk.hub h = { x with regs := r } ∧
    t.blk = { s.start with hubs := t.blk.hubs,
                           outbox := s.blk.outbox ++ if due && x.regs.msiAddr.toNat != 0 then [Out.msi h x.regs.msiAddr.toNat (x.regs.msiData.toNat % 2 ^ 32)] else [] }

/-- The effect of a register write: the registers change, and the interrupt write goes out if it is due. -/
def Block.writeRegs (b : Block) (h : Nat) (f : Regs → Regs) (due : Bool) : Block := if due then (b.onRegs h f).msiWrite h else b.onRegs h f

theorem Block.onRegs_regs (b : Block) (h : Nat) (f : Regs → Regs) (x : Hub) (found : b.hubs.get? h = some x) : ((b.onRegs h f).hub h).regs = f x.regs :=
  congrArg Hub.regs (Block.hub_onHub_same b h _ x found)

/-- A command that writes registers, where its interrupt write does not come back in. -/
theorem runs_writeRegs {i : Instr} {s : State} {e : Block} (arm : exec i s = .next (settle s (e.interrupts 16))) (h : Nat) (f : Regs → Regs) (due : Bool)
    (x : Hub) (found : s.blk.hubs.get? h = some x) (effect : e = s.start.writeRegs h f due) (addr : ∀ r, due = true → (f r).msiAddr = r.msiAddr ∧ (f r).msiData = r.msiData)
    (away : due = true → x.regs.msiAddr.toNat = 0 ∨ ¬ OwnAperture x.regs.msiAddr.toNat) : Runs i s (RegsWritten s h x due (f x.regs)) := by
  have regs : ((s.start.onRegs h f).hub h).regs = f x.regs := s.start.onRegs_regs h f x found
  have others : ∀ g, g ≠ h → (s.start.onRegs h f).hub g = s.blk.hub g := fun g other => Block.hub_onHub_other _ h g _ other
  have here : (s.start.onRegs h f).hub h = { x with regs := f x.regs } := Block.hub_onHub_same _ h _ x found
  cases due with
  | false => exact Runs.of_effect arm _ effect rfl ⟨rfl, others, here, by simp; rfl⟩
  | true =>
    obtain ⟨sameAddr, sameData⟩ := addr x.regs rfl
    have sent := (s.start.onRegs h f).msiWrite_away h (by rw [regs, sameAddr]; exact away rfl)
    rw [regs, sameAddr, sameData] at sent
    exact Runs.of_effect arm _ (effect.trans sent) rfl ⟨rfl, others, here, rfl⟩

/-- A register write may bring its interrupt write back in as an inbound one; what it wrote stands all the same, but for the EVENT cause. -/
theorem runs_writeRegs_kept {i : Instr} {s : State} {e : Block} {P : State → Prop} (arm : exec i s = .next (settle s (e.interrupts 16))) (h : Nat)
    (f : Regs → Regs) (due : Bool) (x : Hub) (found : s.blk.hubs.get? h = some x) (effect : e = s.start.writeRegs h f due)
    (holds : ∀ t st, (t.blk.hub h).regs = { f x.regs with intStatus := st } → (∀ i, i ≠ intEVENT → st.getLsbD i = (f x.regs).intStatus.getLsbD i) → P t) :
    Runs i s P := by
  have hubs : (s.start.writeRegs h f due).hubs = (s.start.onRegs h f).hubs := by
    cases due with
    | false => rfl
    | true => exact Block.msiWrite_hubs _ h
  have regs : ((s.start.writeRegs h f due).hub h).regs = f x.regs := by
    rw [← s.start.onRegs_regs h f x found, Block.hub, hubs]
    rfl
  subst effect
  obtain ⟨st, kept, others⟩ := EventOnly.path.interrupts (s.start.writeRegs h f due) 16 h
  rw [regs] at kept others
  exact ⟨_, arm, rfl, holds _ st kept others⟩

/-- INT_STATUS_WRITE clears the bits given; the interrupt write is due while an enabled cause stands (R368). -/
theorem intStatusWrite_eq (h : Nat) (v : BitVec 64) (b : Block) (x : Hub) (found : b.hubs.get? h = some x) (up : b.winUp h = true) :
    intStatusWrite h v b = b.writeRegs h (fun r => { r with intStatus := r.intStatus &&& ~~~v })
      (decide ((x.regs.intStatus &&& ~~~v) &&& x.regs.intEnable ≠ 0)) := by
  have regs := b.onRegs_regs h (fun r => { r with intStatus := r.intStatus &&& ~~~v }) x found
  rw [intStatusWrite, up, Block.msiIfDue, Block.writeRegs, regs]
  by_cases clear : x.regs.intStatus &&& ~~~v &&& x.regs.intEnable = 0 <;> simp [clear]

/-- INT_ENABLE_WRITE takes the eight enables; the interrupt write is due where a newly enabled cause stands (R368). -/
theorem intEnableWrite_eq (h : Nat) (v : BitVec 64) (b : Block) (x : Hub) (found : b.hubs.get? h = some x) (up : b.winUp h = true) :
    intEnableWrite h v b = b.writeRegs h (fun r => { r with intEnable := v &&& 0xFF#64 })
      (decide ((v &&& 0xFF#64) &&& ~~~x.regs.intEnable &&& x.regs.intStatus ≠ 0)) := by
  have regs := b.onRegs_regs h (fun r => { r with intEnable := v &&& 0xFF#64 }) x found
  rw [intEnableWrite, up, Block.writeRegs]
  dsimp only
  rw [regs, Block.hub_of_get b h x found]
  by_cases clear : v &&& 0xFF#64 &&& ~~~x.regs.intEnable &&& x.regs.intStatus = 0 <;> simp [clear]

/-- Settles O7: the two interrupt registers are `Block.writeRegs` with their own condition for the interrupt write, and the others write none. -/
theorem registerWritesTakeTheirBits : Obligations.RegisterWritesTakeTheirBits := by
  unfold Obligations.RegisterWritesTakeTheirBits
  intro h v s x found up a status enable after cleared enabled
  have status_eq := intStatusWrite_eq h v s.start x found up
  have enable_eq := intEnableWrite_eq h v s.start x found up
  have status_at : registerWrite h 0x0100 v s.start = intStatusWrite h v s.start := by simp [registerWrite, show s.start.winUp h = true from up]
  have enable_at : registerWrite h 0x0108 v s.start = intEnableWrite h v s.start := by simp [registerWrite, show s.start.winUp h = true from up]
  refine ⟨fun away => ⟨?_, ?_, ?_, ?_⟩, ?_, ?_, ?_, ?_, ?_, fun off known outside => ?_⟩
  · exact runs_writeRegs rfl h _ _ x found status_eq (fun _ _ => ⟨rfl, rfl⟩) fun _ => away
  · exact runs_writeRegs rfl h _ _ x found enable_eq (fun _ _ => ⟨rfl, rfl⟩) fun _ => away
  · exact runs_writeRegs rfl h _ _ x found (status_at.trans status_eq) (fun _ _ => ⟨rfl, rfl⟩) fun _ => away
  · exact runs_writeRegs rfl h _ _ x found (enable_at.trans enable_eq) (fun _ _ => ⟨rfl, rfl⟩) fun _ => away
  · refine runs_writeRegs_kept rfl h _ _ x found status_eq fun t st regs bits i other set => ?_
    rw [regs]
    refine (bits i other).trans ?_
    simp [set]
  · refine runs_writeRegs_kept rfl h _ _ x found enable_eq fun t st regs _ => ?_
    rw [regs]
  · exact runs_writeRegs rfl h (fun r => { r with msiAddr := v &&& ~~~(3#64) }) false x found
      (by simp [registerWrite, show s.start.winUp h = true from up, Block.writeRegs]) (by simp) (by simp)
  · exact runs_writeRegs rfl h (fun r => { r with msiData := v &&& 0xFFFFFFFF#64 }) false x found
      (by simp [registerWrite, show s.start.winUp h = true from up, Block.writeRegs]) (by simp) (by simp)
  · exact runs_writeRegs rfl h (fun r => { r with monSel := v &&& 0xFFFFFFFF#64 }) false x found
      (by simp [registerWrite, show s.start.winUp h = true from up, Block.writeRegs]) (by simp) (by simp)
  · simp only [List.mem_cons, List.not_mem_nil, or_false, not_or] at known
    exact Runs.of_effect rfl s.start (by simp [registerWrite, known]) rfl ⟨rfl, rfl⟩

/-- Settles O9: the bytes are one whole slot with GO, which `Block.slotWrite_posts` posts. -/
theorem wholeSlotWriteWithGoPosts : Obligations.WholeSlotWriteWithGoPosts := by
  unfold Obligations.WholeSlotWriteWithGoPosts
  intro h k agent data s x found up slot whole free go known
  have within : (0x4000 + 256 * k) % 256 = 0 := by omega
  have key : (0x4000 + 256 * k - 0x4000) / 256 = k := by omega
  have written : requestSlotWrite h agent (0x4000 + 256 * k) data s.start = s.start.slotWrite h k 0 data true (agent == .pm) := by
    have nonempty : data.isEmpty = false := by
      rw [List.isEmpty_eq_false_iff, ← List.length_pos_iff]
      omega
    unfold requestSlotWrite
    have goBit : (data.getD (8 - 0) 0).getLsbD 0 = true := go
    rw [within, key, if_neg, goBit]
    · simp [whole]
    · simp only [show s.start.winUp h = true from up, nonempty, whole]
      simp
      omega
  have posts := Block.slotWrite_posts s.start h k data (agent == .pm) x found free whole known
  have shown := Block.pair_onPair_same s.start h k (fun p => { p with req := slotPatch p.req 0 data, st := .posted, pm := agent == .pm }) x found
  refine Runs.of_effect rfl _ (written.trans posts) rfl ⟨⟨rfl, rfl, fun g other => Block.hub_onHub_other _ h g _ other⟩, congrArg Pair.st shown, ?_,
    congrArg Pair.pm shown, fun j other => Block.pair_onPair_other _ h k j _ other⟩
  exact (congrArg (fun p => toBytes 256 p.req.toNat) shown).trans (toBytes_slotPatch _ data whole)

end Sys2Proof.Machine
end

section
/-!
SUPPORT. The commands of the message rows: what each runs, what its card says of the reply's length, and the checks that end it early (R361, R363).
-/
namespace Sys2Proof.Machine
open Sys2Proof.Spec

/-- What admission finds is kept only with a message that goes on waiting. -/
theorem admitAt_eq (c : Card) (act : Store → Block → Msg → Ans) (aux : List Nat) (h k : Nat) (mb : Mbox) (st : Store) (b : Block)
    (ended : (b.pair h (pairKey mb k)).st = .posted → ((messageAt c act (fun _ _ m => objOf m) h mb k st b).pair h (pairKey mb k)).st ≠ .pending) :
    admitAt c act aux h mb k st b = messageAt c act (fun _ _ m => objOf m) h mb k st b := by
  unfold admitAt
  dsimp only
  rw [if_neg (by simpa using ended)]

/-- Every message row copies its posted message, checks it and answers it: `messageAt` with its card. -/
theorem exec_message {i : Instr} {c : Card} {h k : Nat} {mb : Mbox} (row : cardOf i = some (c, h, mb, k)) (s : State) :
    ∃ (act : Store → Block → Msg → Ans) (obj : Store → Block → Msg → Obj) (e : Block), exec i s = .next (settle s (e.interrupts 16)) ∧
      (((s.blk.pair h (pairKey mb k)).st = .posted → ((messageAt c act obj h mb k s.store s.start).pair h (pairKey mb k)).st ≠ .pending) →
        e = messageAt c act obj h mb k s.store s.start) := by
  unfold cardOf at row
  split at row <;> cases row
  case h_55 trained trep =>
    exact ⟨msgStackAdmit trained trep, fun _ _ m => objOf m, _, rfl, admitAt_eq _ (msgStackAdmit trained trep) [trained, trep] h k mb s.store s.start⟩
  case h_57 starts =>
    exact ⟨msgHubAdmit starts, fun _ _ m => objOf m, _, rfl, admitAt_eq _ (msgHubAdmit starts) [b2n starts] h k mb s.store s.start⟩
  all_goals exact ⟨_, _, _, rfl, fun _ => rfl⟩

/-- A card's reply has its header, and fits its slot (Table 13-6). -/
theorem card_rep {i : Instr} {c : Card} {h k : Nat} {mb : Mbox} (row : cardOf i = some (c, h, mb, k)) : 16 ≤ c.rep ∧ c.rep ≤ 256 := by
  unfold cardOf at row
  split at row <;> cases row <;> decide

/-- The first failing check's status is one of the list's, or OK. -/
theorem firstFail_lt (n : Nat) (checks : List (Bool × Nat)) (small : (checks.all fun c => decide (c.2 < n)) = true) (pos : 0 < n) :
    firstFail checks < n := by
  induction checks with
  | nil => exact pos
  | cons c cs ih =>
    obtain ⟨fails, status⟩ := c
    simp only [List.all_cons, Bool.and_eq_true, decide_eq_true_eq] at small
    simp only [firstFail]
    split
    · exact small.1
    · exact ih small.2

theorem headerCheck_lt (e : Eng) (m : Msg) (known : Bool) : headerCheck e m known < 2 ^ 16 := firstFail_lt _ _ rfl (Nat.two_pow_pos 16)

theorem bodyCheck_lt (e : Eng) (c : Card) (m : Msg) : bodyCheck e c m < 2 ^ 16 := firstFail_lt _ _ rfl (Nat.two_pow_pos 16)

/-- A message command does nothing where its guard fails (R31, R362, R420). -/
theorem messageAt_idle (c : Card) (act : Store → Block → Msg → Ans) (obj : Store → Block → Msg → Obj) (h k : Nat) (mb : Mbox) (st : Store) (b : Block)
    (idle : (pairExists mb k && b.copies h c.wide && (b.pair h (pairKey mb k)).st == .posted && c.takes (b.pair h (pairKey mb k)).req) = false) :
    messageAt c act obj h mb k st b = b := by
  unfold messageAt
  dsimp only
  rw [if_pos]
  revert idle
  cases pairExists mb k <;> cases b.copies h c.wide <;> simp [imp_iff_not_or, bne]

/-- Settles O10: the guard of `messageAt`. -/
theorem messageCommandNeedsItsPostedMessage : Obligations.MessageCommandNeedsItsPostedMessage := by
  unfold Obligations.MessageCommandNeedsItsPostedMessage
  intro i c h k mb s row idle
  obtain ⟨act, obj, e, arm, ends⟩ := exec_message row s
  have nothing := messageAt_idle c act obj h k mb s.store s.start idle
  rw [nothing] at ends
  refine Runs.of_effect arm s.start (ends fun posted => ?_) rfl ⟨rfl, rfl⟩
  simp [show (s.start.pair h (pairKey mb k)).st = .posted from posted]

end Sys2Proof.Machine
end

section
/-!
SUPPORT. Replies (R361): what a reply leaves of the block, and a message whose header, body or job slot fails its check.
-/
namespace Sys2Proof.Machine
open Sys2Proof.Spec

/-- With no interrupt address, raising a cause only sets it. -/
theorem Block.raise_quiet (b : Block) (h cause : Nat) (quiet : (b.hub h).regs.msiAddr = 0) :
    b.raise h cause = b.onRegs h fun r => { r with intStatus := r.intStatus ||| BitVec.ofNat 64 (2 ^ cause) } := by
  have silent : ∀ c : Block, (c.hub h).regs.msiAddr = 0 → c.msiWrite h = c := by
    intro c unset
    simp [Block.msiWrite, unset]
  unfold Block.raise
  dsimp only
  split
  · refine silent _ ?_
    rw [Block.onRegs_msiAddr, quiet]
    exact fun _ => rfl
  · rfl

/-- With no interrupt address, a reply changes nothing but hubs. -/
theorem Block.reply_quiet (b : Block) (m : Msg) (len rstate status detail ans body : Nat) (quiet : (b.hub m.hub).regs.msiAddr = 0) :
    b.reply m len rstate status detail ans body = { b with hubs := (b.reply m len rstate status detail ans body).hubs } := by
  unfold Block.reply
  dsimp only
  split
  · rfl
  · split
    · rw [Block.raise_quiet _ _ _ (by rw [Block.onPair_msiAddr, quiet])]
      rfl
    · rfl

/-- The jobs, tables, programs, rings, slots in flight and row dies that a block holds. -/
structure SameBooks (b c : Block) : Prop where
  jobs : c.jobs = b.jobs
  tables : c.tables = b.tables
  progs : c.progs = b.progs
  rings : c.rings = b.rings
  works : c.works = b.works
  dies : c.dies = b.dies

theorem SameBooks.refl (b : Block) : SameBooks b b := ⟨rfl, rfl, rfl, rfl, rfl, rfl⟩

theorem SameBooks.trans {b c d : Block} (one : SameBooks b c) (two : SameBooks c d) : SameBooks b d :=
  ⟨two.jobs.trans one.jobs, two.tables.trans one.tables, two.progs.trans one.progs, two.rings.trans one.rings, two.works.trans one.works,
    two.dies.trans one.dies⟩

theorem SameBooks.msiWrite (b : Block) (h : Nat) : SameBooks b (b.msiWrite h) := by
  unfold Block.msiWrite
  dsimp only
  repeat' split
  all_goals exact ⟨rfl, rfl, rfl, rfl, rfl, rfl⟩

theorem SameBooks.onHub (b : Block) (h : Nat) (f : Hub → Hub) : SameBooks b (b.onHub h f) := ⟨rfl, rfl, rfl, rfl, rfl, rfl⟩

theorem SameBooks.raise (b : Block) (h cause : Nat) : SameBooks b (b.raise h cause) := by
  unfold Block.raise
  dsimp only
  split
  · exact (SameBooks.onHub b h _).trans (SameBooks.msiWrite _ h)
  · exact SameBooks.onHub b h _

theorem SameBooks.reply (b : Block) (m : Msg) (len rstate status detail ans body : Nat) : SameBooks b (b.reply m len rstate status detail ans body) := by
  unfold Block.reply
  dsimp only
  split
  · exact SameBooks.onHub b _ _
  · split
    · exact (SameBooks.onHub b _ _).trans (SameBooks.raise _ _ _)
    · exact (SameBooks.onHub b _ _).trans (SameBooks.onHub _ _ _)

/-- A reply's interrupt write that goes to none of the engine's own apertures lists no write. -/
theorem Block.reply_wr_away (b : Block) (m : Msg) (len rstate status detail ans body : Nat)
    (away : (b.hub m.hub).regs.msiAddr = 0 ∨ ¬ OwnAperture (b.hub m.hub).regs.msiAddr.toNat) :
    (b.reply m len rstate status detail ans body).wr = b.wr := by
  unfold Block.reply
  dsimp only
  split
  · rfl
  · split
    · exact (Block.raise_wr _ m.hub intREPLY (by rwa [Block.onPair_msiAddr])).trans rfl
    · rfl

/-- A message that stands posted is copied and checked. -/
theorem messageAt_posted (c : Card) (act : Store → Block → Msg → Ans) (obj : Store → Block → Msg → Obj) (h k : Nat) (mb : Mbox) (s : State)
    (posted : Posted c h mb k s) : messageAt c act obj h mb k s.store s.start =
      (let m := msgAt s h mb k
       let b := takenAt s h mb k
       let s1 := headerCheck b.eng m true
       if s1 ≠ OK then
         if c.code = 0x0001 && s1 = VERSION_UNSUPPORTED then b.reply m c.rep 2 s1 0 h (pack [(136, 8, 0x20)]) else b.reply m 16 2 s1 0 h 0
       else
         let s2 := bodyCheck b.eng c m
         if s2 ≠ OK then b.reply m c.rep 2 s2 0 h 0 else applyMsg c act obj b.eng.pend false s.store b m) := by
  obtain ⟨-, there, copies, stands, takes⟩ := posted
  unfold messageAt
  dsimp only
  rw [if_neg]
  · rfl
  · simp [there, show s.start.copies h c.wide = true from copies, show (s.start.pair h (pairKey mb k)).st = .posted from stands,
      show c.takes (s.start.pair h (pairKey mb k)).req = true from takes]

/-- A message copied by a hub that is there leaves the hub there. -/
theorem takenAt_found (s : State) (h k : Nat) (mb : Mbox) (there : s.blk.hubs.get? h ≠ none) : ∃ x, (takenAt s h mb k).hubs.get? h = some x := by
  obtain ⟨x, found⟩ := Option.ne_none_iff_exists'.mp there
  exact ⟨_, by simp [takenAt, Block.onPair, found]; rfl⟩

theorem takenAt_msiAddr (s : State) (h k g : Nat) (mb : Mbox) : ((takenAt s h mb k).hub g).regs.msiAddr = (s.blk.hub g).regs.msiAddr :=
  s.start.onPair_msiAddr h g _ _

/-- A message row that ends in a DONE reply on a block b. -/
theorem runs_message_reply {i : Instr} {c : Card} {h k : Nat} {mb : Mbox} {s : State} {P : State → Prop} (row : cardOf i = some (c, h, mb, k))
    (b : Block) (len status ans body : Nat) (long : 16 ≤ len) (short : len ≤ 256) (fits : status < 2 ^ 16) (there : ∃ x, b.hubs.get? h = some x)
    (effect : ∀ act obj, messageAt c act obj h mb k s.store s.start = b.reply (msgAt s h mb k) len 2 status 0 ans body) (unwritten : b.wr = [])
    (away : (b.hub h).regs.msiAddr = 0 ∨ ¬ OwnAperture (b.hub h).regs.msiAddr.toNat)
    (holds : ∀ t, t.store = s.store → t.blk = b.reply (msgAt s h mb k) len 2 status 0 ans body → DoneReply t (msgAt s h mb k) status → P t) :
    Runs i s P := by
  obtain ⟨act, obj, e, arm, ends⟩ := exec_message row s
  obtain ⟨x, found⟩ := there
  rw [effect act obj] at ends
  have done := b.reply_pair (msgAt s h mb k) len 2 status 0 ans body x found
  refine Runs.of_effect arm _ (ends fun _ => ?_) ((b.reply_wr_away _ _ _ _ _ _ _ away).trans unwritten) (holds _ rfl rfl ?_)
  · have ended : ((b.reply (msgAt s h mb k) len 2 status 0 ans body).pair h (pairKey mb k)).st = .done := congrArg Pair.st done
    simp [ended]
  · exact (doneReply_of_reply b (msgAt s h mb k) _ len status 0 ans body x found rfl long short fits).1

/-- An answer that ends the message is written as a DONE reply, on a block with the answer's hubs, writes and books. -/
theorem Ans.write_done_books (a : Ans) (c : Card) (m : Msg) (ends : a.pend = none) :
    ∃ (b : Block) (ans : Nat), a.write c m false = b.reply m c.rep 2 a.status a.detail ans a.body ∧ b.hubs = a.b.hubs ∧ b.wr = a.b.wr ∧
      SameBooks a.b b := by
  unfold Ans.write
  rw [ends]
  dsimp only
  split <;> exact ⟨_, _, rfl, rfl, rfl, ⟨rfl, rfl, rfl, rfl, rfl, rfl⟩⟩

/-- Settles O11: a failed header or body is a reply on the block with the message copied (`messageAt_posted`), and a job slot that is not open is the
first check of `applyMsg`. -/
theorem messagesFailTheirChecksInOrder : Obligations.MessagesFailTheirChecksInOrder := by
  unfold Obligations.MessagesFailTheirChecksInOrder
  constructor
  · intro i c h k mb s row posted quiet
    have copied := fun act obj => messageAt_posted c act obj h k mb s posted
    have there := takenAt_found s h k mb posted.1
    have silent : ((takenAt s h mb k).hub h).regs.msiAddr = 0 := (takenAt_msiAddr s h k h mb).trans quiet
    obtain ⟨long, short⟩ := card_rep row
    have replies : ∀ len status ans body : Nat, 16 ≤ len → len ≤ 256 → status < 2 ^ 16 →
        (∀ act obj, messageAt c act obj h mb k s.store s.start = (takenAt s h mb k).reply (msgAt s h mb k) len 2 status 0 ans body) →
        Runs i s fun t => OnlyHubs s t ∧ DoneReply t (msgAt s h mb k) status := by
      intro len status ans body long short fits effect
      refine runs_message_reply row _ len status ans body long short fits there effect rfl (.inl silent) fun t store blk done => ⟨⟨store, ?_⟩, done⟩
      rw [blk]
      exact Block.reply_quiet _ _ _ _ _ _ _ _ silent
    constructor
    · intro fails
      by_cases hello : (c.code = 0x0001 && headerCheck s.blk.eng (msgAt s h mb k) true = VERSION_UNSUPPORTED) = true
      · exact replies c.rep _ h _ long short (headerCheck_lt _ _ _) fun act obj => (copied act obj).trans ((if_pos fails).trans (if_pos hello))
      · exact replies 16 _ h _ le_rfl (by decide) (headerCheck_lt _ _ _) fun act obj => (copied act obj).trans ((if_pos fails).trans (if_neg hello))
    · intro header fails
      exact replies c.rep _ h _ long short (bodyCheck_lt _ _ _) fun act obj =>
        (copied act obj).trans ((if_neg (not_not.mpr header)).trans (if_pos fails))
  · intro i c h k mb s row posted header body scope closed away
    obtain ⟨long, short⟩ := card_rep row
    have there := takenAt_found s h k mb posted.1
    have failed : (takenAt s h mb k).jobCheck c (msgAt s h mb k) = JOB_CLOSED := by
      simp [Block.jobCheck, scope, show (takenAt s h mb k).jobOpen (msgAt s h mb k).job = false from closed]
    obtain ⟨b, ans, write, hubs, wr, books⟩ := (Ans.fail (takenAt s h mb k) JOB_CLOSED).write_done_books c (msgAt s h mb k) rfl
    refine runs_message_reply row b c.rep JOB_CLOSED ans 0 long short (by decide) (by rw [hubs]; exact there) (fun act obj => ?_) wr ?_
      fun t _ blk done => ⟨done, ?_⟩
    · refine (messageAt_posted c act obj h k mb s posted).trans ((if_neg (not_not.mpr header)).trans ((if_neg (not_not.mpr body)).trans ?_))
      unfold applyMsg
      dsimp only
      rw [failed, if_pos (by decide)]
      exact write
    · rw [Block.hub, hubs]
      exact (takenAt_msiAddr s h k h mb).symm ▸ away
    · have kept := (books.trans (SameBooks.reply b (msgAt s h mb k) c.rep 2 JOB_CLOSED 0 ans 0))
      rw [blk]
      exact ⟨kept.jobs, kept.tables, kept.rings, kept.progs, kept.dies⟩

end Sys2Proof.Machine
end

section
/-!
SUPPORT. An accepted message from its card's own part to the reply: what a DONE answer and a PENDING one leave of the block.
-/
namespace Sys2Proof.Machine
open Sys2Proof.Spec

/-! ### Fields of a reply's body -/

/-- A field of a packed structure whose other entries lie apart from it. -/
theorem bits_pack_of_mem (fs : List (Nat × Nat × Nat)) (lo n v : Nat) (mem : (lo, n, v) ∈ fs)
    (others : ∀ e ∈ fs, e = (lo, n, v) ∨ lo + n ≤ e.1 ∨ e.1 + e.2.1 ≤ lo) : bits (pack fs) lo n = v % 2 ^ n := by
  have holds : ∀ fs : List (Nat × Nat × Nat), (∀ e ∈ fs, e = (lo, n, v) ∨ lo + n ≤ e.1 ∨ e.1 + e.2.1 ≤ lo) →
      bits (pack fs) lo n = if (lo, n, v) ∈ fs then v % 2 ^ n else 0 := by
    intro fs others
    induction fs with
    | nil => simp
    | cons e fs ih =>
      obtain ⟨lo', n', v'⟩ := e
      have rest := ih fun e mem => others e (List.mem_cons_of_mem _ mem)
      by_cases here : (lo', n', v') = (lo, n, v)
      · have own : bits ((v % 2 ^ n) <<< lo) lo n = v % 2 ^ n := by
          have alone := bits_pack_here lo n v [] (bits_pack_nil lo n)
          rwa [pack, pack, Nat.or_zero] at alone
        rw [here, if_pos List.mem_cons_self, pack, bits_or, own, rest]
        split <;> simp
      · have apart := (others _ List.mem_cons_self).resolve_left here
        rw [bits_pack_skip lo n lo' n' v' fs apart, rest]
        simp [Ne.symm here]
  rw [holds fs others, if_pos mem]

/-- A field of a reply's body whose other fields lie apart from it. -/
theorem bits_bodyOf (fs : List (Nat × Nat × Nat)) (lo n v : Nat) (mem : (lo, n, v) ∈ fs)
    (others : ∀ e ∈ fs, e = (lo, n, v) ∨ lo + n ≤ e.1 ∨ e.1 + e.2.1 ≤ lo) : bits (bodyOf fs) (8 * lo) (8 * n) = v % 2 ^ (8 * n) := by
  refine bits_pack_of_mem _ _ _ _ (List.mem_map_of_mem (f := fun e => (8 * e.1, 8 * e.2.1, e.2.2)) mem) fun e mem' => ?_
  obtain ⟨e', there, rfl⟩ := List.mem_map.mp mem'
  obtain rfl | apart := others e' there
  · exact .inl rfl
  · obtain ⟨lo', n', v'⟩ := e'
    right
    dsimp only at apart ⊢
    omega

/-! ### Answers -/

/-- A hub's record but for its mailbox: no pair, no interrupt cause, and the I3C target at reset. -/
def Hub.unmailed (x : Hub) : Hub := { x with pairs := [], i3c := {}, regs := { x.regs with intStatus := 0 } }

/-- A block but for its hubs, its writes and what the engine keeps of messages and their reads. -/
def Block.unmailed (b : Block) : Block := { b with hubs := [], wr := [], eng := { b.eng with msgReads := [], leaderRecs := [] } }

/-- What hubs have in common that agree but for their mailboxes. -/
theorem Hub.of_unmailed {α : Type} (p : Hub → α) {x y : Hub} (same : x.unmailed = y.unmailed) (keeps : ∀ z : Hub, p z.unmailed = p z) : p x = p y := by
  rw [← keeps x, ← keeps y, same]

/-- What blocks have in common that agree but for their hubs, writes and records of messages. -/
theorem Block.of_unmailed {α : Type} (p : Block → α) {b c : Block} (same : b.unmailed = c.unmailed) (keeps : ∀ d : Block, p d.unmailed = p d) :
    p b = p c := by
  rw [← keeps b, ← keeps c, same]

/-- What a card's own part a leaves when it ends: the DONE reply of `len` bytes with its status and body, the block as the card left it. -/
structure Answered (s : State) (a : Ans) (m : Msg) (len : Nat) (t : State) : Prop where
  done : DoneReply t m a.status
  body : ∀ off n, 16 ≤ off → off + n ≤ len → replied t m off n = bits a.body (8 * off) (8 * n)
  store : t.store = s.store.apply a.b.wr
  blk : t.blk.unmailed = a.b.unmailed
  hub : ∀ g, (t.blk.hub g).unmailed = (a.b.hub g).unmailed

/-- What a card's own part a leaves when its work goes on: the pair PENDING, and the message p among those that wait. -/
structure Awaited (s : State) (a : Ans) (p : PendMsg) (m : Msg) (t : State) : Prop where
  pending : (t.blk.pair m.hub m.key).st = .pending
  store : t.store = s.store.apply a.b.wr
  blk : t.blk.unmailed = (a.b.onEng fun e => { e with pend := e.pend ++ [p] }).unmailed
  hub : ∀ g, (t.blk.hub g).unmailed = (a.b.hub g).unmailed

/-- A change of a hub's pairs, I3C target and interrupt causes. -/
theorem Block.hub_onHub_unmailed (b : Block) (h g : Nat) (f : Hub → Hub) (mail : ∀ x, (f x).unmailed = x.unmailed) :
    ((b.onHub h f).hub g).unmailed = (b.hub g).unmailed :=
  b.hub_onHub_proj h g f Hub.unmailed mail

theorem Block.raise_hub_unmailed (b : Block) (h cause g : Nat) : ((b.raise h cause).hub g).unmailed = (b.hub g).unmailed := by
  rw [Block.hub, Block.raise_hubs]
  exact b.hub_onHub_unmailed h g _ fun _ => rfl

/-- A reply changes nothing of a hub but its mailbox. -/
theorem Block.reply_hub (b : Block) (m : Msg) (len rstate status detail ans body g : Nat) :
    ((b.reply m len rstate status detail ans body).hub g).unmailed = (b.hub g).unmailed := by
  have paired : ∀ f, ((b.onPair m.hub m.key f).hub g).unmailed = (b.hub g).unmailed := fun f => b.hub_onHub_unmailed _ g _ fun _ => rfl
  unfold Block.reply
  dsimp only
  split
  · exact paired _
  · split
    · exact (Block.raise_hub_unmailed _ _ _ g).trans (paired _)
    · refine (Block.hub_onHub_unmailed _ _ g _ fun x => ?_).trans (paired _)
      split <;> rfl

theorem Ans.write_answered (a : Ans) (c : Card) (m : Msg) (ends : a.pend = none) :
    ∃ (b : Block) (ans : Nat), a.write c m false = b.reply m c.rep 2 a.status a.detail ans a.body ∧ b.unmailed = a.b.unmailed ∧ b.hubs = a.b.hubs ∧
      b.wr = a.b.wr := by
  unfold Ans.write
  rw [ends]
  dsimp only
  split <;> exact ⟨_, _, rfl, rfl, rfl, rfl⟩

theorem Ans.write_awaited (a : Ans) (c : Card) (m : Msg) (p : PendMsg) (waits : a.pend = some p) : ∃ ans, a.write c m false =
    (a.b.onEng fun e => { e with pend := e.pend ++ [{ p with hub := m.hub, key := m.key, code := c.code, copy := m.x }] }).reply m 16 1 PENDING 0 ans 0 := by
  unfold Ans.write
  rw [waits]
  exact ⟨_, rfl⟩

/-- A command that writes an ended answer of a card. -/
theorem Runs.answered {i : Instr} {s : State} {P : State → Prop} {e : Block} (arm : exec i s = .next (settle s (e.interrupts 16))) (c : Card) (m : Msg)
    (a : Ans) (effect : e = a.write c m false) (ends : a.pend = none) (there : ∃ y, a.b.hubs.get? m.hub = some y)
    (quiet : (a.b.hub m.hub).regs.msiAddr = 0) (silent : ∀ k x d, Wr.intr k x d ∉ a.b.wr) (long : 16 ≤ c.rep) (short : c.rep ≤ 256)
    (fits : a.status < 2 ^ 16) (holds : ∀ t, Answered s a m c.rep t → P t) : Runs i s P := by
  obtain ⟨b, ans, write, core, hubs, wr⟩ := a.write_answered c m ends
  obtain ⟨y, found⟩ := there
  have hub : ∀ g, b.hub g = a.b.hub g := fun g => by simp only [Block.hub, hubs]
  have quiet' : (b.hub m.hub).regs.msiAddr = 0 := (congrArg (·.regs.msiAddr) (hub m.hub)).trans quiet
  have frame := b.reply_quiet m c.rep 2 a.status a.detail ans a.body quiet'
  have written : (b.reply m c.rep 2 a.status a.detail ans a.body).wr = a.b.wr := (b.reply_wr _ _ _ _ _ _ _ quiet').trans wr
  obtain ⟨done, body⟩ := doneReply_of_reply b m (settle s (b.reply m c.rep 2 a.status a.detail ans a.body)) c.rep a.status a.detail ans a.body y
    ((congrArg (Tbl.get? · m.hub) hubs).trans found) rfl long short fits
  refine Runs.of_settle arm _ (effect.trans write) (by rwa [written]) (holds _ ⟨done, body, by rw [settle_store, written], ?_, fun g => ?_⟩)
  · exact (congrArg Block.unmailed frame).trans core
  · exact (b.reply_hub m c.rep 2 a.status a.detail ans a.body g).trans (congrArg Hub.unmailed (hub g))

/-- A command that writes an answer of a card whose work goes on. -/
theorem Runs.awaited {i : Instr} {s : State} {P : State → Prop} {e : Block} (arm : exec i s = .next (settle s (e.interrupts 16))) (c : Card) (m : Msg)
    (a : Ans) (p : PendMsg) (effect : e = a.write c m false) (waits : a.pend = some p) (there : ∃ y, a.b.hubs.get? m.hub = some y)
    (silent : ∀ k x d, Wr.intr k x d ∉ a.b.wr)
    (holds : ∀ t, Awaited s a { p with hub := m.hub, key := m.key, code := c.code, copy := m.x } m t → P t) : Runs i s P := by
  obtain ⟨ans, write⟩ := a.write_awaited c m p waits
  obtain ⟨y, found⟩ := there
  have pair := Block.reply_pair (a.b.onEng fun e => { e with pend := e.pend ++ [{ p with hub := m.hub, key := m.key, code := c.code, copy := m.x }] })
    m 16 1 PENDING 0 ans 0 y found
  refine Runs.of_settle arm _ (effect.trans write) silent (holds _ ⟨congrArg Pair.st pair, rfl, rfl, fun g => ?_⟩)
  exact Block.reply_hub _ m 16 1 PENDING 0 ans 0 g

/-! ### Accepted messages -/

/-- An accepted message comes to its card's own part, on the block with the message copied. -/
theorem messageAt_accepted (c : Card) (act : Store → Block → Msg → Ans) (h k : Nat) (mb : Mbox) (s : State) (acc : Accepted c h mb k s) :
    messageAt c act (fun _ _ m => objOf m) h mb k s.store s.start =
      (act s.store (takenAt s h mb k) (msgAt s h mb k)).write c (msgAt s h mb k) false := by
  obtain ⟨posted, header, body, job, feature, first, -⟩ := acc
  refine (messageAt_posted c act _ h k mb s posted).trans ((if_neg (not_not.mpr header)).trans ((if_neg (not_not.mpr body)).trans ?_))
  unfold applyMsg
  dsimp only
  have job' : (takenAt s h mb k).jobCheck c (msgAt s h mb k) = OK := job
  have first' : (takenAt s h mb k).behind (takenAt s h mb k).eng.pend (msgAt s h mb k) (objOf (msgAt s h mb k)) = false := first
  have feature' : (takenAt s h mb k).featCheck c = OK := feature
  simp [job', first', feature']

theorem accepted_quiet {c : Card} {h k : Nat} {mb : Mbox} {s : State} (acc : Accepted c h mb k s) : Quiet s := by
  obtain ⟨-, -, -, -, -, -, quiet⟩ := acc
  exact quiet

/-- A copied message changes nothing of a hub but its pairs. -/
theorem takenAt_hub (s : State) (h k g : Nat) (mb : Mbox) : ((takenAt s h mb k).hub g).unmailed = (s.blk.hub g).unmailed :=
  s.start.hub_onHub_unmailed h g _ fun _ => rfl

theorem takenAt_hubUp (s : State) (h k : Nat) (mb : Mbox) : (takenAt s h mb k).hubUp = s.blk.hubUp :=
  funext fun g => Hub.of_unmailed (·.inService) (takenAt_hub s h k g mb) fun _ => rfl

/-- An accepted message whose card's part ends. -/
theorem runs_accepted {c : Card} {h k : Nat} {mb : Mbox} {s : State} {i : Instr} {P : State → Prop} (act : Store → Block → Msg → Ans)
    (arm : exec i s = message c act h mb k s) (acc : Accepted c h mb k s) (a : Ans)
    (answer : act s.store (takenAt s h mb k) (msgAt s h mb k) = a) (ends : a.pend = none) (there : ∃ y, a.b.hubs.get? h = some y)
    (quiet : (a.b.hub h).regs.msiAddr = 0) (silent : ∀ k x d, Wr.intr k x d ∉ a.b.wr) (long : 16 ≤ c.rep) (short : c.rep ≤ 256)
    (fits : a.status < 2 ^ 16) (holds : ∀ t, Answered s a (msgAt s h mb k) c.rep t → P t) : Runs i s P :=
  Runs.answered arm c (msgAt s h mb k) a ((messageAt_accepted c act h k mb s acc).trans (by rw [answer])) ends there quiet silent long short fits holds

/-- An accepted message whose card's part ends, changing no hub and writing nothing. -/
theorem runs_accepted_plain {c : Card} {h k : Nat} {mb : Mbox} {s : State} {i : Instr} {P : State → Prop} (act : Store → Block → Msg → Ans)
    (arm : exec i s = message c act h mb k s) (acc : Accepted c h mb k s) (a : Ans)
    (answer : act s.store (takenAt s h mb k) (msgAt s h mb k) = a) (ends : a.pend = none) (hubs : a.b.hubs = (takenAt s h mb k).hubs)
    (unwritten : a.b.wr = []) (long : 16 ≤ c.rep) (short : c.rep ≤ 256) (fits : a.status < 2 ^ 16)
    (holds : ∀ t, t.store = s.store → Answered s a (msgAt s h mb k) c.rep t → P t) : Runs i s P := by
  refine runs_accepted act arm acc a answer ends ?_ ?_ (by simp [unwritten]) long short fits fun t ans => holds t ?_ ans
  · rw [hubs]
    exact takenAt_found s h k mb acc.1.1
  · rw [Block.hub, hubs]
    exact (takenAt_msiAddr s h k h mb).trans (accepted_quiet acc h)
  · rw [ans.store, unwritten]
    rfl

/-- An accepted message whose card's part goes on. -/
theorem runs_accepted_pending {c : Card} {h k : Nat} {mb : Mbox} {s : State} {i : Instr} {P : State → Prop} (act : Store → Block → Msg → Ans)
    (arm : exec i s = message c act h mb k s) (acc : Accepted c h mb k s) (a : Ans) (p : PendMsg)
    (answer : act s.store (takenAt s h mb k) (msgAt s h mb k) = a) (waits : a.pend = some p) (there : ∃ y, a.b.hubs.get? h = some y)
    (silent : ∀ k x d, Wr.intr k x d ∉ a.b.wr)
    (holds : ∀ t, Awaited s a { p with hub := h, key := pairKey mb k, code := c.code, copy := (msgAt s h mb k).x } (msgAt s h mb k) t → P t) :
    Runs i s P :=
  Runs.awaited arm c (msgAt s h mb k) a p ((messageAt_accepted c act h k mb s acc).trans (by rw [answer])) waits there silent holds

end Sys2Proof.Machine
end

section
/-!
SUPPORT. Tables whose values change: what a projection of every value, and of the value at a key, sees.
-/
namespace Sys2Proof

/-- A change of one value that a projection does not see. -/
theorem Tbl.map_modify {α β : Type} (t : Tbl α) (k : Nat) (f : α → α) (p : α → β) (keeps : ∀ x, p (f x) = p x) :
    (Tbl.modify t k f).map (fun e => (e.1, p e.2)) = t.map fun e => (e.1, p e.2) := by
  have put : ∀ (t : Tbl α) (v : α), Tbl.get? t k = some v → (Tbl.put t k (f v)).map (fun e => (e.1, p e.2)) = t.map fun e => (e.1, p e.2) := by
    intro t
    induction t with
    | nil => simp [Tbl.get?]
    | cons e t ih =>
      obtain ⟨q, w⟩ := e
      intro v found
      simp only [Tbl.get?] at found
      split at found
      · rename_i here
        obtain rfl := Option.some.inj found
        simp [Tbl.put, here, keeps]
      · split at found
        · cases found
        · rename_i other above
          have other' : ¬k = q := fun e => other e.symm
          simp [Tbl.put, above, other', ih v found]
  unfold Tbl.modify
  split
  · rfl
  · rename_i v found
    exact put t v found

theorem Tbl.vals_map_modify {α β : Type} (t : Tbl α) (k : Nat) (f : α → α) (p : α → β) (keeps : ∀ x, p (f x) = p x) :
    (Tbl.modify t k f).vals.map p = t.vals.map p := by
  have kept := congrArg (List.map Prod.snd) (Tbl.map_modify t k f p keeps)
  simpa [Tbl.vals, Function.comp_def] using kept

theorem Tbl.any_vals_modify {α : Type} (t : Tbl α) (k : Nat) (f : α → α) (p : α → Bool) (keeps : ∀ x, p (f x) = p x) :
    (Tbl.modify t k f).vals.any p = t.vals.any p := by
  have kept := congrArg (List.any · id) (Tbl.vals_map_modify t k f p keeps)
  simpa [List.any_map, Function.comp_def] using kept

@[simp] theorem Tbl.get?_mapVal {α : Type} (t : Tbl α) (f : Nat → α → α) (k : Nat) : Tbl.get? (Tbl.mapVal t f) k = (Tbl.get? t k).map (f k) := by
  induction t with
  | nil => rfl
  | cons e t ih =>
    obtain ⟨q, w⟩ := e
    simp only [Tbl.mapVal, List.map_cons, Tbl.get?]
    split
    · rename_i here
      subst here
      rfl
    · split
      · rfl
      · exact ih

/-- The value at a key, or a default that a projection does not tell from its change. -/
theorem Tbl.getD_mapVal {α β : Type} (t : Tbl α) (f : Nat → α → α) (k : Nat) (d : α) (p : α → β) (keeps : ∀ q x, p (f q x) = p x) :
    p (Tbl.getD (Tbl.mapVal t f) k d) = p (Tbl.getD t k d) := by
  simp only [Tbl.getD, Tbl.get?_mapVal]
  cases Tbl.get? t k <;> simp [keeps]

end Sys2Proof
end

section
/-!
SUPPORT. The messages of Tables 13-10 and 13-11: what each card's own part answers where the statement's conditions hold.
-/
namespace Sys2Proof.Machine
open Sys2Proof.Spec

/-! ### HELLO, EVENT_READ, MONITOR_READ -/

theorem featAvail_takenAt (s : State) (h k : Nat) (mb : Mbox) : (takenAt s h mb k).featAvail = s.blk.featAvail := by
  unfold Block.featAvail
  rw [show (takenAt s h mb k).hubs.vals.any (fun h => h.inService && h.clusters != 0) = s.blk.hubs.vals.any (fun h => h.inService && h.clusters != 0) from
    Tbl.any_vals_modify s.blk.hubs h _ (fun h => h.inService && h.clusters != 0) fun _ => rfl]

/-- The number of bits of a field read back whole. -/
theorem Msg.at_lt (m : Msg) (lo n : Nat) : m.at lo n < 2 ^ (8 * n) := bits_lt m.x (8 * lo) (8 * n)

/-- HELLO answers the features agreed on (R372). -/
theorem msgHello_answers (st : Store) (b : Block) (m : Msg) :
    ∃ (c : Block) (fs : List (Nat × Nat × Nat)), msgHello st b m = .ok c (bodyOf fs) ∧
      c = (if !b.eng.hello || b.jobs.isEmpty then
        b.onEng fun e => { e with hello := true, minor := Nat.min (m.at 16 1) 0, features := m.at 24 8 &&& b.featAvail } else b) ∧
      bits (bodyOf fs) (8 * 24) (8 * 8) = c.eng.features % 2 ^ 64 :=
  ⟨_, _, rfl, rfl, bits_bodyOf _ 24 8 _ (by simp) (by simp)⟩

/-- EVENT_READ answers how many records it returns and the first of them (R374). -/
theorem msgEventRead_answers (st : Store) (b : Block) (m : Msg) :
    let rs := (b.eng.events.filter fun r => decide (m.at 16 8 ≤ eseqOf r)).take 7
    ∃ body, msgEventRead st b m = .ok b body ∧ bits body (8 * 24) (8 * 2) = rs.length ∧
      ∀ r, rs.head? = some r → bits body (8 * 32) (8 * 32) = r.toNat := by
  intro rs
  have few : rs.length ≤ 7 := List.length_take_le 7 _
  have records : ∀ e ∈ rs.zipIdx.map (fun (r, k) => (32 + 32 * k, 32, r.toNat)), 32 ≤ e.1 ∧ e.2.1 = 32 := by
    simp only [List.mem_map, Prod.exists]
    rintro e ⟨r, k, -, rfl⟩
    exact ⟨by omega, rfl⟩
  refine ⟨_, rfl, ?_, fun r first => ?_⟩
  · refine (bits_bodyOf _ 24 2 rs.length (by simp [rs]) fun e mem => ?_).trans (Nat.mod_eq_of_lt (by omega))
    rw [List.mem_append] at mem
    obtain head | record := mem
    · revert e
      simp [rs]
    · have := records e record
      omega
  · obtain ⟨rest, split⟩ : ∃ rest, rs = r :: rest := List.head?_eq_some_iff.mp first
    refine (bits_bodyOf _ 32 32 r.toNat ?_ fun e mem => ?_).trans (Nat.mod_eq_of_lt r.isLt)
    · change _ ∈ _ ++ rs.zipIdx.map _
      simp [split]
    · rw [List.mem_append] at mem
      obtain head | record := mem
      · right
        revert e
        simp
      · change e ∈ rs.zipIdx.map _ at record
        rw [split, List.zipIdx_cons, List.map_cons, List.mem_cons] at record
        obtain rfl | later := record
        · exact .inl rfl
        · right
          simp only [List.mem_map, Prod.exists, List.mem_zipIdx_iff_le_and_getElem?_sub] at later
          obtain ⟨q, k, ⟨above, -⟩, rfl⟩ := later
          dsimp only
          omega

/-- MONITOR_READ answers a monitor, and clears it with CLEAR (R374, R435). -/
theorem msgMonitorRead_answers (st : Store) (b : Block) (m : Msg) (n : Nat) (known : monInstances (m.at 16 2) = some n) (within : m.at 18 2 < n) :
    let x := b.eng.monitors.getD (monKey (m.at 16 2) (m.at 18 2)) {}
    ∃ body, msgMonitorRead st b m = .ok (if m.flag 20 1 then b.onEng fun e => { e with monitors := e.monitors.del (monKey (m.at 16 2) (m.at 18 2)) } else b) body ∧
      bits body (8 * 16) (8 * 8) = x.min % 2 ^ 64 ∧ bits body (8 * 24) (8 * 8) = x.max % 2 ^ 64 ∧ bits body (8 * 32) (8 * 8) = x.samples % 2 ^ 64 := by
  intro x
  have bins : ∀ (half : Nat) (e : Nat × Nat × Nat), e ∈ (List.range 32).map (fun k => (48 + 4 * k, 4, x.bins.getD (32 * half + k) 0)) → 48 ≤ e.1 := by
    simp only [List.mem_map]
    rintro half e ⟨k, -, rfl⟩
    exact Nat.le_add_right 48 _
  have field : ∀ (half lo v : Nat), lo ≤ 32 → (lo, 8, v) ∈ [(16, 8, x.min), (24, 8, x.max), (32, 8, x.samples)] →
      bits (bodyOf ([(16, 8, x.min), (24, 8, x.max), (32, 8, x.samples)] ++ (List.range 32).map fun k => (48 + 4 * k, 4, x.bins.getD (32 * half + k) 0)))
        (8 * lo) (8 * 8) = v % 2 ^ 64 := by
    intro half lo v low mem
    refine bits_bodyOf _ lo 8 v (List.mem_append_left _ mem) fun e mem' => ?_
    obtain head | bin := List.mem_append.mp mem'
    · simp only [List.mem_cons, List.not_mem_nil, or_false, Prod.mk.injEq] at mem head
      rcases mem with ⟨rfl, -, rfl⟩ | ⟨rfl, -, rfl⟩ | ⟨rfl, -, rfl⟩ <;> rcases head with rfl | rfl | rfl <;> simp
    · have := bins half e bin
      omega
  refine ⟨_, ?_, field (b2n (m.flag 20 0)) 16 x.min (by decide) (by simp), field (b2n (m.flag 20 0)) 24 x.max (by decide) (by simp),
    field (b2n (m.flag 20 0)) 32 x.samples (by decide) (by simp)⟩
  unfold msgMonitorRead
  simp only [known]
  rw [if_neg (by omega)]

/-- Settles O12: each card's own part answers as its lemma says, on the block with the message copied. -/
theorem sessionMessagesAnswer : Obligations.SessionMessagesAnswer := by
  unfold Obligations.SessionMessagesAnswer
  intro h k mb s m
  refine ⟨fun acc fresh => ?_, fun acc agreed open_ small => ?_, fun acc => ?_, fun n acc known within => ?_⟩
  · obtain ⟨c, fs, answer, block, features⟩ := msgHello_answers s.store (takenAt s h mb k) m
    rw [featAvail_takenAt, if_pos (by simpa [takenAt, Block.onPair] using fresh)] at block
    subst block
    refine runs_accepted_plain msgHello rfl acc _ answer rfl rfl rfl (by decide) (by decide) (Nat.two_pow_pos 16) fun t _ ans => ?_
    have eng : ∀ {α : Type} (p : Eng → α), (∀ e r l, p { e with msgReads := r, leaderRecs := l } = p e) → p t.blk.eng = _ :=
      fun p keeps => Block.of_unmailed (fun b => p b.eng) ans.blk fun d => keeps d.eng [] []
    have agreed : t.blk.eng.features = (m.at 24 8 &&& s.blk.featAvail) := eng (·.features) fun _ _ _ => rfl
    have small : (m.at 24 8 &&& s.blk.featAvail) < 2 ^ 64 := Nat.and_le_left.trans_lt (m.at_lt 24 8)
    refine ⟨ans.done, eng (·.hello) fun _ _ _ => rfl, (eng (·.minor) fun _ _ _ => rfl).trans (Nat.min_zero _), agreed, ?_⟩
    exact ((ans.body 24 8 (by decide) (by decide)).trans features).trans ((Nat.mod_eq_of_lt small).trans agreed.symm)
  · obtain ⟨c, fs, answer, block, features⟩ := msgHello_answers s.store (takenAt s h mb k) m
    rw [if_neg (by simp [takenAt, Block.onPair, agreed, open_])] at block
    subst block
    refine runs_accepted_plain msgHello rfl acc _ answer rfl rfl rfl (by decide) (by decide) (Nat.two_pow_pos 16) fun t _ ans => ?_
    refine ⟨ans.done, Block.of_unmailed (·.eng.minor) ans.blk fun _ => rfl, Block.of_unmailed (·.eng.features) ans.blk fun _ => rfl, ?_⟩
    exact ((ans.body 24 8 (by decide) (by decide)).trans features).trans (Nat.mod_eq_of_lt small)
  · obtain ⟨body, answer, count, first⟩ := msgEventRead_answers s.store (takenAt s h mb k) m
    refine runs_accepted_plain msgEventRead rfl acc _ answer rfl rfl rfl (by decide) (by decide) (Nat.two_pow_pos 16) fun t _ ans => ?_
    refine ⟨ans.done, Block.of_unmailed (·.eng.events) ans.blk fun _ => rfl, (ans.body 24 2 (by decide) (by decide)).trans count, fun r head => ?_⟩
    exact (ans.body 32 32 (by decide) (by decide)).trans (first r head)
  · intro x
    obtain ⟨body, answer, low, high, count⟩ := msgMonitorRead_answers s.store (takenAt s h mb k) m n known within
    refine runs_accepted_plain msgMonitorRead rfl acc _ answer rfl ?_ ?_ (by decide) (by decide) (Nat.two_pow_pos 16) fun t _ ans => ?_
    · dsimp only [Ans.ok]
      split <;> rfl
    · dsimp only [Ans.ok]
      split <;> rfl
    · refine ⟨ans.done, (ans.body 16 8 (by decide) (by decide)).trans low, (ans.body 24 8 (by decide) (by decide)).trans high,
        (ans.body 32 8 (by decide) (by decide)).trans count, ?_⟩
      refine (Block.of_unmailed (·.eng.monitors) ans.blk fun _ => rfl).trans ?_
      dsimp only [Ans.ok]
      split <;> rfl

end Sys2Proof.Machine
end

section
namespace Sys2Proof.Machine
open Sys2Proof.Spec

/-- A part of the block, but for its mailboxes, after an answer. -/
theorem Answered.part {s : State} {a : Ans} {m : Msg} {len : Nat} {t : State} (ans : Answered s a m len t) {α : Type} (p : Block → α)
    (keeps : ∀ d : Block, p d.unmailed = p d := by exact fun _ => rfl) : p t.blk = p a.b :=
  Block.of_unmailed p ans.blk keeps

/-- A part of a hub, but for its mailbox, after an answer. -/
theorem Answered.hubPart {s : State} {a : Ans} {m : Msg} {len : Nat} {t : State} (ans : Answered s a m len t) {α : Type} (g : Nat) (p : Hub → α)
    (keeps : ∀ x : Hub, p x.unmailed = p x := by exact fun _ => rfl) : p (t.blk.hub g) = p (a.b.hub g) :=
  Hub.of_unmailed p (ans.hub g) keeps

theorem Awaited.part {s : State} {a : Ans} {pm : PendMsg} {m : Msg} {t : State} (ans : Awaited s a pm m t) {α : Type} (p : Block → α)
    (keeps : ∀ d : Block, p d.unmailed = p d := by exact fun _ => rfl) : p t.blk = p (a.b.onEng fun e => { e with pend := e.pend ++ [pm] }) :=
  Block.of_unmailed p ans.blk keeps

theorem Awaited.hubPart {s : State} {a : Ans} {pm : PendMsg} {m : Msg} {t : State} (ans : Awaited s a pm m t) {α : Type} (g : Nat) (p : Hub → α)
    (keeps : ∀ x : Hub, p x.unmailed = p x := by exact fun _ => rfl) : p (t.blk.hub g) = p (a.b.hub g) :=
  Hub.of_unmailed p (ans.hub g) keeps

/-- A field of the body of an answer that `bodyOf` packs. -/
theorem Answered.field {s : State} {a : Ans} {m : Msg} {len : Nat} {t : State} (ans : Answered s a m len t) (lo n v : Nat) {fs : List (Nat × Nat × Nat)}
    (body : a.body = bodyOf fs) (inside : 16 ≤ lo ∧ lo + n ≤ len) (mem : (lo, n, v) ∈ fs)
    (others : ∀ e ∈ fs, e = (lo, n, v) ∨ lo + n ≤ e.1 ∨ e.1 + e.2.1 ≤ lo) : replied t m lo n = v % 2 ^ (8 * n) := by
  rw [ans.body lo n inside.1 inside.2, body, bits_bodyOf fs lo n v mem others]

/-! ### JOB_OPEN, JOB_CLOSE -/

/-- A change of every value, as one of each pair of key and value. -/
theorem Tbl.mem_mapVal {α : Type} (t : Tbl α) (f : Nat → α → α) (e : Nat × α) (mem : e ∈ Tbl.mapVal t f) : ∃ v, (e.1, v) ∈ t ∧ e.2 = f e.1 v := by
  obtain ⟨⟨k, v⟩, there, rfl⟩ := List.mem_map.mp mem
  exact ⟨v, there, rfl⟩

/-- JOB_OPEN of a free job slot with a root and semaphore ranges that pass (R375). -/
theorem msgJobOpen_opens (st : Store) (b : Block) (m : Msg) (free : b.jobs.has m.job = false) (aligned : m.at 24 8 % 2 ^ 20 = 0)
    (within : b.eng.layout.inCap (m.at 24 8) (2 ^ 20) = true) (weighs : m.at 32 1 ≠ 0)
    (ranges : ∀ g, g < 4 → b.semRangeBad g (m.semBases.getD g 0) (m.semCounts.getD g 0) = false) :
    msgJobOpen st b m =
      .ok { b with jobs := b.jobs.put m.job { root := m.at 24 8, weight := m.at 32 1, semBase := m.semBases, semCount := m.semCounts } } := by
  have apart : ((List.range 4).any fun g => b.semRangeBad g (m.semBases.getD g 0) (m.semCounts.getD g 0)) = false :=
    List.any_eq_false.mpr fun g mem => by rw [ranges g (List.mem_range.mp mem)]; exact Bool.false_ne_true
  have weighs' : (m.at 32 1 == 0) = false := beq_false_of_ne weighs
  unfold msgJobOpen
  dsimp only
  rw [free, apart, within, aligned, weighs']
  rfl

/-- A hub without the translations and walks that tests pick. -/
def Hub.dropXlat (p : XEntry → Bool) (pw : Walk → Bool) (h : Hub) : Hub :=
  { h with xlat := { h.xlat.dropIf p with walks := (h.xlat.dropIf p).walks.keep fun _ w => !pw w } }

theorem Block.dropXlat_hubs (b : Block) (p : XEntry → Bool) (pw : Walk → Bool) :
    (b.dropXlat p pw).hubs = b.hubs.mapVal fun _ h => h.dropXlat p pw := rfl

/-- A table as the close of job slot j marks it. -/
def TableSt.closeIn (j : Nat) (t : TableSt) : TableSt := if (tdOf t.desc).job == j then { t with retiring := true } else t

theorem TableSt.closeIn_desc (j : Nat) (t : TableSt) : (t.closeIn j).desc = t.desc := by
  unfold TableSt.closeIn
  split <;> rfl

/-- What JOB_CLOSE marks at once: the job slot and its tables and programs. -/
def Block.closeJob (b : Block) (j : Nat) : Block :=
  { b.onJob j fun x => { x with closing := true } with
    tables := b.tables.mapVal fun _ t => t.closeIn j
    progs := b.progs.map fun p => if p.job == j then { p with unloading := true } else p }

/-- The programs of the other job slots, none of which is marked. -/
theorem Block.closeJob_others (b : Block) (j : Nat) : (b.closeJob j).progs.filter (·.job != j) = b.progs.filter (·.job != j) := by
  show (b.progs.map fun p => if p.job == j then { p with unloading := true } else p).filter (·.job != j) = _
  induction b.progs with
  | nil => rfl
  | cons p ps ih =>
    rw [List.map_cons, List.filter_cons, List.filter_cons, ih]
    cases own : p.job == j <;> simp [bne, own]

/-- The end of a JOB_CLOSE that finds no ring, table, region or migration of the job slot (R375). -/
theorem finJobClose_idle (st : Store) (b : Block) (m : Msg) (pm : PendMsg) (rings : ∀ x ∈ b.rings, x.2.job ≠ m.job)
    (tables : ∀ x ∈ b.tables, (tdOf x.2.desc).job ≠ m.job) (regions : ∀ x ∈ b.eng.regions, jobOf x.2 36 ≠ m.job)
    (moves : ∀ x ∈ b.eng.migrations, x.job ≠ m.job) :
    ∃ (c : Block) (p : XEntry → Bool) (pw : Walk → Bool) (progs windows : Nat),
      finJobClose st b m pm = some (.ok c (bodyOf [(16, 4, 0), (20, 4, 0), (24, 4, progs), (28, 2, 0), (30, 2, windows)])) ∧ c.rings = b.rings ∧
        c.progs = b.progs.filter (·.job != m.job) ∧ c.jobs = b.jobs.del m.job ∧ c.hubs = b.hubs.mapVal (fun _ x => x.dropXlat p pw) ∧ c.wr = b.wr := by
  have noRing : (b.rings.filter fun (_, r) => r.job == m.job) = [] := by simpa [List.filter_eq_nil_iff] using rings
  have noRegion : (b.eng.regions.filter fun (_, r) => jobOf r 36 == m.job) = [] := by simpa [List.filter_eq_nil_iff] using regions
  have noTable : (b.tables.filter fun (_, t) => (tdOf t.desc).job == m.job) = [] := by simpa [List.filter_eq_nil_iff] using tables
  have noMove : b.eng.migrations.any (·.job == m.job) = false := by simpa using moves
  have unheld : (b.tables.any fun (t, x) => (tdOf x.desc).job == m.job && !b.tableQuiet t) = false := by
    simpa using fun t x mem same => absurd same (tables (t, x) mem)
  unfold finJobClose
  dsimp only
  rw [noRing, noRegion, noMove, unheld, if_neg (by simp)]
  simp only [List.map_nil, List.foldl_nil, noTable, List.length_nil]
  exact ⟨_, _, _, _, _, rfl, rfl, rfl, rfl, Block.dropXlat_hubs _ _ _, rfl⟩

/-- A job slot without ring, table, region or migration closes as JOB_CLOSE marks it (R375). -/
theorem msgJobClose_idle (st : Store) (b : Block) (m : Msg) (rings : ∀ x ∈ b.rings, x.2.job ≠ m.job)
    (tables : ∀ x ∈ b.tables, (tdOf x.2.desc).job ≠ m.job) (regions : ∀ x ∈ b.eng.regions, jobOf x.2 36 ≠ m.job)
    (moves : ∀ x ∈ b.eng.migrations, x.job ≠ m.job) :
    ∃ (c : Block) (p : XEntry → Bool) (pw : Walk → Bool) (progs windows : Nat),
      msgJobClose st b m = .ok c (bodyOf [(16, 4, 0), (20, 4, 0), (24, 4, progs), (28, 2, 0), (30, 2, windows)]) ∧ c.rings = b.rings ∧
        c.progs = b.progs.filter (·.job != m.job) ∧ c.jobs = (b.jobs.modify m.job fun j => { j with closing := true }).del m.job ∧
        c.hubs = b.hubs.mapVal (fun _ x => x.dropXlat p pw) ∧ c.wr = b.wr := by
  have noRing : ((b.onJob m.job fun j => { j with closing := true }).rings.filter fun (_, r) => r.job == m.job) = [] := by
    simpa [List.filter_eq_nil_iff] using rings
  have noTable : ∀ x ∈ (b.closeJob m.job).tables, (tdOf x.2.desc).job ≠ m.job := by
    intro x mem
    obtain ⟨v, there, value⟩ := Tbl.mem_mapVal b.tables (fun _ t => t.closeIn m.job) x mem
    have same : x.2.desc = v.desc := (congrArg TableSt.desc value).trans (TableSt.closeIn_desc m.job v)
    exact same ▸ tables (x.1, v) there
  have waits : msgJobClose st b m = .await finJobClose st (b.closeJob m.job) m { obj := .job m.job } := by
    unfold msgJobClose
    dsimp only
    rw [noRing]
    rfl
  obtain ⟨c, p, pw, progs, windows, ends, sameRings, left, closed, hubs, wr⟩ :=
    finJobClose_idle st (b.closeJob m.job) m { obj := .job m.job } rings noTable regions moves
  refine ⟨c, p, pw, progs, windows, ?_, sameRings, left.trans (b.closeJob_others m.job), closed, hubs, wr⟩
  rw [waits, Ans.await, ends]

/-- Settles O14. -/
theorem jobSlotsOpenAndClose : Obligations.JobSlotsOpenAndClose := by
  unfold Obligations.JobSlotsOpenAndClose
  intro h k mb s m
  refine ⟨fun acc free aligned within weighs ranges => ?_, fun acc rings tables regions moves => ?_⟩
  · refine runs_accepted_plain msgJobOpen rfl acc _ (msgJobOpen_opens s.store (takenAt s h mb k) m free aligned within weighs ranges) rfl rfl rfl
      (by decide) (by decide) (Nat.two_pow_pos 16) fun t kept ans => ⟨ans.done, kept, ?_, ?_, ?_, ?_⟩
    · exact ans.part (·.jobs)
    · exact ans.part (·.tables)
    · exact ans.part (·.rings)
    · exact ans.part (·.dies)
  · obtain ⟨c, p, pw, progs, windows, ends, sameRings, left, closed, hubs, wr⟩ := msgJobClose_idle s.store (takenAt s h mb k) m rings tables regions moves
    obtain ⟨y, found⟩ := takenAt_found s h k mb acc.1.1
    refine runs_accepted msgJobClose rfl acc _ ends rfl ⟨y.dropXlat p pw, ?_⟩ ?_ ?_ (by decide) (by decide) (Nat.two_pow_pos 16) fun t ans => ?_
    · rw [show (Ans.ok c _).b = c from rfl, hubs, Tbl.get?_mapVal, found]
      rfl
    · rw [show (Ans.ok c _).b = c from rfl, Block.hub, hubs, Tbl.getD_mapVal (takenAt s h mb k).hubs (fun _ x => x.dropXlat p pw) h {} (fun x => x.regs.msiAddr) fun _ _ => rfl]
      exact (takenAt_msiAddr s h k h mb).trans (accepted_quiet acc h)
    · rw [show (Ans.ok c _).b = c from rfl, wr]
      exact fun _ _ _ => List.not_mem_nil
    · refine ⟨ans.done, ?_, ?_, ?_, ?_, ?_, ?_⟩
      · rw [ans.store, show (Ans.ok c _).b = c from rfl, wr]
        rfl
      · exact (ans.part (·.rings)).trans sameRings
      · exact (ans.part (·.progs)).trans left
      · exact (ans.part (·.jobs)).trans closed
      · exact (ans.body 16 4 (by decide) (by decide)).trans (bits_bodyOf _ 16 4 0 (by simp) (by simp))
      · exact (ans.body 20 4 (by decide) (by decide)).trans (bits_bodyOf _ 20 4 0 (by simp) (by simp))

end Sys2Proof.Machine
end

section
namespace Sys2Proof.Machine
open Sys2Proof.Spec

/-! ### TABLE_DEFINE, TABLE_RETIRE, TABLE_STATS, UPDATE_STATUS -/

/-- TABLE_DEFINE of a descriptor that passes R17 and Table 2-5. -/
theorem msgTableDefine_defines (st : Store) (b : Block) (m : Msg) (d : BitVec 512) (read : d = BitVec.ofNat 512 (m.struct 16 64))
    (stages : tdStages d b.eng.minor = OK) (owned : (tdOf d).job = m.job) (fresh : b.tables.has (tdOf d).table = false)
    (room : b.tables.length < Config.tablesAll) (share : (b.tables.vals.countP fun x => (tdOf x.desc).job == m.job) < Config.tablesPerJob)
    (fields : (tdOf d).fieldsOk = true) (twin : (tdOf d).mirror = true → b.feat featTWIN = true)
    (priv : (tdOf d).chclass = 1 → b.eng.layout.priv ≠ []) (capacity : (tdOf d).place = 1 → b.feat featCAPACITY = true) :
    msgTableDefine st b m =
      .ok { b with tables := b.tables.put (tdOf d).table { desc := d }
                   dies := b.dies.mapVal fun _ x => { x with replay := x.replay.put (tdOf d).table {} } } := by
  have featured : ((tdOf d).mirror && !b.feat featTWIN || (tdOf d).chclass == 1 && b.eng.layout.priv.isEmpty || (tdOf d).place == 1 && !b.feat featCAPACITY)
      = false := by
    simp only [Bool.or_eq_false_iff, Bool.and_eq_false_imp, Bool.not_eq_false', beq_iff_eq, List.isEmpty_eq_false_iff]
    exact ⟨⟨twin, priv⟩, capacity⟩
  unfold msgTableDefine Ans.guard
  dsimp only
  rw [← read, stages, if_pos rfl, if_pos]
  simp [firstFail, owned, fresh, featured, fields, Nat.not_le.mpr room, Nat.not_le.mpr share]

/-- A retirement that waits for no slot and no operation ends at once (R53). -/
theorem msgTableRetire_idle (st : Store) (b : Block) (m : Msg) (x : TableSt) (there : b.tables.get? (m.at 16 4) = some x)
    (owned : (tdOf x.desc).job = m.job) (slots : ∀ w ∈ b.works.vals, w.table ≠ some (m.at 16 4))
    (boards : ∀ d ∈ b.dies.vals, ∀ e ∈ d.board, e.table ≠ m.at 16 4) :
    ∃ n, msgTableRetire st b m = .ok ((b.onTable (m.at 16 4) fun x => { x with retiring := true }).dropTable (m.at 16 4)).1 (bodyOf [(16, 8, n)]) := by
  have own : b.tableOf m.job (m.at 16 4) = some x := by
    simp [Block.tableOf, there, owned]
  have none_ : (b.onTable (m.at 16 4) fun x => { x with retiring := true }).inFlight (fun w => w.table == some (m.at 16 4)) = [] := by
    simpa [Block.inFlight, List.filter_eq_nil_iff] using slots
  have quiet : (b.onTable (m.at 16 4) fun x => { x with retiring := true }).tableQuiet (m.at 16 4) = true := by
    simpa [Block.tableQuiet] using boards
  refine ⟨((b.onTable (m.at 16 4) fun x => { x with retiring := true }).dropTable (m.at 16 4)).2, ?_⟩
  unfold msgTableRetire
  dsimp only
  rw [own, none_]
  simp [Ans.await, finTableRetire, Block.allGone, quiet]

/-- TABLE_STATS of a table of the job slot. -/
theorem msgTableStats_reads (st : Store) (b : Block) (m : Msg) (x : TableSt) (there : b.tables.get? (m.at 16 4) = some x)
    (owned : (tdOf x.desc).job = m.job) :
    msgTableStats st b m = .ok (if m.flag 20 0 then b.onTable (m.at 16 4) fun x => { x with recodes := 0, satRows := 0, stagnant := 0 } else b)
      (bodyOf [(16, 8, x.recodes), (24, 8, x.satRows), (32, 8, x.stagnant)]) := by
  simp [msgTableStats, Block.tableOf, there, owned]

/-- UPDATE_STATUS answers APPLIED of each row die (R123). -/
theorem msgUpdateStatus_reads (st : Store) (b : Block) (m : Msg) (x : TableSt) (there : b.tables.get? (m.at 16 4) = some x)
    (owned : (tdOf x.desc).job = m.job) :
    ∃ body, msgUpdateStatus st b m = .ok b body ∧ ∀ q, q < 12 → bits body (8 * (16 + 8 * q)) (8 * 8) =
      (if b.dieUp q then ((b.die q).replay.getD (m.at 16 4) {}).applied else 2 ^ 64 - 1) % 2 ^ 64 := by
  have own : b.tableOf m.job (m.at 16 4) = some x := by
    simp [Block.tableOf, there, owned]
  unfold msgUpdateStatus
  dsimp only
  rw [own]
  refine ⟨_, rfl, fun q inside => bits_bodyOf _ (16 + 8 * q) 8 _ ?_ ?_⟩
  · refine List.mem_append_left _ (List.mem_flatMap.mpr ⟨q, List.mem_range.mpr inside, ?_⟩)
    exact List.mem_cons_self
  · intro e mem
    obtain per | rest := List.mem_append.mp mem
    · obtain ⟨p, -, entry⟩ := List.mem_flatMap.mp per
      obtain rfl | rfl : e = _ ∨ e = _ := by simpa only [List.mem_cons, List.not_mem_nil, or_false] using entry
      · obtain rfl | other := eq_or_ne p q
        · exact .inl rfl
        · right
          dsimp only
          omega
      · right
        dsimp only
        omega
    · right
      obtain rfl | rfl : e = _ ∨ e = _ := by simpa only [List.mem_cons, List.not_mem_nil, or_false] using rest
      all_goals
        dsimp only
        omega

/-- Settles O15. -/
theorem tableMessagesDefineRetireAndReport : Obligations.TableMessagesDefineRetireAndReport := by
  unfold Obligations.TableMessagesDefineRetireAndReport
  intro h k mb s m
  refine ⟨?_, fun x acc there owned slots boards => ?_, fun x acc there owned => ?_, fun x acc there owned => ?_⟩
  · intro acc d td stages owned fresh room share fields twin priv capacity
    refine runs_accepted_plain msgTableDefine rfl acc _
      (msgTableDefine_defines s.store (takenAt s h mb k) m d rfl stages owned fresh room share fields twin priv capacity) rfl rfl rfl
      (by decide) (by decide) (Nat.two_pow_pos 16) fun t kept ans => ⟨ans.done, kept, ?_, ?_, ?_, ?_⟩
    · exact ans.part (·.tables)
    · exact ans.part (·.rings)
    · exact ans.part (·.jobs)
    · intro q x found
      have die : (t.blk.die q) = { x with replay := x.replay.put td.table {} } := by
        have dies : t.blk.dies = s.blk.dies.mapVal fun _ x => { x with replay := x.replay.put td.table {} } := ans.part (·.dies)
        rw [Block.die, dies, Tbl.getD, Tbl.get?_mapVal, found]
        rfl
      rw [die]
      exact Tbl.get?_put_same _ _ _
  · obtain ⟨n, ends⟩ := msgTableRetire_idle s.store (takenAt s h mb k) m x there owned slots boards
    refine runs_accepted_plain msgTableRetire rfl acc _ ends rfl rfl rfl (by decide) (by decide) (Nat.two_pow_pos 16) fun t kept ans => ⟨ans.done, kept, ?_, ?_⟩
    · exact ans.part (·.tables)
    · exact ans.part (·.rings)
  · refine runs_accepted_plain msgTableStats rfl acc _ (msgTableStats_reads s.store (takenAt s h mb k) m x there owned) rfl ?_ ?_
      (by decide) (by decide) (Nat.two_pow_pos 16) fun t kept ans => ⟨ans.done, kept, ?_, ?_, ?_, ?_⟩
    · dsimp only [Ans.ok]
      split <;> rfl
    · dsimp only [Ans.ok]
      split <;> rfl
    · exact ans.field 16 8 _ rfl (by decide) (by simp) (by simp)
    · exact ans.field 24 8 _ rfl (by decide) (by simp) (by simp)
    · exact ans.field 32 8 _ rfl (by decide) (by simp) (by simp)
    · refine (congrArg (Tbl.get? · (m.at 16 4)) (ans.part (·.tables))).trans ?_
      dsimp only [Ans.ok]
      split
      · exact (Tbl.get?_modify_same _ _ _).trans (congrArg _ there)
      · exact there
  · obtain ⟨body, ends, reads⟩ := msgUpdateStatus_reads s.store (takenAt s h mb k) m x there owned
    refine runs_accepted_plain msgUpdateStatus rfl acc _ ends rfl rfl rfl (by decide) (by decide) (Nat.two_pow_pos 16) fun t kept ans =>
      ⟨ans.done, kept, ans.part (·.tables), ans.part (·.dies), fun q inside => ?_⟩
    refine ((ans.body (16 + 8 * q) 8 (by omega) ?_).trans (reads q inside)).trans (apply_ite (· % 2 ^ 64) _ _ _)
    rw [show cardUpdateStatus.rep = 224 from rfl]
    omega

end Sys2Proof.Machine
end

section
namespace Sys2Proof.Machine
open Sys2Proof.Spec

/-! ### PROGRAM_LOAD, PROGRAM_UNLOAD -/

/-- The block with the message copied, the copy read off the pair as it is marked. -/
theorem takenAt_eq (s : State) (h k : Nat) (mb : Mbox) :
    s.start.onPair h (pairKey mb k) (fun p => { p with st := .taken, copy := copyOf p.req }) = takenAt s h mb k := by
  unfold takenAt Block.onPair Block.onHub
  congr 1
  obtain gone | ⟨x, found⟩ := (s.start.hubs.get? h).eq_none_or_eq_some
  · rw [Tbl.modify_of_none _ _ _ gone, Tbl.modify_of_none _ _ _ gone]
  · have here : s.blk.hub h = x := s.blk.hub_of_get h x found
    rw [Tbl.modify, Tbl.modify, found]
    simp only [Block.pair, here]

/-- PROGRAM_LOAD of an image that reads and checks, its handle free and the store with room (R167, R168). -/
theorem msgProgramLoad_loads (st : Store) (b : Block) (m : Msg) (hb bs : List Byte) (base : Nat) (aligned : m.at 16 8 % 64 = 0)
    (head : msgRead st b m b.eng.leader (m.at 16 8) 64 = (b, .ok hb)) (stages : imageHeaderCheck b.eng.minor (ofBytes hb) = OK)
    (body : msgRead st b m b.eng.leader (m.at 16 8 + 64) (4 * bits (ofBytes hb) 32 10) = (b, .ok bs))
    (sound : (imageCheck b.eng.minor (ofBytes hb) (words32 (bits (ofBytes hb) 32 10) bs)).1 = OK)
    (free : b.progOf m.job (bits (ofBytes hb) 48 16) = none)
    (room : progSpace (b.progs.map fun p => (p.base, p.code.length)) (bits (ofBytes hb) 32 10) = some base) :
    let code := words32 (bits (ofBytes hb) 32 10) bs
    msgProgramLoad st b m =
      .ok { b with progs := b.progs ++ [{ job := m.job, handle := bits (ofBytes hb) 48 16, kind := bits (ofBytes hb) 8 4, base := base, code := code,
                                          tag := bits (ofBytes hb) 128 64, boundS := (boundOf code).1, boundP := (boundOf code).2 }] }
        (bodyOf [(16, 4, (boundOf code).1), (20, 4, (boundOf code).2)]) := by
  unfold msgProgramLoad Ans.guard
  dsimp only
  rw [if_neg (not_not.mpr aligned), head]
  dsimp only
  rw [stages, if_pos rfl, body]
  dsimp only
  rw [sound, if_neg (not_not.mpr rfl), free, room]
  rfl

/-- PROGRAM_UNLOAD of a program that no ring and no slot in flight names (R168). -/
theorem msgProgramUnload_idle (st : Store) (b : Block) (m : Msg) (p : Prog) (there : b.progOf m.job (m.at 16 2) = some p)
    (rings : ∀ r ∈ b.rings.vals, ¬(r.job = m.job ∧ r.xprog = m.at 16 2)) (slots : ∀ w ∈ b.works.vals, ¬(w.job = m.job ∧ w.prog = some (m.at 16 2))) :
    ∃ progs, msgProgramUnload st b m = .ok { b with progs := progs } ∧ progs.find? (fun p => p.job == m.job && p.handle == m.at 16 2) = none ∧
      ∀ q ∈ b.progs, ¬(q.job = m.job ∧ q.handle = m.at 16 2) → q ∈ progs := by
  have unused : (b.rings.vals.any fun r => r.job == m.job && r.xprog == m.at 16 2) = false := by
    simpa using rings
  have idle : ∀ progs, (({ b with progs := progs } : Block).inFlight fun w => w.job == m.job && w.prog == some (m.at 16 2)) = [] := by
    simpa [Block.inFlight, List.filter_eq_nil_iff] using slots
  unfold msgProgramUnload
  dsimp only
  rw [there]
  dsimp only
  rw [unused, if_neg Bool.false_ne_true, idle]
  refine ⟨_, rfl, ?_, fun q mem other => ?_⟩
  · refine List.find?_eq_none.mpr fun q mem => ?_
    obtain ⟨-, left⟩ := List.mem_filter.mp mem
    rw [Bool.not_eq_true'] at left
    rw [left]
    exact Bool.false_ne_true
  · have other' : (q.job == m.job && q.handle == m.at 16 2) = false := by
      simpa using other
    refine List.mem_filter.mpr ⟨List.mem_map.mpr ⟨q, mem, ?_⟩, ?_⟩
    · rw [other', if_neg Bool.false_ne_true]
    · rw [other']
      rfl

/-- Settles O16. -/
theorem programsLoadAndUnload : Obligations.ProgramsLoadAndUnload := by
  unfold Obligations.ProgramsLoadAndUnload
  intro h k mb s m
  refine ⟨?_, ?_⟩
  · intro hb bs base posted header body job quiet first b hdr len code aligned head stages image sound free room
    have taken : b = takenAt s h mb k := takenAt_eq s h k mb
    rw [taken] at head image
    have loads := msgProgramLoad_loads s.store (takenAt s h mb k) m hb bs base aligned head stages image sound free room
    have object : objProgramLoad s.store (takenAt s h mb k) m = .prog m.job (bits hdr 48 16) := by
      unfold objProgramLoad
      rw [show (takenAt s h mb k).eng.leader = s.blk.eng.leader from rfl, head]
    have effect : messageAt cardProgramLoad msgProgramLoad objProgramLoad h mb k s.store s.start =
        (msgProgramLoad s.store (takenAt s h mb k) m).write cardProgramLoad m false := by
      refine (messageAt_posted cardProgramLoad _ _ h k mb s posted).trans ((if_neg (not_not.mpr header)).trans ((if_neg (not_not.mpr body)).trans ?_))
      unfold applyMsg
      dsimp only
      have job' : (takenAt s h mb k).jobCheck cardProgramLoad m = OK := job
      have first' : (takenAt s h mb k).behind (takenAt s h mb k).eng.pend m (.prog m.job (bits hdr 48 16)) = false := first
      have feature' : (takenAt s h mb k).featCheck cardProgramLoad = OK := rfl
      rw [object, job', first', feature']
      rfl
    refine Runs.answered rfl cardProgramLoad m _ (effect.trans (congrArg (Ans.write · cardProgramLoad m false) loads)) rfl (takenAt_found s h k mb posted.1)
      ((takenAt_msiAddr s h k h mb).trans (quiet h)) (fun _ _ _ => List.not_mem_nil) (by decide) (by decide) (Nat.two_pow_pos 16) fun t ans => ⟨ans.done, ans.store, ?_, ?_, ?_⟩
    · exact ans.part (·.progs)
    · exact ans.field 16 4 _ rfl (by decide) List.mem_cons_self (by simp [code, len, hdr])
    · exact ans.field 20 4 _ rfl (by decide) (List.mem_cons_of_mem _ List.mem_cons_self) (by simp [code, len, hdr])
  · intro p acc there rings slots
    obtain ⟨progs, ends, gone, others⟩ := msgProgramUnload_idle s.store (takenAt s h mb k) m p there rings slots
    refine runs_accepted_plain msgProgramUnload rfl acc _ ends rfl rfl rfl (by decide) (by decide) (Nat.two_pow_pos 16) fun t kept ans =>
      ⟨ans.done, kept, ?_, fun q mem other => ?_, ans.part (·.rings)⟩
    · exact (ans.part (·.progOf m.job (m.at 16 2))).trans gone
    · rw [ans.part (·.progs)]
      exact others q mem other

end Sys2Proof.Machine
end

section
/-!
SUPPORT. What the engine's own writes, walks and records touch: a block's core is what they all leave, and `Touch P` is the relation from before to
after such a change, whose writes to memory all satisfy P.
-/
namespace Sys2Proof

theorem Tbl.mapVal_modify {α : Type} (t : Tbl α) (k : Nat) (f g : α → α) (keeps : ∀ x, g (f x) = g x) :
    Tbl.mapVal (Tbl.modify t k f) (fun _ => g) = Tbl.mapVal t fun _ => g :=
  Tbl.map_modify t k f g keeps

/-- The value at a key of a table whose values all change, the default changed alike. -/
theorem Tbl.getD_mapVal_apply {α : Type} (t : Tbl α) (f : α → α) (k : Nat) (d : α) (default : f d = d) :
    Tbl.getD (Tbl.mapVal t fun _ => f) k d = f (Tbl.getD t k d) := by
  simp only [Tbl.getD, Tbl.get?_mapVal]
  cases Tbl.get? t k with
  | none => exact default.symm
  | some _ => rfl

end Sys2Proof

namespace Sys2Proof.Machine

/-- A hub but for its translation caches and walks, its row-cache slice and its interrupt causes. -/
def Hub.core (x : Hub) : Hub := { x with xlat := {}, slice := {}, regs := { x.regs with intStatus := 0 } }

/-- A row die but for its channels, its buffers, its entry cache and its scoreboard. -/
def RowDie.core (d : RowDie) : RowDie := { d with chans := [], wcb := [], buffer := {}, board := [], entries := [] }

/-- A ring but for what its status block shows of a halt, and for what kinds of access it has lost. -/
def Ring.core (r : Ring) : Ring := { r with haltPos := 0, haltTile := 0, haltStatus := 0, hostLost := r.hostLost.map fun x => (x.1, x.2.1, 0) }

/-- A slot but for its accesses toward windows and hosts. -/
def Work.core (w : Work) : Work := { w with hostWhat := 0, hostHeld := false, hostMute := false, outstanding := 0 }

/-- The engine's record but for the event log, the monitors and the uses of pages and windows. -/
def Eng.core (e : Eng) : Eng := { e with winOut := [], nextUse := 0, events := [], eseq := 0, heldEvents := [], monitors := [] }

/-- A block but for what writes, walks and events touch. -/
def Block.core (b : Block) : Block :=
  { b with eng := b.eng.core, hubs := b.hubs.mapVal fun _ => Hub.core, dies := b.dies.mapVal fun _ => RowDie.core
           rings := b.rings.mapVal fun _ => Ring.core, works := b.works.mapVal fun _ => Work.core, outbox := [], heldHost := [], wr := [] }

/-- No hub of the block has an interrupt address set. -/
def Block.Quiet (b : Block) : Prop := ∀ g, (b.hub g).regs.msiAddr = 0

/-- From b to c only what writes, walks and events touch has changed, and with no interrupt address set every write made satisfies P. -/
structure Touch (P : Wr → Prop) (b c : Block) : Prop where
  core : c.core = b.core
  lost : ∀ ch, (c.chan ch).lost = (b.chan ch).lost
  wr : b.Quiet → ∃ ws, c.wr = b.wr ++ ws ∧ ∀ w ∈ ws, P w

namespace Touch

variable {P : Wr → Prop} {b c d : Block}

/-- A part of the block that lies in its core. -/
theorem part (touch : Touch P b c) {α : Type} (p : Block → α) (keeps : ∀ d : Block, p d.core = p d := by exact fun _ => rfl) : p c = p b := by
  rw [← keeps c, ← keeps b, touch.core]

theorem hub_core (b : Block) (g : Nat) : b.core.hub g = (b.hub g).core := Tbl.getD_mapVal_apply b.hubs Hub.core g {} rfl

theorem die_core (b : Block) (s : Nat) : b.core.die s = (b.die s).core := Tbl.getD_mapVal_apply b.dies RowDie.core s {} rfl

/-- A part of a hub that lies in its core. -/
theorem hub (touch : Touch P b c) (g : Nat) {α : Type} (p : Hub → α) (keeps : ∀ x : Hub, p x.core = p x := by exact fun _ => rfl) :
    p (c.hub g) = p (b.hub g) := by
  rw [← keeps (c.hub g), ← keeps (b.hub g), ← hub_core, ← hub_core, touch.core]

/-- A part of a row die that lies in its core. -/
theorem die (touch : Touch P b c) (s : Nat) {α : Type} (p : RowDie → α) (keeps : ∀ x : RowDie, p x.core = p x := by exact fun _ => rfl) :
    p (c.die s) = p (b.die s) := by
  rw [← keeps (c.die s), ← keeps (b.die s), ← die_core, ← die_core, touch.core]

theorem ring (touch : Touch P b c) (q : Nat) : (c.rings.get? q).map Ring.core = (b.rings.get? q).map Ring.core := by
  have same := congrArg (fun d : Block => d.rings.get? q) touch.core
  simpa only [Block.core, Tbl.get?_mapVal] using same

theorem work (touch : Touch P b c) (k : Nat) : (c.works.get? k).map Work.core = (b.works.get? k).map Work.core := by
  have same := congrArg (fun d : Block => d.works.get? k) touch.core
  simpa only [Block.core, Tbl.get?_mapVal] using same

theorem hubs (touch : Touch P b c) (h : Nat) : (c.hubs.get? h).map Hub.core = (b.hubs.get? h).map Hub.core := by
  have same := congrArg (fun d : Block => d.hubs.get? h) touch.core
  simpa only [Block.core, Tbl.get?_mapVal] using same

/-- A ring that stands still stands, its core kept. -/
theorem ring_some (touch : Touch P b c) {q : Nat} {r : Ring} (found : b.rings.get? q = some r) :
    ∃ r', c.rings.get? q = some r' ∧ r'.core = r.core := by
  have same := touch.ring q
  rw [found] at same
  exact Option.map_eq_some_iff.mp same

theorem work_some (touch : Touch P b c) {k : Nat} {w : Work} (found : b.works.get? k = some w) : ∃ w', c.works.get? k = some w' ∧ w'.core = w.core := by
  have same := touch.work k
  rw [found] at same
  exact Option.map_eq_some_iff.mp same

theorem hub_some (touch : Touch P b c) {h : Nat} {x : Hub} (found : b.hubs.get? h = some x) : ∃ x', c.hubs.get? h = some x' ∧ x'.core = x.core := by
  have same := touch.hubs h
  rw [found] at same
  exact Option.map_eq_some_iff.mp same

theorem quiet (touch : Touch P b c) (still : b.Quiet) : c.Quiet := fun g => (touch.hub g (·.regs.msiAddr)).trans (still g)

theorem refl (b : Block) : Touch P b b := ⟨rfl, fun _ => rfl, fun _ => ⟨[], (List.append_nil _).symm, fun _ mem => absurd mem List.not_mem_nil⟩⟩

theorem trans (first : Touch P b c) (second : Touch P c d) : Touch P b d := by
  refine ⟨second.core.trans first.core, fun ch => (second.lost ch).trans (first.lost ch), fun still => ?_⟩
  obtain ⟨ws, one, oneAll⟩ := first.wr still
  obtain ⟨vs, two, twoAll⟩ := second.wr (first.quiet still)
  refine ⟨ws ++ vs, by rw [two, one, List.append_assoc], fun w mem => ?_⟩
  exact (List.mem_append.mp mem).elim (oneAll w) (twoAll w)

theorem mono {Q : Wr → Prop} (touch : Touch P b c) (weaker : ∀ w, P w → Q w) : Touch Q b c := by
  refine ⟨touch.core, touch.lost, fun still => ?_⟩
  obtain ⟨ws, made, all⟩ := touch.wr still
  exact ⟨ws, made, fun w mem => weaker w (all w mem)⟩

theorem foldl {α : Type} {f : Block → α → Block} (as : List α) (step : ∀ b, ∀ a ∈ as, Touch P b (f b a)) (b : Block) : Touch P b (as.foldl f b) := by
  induction as generalizing b with
  | nil => exact refl b
  | cons a as ih =>
    exact (step b a List.mem_cons_self).trans (ih (fun b a mem => step b a (List.mem_cons_of_mem _ mem)) (f b a))

/-- A change that makes no write and leaves the row dies. -/
theorem of_core (core : c.core = b.core) (dies : c.dies = b.dies) (wr : c.wr = b.wr) : Touch P b c :=
  ⟨core, fun ch => by simp only [Block.chan, Block.die, dies], fun _ => ⟨[], by rw [wr, List.append_nil], fun _ mem => absurd mem List.not_mem_nil⟩⟩

theorem onHub (b : Block) (h : Nat) (f : Hub → Hub) (keeps : ∀ x, (f x).core = x.core) : Touch P b (b.onHub h f) := by
  refine of_core ?_ rfl rfl
  simp only [Block.core, Block.onHub, Tbl.mapVal_modify b.hubs h f Hub.core keeps]

theorem onXlat (b : Block) (h : Nat) (f : Xlat → Xlat) : Touch P b (b.onXlat h f) := onHub b h _ fun _ => rfl

theorem onSlice (b : Block) (h : Nat) (f : Slice → Slice) : Touch P b (b.onSlice h f) := onHub b h _ fun _ => rfl

theorem onEng (b : Block) (f : Eng → Eng) (keeps : (f b.eng).core = b.eng.core) : Touch P b (b.onEng f) := by
  refine of_core ?_ rfl rfl
  simp only [Block.core, Block.onEng, keeps]

theorem onRing (b : Block) (r : Nat) (f : Ring → Ring) (keeps : ∀ x, (f x).core = x.core) : Touch P b (b.onRing r f) := by
  refine of_core ?_ rfl rfl
  simp only [Block.core, Block.onRing, Tbl.mapVal_modify b.rings r f Ring.core keeps]

theorem onWork (b : Block) (r p : Nat) (f : Work → Work) (keeps : ∀ x, (f x).core = x.core) : Touch P b (b.onWork r p f) := by
  refine of_core ?_ rfl rfl
  simp only [Block.core, Block.onWork, Tbl.mapVal_modify b.works (workKey r p) f Work.core keeps]

theorem send (b : Block) (o : Out) : Touch P b (b.send o) := of_core rfl rfl rfl

theorem sample (b : Block) (mon inst v : Nat) : Touch P b (b.sample mon inst v) := onEng b _ rfl

theorem onDie (b : Block) (s : Nat) (f : RowDie → RowDie) (keeps : ∀ x, (f x).core = x.core)
    (lost : ∀ (x : RowDie) (ch : Nat), ((f x).chans.getD ch {}).lost = (x.chans.getD ch {}).lost) : Touch P b (b.onDie s f) := by
  refine ⟨?_, fun ch => ?_, fun _ => ⟨[], (List.append_nil _).symm, fun _ mem => absurd mem List.not_mem_nil⟩⟩
  · simp only [Block.core, Block.onDie, Tbl.mapVal_modify b.dies s f RowDie.core keeps]
  · by_cases here : ch / 64 = s
    · obtain gone | ⟨x, found⟩ := (b.dies.get? s).eq_none_or_eq_some
      · rw [Block.onDie, Tbl.modify_of_none _ _ _ gone]
      · rw [Block.chan, Block.chan, here, b.die_onDie_same s f x found, b.die_of_get s x found]
        exact lost x ch
    · rw [Block.chan, b.die_onDie_other s (ch / 64) f here]
      rfl

theorem onChan (b : Block) (c : Nat) (f : Chan → Chan) (lost : ∀ x, (f x).lost = x.lost) : Touch P b (b.onChan c f) := by
  refine onDie b (c / 64) _ (fun _ => rfl) fun x ch => ?_
  obtain rfl | other := eq_or_ne ch c
  · rw [Tbl.getD_put_same]
    exact lost _
  · rw [Tbl.getD_put_other _ _ _ _ _ other]

theorem push (b : Block) (w : Wr) (holds : P w) : Touch P b (b.push w) :=
  ⟨rfl, fun _ => rfl, fun _ => ⟨[w], rfl, fun _ mem => List.mem_singleton.mp mem ▸ holds⟩⟩

end Touch

namespace Touch

variable {P : Wr → Prop} {b c d : Block}

theorem msiWrite (b : Block) (h : Nat) : Touch P b (b.msiWrite h) := by
  refine ⟨?_, fun ch => ?_, fun still => ?_⟩
  · unfold Block.msiWrite
    dsimp only
    split
    · rfl
    · split
      · split
        · rfl
        · exact (sample (P := P) b 0x0F h 0).core
      · split
        · exact (sample (P := P) b 0x0F h 0).core
        · rfl
  · have dies : (b.msiWrite h).dies = b.dies := by
      unfold Block.msiWrite
      dsimp only
      repeat' split
      all_goals rfl
    simp only [Block.chan, Block.die, dies]
  · have unset : b.msiWrite h = b := if_pos (by rw [still h]; rfl)
    exact ⟨[], by rw [unset, List.append_nil], fun _ mem => absurd mem List.not_mem_nil⟩

theorem raise (b : Block) (h cause : Nat) : Touch P b (b.raise h cause) := by
  have marked : Touch P b (b.onRegs h fun r => { r with intStatus := r.intStatus ||| BitVec.ofNat 64 (2 ^ cause) }) := onHub b h _ fun _ => rfl
  unfold Block.raise
  dsimp only
  split
  · exact marked.trans (msiWrite _ h)
  · exact marked

theorem report (b : Block) (r : BitVec 256) : Touch P b (b.report r) := by
  have logged : Touch P b (b.logRecord r) := by
    refine onEng b _ ?_
    split <;> simp only [Eng.core]
  unfold Block.report
  split
  · exact logged
  · exact logged.trans (foldl _ (fun b h _ => raise b h intEVENT) _)

theorem event (b : Block) (hub kind : Nat) (job : Option Nat) (payload : Nat) : Touch P b (b.event hub kind job payload) := report b _

theorem lostWrite (b : Block) (hub granule stack source : Nat) : Touch P b (b.lostWrite hub granule stack source) :=
  (sample b 0x10 stack 0).trans (event _ _ _ _ _)

theorem passTags (b : Block) (ch row : Nat) (zero : Bool) : Touch P b (b.passTags ch row zero) := by
  have slice : ∀ (b : Block) s f, Touch P b (b.onGroupSlice s f) := by
    intro b s f
    unfold Block.onGroupSlice
    split
    · exact onSlice b _ f
    · exact refl b
  exact (slice b (ch / 64) _).trans (onDie _ _ _ (fun _ => rfl) fun _ _ => rfl)

theorem request (b : Block) (ch : Nat) (rt : Bool) (q : Req) : Touch P b (b.request ch rt q) := by
  unfold Block.request
  split
  · exact refl b
  · refine onChan b ch _ fun x => ?_
    dsimp only
    split <;> split <;> rfl

theorem requestAtoms (b : Block) (rt : Bool) (q : Req) (atoms : List Nat) : Touch P b (b.requestAtoms rt q atoms) :=
  foldl _ (fun b x _ => request b x.1 rt _) b

theorem enter (b : Block) (stack : Nat) (e : SbEntry) : Touch P b (b.enter stack e) := onDie b stack _ (fun _ => rfl) fun _ _ => rfl

theorem drainOne (b : Block) (s : Nat) : Touch P b (b.drainOne s).1 := by
  unfold Block.drainOne
  split
  · exact refl b
  · rename_i e es _
    have taken : Touch P b (b.onDie s fun d => { d with wcb := es }) := onDie b s _ (fun _ => rfl) fun _ _ => rfl
    dsimp only
    split
    · exact taken.trans (requestAtoms _ _ _ _)
    · split
      · exact refl b
      · exact ((taken.trans (requestAtoms _ _ _ _)).trans (requestAtoms _ _ _ _)).trans (enter _ _ _)

theorem drainFor (b : Block) (s n fuel : Nat) : Touch P b (b.drainFor s n fuel) := by
  induction fuel generalizing b with
  | zero => exact refl b
  | succ fuel ih =>
    unfold Block.drainFor
    split
    · exact refl b
    · have one : Touch P b (b.drainOne s).1 := drainOne b s
      split
      · rename_i drained
        rw [drained] at one
        exact one.trans (ih _)
      · exact refl b

theorem wcbAccept (b : Block) (stack pa n cls : Nat) (remote : Bool) : Touch P b (b.wcbAccept stack pa n cls remote) :=
  (drainFor b stack n _).trans (onDie _ stack _ (fun _ => rfl) fun _ _ => rfl)

end Touch

/-- A write to stack memory within [lo, lo + n). -/
def Wr.inside (lo n : Nat) (w : Wr) : Prop := ∃ a data, w = .mem a data ∧ lo ≤ a ∧ a + data.length ≤ lo + n

/-- A piece of a range lies in it. -/
theorem mem_pieces {pa n : Nat} {x : Nat × Nat × Nat} (mem : x ∈ pieces pa n) : pa ≤ x.1 ∧ x.1 + x.2.2 ≤ pa + n := by
  obtain ⟨g, granule, rfl⟩ := List.mem_map.mp mem
  unfold granulesOf at granule
  split at granule
  · exact absurd granule List.not_mem_nil
  · obtain ⟨i, inside, rfl⟩ := List.mem_map.mp granule
    have low := List.mem_range.mp inside
    dsimp only
    simp only [Nat.max_def, Nat.min_def]
    split <;> split <;> omega

/-- A write to stack memory touches what every write touches, and stores within its range. -/
theorem Touch.wrMem (b : Block) (hub pa : Nat) (data : List Byte) (source cls : Nat) : Touch (Wr.inside pa data.length) b (b.wrMem hub pa data source cls) := by
  refine Touch.foldl _ (fun b x mem => ?_) b
  obtain ⟨a, off, n⟩ := x
  obtain ⟨low, high⟩ := mem_pieces mem
  dsimp only at low high ⊢
  split
  · exact Touch.refl b
  · split
    · exact Touch.lostWrite b _ _ _ _
    · refine ((Touch.push b _ ?_).trans (Touch.wcbAccept _ _ _ _ _ _)).trans (Touch.passTags _ _ _ _)
      refine ⟨a, _, rfl, low, ?_⟩
      have short : ((data.drop off).take n).length ≤ n := List.length_take_le n _
      omega

/-- The interrupt writes at a command's end touch what every write touches. -/
theorem Block.interrupts_core (b : Block) (fuel : Nat) : (b.interrupts fuel).core = b.core := by
  induction fuel generalizing b with
  | zero => rfl
  | succ fuel ih =>
    unfold Block.interrupts
    dsimp only
    split
    · rfl
    · have made : ∀ (ws : List Wr) (b : Block), (ws.foldl Block.interrupt b).core = b.core := by
        intro ws
        induction ws with
        | nil => exact fun _ => rfl
        | cons w ws each =>
          intro b
          refine (each _).trans ?_
          cases w with
          | intr h a d => exact (Touch.wrMem b h a d 2 1).core
          | _ => rfl
      exact (ih _).trans (made _ _)

end Sys2Proof.Machine
end

section
/-!
SUPPORT. What the status write of a ring, and the walk that it may need, touch (R197, R309, R316).
-/
namespace Sys2Proof.Machine

namespace Touch

variable {P : Wr → Prop}

theorem cached (b : Block) (h job : Nat) (n : Need) : Touch P b (b.cached h job n).2 := by
  unfold Block.cached
  split
  · exact refl b
  · dsimp only
    split
    · exact refl b
    · split
      · exact onXlat b h fun x => x.touch _ _
      · exact onXlat b h fun x => x.dropWay _ _

theorem issueWalk (b : Block) (h id : Nat) : Touch P b (b.issueWalk h id) := by
  unfold Block.issueWalk
  split
  · exact refl b
  · dsimp only
    split
    · exact refl b
    · exact (onXlat b h _).trans (requestAtoms _ _ _ _)

theorem startWalk (b : Block) (h : Nat) (who : Who) (job : Nat) (n : Need) (rt : Bool) : Touch P b (b.startWalk h who job n rt) := by
  unfold Block.startWalk
  split
  · exact refl b
  · split
    · exact refl b
    · exact (onXlat b h _).trans (issueWalk _ _ _)

theorem dropWalks (b : Block) (h : Nat) (p : Walk → Bool) : Touch P b (b.dropWalks h p) := onXlat b h _

theorem haltFields (b : Block) (rid : Nat) : Touch P b (b.haltFields rid) := onRing b rid _ fun _ => rfl

/-- A ring that is host-lost loses one more kind of access (R348). -/
theorem hostLose (b : Block) (rid what : Nat) (r : Ring) (found : b.rings.get? rid = some r) (lost : r.hostLost.isSome = true) :
    Touch P b (b.hostLose rid what) := by
  obtain ⟨⟨f, l, w⟩, record⟩ := Option.isSome_iff_exists.mp lost
  have effect : b.hostLose rid what = b.onRing rid fun r => { r with hostLost := some (f, l, w ||| what) } := by
    simp only [Block.hostLose, found, record]
  rw [effect]
  have alike : (b.onRing rid fun r => { r with hostLost := some (f, l, w ||| what) }) =
      b.onRing rid fun r => { r with hostLost := r.hostLost.map fun x => (x.1, x.2.1, x.2.2 ||| what) } := by
    simp only [Block.onRing, Tbl.modify, found, record, Option.map_some]
  rw [alike]
  refine onRing b rid _ fun x => ?_
  simp only [Ring.core, Option.map_map, Function.comp_def]

theorem wrHost (b : Block) (port ha : Nat) (data : List Byte) (holds : P (.host ha data)) : Touch P b (b.wrHost port ha data) := by
  unfold Block.wrHost
  split
  · exact (push b _ holds).trans (send _ _)
  · exact of_core rfl rfl rfl
  · exact refl b

theorem sendWin (b : Block) (ring p win : Nat) (read : Bool) (o : Out) : Touch P b (b.sendWin ring p win read o).1 :=
  (send b o).trans (of_core rfl rfl rfl)

/-- A piece of a write through one page, other than one toward a lost host. -/
theorem pageWriteRaw (b : Block) (rid p : Nat) (pg : Page) (off : Nat) (data : List Byte) (what : Nat) (link : pg.target = 1 → b.hostLostNow = false)
    (mem : ∀ w, Wr.inside (pg.addr + off) data.length w → P w) (host : ∀ a d, P (.host a d)) : Touch P b (b.pageWriteRaw rid p pg off data what) := by
  unfold Block.pageWriteRaw
  dsimp only
  split
  · exact (wrMem b _ _ _ _ _).mono mem
  · split
    · rename_i target
      rw [link target, if_neg Bool.false_ne_true]
      exact (wrHost b _ _ _ (host _ _)).trans (onWork _ _ _ _ fun _ => rfl)
    · exact (sendWin b _ _ _ _ _).trans (onWork _ _ _ _ fun _ => rfl)

end Touch

/-- A cached translation does not depend on the rings. -/
theorem Block.cached_onRing (b : Block) (rid : Nat) (f : Ring → Ring) (h job : Nat) (n : Need) :
    (b.onRing rid f).cached h job n = ((b.cached h job n).1, (b.cached h job n).2.onRing rid f) := by
  unfold Block.cached
  rw [show (b.onRing rid f).hub h = b.hub h from rfl]
  cases (b.hub h).xlat.find job n.va with
  | none => rfl
  | some x =>
    dsimp only
    rw [show (b.onRing rid f).migrating job n = b.migrating job n from rfl]
    split
    · rfl
    · rw [show (b.onRing rid f).leafRetired x.2.2 n.va = b.leafRetired x.2.2 n.va from rfl]
      split <;> rfl

theorem Block.cached_rings (b : Block) (h job : Nat) (n : Need) : (b.cached h job n).2.rings = b.rings := by
  unfold Block.cached
  split
  · rfl
  · dsimp only
    repeat' split
    all_goals rfl

/-- A write that the status block of a ring takes: to a host, or within the 64 bytes of the block in stack memory. -/
def StatusWr (b : Block) (rid : Nat) (w : Wr) : Prop :=
  (∃ a data, w = .host a data) ∨ ∃ r pg, b.rings.get? rid = some r ∧ (b.cached (ringHub rid) r.job { va := r.cbase, write := true }).1 = some pg ∧
    Wr.inside (pg.addr + r.cbase % 65536) 64 w

/-- The status write of a ring, or the walk that it needs, touches what every write touches, and stores to the status block alone. -/
theorem Touch.statusWrite (b : Block) (rid : Nat) : Touch (StatusWr b rid) b (b.statusWrite rid) := by
  have shown : Touch (StatusWr b rid) b (b.haltFields rid) := Touch.haltFields b rid
  unfold Block.statusWrite
  dsimp only
  split
  · exact shown
  · rename_i r found
    obtain ⟨r0, found0, same⟩ : ∃ r0, b.rings.get? rid = some r0 ∧ r0.core = r.core :=
      Option.map_eq_some_iff.mp ((shown.ring rid).symm.trans (congrArg (Option.map Ring.core) found))
    have job : r.job = r0.job := (congrArg Ring.job same).symm
    have base : r.cbase = r0.cbase := (congrArg Ring.cbase same).symm
    split
    · exact shown
    · have translated := shown.trans (Touch.cached (b.haltFields rid) (ringHub rid) r.job { va := r.cbase, write := true })
      have place : ((b.haltFields rid).cached (ringHub rid) r.job { va := r.cbase, write := true }).1 = _ :=
        congrArg Prod.fst (b.cached_onRing rid _ (ringHub rid) r.job { va := r.cbase, write := true })
      have rings := (b.haltFields rid).cached_rings (ringHub rid) r.job { va := r.cbase, write := true }
      split
      · rename_i pg c hit
        replace hit : (b.haltFields rid).cached (ringHub rid) r.job { va := r.cbase, write := true } = (some pg, c) := hit
        rw [hit] at translated rings
        split
        · split
          · rename_i lost
            exact translated.trans (Touch.hostLose c rid whatREC _ ((congrArg (Tbl.get? · rid) rings).trans found) lost)
          · exact translated
        · rename_i unlost
          refine translated.trans (Touch.pageWriteRaw c rid noSlot pg _ _ whatREC (fun target => ?_) (fun w inside => .inr ⟨r0, pg, found0, ?_, ?_⟩) fun a d => .inl ⟨a, d, rfl⟩)
          · simpa [target] using unlost
          · rw [← job, ← base]
            exact place.symm.trans (congrArg Prod.fst hit)
          · rw [← base]
            exact inside
      · rename_i c missed
        replace missed : (b.haltFields rid).cached (ringHub rid) r.job { va := r.cbase, write := true } = (none, c) := missed
        rw [missed] at translated
        exact translated.trans (Touch.startWalk _ _ _ _ _ _)

end Sys2Proof.Machine
end

section
/-!
SUPPORT. Interrupt addresses through changes of the block, halt reasons, and semaphores set to 0.
-/
namespace Sys2Proof.Machine
open Sys2Proof.Spec

/-- The hubs that stand, and their interrupt addresses, are the same. -/
def AddrKept (b c : Block) : Prop := ∀ g, (c.hubs.get? g).map (fun x => x.regs.msiAddr) = (b.hubs.get? g).map fun x => x.regs.msiAddr

namespace AddrKept

variable {b c d : Block}

theorem trans (first : AddrKept b c) (second : AddrKept c d) : AddrKept b d := fun g => (second g).trans (first g)

theorem of_hubs (same : c.hubs = b.hubs) : AddrKept b c := fun g => by rw [same]

theorem of_mapVal (f : Nat → Hub → Hub) (same : c.hubs = b.hubs.mapVal f) (keeps : ∀ q x, (f q x).regs.msiAddr = x.regs.msiAddr) : AddrKept b c := by
  intro g
  rw [same, Tbl.get?_mapVal, Option.map_map]
  exact congrArg (Option.map · _) (funext fun x => keeps g x)

theorem of_modify (h : Nat) (f : Hub → Hub) (same : c.hubs = b.hubs.modify h f) (keeps : ∀ x, (f x).regs.msiAddr = x.regs.msiAddr) : AddrKept b c := by
  intro g
  rw [same]
  obtain rfl | other := eq_or_ne g h
  · rw [Tbl.get?_modify_same, Option.map_map]
    exact congrArg (Option.map · _) (funext keeps)
  · rw [Tbl.get?_modify_other _ _ _ _ other]

theorem of_touch {P : Wr → Prop} (touch : Touch P b c) : AddrKept b c := by
  intro g
  have same := congrArg (Option.map fun x => x.regs.msiAddr) (touch.hubs g)
  rw [Option.map_map, Option.map_map] at same
  exact same

theorem addr (kept : AddrKept b c) (g : Nat) : (c.hub g).regs.msiAddr = (b.hub g).regs.msiAddr := by
  have same := kept g
  simp only [Block.hub, Tbl.getD]
  cases there : b.hubs.get? g <;> cases there' : c.hubs.get? g <;> simp_all

theorem there (kept : AddrKept b c) {g : Nat} (found : ∃ y, b.hubs.get? g = some y) : ∃ y, c.hubs.get? g = some y := by
  obtain ⟨y, found⟩ := found
  have same := kept g
  rw [found] at same
  obtain ⟨y', found', -⟩ := Option.map_eq_some_iff.mp same
  exact ⟨y', found'⟩

theorem quiet (kept : AddrKept b c) (still : b.Quiet) : c.Quiet := fun g => (kept.addr g).trans (still g)

end AddrKept

/-- No interrupt write stands among the writes. -/
def Silent (b : Block) : Prop := ∀ k a d, Wr.intr k a d ∉ b.wr

theorem Silent.of_wr {b : Block} (none_ : b.wr = []) : Silent b := fun _ _ _ mem => absurd (none_ ▸ mem) List.not_mem_nil

theorem Touch.silent {P : Wr → Prop} {b c : Block} (touch : Touch P b c) (still : b.Quiet) (silent : Silent b) (never : ∀ k a d, ¬P (.intr k a d)) :
    Silent c := by
  obtain ⟨ws, made, all⟩ := touch.wr still
  intro k a d mem
  rw [made, List.mem_append] at mem
  exact mem.elim (silent k a d) fun new => never k a d (all _ new)

theorem StatusWr.not_intr {b : Block} {rid : Nat} (k a : Nat) (d : List Byte) : ¬StatusWr b rid (.intr k a d) := by
  rintro (⟨_, _, write⟩ | ⟨_, _, _, _, _, _, write, _⟩) <;> cases write

theorem takenAt_quiet {c : Card} {h k : Nat} {mb : Mbox} {s : State} (acc : Accepted c h mb k s) : (takenAt s h mb k).Quiet :=
  fun g => (takenAt_msiAddr s h k g mb).trans (accepted_quiet acc g)

/-- An accepted message whose card's part ends, having changed no interrupt address. -/
theorem runs_accepted_kept {c : Card} {h k : Nat} {mb : Mbox} {s : State} {i : Instr} {P : State → Prop} (act : Store → Block → Msg → Ans)
    (arm : exec i s = message c act h mb k s) (acc : Accepted c h mb k s) (a : Ans)
    (answer : act s.store (takenAt s h mb k) (msgAt s h mb k) = a) (ends : a.pend = none) (kept : AddrKept (takenAt s h mb k) a.b) (silent : Silent a.b)
    (long : 16 ≤ c.rep) (short : c.rep ≤ 256) (fits : a.status < 2 ^ 16) (holds : ∀ t, Answered s a (msgAt s h mb k) c.rep t → P t) : Runs i s P :=
  runs_accepted act arm acc a answer ends (kept.there (takenAt_found s h k mb acc.1.1)) (kept.quiet (takenAt_quiet acc) h) silent long short fits holds

/-! ### Halt reasons -/

theorem setReason_has (x r : Nat) (some_ : r ≠ 0) : hasReason (setReason x r) r = true := by
  have stands : (x ||| r) &&& r = r := Nat.eq_of_testBit_eq fun i => by
    simp only [Nat.testBit_and, Nat.testBit_or]
    cases x.testBit i <;> cases r.testBit i <;> rfl
  simp [hasReason, setReason, stands, some_]

theorem clearReason_has (x r : Nat) : hasReason (clearReason x r) r = false := by
  have gone : clearReason x r &&& r = 0 := Nat.eq_of_testBit_eq fun i => by
    simp only [Nat.testBit_and, testBit_clearReason, Nat.zero_testBit]
    cases x.testBit i <;> cases r.testBit i <;> rfl
  simp [hasReason, gone]

/-! ### Semaphores -/

theorem Block.sem_semSet_same (b : Block) (h q : Nat) (v : BitVec 64) (there : ∃ y, b.hubs.get? h = some y) : (b.semSet h q v).sem h q = v := by
  obtain ⟨y, found⟩ := there
  rw [Block.sem, Block.semSet, b.hub_onHub_same h _ y found]
  exact Tbl.getD_put_same _ _ _ _

theorem Block.sem_semSet_other (b : Block) (h q q' : Nat) (v : BitVec 64) (other : q' ≠ q) : (b.semSet h q v).sem h q' = b.sem h q' := by
  unfold Block.sem Block.semSet
  obtain kept | changed := b.hub_onHub_cases h h fun x => { x with sems := x.sems.put q v }
  · rw [kept]
  · rw [changed]
    exact Tbl.getD_put_other _ _ _ _ _ other

theorem Block.semSet_addr (b : Block) (h q : Nat) (v : BitVec 64) : AddrKept b (b.semSet h q v) :=
  .of_modify h (fun x => { x with sems := x.sems.put q v }) rfl fun _ => rfl

/-- Semaphores set to 0 one after the other. -/
def Block.zeroSems (b : Block) (h : Nat) (sems : List Nat) : Block := sems.foldl (fun b q => b.semSet h q 0) b

theorem Block.zeroSems_addr (b : Block) (h : Nat) (sems : List Nat) : AddrKept b (b.zeroSems h sems) := by
  unfold Block.zeroSems
  induction sems generalizing b with
  | nil => exact .of_hubs rfl
  | cons q qs ih => exact (b.semSet_addr h q 0).trans (ih _)

/-- Every semaphore set is 0, and one that was 0 stays so. -/
theorem Block.sem_zeroSems (b : Block) (h q : Nat) (sems : List Nat) (there : ∃ y, b.hubs.get? h = some y) (due : b.sem h q = 0 ∨ q ∈ sems) :
    (b.zeroSems h sems).sem h q = 0 := by
  unfold Block.zeroSems
  induction sems generalizing b with
  | nil => exact due.resolve_right List.not_mem_nil
  | cons q' qs ih =>
    refine ih _ ((b.semSet_addr h q' 0).there there) ?_
    obtain rfl | other := eq_or_ne q q'
    · exact .inl (b.sem_semSet_same h q 0 there)
    · rw [b.sem_semSet_other h q' q 0 other]
      exact due.imp_right fun mem => (List.mem_cons.mp mem).resolve_left other

/-- The rest of the block stands. -/
theorem Block.zeroSems_eq (b : Block) (h : Nat) (sems : List Nat) : b.zeroSems h sems = { b with hubs := (b.zeroSems h sems).hubs } := by
  unfold Block.zeroSems
  induction sems generalizing b with
  | nil => rfl
  | cons q qs ih => exact ih _

end Sys2Proof.Machine
end

section
namespace Sys2Proof.Machine
open Sys2Proof.Spec

/-! ### RING_CREATE -/

/-- RING_CREATE of a descriptor without a transform that passes Table 7-3 (R191). -/
theorem msgRingCreate_creates (st : Store) (b : Block) (m : Msg) (r : Ring) (read : r = { desc := BitVec.ofNat 512 (m.struct 16 64) })
    (stages : ringStages (m.struct 16 64) b.eng.minor = OK) (owned : r.job = m.job) (free : b.rings.has (256 * m.hub + bits (m.struct 16 64) 8 8) = false)
    (params : r.paramsBad = false) (sems : b.ringSemsBad m.hub r = false) (plain : r.xprog = 0) (bases : r.basesBad = false) :
    msgRingCreate st b m =
      .ok ((({ b with rings := b.rings.put (256 * m.hub + bits (m.struct 16 64) 8 8) { r with xparam := words32 16 [] } } : Block).zeroSems m.hub
        ([r.fillSem, r.freeSem] ++ r.doneSem.toList)).statusWrite (256 * m.hub + bits (m.struct 16 64) 8 8)) := by
  subst read
  unfold msgRingCreate Ans.guard
  dsimp only
  rw [stages, if_pos rfl, if_pos]
  · rw [ringParams, if_pos plain]
    rfl
  · simp [firstFail, owned, free, params, sems, plain, bases]

/-! ### RING_HALT, RING_RESUME -/

/-- The ring that a message names stands under its number (R376). -/
theorem Block.ringNamed_get {b : Block} {m : Msg} {r : Ring} (named : b.ringNamed m = some r) : b.rings.get? (m.at 16 2) = some r := by
  unfold Block.ringNamed at named
  dsimp only at named
  split at named
  · cases named
  · split at named
    · rename_i found
      split at named
      · exact Option.some.inj named ▸ found
      · cases named
    · cases named

/-- What rings of one core have in common. -/
theorem Ring.of_core {q r : Ring} (same : q.core = r.core) {α : Type} (p : Ring → α) (keeps : ∀ x : Ring, p x.core = p x := by exact fun _ => rfl) :
    p q = p r := by
  rw [← keeps q, ← keeps r, same]

/-- A ring changed, and its status block written. -/
def Block.showRing (b : Block) (rid : Nat) (f : Ring → Ring) : Block := (b.onRing rid f).statusWrite rid

theorem Block.showRing_addr (b : Block) (rid : Nat) (f : Ring → Ring) : AddrKept b (b.showRing rid f) :=
  (AddrKept.of_hubs (c := b.onRing rid f) rfl).trans (.of_touch (Touch.statusWrite (b.onRing rid f) rid))

theorem Block.showRing_silent (b : Block) (rid : Nat) (f : Ring → Ring) (still : b.Quiet) (silent : Silent b) : Silent (b.showRing rid f) :=
  (Touch.statusWrite (b.onRing rid f) rid).silent still silent StatusWr.not_intr

/-- The ring as it was changed, but for what its status block shows. -/
theorem Block.showRing_ring (b : Block) (rid : Nat) (f : Ring → Ring) (r : Ring) (found : b.rings.get? rid = some r) :
    ∃ q, (b.showRing rid f).rings.get? rid = some q ∧ q.core = (f r).core :=
  (Touch.statusWrite (b.onRing rid f) rid).ring_some ((Tbl.get?_modify_same _ _ _).trans (congrArg _ found))

/-- What a resume leaves of a ring, `again` the slot picked up again (R225). -/
def Ring.resumed (again : Option Nat) (r : Ring) : Ring :=
  { r with halt := clearReason r.halt (haltERROR ||| haltOVERRUN ||| haltREQUEST), err := .none, haltStatus := 0, retry := r.retry ++ again.toList }

/-- The slot that a resume picks up again (R225, R316). -/
def Ring.again (r : Ring) (retry : Bool) : Option Nat :=
  match r.err with
  | .slot p => if retry && hasReason r.halt haltERROR then some p else none
  | .recPage p => if hasReason r.halt haltERROR then some p else none
  | _ => none

/-- A resume changes the ring and shows it; before that, the work whose record's page failed leaves (R225, R316). -/
theorem Block.resumeRing_shows (b : Block) (rid : Nat) (retry : Bool) (r : Ring) (found : b.rings.get? rid = some r) :
    ∃ c : Block, b.resumeRing rid retry = c.showRing rid (Ring.resumed (r.again retry)) ∧ c.rings = b.rings ∧ c.wr = b.wr ∧ AddrKept b c := by
  have left : ∀ p, AddrKept b (((b.dropTasks rid p).delWork rid p).dropWalks (ringHub rid) fun w => w.who.isRing rid p) := fun p =>
    (AddrKept.of_mapVal (c := (b.dropTasks rid p).delWork rid p)
      (fun _ x => { x with sched := { x.sched with ready := x.sched.ready.filter fun t => !(t.ring == rid && t.p == p) } }) rfl fun _ _ => rfl).trans
      (.of_modify (ringHub rid) (fun x => { x with xlat := { x.xlat with walks := x.xlat.walks.keep fun _ w => !w.who.isRing rid p } }) rfl fun _ => rfl)
  unfold Block.resumeRing Ring.again
  rw [found]
  dsimp only
  cases r.err with
  | recPage p => exact ⟨((b.dropTasks rid p).delWork rid p).dropWalks (ringHub rid) fun w => w.who.isRing rid p, rfl, rfl, rfl, left p⟩
  | none => exact ⟨b, rfl, rfl, rfl, .of_hubs rfl⟩
  | slot p => exact ⟨b, rfl, rfl, rfl, .of_hubs rfl⟩
  | head => exact ⟨b, rfl, rfl, rfl, .of_hubs rfl⟩
  | status => exact ⟨b, rfl, rfl, rfl, .of_hubs rfl⟩

/-- A message that changes a ring and shows it. -/
theorem runs_accepted_ring {c : Card} {h k : Nat} {mb : Mbox} {s : State} {i : Instr} {P : State → Prop} (act : Store → Block → Msg → Ans)
    (arm : exec i s = message c act h mb k s) (acc : Accepted c h mb k s) (b : Block) (rid : Nat) (f : Ring → Ring) (r : Ring)
    (answer : act s.store (takenAt s h mb k) (msgAt s h mb k) = .ok (b.showRing rid f)) (rings : b.rings.get? rid = some r)
    (wr : b.wr = []) (kept : AddrKept (takenAt s h mb k) b) (long : 16 ≤ c.rep) (short : c.rep ≤ 256)
    (holds : ∀ t q, DoneReply t (msgAt s h mb k) OK → t.blk.rings.get? rid = some q → q.core = (f r).core → P t) : Runs i s P := by
  refine runs_accepted_kept act arm acc _ answer rfl (kept.trans (b.showRing_addr rid f))
    (b.showRing_silent rid f (kept.quiet (takenAt_quiet acc)) (.of_wr wr)) long short (Nat.two_pow_pos 16) fun t ans => ?_
  obtain ⟨q, there, same⟩ := b.showRing_ring rid f r rings
  exact holds t q ans.done ((congrArg (Tbl.get? · rid) (ans.part (·.rings))).trans there) same

/-- RING_RESUME of a ring in a state that its choice may clear (R225). -/
theorem runs_ringResume {h k : Nat} {mb : Mbox} {s : State} {i : Instr} {P : State → Prop} (retry : Bool) (r : Ring)
    (arm : exec i s = message (cardRingResume retry) (ringResume retry) h mb k s) (acc : Accepted (cardRingResume retry) h mb k s)
    (named : s.blk.ringNamed (msgAt s h mb k) = some r) (halted : hasReason r.halt (haltERROR ||| haltOVERRUN ||| haltREQUEST) = true)
    (error : retry = true → hasReason r.halt haltERROR = true)
    (holds : ∀ t q, DoneReply t (msgAt s h mb k) OK → t.blk.rings.get? ((msgAt s h mb k).at 16 2) = some q → q.core = (r.resumed (r.again retry)).core → P t) :
    Runs i s P := by
  have found : (takenAt s h mb k).rings.get? ((msgAt s h mb k).at 16 2) = some r := Block.ringNamed_get named
  obtain ⟨c, effect, rings, wr, kept⟩ := (takenAt s h mb k).resumeRing_shows ((msgAt s h mb k).at 16 2) retry r found
  have answer : ringResume retry s.store (takenAt s h mb k) (msgAt s h mb k) = .ok ((takenAt s h mb k).resumeRing ((msgAt s h mb k).at 16 2) retry) := by
    have named' : (takenAt s h mb k).ringNamed (msgAt s h mb k) = some r := named
    unfold ringResume
    rw [named']
    dsimp only
    rw [halted, if_neg]
    cases retry with
    | false => simp
    | true => simp [error rfl]
  exact runs_accepted_ring (ringResume retry) arm acc c _ _ r (answer.trans (congrArg Ans.ok effect)) ((congrArg (Tbl.get? · _) rings).trans found) wr kept
    (by cases retry <;> decide) (by cases retry <;> decide) holds

/-- A reason in force is in force among others. -/
theorem hasReason_or {x r q : Nat} (stands : hasReason x r = true) : hasReason x (r ||| q) = true := by
  simp only [hasReason, bne_iff_ne, ne_eq] at stands ⊢
  intro none_
  refine stands (Nat.eq_of_testBit_eq fun i => ?_)
  have clear := congrArg (Nat.testBit · i) none_
  simp only [Nat.testBit_and, Nat.testBit_or, Nat.zero_testBit] at clear ⊢
  revert clear
  cases x.testBit i <;> cases r.testBit i <;> simp

/-! ### RING_DESTROY -/

/-- RING_DESTROY of a ring with no slot in flight (R226). -/
theorem msgRingDestroy_idle (st : Store) (b : Block) (m : Msg) (r : Ring) (named : b.ringNamed m = some r) (idle : b.ringWorks (m.at 16 2) = []) :
    ∃ c : Block, msgRingDestroy st b m = .ok c (bodyOf [(16, 4, sat32 (r.tail - r.head))]) ∧ AddrKept b c ∧ c.wr = b.wr ∧ c.works = b.works ∧
      c.rings = (b.rings.modify (m.at 16 2) fun r => { r with destroying := true, retry := [], headFault := false }).del (m.at 16 2) := by
  have idle' : (b.onRing (m.at 16 2) fun r => { r with destroying := true, retry := [], headFault := false }).ringWorks (m.at 16 2) = [] := idle
  have begun : b.destroyRing (m.at 16 2) = (b.onRing (m.at 16 2) fun r => { r with destroying := true, retry := [], headFault := false }).dropWalks
      (ringHub (m.at 16 2)) fun w => decide (w.who = .slotBytes (m.at 16 2)) := by
    unfold Block.destroyRing
    dsimp only
    rw [idle']
    rfl
  have walks : ∀ (b : Block) h p, AddrKept b (b.dropWalks h p) := fun b h p =>
    .of_modify h (fun x => { x with xlat := { x.xlat with walks := x.xlat.walks.keep fun _ w => !p w } }) rfl fun _ => rfl
  refine ⟨(b.destroyRing (m.at 16 2)).dropRing (m.at 16 2), ?_, ?_, ?_, ?_, ?_⟩
  · have gone : (b.destroyRing (m.at 16 2)).ringWorks (m.at 16 2) = [] := by
      rw [begun]
      exact idle
    unfold msgRingDestroy
    rw [named]
    dsimp only
    rw [Ans.await, finRingDestroy]
    dsimp only
    rw [gone]
    rfl
  · rw [begun]
    exact ((walks _ _ _).trans (.of_hubs rfl)).trans (walks _ _ _)
  · rw [begun]
    rfl
  · rw [begun]
    rfl
  · rw [begun]
    rfl

/-! ### HOSTLOST_READ -/

/-- A host-lost ring at or above a number, with its job slot and record (Table 12-5). -/
def hostLostFrom (lo : Nat) (e : Nat × Ring) : Option (Nat × Nat × Nat × Nat × Nat) :=
  e.2.hostLost.bind fun x => if lo ≤ e.1 then some (e.1, e.2.job, x) else none

theorem length_hostLostFrom (lo : Nat) (rs : Tbl Ring) :
    (rs.filterMap (hostLostFrom lo)).length = (rs.filter fun x => x.2.hostLost.isSome && decide (lo ≤ x.1)).length := by
  induction rs with
  | nil => rfl
  | cons e rs ih =>
    rw [List.filterMap_cons, List.filter_cons, hostLostFrom]
    cases e.2.hostLost with
    | none => exact ih
    | some x =>
      by_cases from_ : lo ≤ e.1
      · simpa [from_] using ih
      · simpa [from_] using ih

/-- HOSTLOST_READ by the list of the host-lost rings that it names (R350). -/
theorem msgHostlostRead_eq (st : Store) (b : Block) (m : Msg) : msgHostlostRead st b m =
    (let take := (b.rings.filterMap (hostLostFrom (m.at 16 2))).take 7
     .ok (if m.flag 18 0 then take.foldl (fun b x => b.ackHostLost x.1) b else b)
      (bodyOf ([(16, 2, take.length), (18, 1, b2n (decide (7 < (b.rings.filterMap (hostLostFrom (m.at 16 2))).length)))] ++
        take.zipIdx.map fun x => (32 + 32 * x.2, 32, hostLostRecord x.1.1 x.1.2.1 x.1.2.2)))) := by
  have named : (fun e : Nat × Ring => match e.2.hostLost with | some x => if m.at 16 2 ≤ e.1 then some (e.1, e.2.job, x) else none | none => none) =
      hostLostFrom (m.at 16 2) := by
    funext e
    unfold hostLostFrom
    cases e.2.hostLost <;> rfl
  rw [← named]
  rfl

/-- HOSTLOST_READ that acknowledges no host-lost ring (R350). -/
theorem msgHostlostRead_reads (st : Store) (b : Block) (m : Msg) (unacked : m.flag 18 0 = false ∨ ∀ x ∈ b.rings, m.at 16 2 ≤ x.1 → x.2.hostLost = none) :
    ∃ body, msgHostlostRead st b m = .ok b body ∧
      bits body (8 * 16) (8 * 2) = min 7 ((b.rings.filter fun x => x.2.hostLost.isSome && decide (m.at 16 2 ≤ x.1)).length) := by
  have kept : (if m.flag 18 0 then ((b.rings.filterMap (hostLostFrom (m.at 16 2))).take 7).foldl (fun b x => b.ackHostLost x.1) b else b) = b := by
    split
    · rename_i asked
      have lost : b.rings.filterMap (hostLostFrom (m.at 16 2)) = [] := by
        refine List.filterMap_eq_nil_iff.mpr fun e mem => ?_
        unfold hostLostFrom
        by_cases from_ : m.at 16 2 ≤ e.1
        · rw [unacked.resolve_left (by rw [asked]; exact Bool.noConfusion) e mem from_]
          rfl
        · simp [from_]
      rw [lost]
      rfl
    · rfl
  rw [msgHostlostRead_eq]
  dsimp only
  rw [kept]
  refine ⟨_, rfl, (bits_bodyOf _ 16 2 _ (List.mem_append_left _ List.mem_cons_self) fun e mem => ?_).trans ?_⟩
  · obtain head | record := List.mem_append.mp mem
    · obtain rfl | rfl : e = _ ∨ e = _ := by simpa only [List.mem_cons, List.not_mem_nil, or_false] using head
      · exact .inl rfl
      · right
        dsimp only
        omega
    · obtain ⟨x, -, rfl⟩ := List.mem_map.mp record
      right
      dsimp only
      omega
  · rw [List.length_take, length_hostLostFrom]
    omega

/-- Settles O17. -/
theorem ringMessagesCreateHaltResumeDestroy : Obligations.RingMessagesCreateHaltResumeDestroy := by
  unfold Obligations.RingMessagesCreateHaltResumeDestroy
  intro h k mb s m
  refine ⟨?_, fun r acc named => ?_, fun r acc named halted => ?_, fun r acc named error => ?_, fun r acc named idle => ?_, fun acc unacked => ?_⟩
  · intro acc x r rid small stages owned free params sems plain bases
    have hubThere := takenAt_found s h k mb acc.1.1
    set b : Block := { takenAt s h mb k with rings := (takenAt s h mb k).rings.put rid { r with xparam := words32 16 [] } } with created
    set zeroed := b.zeroSems h ([r.fillSem, r.freeSem] ++ r.doneSem.toList) with zeroedEq
    have creates : msgRingCreate s.store (takenAt s h mb k) m = .ok (zeroed.statusWrite rid) :=
      msgRingCreate_creates s.store (takenAt s h mb k) m r rfl stages owned free params sems plain bases
    have touch := Touch.statusWrite zeroed rid
    have kept : AddrKept (takenAt s h mb k) zeroed := (AddrKept.of_hubs (c := b) rfl).trans (b.zeroSems_addr h _)
    have rest : zeroed = { b with hubs := zeroed.hubs } := b.zeroSems_eq h _
    have silent : Silent zeroed := .of_wr (congrArg (·.wr) rest)
    refine runs_accepted_kept msgRingCreate rfl acc _ creates rfl (kept.trans (.of_touch touch))
      (touch.silent (kept.quiet (takenAt_quiet acc)) silent StatusWr.not_intr) (by decide) (by decide) (Nat.two_pow_pos 16) fun t ans => ⟨ans.done, ?_⟩
    have there : zeroed.rings.get? rid = some { r with xparam := words32 16 [] } := (congrArg (·.rings.get? rid) rest).trans (Tbl.get?_put_same _ _ _)
    obtain ⟨q, found, same⟩ := touch.ring_some there
    have sem : ∀ n, n ∈ [r.fillSem, r.freeSem] ++ r.doneSem.toList → t.blk.sem h n = 0 := by
      intro n mem
      have sems : (t.blk.hub h).sems = (zeroed.hub h).sems := (ans.hubPart h (·.sems)).trans (touch.hub h (·.sems))
      rw [Block.sem, sems]
      exact b.sem_zeroSems h n _ hubThere (.inr mem)
    refine ⟨q, (ans.part (·.rings.get? rid)).trans found, Ring.of_core same (·.desc), Ring.of_core same (·.head), Ring.of_core same (·.tail),
      Ring.of_core same (·.done), Ring.of_core same (·.halt), sem _ (by simp), sem _ (by simp), fun d done => sem d (by simp [done]), ?_, ?_⟩
    · exact ((ans.part (·.tables)).trans (touch.part (·.tables))).trans (congrArg (·.tables) rest)
    · exact ((ans.part (·.jobs)).trans (touch.part (·.jobs))).trans (congrArg (·.jobs) rest)
  · refine runs_accepted_ring msgRingHalt rfl acc (takenAt s h mb k) (m.at 16 2) (fun r => { r with halt := setReason r.halt haltREQUEST }) r ?_
      (Block.ringNamed_get named) rfl (.of_hubs rfl) (by decide) (by decide) fun t q done there same => ⟨done, q, there, ?_, ?_, ?_, ?_, ?_⟩
    · have named' : (takenAt s h mb k).ringNamed m = some r := named
      unfold msgRingHalt
      rw [named']
      rfl
    · have halt : q.halt = setReason r.halt haltREQUEST := Ring.of_core same (·.halt)
      rw [halt]
      exact setReason_has r.halt haltREQUEST (by decide)
    · exact Ring.of_core same (·.desc)
    · exact Ring.of_core same (·.head)
    · exact Ring.of_core same (·.tail)
    · exact Ring.of_core same (·.done)
  · refine runs_ringResume false r rfl acc named halted (fun never => absurd never Bool.false_ne_true) fun t q done there same => ⟨done, q, there, ?_, ?_, ?_, ?_, ?_⟩
    · have halt : q.halt = clearReason r.halt (haltERROR ||| haltOVERRUN ||| haltREQUEST) := Ring.of_core same (·.halt)
      rw [halt]
      exact clearReason_has _ _
    · exact Ring.of_core same (·.head)
    · exact Ring.of_core same (·.tail)
    · exact Ring.of_core same (·.done)
    · refine (Ring.of_core same (·.retry)).trans ?_
      show r.retry ++ (r.again _).toList = _
      unfold Ring.again
      cases r.err with
      | recPage p => cases hasReason r.halt haltERROR <;> rfl
      | _ => rfl
  · have halted : hasReason r.halt (haltERROR ||| haltOVERRUN ||| haltREQUEST) = true := hasReason_or (hasReason_or error)
    refine runs_ringResume true r rfl acc named halted (fun _ => error) fun t q done there same => ⟨done, q, there, ?_, ?_, ?_, ?_, ?_⟩
    · have halt : q.halt = clearReason r.halt (haltERROR ||| haltOVERRUN ||| haltREQUEST) := Ring.of_core same (·.halt)
      rw [halt]
      exact clearReason_has _ _
    · exact Ring.of_core same (·.head)
    · exact Ring.of_core same (·.tail)
    · exact Ring.of_core same (·.done)
    · refine (Ring.of_core same (·.retry)).trans ?_
      show r.retry ++ (r.again _).toList = _
      unfold Ring.again
      cases r.err <;> simp only [error, Bool.and_self, if_true] <;> rfl
  · obtain ⟨c, answer, kept, wr, works, rings⟩ := msgRingDestroy_idle s.store (takenAt s h mb k) m r named idle
    refine runs_accepted_kept msgRingDestroy rfl acc _ answer rfl kept (.of_wr wr) (by decide) (by decide) (Nat.two_pow_pos 16) fun t ans =>
      ⟨ans.done, ?_, (ans.part (·.works)).trans works, ?_, (ans.part (·.rings)).trans rings⟩
    · rw [ans.store, show (Ans.ok c _).b = c from rfl, wr]
      rfl
    · refine (ans.field 16 4 _ rfl (by decide) (by simp) (by simp)).trans (Nat.mod_eq_of_lt ?_)
      rw [sat32]
      omega
  · obtain ⟨body, answer, count⟩ := msgHostlostRead_reads s.store (takenAt s h mb k) m unacked
    exact runs_accepted_plain msgHostlostRead rfl acc _ answer rfl rfl rfl (by decide) (by decide) (Nat.two_pow_pos 16) fun t kept ans =>
      ⟨ans.done, kept, ans.part (·.rings), ans.part (·.works), (ans.body 16 2 (by decide) (by decide)).trans count⟩

end Sys2Proof.Machine
end

section
/-!
SUPPORT. The messages of Tables 13-13 and 13-14: what each card's own part answers where the statement's conditions hold.
-/
namespace Sys2Proof.Machine
open Sys2Proof.Spec

@[simp] theorem Ans.ok_b (b : Block) (body : Nat) : (Ans.ok b body).b = b := rfl
@[simp] theorem Ans.ok_body (b : Block) (body : Nat) : (Ans.ok b body).body = body := rfl
@[simp] theorem Ans.fail_b (b : Block) (status detail : Nat) : (Ans.fail b status detail).b = b := rfl

/-! ### Changes of several hubs -/

/-- A change of each hub of a list. -/
def Block.onHubs (b : Block) (F : Nat → Hub → Hub) (hs : List Nat) : Block := hs.foldl (fun b h => b.onHub h (F h)) b

theorem Block.onHubs_addr (b : Block) (F : Nat → Hub → Hub) (hs : List Nat) (keeps : ∀ h x, (F h x).regs.msiAddr = x.regs.msiAddr) :
    AddrKept b (b.onHubs F hs) := by
  unfold Block.onHubs
  induction hs generalizing b with
  | nil => exact .of_hubs rfl
  | cons h hs ih => exact (AddrKept.of_modify (c := b.onHub h (F h)) h (F h) rfl (keeps h)).trans (ih _)

theorem Block.onHubs_eq (b : Block) (F : Nat → Hub → Hub) (hs : List Nat) : b.onHubs F hs = { b with hubs := (b.onHubs F hs).hubs } := by
  unfold Block.onHubs
  induction hs generalizing b with
  | nil => rfl
  | cons h hs ih => exact ih _

/-- Each hub of a list without repetition changes once, and no other does. -/
theorem Block.onHubs_get (b : Block) (F : Nat → Hub → Hub) (hs : List Nat) (once : hs.Nodup) (g : Nat) :
    (b.onHubs F hs).hubs.get? g = (b.hubs.get? g).map fun x => if g ∈ hs then F g x else x := by
  unfold Block.onHubs
  induction hs generalizing b with
  | nil => simp
  | cons h hs ih =>
    obtain ⟨fresh, rest⟩ := List.nodup_cons.mp once
    rw [List.foldl_cons, ih _ rest, Block.onHub_hubs]
    obtain rfl | other := eq_or_ne g h
    · simp [Tbl.get?_modify_same, fresh, Function.comp_def]
    · simp [Tbl.get?_modify_other _ _ _ _ other, other]

theorem Block.onHubs_hub (b : Block) (F : Nat → Hub → Hub) (hs : List Nat) (once : hs.Nodup) (g : Nat) (x : Hub) (found : b.hubs.get? g = some x) :
    (b.onHubs F hs).hub g = if g ∈ hs then F g x else x := by
  refine Block.hub_of_get _ g _ ?_
  rw [b.onHubs_get F hs once, found]
  rfl

/-- The record that a hub has as the message is copied. -/
theorem takenAt_get (s : State) (h k g : Nat) (mb : Mbox) (x : Hub) (found : s.blk.hubs.get? g = some x) :
    ∃ y, (takenAt s h mb k).hubs.get? g = some y ∧ y.unmailed = x.unmailed := by
  unfold takenAt Block.onPair
  rw [Block.onHub_hubs]
  obtain rfl | other := eq_or_ne g h
  · exact ⟨_, (Tbl.get?_modify_same _ _ _).trans (congrArg _ found), rfl⟩
  · exact ⟨x, (Tbl.get?_modify_other _ _ _ _ other).trans found, rfl⟩

/-! ### LEDGER_SET, SCHED_SET -/

/-- The budget that a hub has after a LEDGER_SET. -/
def Block.budgetAfter (b : Block) (m : Msg) (g : Nat) : Nat := if m.flag 16 g then m.at (24 + 2 * g) 2 else (b.hub g).sched.budget

/-- What LEDGER_SET makes of a hub's record (R235, R236). -/
def Block.ledgerHub (b : Block) (m : Msg) (h : Nat) (x : Hub) : Hub :=
  { x with rebudgeted := x.rebudgeted || (m.flag 16 h && !x.inService)
           sched := { x.sched with budget := b.budgetAfter m h
                                   newBudget := x.sched.newBudget || m.flag 16 h || x.sched.adopted.any fun (l, _) => m.flag 16 l
                                   adopted := if m.flag 16 h then [] else x.sched.adopted.filter fun (l, _) => !m.flag 16 l } }

theorem msgLedgerSet_sets (st : Store) (b : Block) (m : Msg) (own : ∀ g, g < 4 → m.flag 16 g = true → m.at (24 + 2 * g) 2 ≤ 4000)
    (all : ((List.range 4).map (b.budgetAfter m)).sum ≤ 4000) :
    ∃ body, msgLedgerSet st b m = .ok (b.onHubs (b.ledgerHub m) (List.range 4)) body := by
  have bounded : (List.range 4).any (fun h => m.flag 16 h && decide (4000 < m.at (24 + 2 * h) 2)) = false := by
    refine List.any_eq_false.mpr fun g mem => ?_
    rw [Bool.and_eq_true, decide_eq_true_eq]
    exact fun ⟨named, above⟩ => absurd (own g (List.mem_range.mp mem) named) (Nat.not_le.mpr above)
  refine ⟨_, if_neg ?_⟩
  rw [bounded, Bool.false_or, decide_eq_true_eq]
  exact Nat.not_lt.mpr all

theorem msgLedgerSet_refuses (st : Store) (b : Block) (m : Msg)
    (bad : (∃ g, g < 4 ∧ m.flag 16 g = true ∧ 4000 < m.at (24 + 2 * g) 2) ∨ 4000 < ((List.range 4).map (b.budgetAfter m)).sum) :
    msgLedgerSet st b m = .fail b BUDGET_INVALID := by
  refine if_pos ?_
  rw [Bool.or_eq_true, decide_eq_true_eq, List.any_eq_true]
  refine bad.imp (fun ⟨g, small, named, above⟩ => ⟨g, List.mem_range.mpr small, ?_⟩) id
  simp [named, above]

/-- What SCHED_SET makes of a hub's record (R377). -/
def Msg.schedHub (m : Msg) (x : Hub) : Hub :=
  { x with sched := { x.sched with
      rtres := if m.flag 17 0 then m.at 20 4 else x.sched.rtres
      horizon := if m.flag 17 1 then m.at 24 4 else x.sched.horizon
      shareRead := if m.flag 17 2 then m.at 28 1 else x.sched.shareRead
      shareWrite := if m.flag 17 2 then m.at 29 1 else x.sched.shareWrite
      shareRemote := if m.flag 17 2 then m.at 30 1 else x.sched.shareRemote } }

theorem msgSchedSet_sets (st : Store) (b : Block) (m : Msg) (good : ∀ g, g < 4 → m.flag 16 g = true → b.schedBad m g = false) :
    msgSchedSet st b m = .ok (b.onHubs (fun _ => m.schedHub) ((List.range 4).filter fun h => m.flag 16 h)) := by
  refine if_neg ?_
  rw [List.any_eq_true]
  rintro ⟨g, mem, bad⟩
  obtain ⟨small, named⟩ := List.mem_filter.mp mem
  rw [good g (List.mem_range.mp small) named] at bad
  cases bad

/-- Settles O18. -/
theorem ledgerAndSchedulerParametersAreSet : Obligations.LedgerAndSchedulerParametersAreSet := by
  unfold Obligations.LedgerAndSchedulerParametersAreSet
  intro h k mb s m after
  have sched : ∀ g, ((takenAt s h mb k).hub g).sched = (s.blk.hub g).sched := fun g => Hub.of_unmailed (·.sched) (takenAt_hub s h k g mb) fun _ => rfl
  have same : (takenAt s h mb k).budgetAfter m = after := by
    funext g
    simp only [Block.budgetAfter, sched]
    rfl
  refine ⟨fun acc own all => ?_, fun acc bad => ?_, fun acc good => ?_⟩
  · obtain ⟨body, answer⟩ := msgLedgerSet_sets s.store (takenAt s h mb k) m own (same ▸ all)
    have rest := (takenAt s h mb k).onHubs_eq ((takenAt s h mb k).ledgerHub m) (List.range 4)
    have unwritten : (Ans.ok ((takenAt s h mb k).onHubs ((takenAt s h mb k).ledgerHub m) (List.range 4)) body).b.wr = [] := congrArg (·.wr) rest
    refine runs_accepted_kept msgLedgerSet rfl acc _ answer rfl (Block.onHubs_addr _ _ _ fun _ _ => rfl) (.of_wr unwritten)
      (by decide) (by decide) (Nat.two_pow_pos 16) fun t ans => ⟨ans.done, ?_, (ans.part (·.jobs)).trans (congrArg (·.jobs) rest), fun g x small found => ?_⟩
    · rw [ans.store, unwritten]
      rfl
    · obtain ⟨y, there, alike⟩ := takenAt_get s h k g mb x found
      have sched : (t.blk.hub g).sched = ((takenAt s h mb k).ledgerHub m g y).sched := by
        refine (ans.hubPart g (·.sched)).trans ?_
        rw [Ans.ok_b, Block.onHubs_hub _ _ _ List.nodup_range g y there, if_pos (List.mem_range.mpr small)]
      have was : y.sched = x.sched := Hub.of_unmailed (·.sched) alike fun _ => rfl
      rw [sched]
      exact ⟨congrFun same g, show y.sched.mainBal = _ by rw [was], show y.sched.reserve = _ by rw [was], fun named => if_pos named⟩
  · have answer := msgLedgerSet_refuses s.store (takenAt s h mb k) m (same.symm ▸ bad)
    exact runs_accepted_plain msgLedgerSet rfl acc _ answer rfl rfl rfl (by decide) (by decide) (show BUDGET_INVALID < 2 ^ 16 by decide) fun t kept ans =>
      ⟨ans.done, kept, fun g => (ans.hubPart g (·.sched)).trans (sched g)⟩
  · have bad : ∀ g, (takenAt s h mb k).schedBad m g = s.blk.schedBad m g := by
      intro g
      simp only [Block.schedBad, sched]
    have answer := msgSchedSet_sets s.store (takenAt s h mb k) m fun g small named => (bad g).trans (good g small named)
    have rest := (takenAt s h mb k).onHubs_eq (fun _ => m.schedHub) ((List.range 4).filter fun h => m.flag 16 h)
    have unwritten := congrArg (·.wr) rest
    refine runs_accepted_kept msgSchedSet rfl acc _ answer rfl (Block.onHubs_addr _ _ _ fun _ _ => rfl) (.of_wr unwritten)
      (by decide) (by decide) (Nat.two_pow_pos 16) fun t ans => ⟨ans.done, ?_, fun g x small found => ?_⟩
    · rw [ans.store]
      exact congrArg (s.store.apply ·) unwritten
    · obtain ⟨y, there, alike⟩ := takenAt_get s h k g mb x found
      have was : y.sched = x.sched := Hub.of_unmailed (·.sched) alike fun _ => rfl
      refine (ans.hubPart g (·.sched)).trans ?_
      rw [Ans.ok_b, Block.onHubs_hub _ _ _ (List.nodup_range.filter _) g y there]
      by_cases named : m.flag 16 g = true
      · rw [if_pos (List.mem_filter.mpr ⟨List.mem_range.mpr small, named⟩), if_pos named, ← was]
        rfl
      · rw [if_neg fun mem => named (List.mem_filter.mp mem).2, if_neg named, was]

end Sys2Proof.Machine
end

section
namespace Sys2Proof.Machine
open Sys2Proof.Spec

/-! ### LAYOUT_SET, CHANNEL_MAPOUT -/

/-- A write to memory, stack or host, and no interrupt write. -/
def Wr.plain (w : Wr) : Prop := ∀ k a d, w ≠ .intr k a d

theorem Wr.inside_plain {lo n : Nat} {w : Wr} (inside : Wr.inside lo n w) : w.plain := by
  obtain ⟨a, data, rfl, -⟩ := inside
  exact fun _ _ _ same => by cases same

theorem Touch.silent_plain {b c : Block} (touch : Touch Wr.plain b c) (still : b.Quiet) (silent : Silent b) : Silent c :=
  touch.silent still silent fun k a d plain => plain k a d rfl

/-- A message's write to memory touches what every write touches (R364). -/
theorem Touch.msgWrite {st : Store} {b c : Block} {m : Msg} {hub va : Nat} {data : List Byte} (made : msgWrite st b m hub va data = .ok c) :
    Touch Wr.plain b c := by
  unfold Machine.msgWrite at made
  split at made
  · cases made
  · rename_i ps _
    obtain rfl := Except.ok.inj made
    refine Touch.foldl _ (fun b p _ => ?_) b
    dsimp only
    split
    · exact (Touch.wrMem b _ _ _ _ _).mono fun _ => Wr.inside_plain
    · split
      · exact Touch.wrHost b _ _ _ fun _ _ _ same => by cases same
      · exact Touch.sendWin b _ _ _ _ _

/-- A plan kept: the plan stands, and its event is recorded (R271). -/
theorem Block.keepPlan_touch (b : Block) (hub : Nat) (p : Plan) (cause : Nat) :
    Touch Wr.plain (b.onEng fun e => { e with plan := some p }) (b.keepPlan hub p cause).1 := Touch.event _ _ _ _ _

/-- A plan that is a layout, whose vacate list is written: what its PLAN answers. -/
theorem planAnswer_keeps {st : Store} {b c : Block} {m : Msg} {p : Plan} {actives : List Nat} {cause : Nat} (sound : layoutOk actives p.layout = true)
    (made : msgWrite st (b.keepPlan b.eng.leader p cause).1 m b.eng.leader (m.at 32 8)
      (vacateBytes (if m.at 32 8 = 0 then [] else (b.keepPlan b.eng.leader p cause).2.take (m.at 40 4))) = .ok c) :
    ∃ n all, planAnswer st b m p actives cause = .ok c (planBody p n all) ∧ Touch Wr.plain (b.onEng fun e => { e with plan := some p }) c := by
  have answer : planAnswer st b m p actives cause =
      .ok c (planBody p (if m.at 32 8 = 0 then [] else (b.keepPlan b.eng.leader p cause).2.take (m.at 40 4)).length
        (b.keepPlan b.eng.leader p cause).2.length) := by
    unfold planAnswer
    dsimp only
    rw [sound, if_neg (by simp), made]
  exact ⟨_, _, answer, (b.keepPlan_touch _ p cause).trans (Touch.msgWrite made)⟩

/-- A PLAN whose answer keeps plan p. -/
theorem runs_planAnswer {c : Card} {h k : Nat} {mb : Mbox} {s : State} {i : Instr} (act : Store → Block → Msg → Ans)
    (arm : exec i s = message c act h mb k s) (acc : Accepted c h mb k s) (p : Plan) (actives : List Nat) (cause : Nat) (b2 : Block)
    (answer : act s.store (takenAt s h mb k) (msgAt s h mb k) = planAnswer s.store (takenAt s h mb k) (msgAt s h mb k) p actives cause)
    (sound : layoutOk actives p.layout = true) (long : 48 ≤ c.rep) (short : c.rep ≤ 256)
    (made : msgWrite s.store ((takenAt s h mb k).keepPlan (takenAt s h mb k).eng.leader p cause).1 (msgAt s h mb k) (takenAt s h mb k).eng.leader
      ((msgAt s h mb k).at 32 8) (vacateBytes (if (msgAt s h mb k).at 32 8 = 0 then [] else
        ((takenAt s h mb k).keepPlan (takenAt s h mb k).eng.leader p cause).2.take ((msgAt s h mb k).at 40 4))) = .ok b2) :
    Runs i s fun t => DoneReply t (msgAt s h mb k) OK ∧ t.blk.eng.plan = some p ∧ t.blk.eng.layout = s.blk.eng.layout ∧
      replied t (msgAt s h mb k) 16 4 = p.id % 2 ^ 32 := by
  obtain ⟨n, all, keeps, touch⟩ := planAnswer_keeps sound made
  refine runs_accepted_kept act arm acc _ (answer.trans keeps) rfl
    ((AddrKept.of_hubs (c := (takenAt s h mb k).onEng fun e => { e with plan := some p }) rfl).trans (.of_touch touch))
    (touch.silent_plain (takenAt_quiet acc) (.of_wr rfl)) (by omega) short (Nat.two_pow_pos 16) fun t ans => ⟨ans.done, ?_, ?_, ?_⟩
  · exact (ans.part (·.eng.plan)).trans (touch.part (·.eng.plan))
  · exact (ans.part (·.eng.layout)).trans (touch.part (·.eng.layout))
  · exact ans.field 16 4 _ rfl (by omega) (by simp) (by simp)

/-- COMMIT of the latest plan, computed again to the same (R271). -/
theorem msgCommit_starts (zeros : Msg → Bool) (st : Store) (b : Block) (m : Msg) (p : Plan) (latest : b.eng.plan = some p) (named : m.at 20 4 = p.id)
    (zero : zeros m = true) (again : b.replan p = p.id) (idle : b.eng.relayout = none)
    (sound : layoutOk (if p.mapout then (List.range 12).map fun _ => 2 ^ 64 - 1 else b.actives) p.layout = true) :
    msgCommit zeros st b m =
      { b := (b.onEng fun e => { e with relayout := some { plan := p, old := e.layout, left := p.layout.stripes } }).unanswer
        pend := some { obj := .layout, aux := [p.id, p.layout.cap 0, p.layout.cap 1] } } := by
  unfold msgCommit
  rw [latest]
  dsimp only
  rw [if_neg]
  · rfl
  · rw [sound, idle]
    simp [named, zero, again]

theorem runs_msgCommit {c : Card} {h k : Nat} {mb : Mbox} {s : State} {i : Instr} (zeros : Msg → Bool) (arm : exec i s = message c (msgCommit zeros) h mb k s)
    (acc : Accepted c h mb k s) (p : Plan) (latest : s.blk.eng.plan = some p) (named : (msgAt s h mb k).at 20 4 = p.id)
    (zero : zeros (msgAt s h mb k) = true) (again : s.blk.replan p = p.id) (idle : s.blk.eng.relayout = none)
    (sound : layoutOk (if p.mapout then (List.range 12).map fun _ => 2 ^ 64 - 1 else s.blk.actives) p.layout = true) :
    Runs i s fun t => (t.blk.pair h (pairKey mb k)).st = .pending ∧ t.store = s.store ∧ t.blk.eng.plan = some p ∧
      t.blk.eng.relayout = some { plan := p, old := s.blk.eng.layout, left := p.layout.stripes } ∧ t.blk.eng.layout = s.blk.eng.layout :=
  runs_accepted_pending (msgCommit zeros) arm acc _ _ (msgCommit_starts zeros s.store (takenAt s h mb k) (msgAt s h mb k) p latest named zero again idle sound)
    rfl (takenAt_found s h k mb acc.1.1) (Silent.of_wr rfl) fun _ ans =>
    ⟨ans.pending, ans.store, (ans.part (·.eng.plan)).trans latest, ans.part (·.eng.relayout), ans.part (·.eng.layout)⟩

/-- LAYOUT_SET PLAN of a record that reads and passes R17 (Table 13-14). -/
theorem msgLayoutPlan_plans (st : Store) (b : Block) (m : Msg) (head zones : List Byte) (open_ : b.jobFor m [m.at 24 8, m.at 32 8] = OK) (given : m.at 24 8 ≠ 0)
    (read : msgRead st b m b.eng.leader (m.at 24 8) 112 = (b, .ok head)) (version : versionOk (bits (ofBytes head) 0 8) b.eng.minor = true)
    (reserved : rsvSet (ofBytes head) [(24, 104)] = false) (ordinary : 1 ≤ bits (ofBytes head) 8 8 ∧ bits (ofBytes head) 8 8 ≤ 64)
    (privileged : 1 ≤ bits (ofBytes head) 16 8 ∧ bits (ofBytes head) 16 8 ≤ 64)
    (read' : msgRead st b m b.eng.leader (m.at 24 8 + 112) (8 * (bits (ofBytes head) 8 8 + bits (ofBytes head) 16 8)) = (b, .ok zones))
    (clear : ∀ j, j < bits (ofBytes head) 8 8 + bits (ofBytes head) 16 8 → bits (ofBytes (head ++ zones)) (8 * (112 + 8 * j) + 41) 23 = 0)
    (feature : (((List.range 12).map fun q => bits (ofBytes (head ++ zones)) (8 * (16 + 8 * q)) 64).any (· != 0)) = true → b.feat featPRIVILEGED = true) :
    let x := ofBytes (head ++ zones)
    let L := formLayout b.trained ((List.range 12).map fun q => bits x (8 * (16 + 8 * q)) 64) (recordZones x 0 (bits (ofBytes head) 8 8))
      (recordZones x (bits (ofBytes head) 8 8) (bits (ofBytes head) 16 8))
    msgLayoutPlan st b m = planAnswer st b m { layout := L, id := layoutId L } b.actives 0 := by
  intro x L
  have clear' : ((List.range (bits (ofBytes head) 8 8 + bits (ofBytes head) 16 8)).any fun k => bits x (8 * (112 + 8 * k) + 41) 23 != 0) = false := by
    simpa using clear
  have feature' : ((((List.range 12).map fun q => bits x (8 * (16 + 8 * q)) 64).any (· != 0)) && !b.feat featPRIVILEGED) = false := by
    rw [Bool.and_eq_false_imp]
    exact fun some_ => by rw [feature some_]; rfl
  unfold msgLayoutPlan Ans.guard
  dsimp only
  rw [open_, if_pos rfl, if_neg given, read]
  dsimp only
  rw [version, reserved, if_pos (by rfl), if_neg, read']
  · dsimp only
    rw [clear', if_neg Bool.false_ne_true, feature', if_neg Bool.false_ne_true]
  · simp only [Bool.or_eq_true, decide_eq_true_eq]
    omega

/-- Settles O19. -/
theorem plansAreKeptAndCommitted : Obligations.PlansAreKeptAndCommitted := by
  unfold Obligations.PlansAreKeptAndCommitted
  intro h k mb s m b
  have taken : b = takenAt s h mb k := takenAt_eq s h k mb
  clear_value b
  subst taken
  refine ⟨fun b2 acc open_ small => ?_, ?_, fun p latest named again idle sound => ⟨fun acc zero => ?_, fun acc zero => ?_⟩⟩
  · intro L p b' sound made
    refine runs_planAnswer msgMapoutPlan rfl acc p _ 1 b2 ?_ sound (by decide) (by decide) made
    unfold msgMapoutPlan Ans.guard
    rw [show (takenAt s h mb k).jobFor (msgAt s h mb k) [(msgAt s h mb k).at 32 8] = OK from open_, if_pos rfl, if_neg (Nat.not_lt.mpr small)]
    rfl
  · intro head zones b2 acc open_ given read no np version reserved ordinary privileged read' x masks L p b' clear feature sound made
    exact runs_planAnswer msgLayoutPlan rfl acc p _ 0 b2 (msgLayoutPlan_plans s.store (takenAt s h mb k) m head zones open_ given read version reserved
      ordinary privileged read' clear feature) sound (by decide) (by decide) made
  · exact runs_msgCommit zerosLayoutSet rfl acc p latest named zero again idle sound
  · exact runs_msgCommit zerosMapout rfl acc p latest named zero again idle sound

end Sys2Proof.Machine
end

section
/-!
SUPPORT. What a refutation needs: a command that a test evaluates, and a small state that posted messages are taken from.
-/
namespace Sys2Proof.Refute
open Sys2Proof.Machine Sys2Proof.Spec

/-- Whether the command's next state passes a test. -/
def passes (i : Instr) (s : State) (p : State → Bool) : Bool :=
  match exec i s with
  | .next t => p t
  | _ => false

/-- A command whose next state fails a test that P would pass. -/
theorem not_runs {i : Instr} {s : State} {P : State → Prop} (p : State → Bool) (needs : ∀ t, P t → p t = true) (fails : passes i s p = false) : ¬Runs i s P := by
  rintro ⟨t, ran, -, holds⟩
  rw [passes, ran] at fails
  exact Bool.noConfusion ((needs t holds).symm.trans fails)

/-- Four hubs whose functions run, twelve stacks in service, channels 0 to 3 in the layout, and HELLO done. -/
def engine : State :=
  { blk := { hubs := (List.range 4).map fun h => (h, { inService := true, ringStop := true, regs := { fw := .run } })
             dies := (List.range 12).map fun q => (q, { st := 1, active := 2 ^ 64 - 1 })
             eng := { hello := true, features := 2 ^ 64 - 1, layout := { ord := [0, 1, 2, 3] } } } }

/-- A message of `len` bytes with its CODE, job slot and body fields, posted in pair 0 of hub 0. -/
def posted (code len job : Nat) (fields : List (Nat × Nat × Nat)) (s : State) : State :=
  { s with blk := s.blk.onHub 0 fun x => { x with pairs := [(0, { st := .posted, req := BitVec.ofNat 2048 (pack
    ([(0, 8, 0x20), (8, 16, code), (24, 8, len / 8), (32, 6, job), (64, 1, 1)] ++ fields.map fun f => (8 * f.1, 8 * f.2.1, f.2.2))) })] } }

/-- The checks that a posted message passes before its card's own part. -/
def accepts (c : Card) (s : State) : Bool :=
  let m := msgAt s 0 .fabric 0
  (s.blk.hubs.get? 0).isSome && s.blk.copies 0 c.wide && (s.blk.pair 0 0).st == .posted && c.takes (s.blk.pair 0 0).req &&
    headerCheck s.blk.eng m true == OK && bodyCheck s.blk.eng c m == OK && s.blk.jobCheck c m == OK && s.blk.featCheck c == OK &&
    !s.blk.behind s.blk.eng.pend m (objOf m) && s.blk.hubs.vals.all fun x => x.regs.msiAddr == 0

/-- A table of hubs without interrupt address is one whatever hub is read. -/
theorem quiet_of_all (t : Tbl Hub) (none_ : (t.vals.all fun x => x.regs.msiAddr == 0) = true) (g : Nat) : (t.getD g {}).regs.msiAddr = 0 := by
  induction t with
  | nil => rfl
  | cons e t ih =>
    obtain ⟨q, x⟩ := e
    rw [Tbl.vals, List.map_cons, List.all_cons, Bool.and_eq_true, beq_iff_eq] at none_
    obtain ⟨here, rest⟩ := none_
    simp only [Tbl.getD, Tbl.get?]
    split
    · exact here
    · split
      · rfl
      · exact ih rest

theorem accepted_of {c : Card} {s : State} (passes : accepts c s = true) : Accepted c 0 .fabric 0 s := by
  simp only [accepts, Bool.and_eq_true, Bool.not_eq_true', beq_iff_eq] at passes
  obtain ⟨⟨⟨⟨⟨⟨⟨⟨⟨there, copies⟩, stands⟩, takes⟩, header⟩, body⟩, job⟩, feature⟩, first⟩, quiet⟩ := passes
  refine ⟨⟨fun gone => ?_, rfl, copies, stands, takes⟩, header, body, job, feature, first, quiet_of_all _ quiet⟩
  rw [gone] at there
  cases there

end Sys2Proof.Refute
end

section
/-!
SUPPORT. PAGE_RETIRE of a frame that a region pins, where a write left over in the block hides the pin (R266, R343).

The statement asks about the pin on the state's block as it stands, whose list of writes `wr` the block reads through; the command starts from
an empty list. Where the list left over wipes memory, the walk of the region's page finds nothing and the frame seems free; the command walks
the page table itself, finds the frame pinned, and replies PENDING.
-/
namespace Sys2Proof.PinnedFrame
open Sys2Proof.Machine Sys2Proof.Spec Sys2Proof.Refute

/-- Job 1 with its root at 0 and one leaf of 1 GiB, region 0 of one page over frame 0, and a write left over that wipes memory. -/
def pinned : State :=
  posted 0x0062 24 0 [(16, 8, 0)] { engine with
    store := { mem := writeBytes (writeBytes [] 0 (toBytes 8 0x100001)) 0x100000 (toBytes 8 0x73) }
    blk := { engine.blk with
      jobs := [(1, {})], wr := [.wipe]
      eng := { engine.blk.eng with regions := [(0, BitVec.ofNat 256 (pack [(36, 6, 1), (192, 28, 1)]))] } } }

/-- The message is accepted, the frame is one of the layout and seems free. -/
theorem pinned_meets : accepts cardPageRetire pinned = true ∧ (msgAt pinned 0 .fabric 0).at 16 8 = 0 ∧ pinned.blk.eng.layout.inCap 0 65536 = true ∧
    pinned.blk.eng.retired = [] ∧ pinned.blk.framePinned pinned.store 0 = false ∧
    pinned.blk.usesGone pinned.blk.eng.nextUse (fun _ p => p.onFrame 0) = true := by decide +kernel

/-- PAGE_RETIRE does not end. -/
theorem pinned_waits : passes (.pageRetire 0 .fabric 0) pinned (fun t => (t.blk.pair 0 0).st == .done) = false := by decide +kernel

/-- Refutes O20: the pin is asked of a block with a write left over, which the command does not see. -/
theorem not_repairAndTestMessagesAct : ¬Obligations.RepairAndTestMessagesAct := by
  unfold Obligations.RepairAndTestMessagesAct
  intro h
  obtain ⟨accepted, frame, placed, fresh, free, gone⟩ := pinned_meets
  obtain ⟨retires, -⟩ := h 0 0 .fabric pinned
  rw [frame, fresh] at retires
  refine not_runs (fun t => (t.blk.pair 0 0).st == .done) ?_ pinned_waits (retires (accepted_of accepted) rfl placed rfl (by decide) free gone)
  rintro t ⟨done, -⟩
  exact beq_iff_eq.mpr done.1

end Sys2Proof.PinnedFrame
end

section
/-!
SUPPORT. Replies that let go of the window reads of their pair, where a statement holds everything but the hubs unchanged (R363).

A reply drops what the engine keeps of the pair's window reads; a state may hold such a read of a pair whose message reads nothing. After the
reply the engine's part is then another one.
-/
namespace Sys2Proof.PendingRead
open Sys2Proof.Machine Sys2Proof.Spec Sys2Proof.Refute

/-- A state in which a window read of pair 0 of hub 0 is kept, and a message stands posted there. -/
def reading (code len : Nat) (fields : List (Nat × Nat × Nat)) : State :=
  posted code len 0 fields { engine with blk := { engine.blk with eng := { engine.blk.eng with msgReads := [{}] } } }

/-- Whether the window read is still kept. -/
def keepsRead (t : State) : Bool := t.blk.eng.msgReads.length == 1

theorem keepsRead_of_onlyHubs {code len : Nat} {fields : List (Nat × Nat × Nat)} {t : State} (same : OnlyHubs (reading code len fields) t) : keepsRead t = true := by
  obtain ⟨-, same⟩ := same
  rw [keepsRead, same]
  rfl

/-- CACHE_STATUS of hub 0. -/
def cacheStatus : State := reading 0x0072 24 [(16, 1, 0)]

theorem cacheStatus_meets : accepts cardCacheStatus cacheStatus = true ∧ cacheStatus.blk.hubCheck ((msgAt cacheStatus 0 .fabric 0).at 16 1) = OK := by
  decide +kernel

theorem cacheStatus_drops : passes (.cacheStatus 0 .fabric 0) cacheStatus keepsRead = false := by decide +kernel

/-- Refutes O21: the reply to CACHE_STATUS drops the window read kept for its pair. -/
theorem not_cacheMessagesAct : ¬Obligations.CacheMessagesAct := by
  unfold Obligations.CacheMessagesAct
  intro h
  obtain ⟨-, -, status, -⟩ := h 0 0 .fabric cacheStatus
  obtain ⟨accepted, hub⟩ := cacheStatus_meets
  exact not_runs keepsRead (fun t ⟨_, same, _⟩ => keepsRead_of_onlyHubs same) cacheStatus_drops (status (accepted_of accepted) hub)

/-- TWIN_STATUS. -/
def twinStatus : State := reading 0x0092 16 []

theorem twinStatus_meets : accepts cardTwinStatus twinStatus = true := by decide +kernel

theorem twinStatus_drops : passes (.twinStatus 0 .fabric 0) twinStatus keepsRead = false := by decide +kernel

/-- Refutes O26: the reply to TWIN_STATUS drops the window read kept for its pair. -/
theorem not_twinMessagesAct : ¬Obligations.TwinMessagesAct := by
  unfold Obligations.TwinMessagesAct
  intro h
  obtain ⟨-, -, -, status⟩ := h 0 0 .fabric twinStatus
  refine not_runs keepsRead ?_ twinStatus_drops (status (accepted_of twinStatus_meets))
  rintro t ⟨-, same, -⟩
  exact keepsRead_of_onlyHubs (t := { t with blk := { t.blk with eng := { t.blk.eng with leaderRecs := twinStatus.blk.eng.leaderRecs } } }) same

end Sys2Proof.PendingRead
end

section
/-!
SUPPORT. Walks of the page tables on blocks that differ in their hubs, and the store after writes within a range.
-/
namespace Sys2Proof.Machine

/-- A walk reads no hub. -/
theorem walkFrom_hubs (st : Store) (b : Block) (hubs : Tbl Hub) (job : Nat) (n : Need) (fuel lv table : Nat) :
    walkFrom st { b with hubs := hubs } job n fuel lv table = walkFrom st b job n fuel lv table := by
  induction fuel generalizing lv table with
  | zero => rfl
  | succ fuel ih =>
    unfold walkFrom
    dsimp only
    rw [show entryStatus st { b with hubs := hubs } = entryStatus st b from rfl, show entryOf { b with hubs := hubs } = entryOf b from rfl,
      show rdNat st { b with hubs := hubs } = rdNat st b from rfl, show judge { b with hubs := hubs } = judge b from rfl]
    split
    · rfl
    · split <;> first | rfl | exact ih _ _

theorem walkAll_hubs (st : Store) (b : Block) (hubs : Tbl Hub) (job : Nat) (n : Need) : walkAll st { b with hubs := hubs } job n = walkAll st b job n := by
  unfold walkAll
  dsimp only
  split
  · rfl
  · exact walkFrom_hubs st b hubs job n _ _ _

/-- A copied message changes no walk. -/
theorem walkAll_takenAt (st : Store) (s : State) (h k : Nat) (mb : Mbox) : walkAll st (takenAt s h mb k) = walkAll st s.start :=
  funext fun job => funext fun n => walkAll_hubs st s.start _ job n

/-- Writes within a range leave host memory and every byte outside it. -/
theorem Store.apply_inside (lo n : Nat) (ws : List Wr) (st : Store) (wf : st.wf = true) (inside : ∀ w ∈ ws, Wr.inside lo n w) :
    (st.apply ws).host = st.host ∧ ∀ q, q < lo ∨ lo + n ≤ q → readByte (st.apply ws).mem q = readByte st.mem q := by
  induction ws generalizing st with
  | nil => exact ⟨rfl, fun _ _ => rfl⟩
  | cons w ws ih =>
    obtain ⟨a, data, rfl, low, high⟩ := inside w List.mem_cons_self
    obtain ⟨host, rest⟩ := ih (st.apply1 (.mem a data)) (st.apply1_wf _ wf) fun w mem => inside w (List.mem_cons_of_mem _ mem)
    refine ⟨host.trans (st.apply1_host _ fun _ _ same => by cases same), fun q out => (rest q out).trans ?_⟩
    exact Store.writeMem_outside _ st a q data wf (by omega)

end Sys2Proof.Machine
end

section
/-! O22: the delivery buffer, windows and regions. -/
namespace Sys2Proof.Machine
open Sys2Proof.Spec

theorem AddrKept.onEng (b : Block) (f : Eng → Eng) : AddrKept b (b.onEng f) := .of_hubs rfl

theorem Silent.onEng {b : Block} (silent : Silent b) (f : Eng → Eng) : Silent (b.onEng f) := silent

/-- Work that can end at once is answered at once. -/
theorem Ans.await_ends {fin : Finish} {st : Store} {b : Block} {m : Msg} {pm : PendMsg} {a : Ans} (ends : fin st b m pm = some a) :
    Ans.await fin st b m pm = a := by
  rw [Ans.await, ends]

/-- HARVEST_ARM of a buffer that fits (R319). -/
theorem msgHarvestArm_arms (st : Store) (b : Block) (m : Msg) (aligned : m.at 24 8 % 256 = 0) (low : 6 ≤ m.at 32 1) (high : m.at 32 1 ≤ 16)
    (delay : m.at 36 2 ≤ 10000) (within : b.eng.layout.inCap (m.at 24 8) (128 + 128 * 2 ^ m.at 32 1) = true) :
    msgHarvestArm st b m = .ok ((b.wrMem b.eng.leader (m.at 24 8) (toBytes 128 0x20) 1).onEng fun e => { e with harvest := { e.harvest with
      armed := true, base := m.at 24 8, lgN := m.at 32 1, sem := m.at 34 2, gdelay := m.at 36 2, hprod := 0 } }) := by
  unfold msgHarvestArm
  dsimp only
  rw [within, aligned, decide_eq_false (by omega : ¬m.at 32 1 < 6), decide_eq_false (by omega : ¬16 < m.at 32 1), decide_eq_false (by omega : ¬10000 < m.at 36 2)]
  rfl

/-- WINDOW_SET of a window that is not set, with a valid entry (R322). -/
theorem msgWindowSet_sets (st : Store) (b : Block) (m : Msg) (stages : windowStages (m.struct 16 32) b.eng.minor = OK)
    (free : b.windowSet (bits (m.struct 16 32) 8 12) = false) (own : bits (m.struct 16 32) 20 6 = m.job)
    (rights : bits (m.struct 16 32) 26 3 = 1 ∨ bits (m.struct 16 32) 26 3 = 3) (pages : bits (m.struct 16 32) 192 28 ≠ 0)
    (range : rangeBad (bits (m.struct 16 32) 128 56) (bits (m.struct 16 32) 192 28) = false) :
    msgWindowSet st b m = .ok (b.onEng fun e => { e with windows := e.windows.put (bits (m.struct 16 32) 8 12) (BitVec.ofNat 256 (m.struct 16 32)) }) := by
  have rights' : (bits (m.struct 16 32) 26 3 != 1 && bits (m.struct 16 32) 26 3 != 3) = false := by
    obtain code | code := rights <;> rw [code] <;> rfl
  unfold msgWindowSet Ans.guard
  dsimp only
  rw [if_pos stages, free, own, rights', range, if_neg (by simp), if_neg (by simpa using pages)]

/-- A WINDOW_CLEAR through whose window nothing is outstanding (R322). -/
theorem msgWindowClear_clears (st : Store) (b : Block) (m : Msg) (w : BitVec 256) (range : m.at 16 2 ≤ 4095) (found : b.eng.windows.get? (m.at 16 2) = some w)
    (own : jobOf w 20 = m.job) (idle : b.windowFree (m.at 16 2) b.eng.nextUse = true) :
    msgWindowClear st b m = .ok ((b.onEng fun e => { e with windows := e.windows.del (m.at 16 2) }).dropXlat
      (fun x => x.target == 2 && x.addr / 2 ^ 64 == m.at 16 2) fun _ => false) := by
  unfold msgWindowClear
  dsimp only
  rw [if_neg (by omega), found]
  dsimp only
  rw [if_neg (not_not.mpr own)]
  exact Ans.await_ends (if_pos idle)

/-- REGION_REGISTER of a region whose pages are all present and writable (R341). -/
theorem msgRegionRegister_registers (st : Store) (b : Block) (m : Msg) (stages : regionStages (m.struct 16 32) b.eng.minor = OK)
    (pages : bits (m.struct 16 32) 192 28 ≠ 0) (range : rangeBad (bits (m.struct 16 32) 128 56) (bits (m.struct 16 32) 192 28) = false)
    (free : b.eng.regions.has (bits (m.struct 16 32) 24 12) = false) (own : bits (m.struct 16 32) 36 6 = m.job)
    (allotted : b.allotted (bits (m.struct 16 32) 46 2) m.job (bits (m.struct 16 32) 48 16) = true)
    (noArrival : b.arrivalSem (bits (m.struct 16 32) 46 2) (bits (m.struct 16 32) 48 16) = false)
    (noRing : b.freeOrDone (bits (m.struct 16 32) 46 2) (bits (m.struct 16 32) 48 16) = false)
    (apart : ∀ r ∈ b.eng.regions.vals, bits r.toNat 36 6 = m.job →
      meets (bits (m.struct 16 32) 128 56) (65536 * bits (m.struct 16 32) 192 28) (bits r.toNat 128 56) (65536 * bits r.toNat 192 28) = false)
    (writable : firstUnwritable st b m.job (bits (m.struct 16 32) 128 56) (bits (m.struct 16 32) 192 28) REGION_INVALID = none) :
    msgRegionRegister st b m =
      .ok (b.onEng fun e => { e with regions := e.regions.put (bits (m.struct 16 32) 24 12) (BitVec.ofNat 256 (m.struct 16 32)) }) := by
  have apart' : (b.eng.regions.vals.any fun r => bits r.toNat 36 6 == m.job &&
      meets (bits (m.struct 16 32) 128 56) (65536 * bits (m.struct 16 32) 192 28) (bits r.toNat 128 56) (65536 * bits r.toNat 192 28)) = false := by
    refine List.any_eq_false.mpr fun r mem both => ?_
    rw [Bool.and_eq_true, beq_iff_eq] at both
    rw [apart r mem both.1] at both
    exact Bool.false_ne_true both.2
  unfold msgRegionRegister Ans.guard
  dsimp only
  rw [if_pos stages, range, free, own, allotted, noArrival, noRing, apart', writable, if_neg (by simpa using pages), if_neg (by simp)]

/-- REGION_RELEASE with no signal latched for the region's semaphore (R343, R344). -/
theorem msgRegionRelease_releases (st : Store) (b : Block) (m : Msg) (r : BitVec 256) (found : b.eng.regions.get? (m.at 16 2) = some r)
    (own : jobOf r 36 = m.job) (unlatched : ∀ a ∈ b.eng.arrivals, ¬(a.hub = bits r.toNat 46 2 ∧ a.sem = bits r.toNat 48 16)) :
    msgRegionRelease st b m = .ok (b.onEng fun e => { e with regions := e.regions.del (m.at 16 2) }) := by
  have none_ : (b.eng.arrivals.countP fun a => a.sol.isNone && a.hub == bits r.toNat 46 2 && a.sem == bits r.toNat 48 16) = 0 := by
    refine List.countP_eq_zero.mpr fun a mem both => unlatched a mem ?_
    simp only [Bool.and_eq_true, beq_iff_eq] at both
    exact ⟨both.1.2, both.2⟩
  unfold msgRegionRelease Ans.await
  rw [found]
  dsimp only
  rw [if_neg (not_not.mpr own), none_]
  rfl

/-- Settles O22. -/
theorem faultBufferWindowAndRegionMessagesAct : Obligations.FaultBufferWindowAndRegionMessagesAct := by
  unfold Obligations.FaultBufferWindowAndRegionMessagesAct
  intro h k mb s m x
  refine ⟨fun acc aligned low high delay within wf => ?_, fun acc stages free own rights pages range => ?_, fun w acc range found own idle => ?_,
    fun acc stages pages range free own allotted noArrival noRing apart writable => ?_, fun r acc found own unlatched => ?_⟩
  · have written := Touch.wrMem (takenAt s h mb k) (takenAt s h mb k).eng.leader (m.at 24 8) (toBytes 128 0x20) 1 1
    obtain ⟨ws, made, inside⟩ := written.wr (takenAt_quiet acc)
    have silent : Silent _ := (written.mono fun _ => Wr.inside_plain).silent_plain (takenAt_quiet acc) (.of_wr rfl)
    refine runs_accepted_kept msgHarvestArm rfl acc _ (msgHarvestArm_arms s.store (takenAt s h mb k) m aligned low high delay within) rfl
      (by rw [Ans.ok_b]; exact (AddrKept.of_touch written).trans (.onEng _ _)) (by rw [Ans.ok_b]; exact silent.onEng _) (by decide) (by decide) (Nat.two_pow_pos 16) fun t ans => ?_
    · have store : t.store = s.store.apply ws := by
        rw [ans.store, Ans.ok_b, Block.onEng_wr, made]
        rfl
      obtain ⟨host, outside⟩ := Store.apply_inside _ _ ws s.store wf inside
      refine ⟨ans.done, (ans.part (·.eng.harvest)).trans ?_, store ▸ host, fun a out => store ▸ outside a out⟩
      rw [Ans.ok_b, Block.onEng_eng]
      dsimp only
      rw [written.part (·.eng.harvest)]
      rfl
  · exact runs_accepted_plain msgWindowSet rfl acc _ (msgWindowSet_sets s.store (takenAt s h mb k) m stages free own rights pages range) rfl rfl rfl (by decide)
      (by decide) (Nat.two_pow_pos 16) fun t kept ans => ⟨ans.done, kept, ans.part (·.eng.windows), ans.part (·.works)⟩
  · exact runs_accepted_kept msgWindowClear rfl acc _ (msgWindowClear_clears s.store (takenAt s h mb k) m w range found own idle) rfl
      (.of_mapVal (fun _ x => x.dropXlat _ _) (Block.dropXlat_hubs _ _ _) fun _ _ => rfl) (.of_wr rfl) (by decide) (by decide) (Nat.two_pow_pos 16)
      fun t ans => ⟨ans.done, ans.store, ans.part (·.eng.windows), ans.part (·.works)⟩
  · have writable' : firstUnwritable s.store (takenAt s h mb k) m.job (bits x 128 56) (bits x 192 28) REGION_INVALID = none := by
      unfold firstUnwritable at writable ⊢
      rw [walkAll_takenAt]
      exact writable
    exact runs_accepted_plain msgRegionRegister rfl acc _
      (msgRegionRegister_registers s.store (takenAt s h mb k) m stages pages range free own allotted noArrival noRing apart writable') rfl rfl rfl (by decide)
      (by decide) (Nat.two_pow_pos 16) fun t kept ans => ⟨ans.done, kept, ans.part (·.eng.regions), ans.part (·.rings)⟩
  · exact runs_accepted_plain msgRegionRelease rfl acc _ (msgRegionRelease_releases s.store (takenAt s h mb k) m r found own unlatched) rfl rfl rfl (by decide)
      (by decide) (Nat.two_pow_pos 16) fun t kept ans => ⟨ans.done, kept, ans.part (·.eng.regions), ans.part (·.rings)⟩

end Sys2Proof.Machine
end

section
/-!
SUPPORT. What INVALIDATE and ADVISE WARM leave: uses after translations are forgotten, translation caches after a drop.
-/
namespace Sys2Proof.Machine
open Sys2Proof.Spec

theorem Work.forget_job (w : Work) (p : Nat → Page → Bool) : (w.forget p).job = w.job := by
  unfold Work.forget
  split
  · split <;> rfl
  · rfl

/-- A slot that forgets translations holds no page that it did not hold. -/
theorem Work.forget_held (w : Work) (p : Nat → Page → Bool) : ∀ q ∈ (w.forget p).held, q ∈ w.held := by
  intro q mem
  unfold Work.forget at mem
  split at mem
  · rename_i u data
    split at mem
    · exact mem
    · rename_i unstarted
      simp only [Work.held, data, Bool.not_eq_true] at mem unstarted ⊢
      rw [unstarted] at mem ⊢
      split at mem <;> split at mem <;> simp_all
  · exact mem

/-- Forgetting translations adds no use. -/
theorem Block.uses_forget (b : Block) (p : Nat → Page → Bool) : ∀ x ∈ (b.forget p).uses, x ∈ b.uses := by
  intro x mem
  rw [Block.uses, List.mem_append, List.mem_flatMap] at mem ⊢
  refine mem.imp_left ?_
  rintro ⟨w', there, holds⟩
  obtain ⟨e, inTable, rfl⟩ := List.mem_map.mp there
  obtain ⟨w, old, value⟩ := Tbl.mem_mapVal b.works (fun _ w => w.forget p) e inTable
  obtain ⟨q, held, rfl⟩ := List.mem_map.mp holds
  rw [value] at held ⊢
  rw [Work.forget_job]
  exact ⟨w, List.mem_map.mpr ⟨_, old, rfl⟩, List.mem_map.mpr ⟨q, w.forget_held p q held, rfl⟩⟩

theorem Block.usesGone_forget {b : Block} {p test : Nat → Page → Bool} {cut : Nat} (gone : b.usesGone cut test = true) :
    (b.forget p).usesGone cut test = true :=
  List.all_eq_true.mpr fun x mem => List.all_eq_true.mp gone x (b.uses_forget p x mem)

/-- What a translation cache keeps of a drop fails the test. -/
theorem Xlat.dropIf_left (x : Xlat) (p : XEntry → Bool) : ∀ c ∈ (x.dropIf p).sets.vals, ∀ e ∈ c.ways.vals, p e = false := by
  intro c set e way
  obtain ⟨f, kept, rfl⟩ := List.mem_map.mp set
  obtain ⟨_, -, value⟩ := Tbl.mem_mapVal x.sets _ f (List.mem_filter.mp kept).1
  rw [value] at way
  obtain ⟨g, stays, rfl⟩ := List.mem_map.mp way
  simpa using (List.mem_filter.mp stays).2

/-- The translations that an INVALIDATE drops. -/
def Msg.invalidates (m : Msg) (e : XEntry) : Bool := e.job == m.job && (m.flag 16 0 || meets e.va e.size (m.at 24 8) (65536 * m.at 32 4))

/-- A hub without the translations that an INVALIDATE drops, its walks changed alike. -/
def Hub.invalidated (m : Msg) (again : Walk → Walk) (h : Hub) : Hub :=
  { h with xlat := { h.xlat.dropIf m.invalidates with walks := h.xlat.walks.mapVal fun _ => again } }

theorem Block.invalidate_hubs (b : Block) (m : Msg) : ∃ again, (b.invalidate m).hubs = b.hubs.mapVal fun _ h => h.invalidated m again := ⟨_, rfl⟩

/-- INVALIDATE of a range that nothing pins and no use holds (R312). -/
theorem msgInvalidate_drops (st : Store) (b : Block) (m : Msg)
    (all : m.flag 16 0 = true → m.at 24 8 = 0 ∧ m.at 32 4 = 0 ∧ b.pinned m.job 0 (2 ^ 56) = false)
    (some_ : m.flag 16 0 = false → rangeBad (m.at 24 8) (m.at 32 4) = false ∧ b.pinned m.job (m.at 24 8) (65536 * m.at 32 4) = false)
    (gone : b.usesGone b.eng.nextUse (invUses m) = true) :
    msgInvalidate st b m = .ok (if m.flag 16 0 = false ∧ m.at 32 4 = 0 then b else (b.invalidate m).forget (invUses m)) := by
  have drops : Ans.await finInvalidate st ((b.invalidate m).forget (invUses m)) m { waits := [b.eng.nextUse] } = .ok ((b.invalidate m).forget (invUses m)) :=
    Ans.await_ends (if_pos (Block.usesGone_forget (b := b.invalidate m) gone))
  unfold msgInvalidate
  dsimp only
  cases flag : m.flag 16 0 with
  | true =>
    obtain ⟨va, pages, pin⟩ := all flag
    rw [va, pages, if_neg (by decide : ¬((true && (0 != 0 || 0 != 0)) || (!true && rangeBad 0 0)) = true), if_neg (by decide), if_neg (by simpa using pin), drops]
    rfl
  | false =>
    obtain ⟨range, pin⟩ := some_ flag
    by_cases none_ : m.at 32 4 = 0
    · rw [none_] at range
      simp [range, none_]
    · simp [range, none_, pin, drops]

/-- One step of ADVISE WARM: the translation of a page enters a hub's cache as a prefetch walk brings it. -/
def Block.warmOne (st : Store) (job v : Nat) (b : Block) (h : Nat) : Block :=
  if ((b.hub h).xlat.find job v).isSome then b
  else match walkAll st b job { va := v, read := true } with
    | (.page _, some e) => b.onXlat h fun x => x.insert e true
    | _ => b

/-- From b to c only hubs have changed, and none of their interrupt addresses. -/
structure HubsOnly (b c : Block) : Prop where
  eq : c = { b with hubs := c.hubs }
  addr : AddrKept b c

namespace HubsOnly

theorem refl (b : Block) : HubsOnly b b := ⟨rfl, .of_hubs rfl⟩

theorem trans {b c d : Block} (first : HubsOnly b c) (second : HubsOnly c d) : HubsOnly b d := by
  refine ⟨second.eq.trans ?_, first.addr.trans second.addr⟩
  rw [first.eq]

theorem foldl {α : Type} {f : Block → α → Block} (step : ∀ b a, HubsOnly b (f b a)) (as : List α) (b : Block) : HubsOnly b (as.foldl f b) := by
  induction as generalizing b with
  | nil => exact refl b
  | cons a as ih => exact (step b a).trans (ih (f b a))

theorem onHub (b : Block) (h : Nat) (f : Hub → Hub) (keeps : ∀ x, (f x).regs.msiAddr = x.regs.msiAddr) : HubsOnly b (b.onHub h f) :=
  ⟨rfl, .of_modify h f rfl keeps⟩

/-- A part of the block that is not its hubs. -/
theorem part {b c : Block} (only : HubsOnly b c) {α : Type} (p : Block → α) (keeps : ∀ (d : Block) hubs, p { d with hubs := hubs } = p d := by exact fun _ _ => rfl) :
    p c = p b :=
  (congrArg p only.eq).trans (keeps b _)

end HubsOnly

theorem Block.warmOne_hubs (st : Store) (job v : Nat) (b : Block) (h : Nat) : HubsOnly b (b.warmOne st job v h) := by
  unfold Block.warmOne
  split
  · exact .refl b
  · split
    · exact .onHub b h _ fun _ => rfl
    · exact .refl b

/-- The hubs whose rings the job slot uses. -/
def Block.warmHubs (b : Block) (job : Nat) : List Nat := (List.range 4).filter fun h => (b.ringsOf h).any fun (_, r) => r.job == job

theorem msgWarm_warms (st : Store) (b : Block) (m : Msg) (range : rangeBad (m.at 24 8) (m.at 32 4) = false) (plain : m.at 40 8 = 0) :
    msgWarm st b m = .ok ((pagesOf (m.at 24 8) (65536 * m.at 32 4)).foldl (fun c v => (b.warmHubs m.job).foldl (Block.warmOne st m.job v) c) b) := by
  unfold msgWarm
  dsimp only
  rw [range, plain, if_neg (by decide)]
  rfl

theorem pagesOf_one (va : Nat) (aligned : va % 65536 = 0) : pagesOf va (65536 * 1) = [va] := by
  have count : (va + 65536 * 1 - 1) / 65536 - va / 65536 + 1 = 1 := by omega
  have base : (va / 65536 + 0) * 65536 = va := by omega
  rw [pagesOf, if_neg (by decide), count]
  exact congrArg (fun v => [v]) base

/-- Settles O25. -/
theorem translationCacheIsDroppedAndWarmed : Obligations.TranslationCacheIsDroppedAndWarmed := by
  unfold Obligations.TranslationCacheIsDroppedAndWarmed
  refine ⟨fun h k mb s => ?_, fun h k mb s => ?_, fun h k g mb s p e => ?_⟩
  · intro m acc all some_ gone
    have drops := msgInvalidate_drops s.store (takenAt s h mb k) m all some_ gone
    by_cases none_ : m.flag 16 0 = false ∧ m.at 32 4 = 0
    · rw [if_pos none_] at drops
      refine runs_accepted_plain msgInvalidate rfl acc _ drops rfl rfl rfl (by decide) (by decide) (Nat.two_pow_pos 16) fun t kept ans =>
        ⟨ans.done, kept, ans.part (·.rings), ans.part (·.jobs), fun _ _ g => ?_, fun due => ?_⟩
      · exact (ans.hubPart g (·.xlat)).trans (congrArg (·.xlat) (takenAt_hub s h k g mb))
      · simp [none_] at due
    · rw [if_neg none_] at drops
      obtain ⟨again, hubs⟩ := (takenAt s h mb k).invalidate_hubs m
      refine runs_accepted_kept msgInvalidate rfl acc _ drops rfl (.of_mapVal (fun _ x => x.invalidated m again) hubs fun _ _ => rfl) (.of_wr rfl) (by decide) (by decide) (Nat.two_pow_pos 16)
        fun t ans => ⟨ans.done, ans.store, ans.part (·.rings), ans.part (·.jobs), fun flag pages => absurd ⟨flag, pages⟩ none_, fun _ g c set e way own => ?_⟩
      have left : ((takenAt s h mb k).invalidate m).hub g = ((takenAt s h mb k).hub g).invalidated m again := by
        rw [Block.hub, hubs]
        exact Tbl.getD_mapVal_apply (takenAt s h mb k).hubs (Hub.invalidated m again) g {} rfl
      have sets : (t.blk.hub g).xlat.sets = (((takenAt s h mb k).hub g).xlat.dropIf m.invalidates).sets :=
        (ans.hubPart g (·.xlat.sets)).trans (congrArg (·.xlat.sets) left)
      have kept : m.invalidates e = false := Xlat.dropIf_left _ _ c (sets ▸ set) e way
      simpa [Msg.invalidates, own] using kept
  · intro m acc range plain
    have only : HubsOnly (takenAt s h mb k) ((pagesOf (m.at 24 8) (65536 * m.at 32 4)).foldl
        (fun c v => ((takenAt s h mb k).warmHubs m.job).foldl (Block.warmOne s.store m.job v) c) (takenAt s h mb k)) :=
      .foldl (fun b v => .foldl (Block.warmOne_hubs s.store m.job v) _ b) _ _
    refine runs_accepted_kept msgWarm rfl acc _ (msgWarm_warms s.store (takenAt s h mb k) m range plain) rfl only.addr (.of_wr (only.part (·.wr))) (by decide)
      (by decide) (Nat.two_pow_pos 16) fun t ans => ⟨ans.done, ?_, ?_, ?_, ?_⟩
    · exact ans.store.trans (congrArg s.store.apply (only.part (·.wr)))
    · exact (ans.part (·.rings)).trans (only.part (·.rings))
    · exact (ans.part (·.works)).trans (only.part (·.works))
    · exact (ans.part (·.dies)).trans (only.part (·.dies))
  · intro m acc range plain one alone there missed walk
    have aligned : m.at 24 8 % 65536 = 0 := by
      unfold rangeBad at range
      simp only [Bool.or_eq_false_iff, bne_eq_false_iff_eq] at range
      exact range.1
    have pages : pagesOf (m.at 24 8) (65536 * m.at 32 4) = [m.at 24 8] := by
      rw [one]
      exact pagesOf_one _ aligned
    have hubs : (takenAt s h mb k).warmHubs m.job = [g] := alone
    have xlat : ∀ i, ((takenAt s h mb k).hub i).xlat = (s.blk.hub i).xlat := fun i => congrArg (·.xlat) (takenAt_hub s h k i mb)
    have filled : Block.warmOne s.store m.job (m.at 24 8) (takenAt s h mb k) g = (takenAt s h mb k).onXlat g fun x => x.insert e true := by
      rw [Block.warmOne, xlat, missed, walkAll_takenAt, walk]
      rfl
    have answer := msgWarm_warms s.store (takenAt s h mb k) m range plain
    rw [pages, hubs] at answer
    replace answer := answer.trans (congrArg Ans.ok filled)
    obtain ⟨x, found⟩ := Option.ne_none_iff_exists'.mp there
    obtain ⟨y, found', same⟩ := takenAt_get s h k g mb x found
    refine runs_accepted_kept msgWarm rfl acc _ answer rfl (.of_modify g _ rfl fun _ => rfl) (.of_wr rfl) (by decide) (by decide) (Nat.two_pow_pos 16)
      fun t ans => ⟨?_, fun i other => ?_⟩
    · refine (ans.hubPart g (·.xlat)).trans ?_
      have grown := congrArg (·.xlat) ((takenAt s h mb k).hub_onHub_same g (fun x => { x with xlat := x.xlat.insert e true }) y found')
      have before : y.xlat = (s.blk.hub g).xlat := (congrArg (·.xlat) ((takenAt s h mb k).hub_of_get g y found')).symm.trans (xlat g)
      exact grown.trans (congrArg (·.insert e true) before)
    · refine (ans.hubPart i (·.xlat)).trans (Eq.trans ?_ (xlat i))
      exact congrArg (·.xlat) ((takenAt s h mb k).hub_onHub_other g i _ other)

end Sys2Proof.Machine
end

section
/-!
SUPPORT. FWSTATE of the hubs set one after the other, and channels changed one after the other.
-/
namespace Sys2Proof.Machine
open Sys2Proof.Spec

/-- A hub but for FWSTATE and its interrupt causes. -/
def Hub.unstated (x : Hub) : Hub := { x with regs := { x.regs with fw := .boot, intStatus := 0 } }

theorem Hub.of_unstated {x y : Hub} (same : x.unstated = y.unstated) {α : Type} (p : Hub → α) (keeps : ∀ z : Hub, p z.unstated = p z := by exact fun _ => rfl) :
    p x = p y := by
  rw [← keeps x, ← keeps y, same]

theorem Block.raise_hub_unstated (b : Block) (h cause g : Nat) : ((b.raise h cause).hub g).unstated = (b.hub g).unstated := by
  rw [Block.hub, Block.raise_hubs]
  exact b.hub_onHub_proj h g _ Hub.unstated fun _ => rfl

theorem Block.raise_fw (b : Block) (h cause g : Nat) : (b.raise h cause).fw g = b.fw g := by
  rw [Block.fw, Block.hub, Block.raise_hubs]
  exact b.hub_onHub_proj h g _ (·.regs.fw) fun _ => rfl

theorem Block.setFw_hub (b : Block) (h g : Nat) (f : Fw) : ((b.setFw h f).hub g).unstated = (b.hub g).unstated := by
  unfold Block.setFw
  split
  · rfl
  · exact (Block.raise_hub_unstated _ _ _ _).trans (b.hub_onHub_proj h g _ Hub.unstated fun _ => rfl)

theorem Block.setFw_fw (b : Block) (h g : Nat) (f : Fw) (there : ∃ y, b.hubs.get? h = some y) : (b.setFw h f).fw g = if g = h then f else b.fw g := by
  obtain ⟨y, found⟩ := there
  unfold Block.setFw
  split
  · rename_i stands
    split
    · rename_i here
      rw [here, stands]
    · rfl
  · rw [Block.raise_fw]
    split
    · rename_i here
      rw [here, Block.fw, Block.onRegs, Block.hub_onHub_same _ _ _ y found]
    · rename_i other
      rw [Block.fw, Block.onRegs, Block.hub_onHub_other _ _ _ _ other]
      rfl

theorem Block.raise_only (b : Block) (h cause : Nat) (still : (b.hub h).regs.msiAddr = 0) : HubsOnly b (b.raise h cause) := by
  rw [b.raise_quiet h cause still]
  exact .onHub b h _ fun _ => rfl

theorem Block.setFw_quiet (b : Block) (h : Nat) (f : Fw) (still : (b.hub h).regs.msiAddr = 0) : HubsOnly b (b.setFw h f) := by
  unfold Block.setFw
  split
  · exact .refl b
  · have set : HubsOnly b (b.onRegs h fun r => { r with fw := f }) := .onHub b h _ fun _ => rfl
    exact set.trans (Block.raise_only _ h _ ((set.addr.addr h).trans still))

/-- FWSTATE of each hub of a list set. -/
def Block.setFws (b : Block) (f : Fw) (hs : List Nat) : Block := hs.foldl (fun b h => b.setFw h f) b

theorem Block.setFws_hub (b : Block) (f : Fw) (hs : List Nat) (g : Nat) : ((b.setFws f hs).hub g).unstated = (b.hub g).unstated := by
  unfold Block.setFws
  induction hs generalizing b with
  | nil => rfl
  | cons h hs ih => exact (ih _).trans (b.setFw_hub h g f)

theorem Block.setFws_quiet (b : Block) (f : Fw) (hs : List Nat) (still : b.Quiet) : HubsOnly b (b.setFws f hs) := by
  unfold Block.setFws
  induction hs generalizing b with
  | nil => exact .refl b
  | cons h hs ih =>
    have first := b.setFw_quiet h f (still h)
    exact first.trans (ih _ (first.addr.quiet still))

theorem Block.setFws_fw (b : Block) (f : Fw) (hs : List Nat) (still : b.Quiet) (there : ∀ h ∈ hs, ∃ y, b.hubs.get? h = some y) (g : Nat) :
    (b.setFws f hs).fw g = if g ∈ hs then f else b.fw g := by
  unfold Block.setFws
  induction hs generalizing b with
  | nil => rfl
  | cons h hs ih =>
    have first := b.setFw_quiet h f (still h)
    rw [List.foldl_cons, ih _ (first.addr.quiet still) fun g mem => first.addr.there (there g (List.mem_cons_of_mem _ mem)),
      b.setFw_fw h g f (there h List.mem_cons_self)]
    by_cases here : g = h <;> by_cases later : g ∈ hs <;> simp [here, later]

/-- A hub in service stands. -/
theorem Block.there_of_hubUp {b : Block} {h : Nat} (up : b.hubUp h = true) : ∃ y, b.hubs.get? h = some y := by
  obtain gone | found := (b.hubs.get? h).eq_none_or_eq_some
  · rw [Block.hubUp, Block.hub, Tbl.getD, gone] at up
    exact absurd up Bool.false_ne_true
  · exact found

theorem Block.mem_upHubs {b : Block} {h : Nat} : h ∈ b.upHubs ↔ h < 4 ∧ b.hubUp h = true := by
  rw [Block.upHubs, List.mem_filter, List.mem_range]

/-- Channels of one row die, each changed alike. -/
def Block.onChans (b : Block) (cs : List Nat) (f : Chan → Chan) : Block := cs.foldl (fun b c => b.onChan c f) b

theorem Block.onChans_eq (b : Block) (cs : List Nat) (f : Chan → Chan) : b.onChans cs f = { b with dies := (b.onChans cs f).dies } := by
  unfold Block.onChans
  induction cs generalizing b with
  | nil => rfl
  | cons c cs ih => exact ih _

theorem Block.onChans_die (b : Block) (cs : List Nat) (f : Chan → Chan) (q : Nat) (other : ∀ c ∈ cs, c / 64 ≠ q) : (b.onChans cs f).die q = b.die q := by
  unfold Block.onChans
  induction cs generalizing b with
  | nil => rfl
  | cons c cs ih =>
    exact (ih _ fun c mem => other c (List.mem_cons_of_mem _ mem)).trans (b.die_onDie_other _ _ _ (other c List.mem_cons_self).symm)

theorem Block.chan_onChan (b : Block) (c d : Nat) (f : Chan → Chan) (there : b.dies.get? (c / 64) ≠ none) :
    (b.onChan c f).chan d = if d = c then f (b.chan c) else b.chan d := by
  obtain ⟨x, found⟩ := Option.ne_none_iff_exists'.mp there
  by_cases die : d / 64 = c / 64
  · rw [Block.chan, die, Block.onChan, b.die_onDie_same _ _ x found]
    split
    · rename_i here
      rw [here, Tbl.getD_put_same, Block.chan, b.die_of_get _ x found]
    · rename_i other
      rw [Tbl.getD_put_other _ _ _ _ _ other, Block.chan, die, b.die_of_get _ x found]
  · rw [if_neg fun here => die (congrArg (· / 64) here), Block.chan, Block.onChan, b.die_onDie_other _ _ _ die]
    rfl

theorem Block.onChan_there {b : Block} {q : Nat} (c : Nat) (f : Chan → Chan) (there : b.dies.get? q ≠ none) : (b.onChan c f).dies.get? q ≠ none := by
  rw [Block.onChan_dies]
  obtain rfl | other := eq_or_ne q (c / 64)
  · rw [Tbl.get?_modify_same]
    simpa using there
  · rwa [Tbl.get?_modify_other _ _ _ _ other]

/-- A part of each channel that the change brings to one value, whatever it was. -/
theorem Block.chan_onChans {α : Type} (b : Block) (cs : List Nat) (f : Chan → Chan) (part : Chan → α) (v : α) (sets : ∀ x, part (f x) = v)
    (there : ∀ c ∈ cs, b.dies.get? (c / 64) ≠ none) (d : Nat) (due : d ∈ cs ∨ part (b.chan d) = v) : part ((b.onChans cs f).chan d) = v := by
  unfold Block.onChans
  induction cs generalizing b with
  | nil => exact due.resolve_left List.not_mem_nil
  | cons c cs ih =>
    refine ih (b.onChan c f) (fun d mem => Block.onChan_there c f (there d (List.mem_cons_of_mem _ mem))) ?_
    rw [b.chan_onChan c d f (there c List.mem_cons_self)]
    by_cases here : d = c
    · exact .inr (by rw [if_pos here, sets])
    · rw [if_neg here]
      exact due.imp_left fun mem => (List.mem_cons.mp mem).resolve_left here

end Sys2Proof.Machine
end

section
/-! O27: DUMP_ARM, FW_STAGE, FW_HANDOVER and RECALIBRATE. -/
namespace Sys2Proof.Machine
open Sys2Proof.Spec

/-- An accepted message whose card's part goes on, having changed no interrupt address. -/
theorem runs_pending_kept {c : Card} {h k : Nat} {mb : Mbox} {s : State} {i : Instr} {P : State → Prop} (act : Store → Block → Msg → Ans)
    (arm : exec i s = message c act h mb k s) (acc : Accepted c h mb k s) {b : Block} {p : PendMsg}
    (answer : act s.store (takenAt s h mb k) (msgAt s h mb k) = { b := b, pend := some p }) (kept : AddrKept (takenAt s h mb k) b) (silent : Silent b)
    (holds : ∀ t, Awaited s { b := b, pend := some p } { p with hub := h, key := pairKey mb k, code := c.code, copy := (msgAt s h mb k).x } (msgAt s h mb k) t →
      P t) : Runs i s P :=
  runs_accepted_pending act arm acc _ p answer rfl (kept.there (takenAt_found s h k mb acc.1.1)) silent holds

/-- DUMP_ARM of a region that passes its checks (R414). -/
theorem msgDumpArm_arms (st : Store) (b : Block) (m : Msg) (x : Nat) (record : x = m.struct 16 32) (open_ : b.jobFor m [bits x 128 56] = OK)
    (stages : dumpStages x b.eng.minor = OK) (own : bits x 40 6 = m.job) (room : bits x 192 32 + 4096 ≤ bits x 64 32) (low : 16 ≤ bits x 192 32)
    (high : bits x 192 32 ≤ 4096) (range : rangeBad (bits x 128 56) (bits x 64 32) = false)
    (apart : b.regionMeets m.job (bits x 128 56) (bits x 64 32) = false)
    (writable : firstUnwritable st b m.job (bits x 128 56) (bits x 64 32) DUMP_INVALID = none) :
    let d : Dump := { armed := true, job := m.job, vbase := bits x 128 56, pages := bits x 64 32, svcPages := bits x 192 32
                      frames := dumpFrames st b m.job (bits x 128 56) (bits x 64 32) }
    msgDumpArm st b m = .ok (b.onEng fun e => { e with dump := d }) := by
  subst record
  unfold msgDumpArm Ans.guard thenCheck
  dsimp only
  rw [open_, if_pos rfl, if_pos stages, own, range, apart, writable, decide_eq_false (by omega : ¬bits (m.struct 16 32) 64 32 < bits (m.struct 16 32) 192 32 + 4096),
    decide_eq_false (by omega : ¬bits (m.struct 16 32) 192 32 < 16), decide_eq_false (by omega : ¬4096 < bits (m.struct 16 32) 192 32)]
  simp [firstFail]

/-- An image written into a bank, which no hub's standby memory holds yet (R423). -/
def Block.writeBank (b : Block) (n : Nat) (k : FwBank) : Block :=
  { b.onEng fun e => { e with boot := { (e.boot.setBank n k) with otherState := 0 }, staged := false } with
    hubs := b.hubs.mapVal fun _ h => { h with standby := false } }

theorem Block.writeBank_addr (b : Block) (n : Nat) (k : FwBank) : AddrKept b (b.writeBank n k) :=
  .of_mapVal (fun _ h => { h with standby := false }) rfl fun _ _ => rfl

theorem Block.writeBank_standby (b : Block) (n g : Nat) (k : FwBank) : ((b.writeBank n k).hub g).standby = false :=
  congrArg (·.standby) (Tbl.getD_mapVal_apply b.hubs (fun h => { h with standby := false }) g {} rfl)

/-- FW_STAGE of an image that verifies (R423, R429). -/
theorem msgFwStage_stages (st : Store) (b : Block) (m : Msg) (bs : List Byte) (open_ : b.jobFor m [m.at 24 8] = OK)
    (read : msgRead st b m b.eng.leader (m.at 24 8) (m.at 32 4) = (b, .ok bs)) (sound : imageBad (ofBytes (bs.take 64)) (m.at 32 4) = false)
    (whole : m.at 36 4 = crc32c bs) (body : bits (ofBytes (bs.take 64)) 96 32 = crc32c (bs.drop 64)) (part : bits (ofBytes (bs.take 64)) 128 16 = 0x5A02)
    (major : bits (ofBytes (bs.take 64)) 8 8 = 2) (from_ : bits (ofBytes (bs.take 64)) 16 4 ≤ b.eng.minor) (upTo : b.eng.minor ≤ bits (ofBytes (bs.take 64)) 20 4) :
    let img : FwBank := { header := BitVec.ofNat 512 (ofBytes (bs.take 64)), bodyCrc := crc32c (bs.drop 64), size := (bs.drop 64).length }
    msgFwStage st b m = { b := b.writeBank (1 - b.runBank) img, pend := some { obj := .firmware, aux := [1 - b.runBank] } } := by
  unfold msgFwStage Ans.guard
  dsimp only
  rw [if_pos open_, read]
  dsimp only
  rw [sound, if_neg Bool.false_ne_true, if_neg (by simp [whole, body]), if_neg (by simp [part, major, from_, upTo])]
  rfl

/-- The handover to a bank begins (R430). -/
def Block.inHandover (b : Block) (n : Nat) : Block := b.onEng fun e => { e with handover := some (n, b.age b.eng.leader) }

/-- FW_HANDOVER to the staged bank (R430). -/
theorem msgFwHandover_hands (st : Store) (b : Block) (m : Msg) (other : m.at 16 1 = 1 - b.runBank) (staged : b.eng.boot.otherState = 1) :
    msgFwHandover st b m =
      { b := (b.inHandover (m.at 16 1)).setFws .handover b.upHubs, pend := some { obj := .firmware, aux := [m.at 16 1] } } := by
  unfold msgFwHandover
  dsimp only
  rw [if_neg (by simp [other, staged])]
  rfl

/-- RECALIBRATE of channels that are active (R431). -/
theorem msgRecalibrate_marks (st : Store) (b : Block) (m : Msg) (some_ : b.recalChans m ≠ []) (up : b.dieUp (m.at 16 1) = true) :
    msgRecalibrate st b m = { b := b.onChans (b.recalChans m) fun x => { x with recalAge := 1 }, pend := some { obj := .stack (m.at 16 1) } } := by
  unfold msgRecalibrate
  dsimp only
  rw [up, if_neg (by simpa using some_)]
  rfl

/-- A channel that RECALIBRATE names lies at the stack named. -/
theorem Block.recalChans_die (b : Block) (m : Msg) : ∀ c ∈ b.recalChans m, c / 64 = m.at 16 1 := by
  intro c mem
  obtain ⟨p, named, rfl⟩ := List.mem_map.mp mem
  have small : p < 64 := List.mem_range.mp (List.mem_filter.mp (List.mem_filter.mp named).1).1
  omega

theorem Block.there_of_dieUp {b : Block} {q : Nat} (up : b.dieUp q = true) : b.dies.get? q ≠ none := by
  intro gone
  rw [Block.dieUp, Block.die, Tbl.getD, gone] at up
  exact absurd up Bool.false_ne_true

/-- Settles O27. -/
theorem dumpAndFirmwareMessagesAct : Obligations.DumpAndFirmwareMessagesAct := by
  unfold Obligations.DumpAndFirmwareMessagesAct
  intro h k mb s m x b
  have taken : b = takenAt s h mb k := takenAt_eq s h k mb
  have sameAge : ∀ g, (takenAt s h mb k).age g = s.blk.age g := fun g => congrArg (·.regs.age) (takenAt_hub s h k g mb)
  have sameBank : (takenAt s h mb k).runBank = s.blk.runBank := congrArg (·.regs.bank) (takenAt_hub s h k s.blk.eng.leader mb)
  refine ⟨fun acc open_ stages own room low high range apart writable => ?_, fun bs acc open_ read => ?_,
    fun acc other staged => ?_, fun acc some_ up => ?_⟩
  · rw [taken] at writable ⊢
    exact runs_accepted_plain msgDumpArm rfl acc _ (msgDumpArm_arms s.store (takenAt s h mb k) m x rfl open_ stages own room low high range apart writable) rfl rfl
      rfl (by decide) (by decide) (Nat.two_pow_pos 16) fun t kept ans => ⟨ans.done, kept, ans.part (·.eng.dump)⟩
  · intro hd img sound whole body part major from_ upTo
    rw [taken] at read
    have answer := msgFwStage_stages s.store (takenAt s h mb k) m bs open_ read sound whole body part major from_ upTo
    rw [sameBank] at answer
    exact runs_pending_kept msgFwStage rfl acc answer (Block.writeBank_addr _ _ _) (.of_wr rfl) fun t ans =>
      ⟨ans.pending, ans.store, ans.part (·.eng.boot), ans.part (·.eng.staged), fun g => (ans.hubPart g (·.standby)).trans (Block.writeBank_standby _ _ g _)⟩
  · have answer := msgFwHandover_hands s.store (takenAt s h mb k) m (other.trans (congrArg (1 - ·) sameBank.symm)) staged
    have only := Block.setFws_quiet ((takenAt s h mb k).inHandover (m.at 16 1)) .handover (takenAt s h mb k).upHubs (takenAt_quiet acc)
    refine runs_pending_kept msgFwHandover rfl acc answer ((AddrKept.onEng _ _).trans only.addr) (.of_wr (only.part (·.wr))) fun t ans =>
      ⟨ans.pending, ans.store.trans (congrArg s.store.apply (only.part (·.wr))), ?_, ?_, fun g low up => ?_⟩
    · exact (ans.part (·.eng.boot)).trans (only.part (·.eng.boot))
    · exact (ans.part (·.eng.handover)).trans ((only.part (·.eng.handover)).trans (congrArg (fun a => some (m.at 16 1, a)) (sameAge _)))
    · have member : g ∈ (takenAt s h mb k).upHubs := Block.mem_upHubs.mpr ⟨low, (congrFun (takenAt_hubUp s h k mb) g).trans up⟩
      refine (ans.hubPart g (·.regs.fw)).trans ((Block.setFws_fw ((takenAt s h mb k).inHandover (m.at 16 1)) _ _ (takenAt_quiet acc) (fun i mem => ?_) g).trans (if_pos member))
      exact Block.there_of_hubUp (b := takenAt s h mb k) (Block.mem_upHubs.mp mem).2
  · have answer := msgRecalibrate_marks s.store (takenAt s h mb k) m some_ up
    have rest := Block.onChans_eq (takenAt s h mb k) ((takenAt s h mb k).recalChans m) fun x => { x with recalAge := 1 }
    have named := Block.recalChans_die (takenAt s h mb k) m
    refine runs_pending_kept msgRecalibrate rfl acc answer (.of_hubs (congrArg (·.hubs) rest)) (.of_wr (congrArg (·.wr) rest)) fun t ans =>
      ⟨ans.pending, ans.store.trans (congrArg (fun c => s.store.apply c.wr) rest), fun c mem => ?_, fun q other => ?_⟩
    · refine (congrArg Chan.recalAge (ans.part (·.chan c))).trans ?_
      exact Block.chan_onChans (takenAt s h mb k) _ (fun x => { x with recalAge := 1 }) Chan.recalAge 1 (fun _ => rfl)
        (fun d mem => named d mem ▸ Block.there_of_dieUp (b := takenAt s h mb k) up) c (.inl mem)
    · exact (ans.part (·.die q)).trans (Block.onChans_die (takenAt s h mb k) _ _ q fun c mem => named c mem ▸ other.symm)

end Sys2Proof.Machine
end

section
/-!
SUPPORT. Events and interrupt causes while no hub has an interrupt address: only the event log and the causes change.
-/
namespace Sys2Proof.Machine
open Sys2Proof.Spec

/-- A hub but for its interrupt causes. -/
def Hub.unraised (x : Hub) : Hub := { x with regs := { x.regs with intStatus := 0 } }

/-- The engine's record but for the event log. -/
def Eng.untold (e : Eng) : Eng := { e with events := [], eseq := 0, heldEvents := [] }

/-- From b to c only interrupt causes were set and events recorded or held. -/
structure Told (b c : Block) : Prop where
  eq : c = { b with hubs := c.hubs, eng := c.eng }
  eng : c.eng.untold = b.eng.untold
  later : b.eng.eseq ≤ c.eng.eseq
  hubs : c.hubs.mapVal (fun _ => Hub.unraised) = b.hubs.mapVal fun _ => Hub.unraised

namespace Told

theorem refl (b : Block) : Told b b := ⟨rfl, rfl, le_rfl, rfl⟩

theorem trans {b c d : Block} (first : Told b c) (second : Told c d) : Told b d := by
  refine ⟨second.eq.trans ?_, second.eng.trans first.eng, first.later.trans second.later, second.hubs.trans first.hubs⟩
  rw [first.eq]

/-- A part of the block outside hubs and the engine's record. -/
theorem part {b c : Block} (told : Told b c) {α : Type} (p : Block → α)
    (keeps : ∀ (d : Block) hubs eng, p { d with hubs := hubs, eng := eng } = p d := by exact fun _ _ _ => rfl) : p c = p b :=
  (congrArg p told.eq).trans (keeps b _ _)

/-- A part of the engine's record outside the event log. -/
theorem engPart {b c : Block} (told : Told b c) {α : Type} (p : Eng → α) (keeps : ∀ e : Eng, p e.untold = p e := by exact fun _ => rfl) : p c.eng = p b.eng := by
  rw [← keeps c.eng, ← keeps b.eng, told.eng]

theorem hub {b c : Block} (told : Told b c) (g : Nat) : (c.hub g).unraised = (b.hub g).unraised := by
  have same := congrArg (fun t => Tbl.getD t g {}) told.hubs
  rwa [Tbl.getD_mapVal_apply c.hubs _ g {} rfl, Tbl.getD_mapVal_apply b.hubs _ g {} rfl] at same

theorem hubPart {b c : Block} (told : Told b c) (g : Nat) {α : Type} (p : Hub → α) (keeps : ∀ x : Hub, p x.unraised = p x := by exact fun _ => rfl) :
    p (c.hub g) = p (b.hub g) := by
  rw [← keeps (c.hub g), ← keeps (b.hub g), told.hub g]

theorem addr {b c : Block} (told : Told b c) : AddrKept b c := by
  intro g
  have same := congrArg (fun t => (Tbl.get? t g).map fun x : Hub => x.regs.msiAddr) told.hubs
  simp only [Tbl.get?_mapVal, Option.map_map] at same
  exact same

theorem quiet {b c : Block} (told : Told b c) (still : b.Quiet) : c.Quiet := told.addr.quiet still

theorem hubUp {b c : Block} (told : Told b c) : c.hubUp = b.hubUp := funext fun g => told.hubPart g (·.inService)

theorem upHubs {b c : Block} (told : Told b c) : c.upHubs = b.upHubs := by rw [Block.upHubs, told.hubUp, Block.upHubs]

theorem foldl {α : Type} {f : Block → α → Block} (step : ∀ b : Block, b.Quiet → ∀ a, Told b (f b a)) (as : List α) (b : Block) (still : b.Quiet) :
    Told b (as.foldl f b) := by
  induction as generalizing b with
  | nil => exact refl b
  | cons a as ih =>
    have first := step b still a
    exact first.trans (ih _ (first.quiet still))

theorem raise (b : Block) (h cause : Nat) (still : (b.hub h).regs.msiAddr = 0) : Told b (b.raise h cause) := by
  rw [b.raise_quiet h cause still]
  exact ⟨rfl, rfl, le_rfl, Tbl.mapVal_modify b.hubs h _ _ fun _ => rfl⟩

theorem raiseAll (b : Block) (cause : Nat) (still : b.Quiet) : Told b (b.raiseAll cause) :=
  foldl (fun b still h => raise b h cause (still h)) _ b still

theorem logRecord (b : Block) (r : BitVec 256) : Told b (b.logRecord r) := by
  unfold Block.logRecord
  refine ⟨rfl, ?_, ?_, rfl⟩
  · rw [Block.onEng_eng]
    split <;> simp only [Eng.untold]
  · rw [Block.onEng_eng]
    split
    · exact le_rfl
    · exact Nat.le_succ _

theorem report (b : Block) (r : BitVec 256) (still : b.Quiet) : Told b (b.report r) := by
  unfold Block.report
  split
  · exact logRecord b r
  · exact (logRecord b r).trans (raiseAll _ _ ((logRecord b r).quiet still))

theorem event (b : Block) (hub kind : Nat) (job : Option Nat) (payload : Nat) (still : b.Quiet) : Told b (b.event hub kind job payload) := report b _ still

end Told

/-- Raising causes records no event. -/
theorem Block.raise_eng (b : Block) (h cause : Nat) (still : (b.hub h).regs.msiAddr = 0) : (b.raise h cause).eng = b.eng := by
  rw [b.raise_quiet h cause still]
  rfl

theorem Block.raiseAll_eng (b : Block) (cause : Nat) (still : b.Quiet) : (b.raiseAll cause).eng = b.eng := by
  have each : ∀ (hs : List Nat) (b : Block), b.Quiet → (hs.foldl (fun b h => b.raise h cause) b).eng = b.eng := by
    intro hs
    induction hs with
    | nil => exact fun _ _ => rfl
    | cons h hs ih =>
      intro b still
      exact (ih _ ((Told.raise b h cause (still h)).quiet still)).trans (b.raise_eng h cause (still h))
  exact each _ b still

/-- A report is a record of the log. -/
theorem Block.report_eng (b : Block) (r : BitVec 256) (still : b.Quiet) : (b.report r).eng = (b.logRecord r).eng := by
  unfold Block.report
  split
  · rfl
  · exact Block.raiseAll_eng _ _ ((Told.logRecord b r).quiet still)

/-- An event that is not held takes the next number. -/
theorem Block.event_eseq (b : Block) (hub kind : Nat) (job : Option Nat) (payload : Nat) (still : b.Quiet) (logs : b.eng.passing = false) :
    (b.event hub kind job payload).eng.eseq = b.eng.eseq + 1 := by
  rw [Block.event, b.report_eng _ still, Block.logRecord, Block.onEng_eng, logs]
  rfl

/-- The events held are reported, and leadership passes no more. -/
theorem Block.endPassing_told (b : Block) (still : b.Quiet) : Told (b.onEng fun e => { e with passing := false, heldEvents := [] }) b.endPassing :=
  Told.foldl (fun b still r => Told.report b r still) _ _ still

/-! ### What leaves jobs, tables, programs, rings and slots -/

/-- Jobs, tables, programs, rings and slots in flight are the same, and the numbers of events have only grown. -/
structure Shelved (b c : Block) : Prop where
  jobs : c.jobs = b.jobs
  tables : c.tables = b.tables
  progs : c.progs = b.progs
  rings : c.rings = b.rings
  works : c.works = b.works
  later : b.eng.eseq ≤ c.eng.eseq

namespace Shelved

theorem refl (b : Block) : Shelved b b := ⟨rfl, rfl, rfl, rfl, rfl, le_rfl⟩

theorem trans {b c d : Block} (first : Shelved b c) (second : Shelved c d) : Shelved b d :=
  ⟨second.jobs.trans first.jobs, second.tables.trans first.tables, second.progs.trans first.progs, second.rings.trans first.rings,
    second.works.trans first.works, first.later.trans second.later⟩

theorem foldl {α : Type} {f : Block → α → Block} (step : ∀ b a, Shelved b (f b a)) (as : List α) (b : Block) : Shelved b (as.foldl f b) := by
  induction as generalizing b with
  | nil => exact refl b
  | cons a as ih => exact (step b a).trans (ih (f b a))

theorem msiWrite (b : Block) (h : Nat) : Shelved b (b.msiWrite h) := by
  unfold Block.msiWrite
  dsimp only
  repeat' split
  all_goals exact ⟨rfl, rfl, rfl, rfl, rfl, le_rfl⟩

theorem raise (b : Block) (h cause : Nat) : Shelved b (b.raise h cause) := by
  have marked : Shelved b (b.onRegs h fun r => { r with intStatus := r.intStatus ||| BitVec.ofNat 64 (2 ^ cause) }) := ⟨rfl, rfl, rfl, rfl, rfl, le_rfl⟩
  unfold Block.raise
  dsimp only
  split
  · exact marked.trans (msiWrite _ h)
  · exact marked

theorem raiseAll (b : Block) (cause : Nat) : Shelved b (b.raiseAll cause) := foldl (fun b h => raise b h cause) _ b

theorem report (b : Block) (r : BitVec 256) : Shelved b (b.report r) := by
  have logged : Shelved b (b.logRecord r) := ⟨rfl, rfl, rfl, rfl, rfl, (Told.logRecord b r).later⟩
  unfold Block.report
  split
  · exact logged
  · exact logged.trans (raiseAll _ _)

theorem event (b : Block) (hub kind : Nat) (job : Option Nat) (payload : Nat) : Shelved b (b.event hub kind job payload) := report b _

theorem lostWrite (b : Block) (hub granule stack source : Nat) : Shelved b (b.lostWrite hub granule stack source) :=
  Shelved.trans (b := b) (c := b.sample 0x10 stack 0) ⟨rfl, rfl, rfl, rfl, rfl, le_rfl⟩ (event _ _ _ _ _)

theorem request (b : Block) (ch : Nat) (rt : Bool) (q : Req) : Shelved b (b.request ch rt q) := by
  unfold Block.request
  split <;> exact ⟨rfl, rfl, rfl, rfl, rfl, le_rfl⟩

theorem requestAtoms (b : Block) (rt : Bool) (q : Req) (atoms : List Nat) : Shelved b (b.requestAtoms rt q atoms) :=
  foldl (fun b (x : Nat × Nat × Nat) => request b x.1 rt { q with row := x.2.1, atoms := x.2.2 }) _ b

theorem passTags (b : Block) (ch row : Nat) (zero : Bool) : Shelved b (b.passTags ch row zero) := by
  have slice : ∀ (b : Block) s f, Shelved b (b.onGroupSlice s f) := by
    intro b s f
    unfold Block.onGroupSlice
    split <;> exact ⟨rfl, rfl, rfl, rfl, rfl, le_rfl⟩
  exact (slice b (ch / 64) _).trans ⟨rfl, rfl, rfl, rfl, rfl, le_rfl⟩

theorem drainOne (b : Block) (s : Nat) : Shelved b (b.drainOne s).1 := by
  unfold Block.drainOne
  split
  · exact refl b
  · rename_i e es _
    have taken : Shelved b (b.onDie s fun d => { d with wcb := es }) := ⟨rfl, rfl, rfl, rfl, rfl, le_rfl⟩
    dsimp only
    split
    · exact taken.trans (requestAtoms _ _ _ _)
    · split
      · exact refl b
      · exact ((taken.trans (requestAtoms _ _ _ _)).trans (requestAtoms _ _ _ _)).trans ⟨rfl, rfl, rfl, rfl, rfl, le_rfl⟩

theorem drainFor (b : Block) (s n fuel : Nat) : Shelved b (b.drainFor s n fuel) := by
  induction fuel generalizing b with
  | zero => exact refl b
  | succ fuel ih =>
    unfold Block.drainFor
    split
    · exact refl b
    · have one : Shelved b (b.drainOne s).1 := drainOne b s
      split
      · rename_i drained
        rw [drained] at one
        exact one.trans (ih _)
      · exact refl b

theorem wrMem (b : Block) (hub pa : Nat) (data : List Byte) (source cls : Nat) : Shelved b (b.wrMem hub pa data source cls) := by
  refine foldl (fun b x => ?_) _ b
  obtain ⟨a, off, n⟩ := x
  dsimp only
  split
  · exact refl b
  · split
    · exact lostWrite b _ _ _ _
    · have pushed : Shelved b (b.push (.mem a ((data.drop off).take n))) := ⟨rfl, rfl, rfl, rfl, rfl, le_rfl⟩
      refine (pushed.trans ?_).trans (passTags _ _ _ _)
      exact (drainFor _ _ _ _).trans ⟨rfl, rfl, rfl, rfl, rfl, le_rfl⟩

end Shelved

end Sys2Proof.Machine
end

section
/-! O30: the end of a handover that lasts too long, and fatal causes. -/
namespace Sys2Proof.Machine
open Sys2Proof.Spec

theorem AddrKept.reply (b : Block) (m : Msg) (len rstate status detail ans body : Nat) : AddrKept b (b.reply m len rstate status detail ans body) := by
  have paired : ∀ f, AddrKept b (b.onPair m.hub m.key f) := fun f => .of_modify m.hub (fun x => { x with pairs := x.pairs.put m.key (f (x.pairs.getD m.key {})) }) rfl fun _ => rfl
  unfold Block.reply
  dsimp only
  split
  · exact paired _
  · split
    · exact (paired _).trans (.of_touch (Touch.raise (P := fun _ => True) _ _ _))
    · exact (paired _).trans (.of_modify m.hub _ rfl fun x => by split <;> rfl)

/-- An answer to a posted message of an undefined CODE changes the mailbox of its hub. -/
theorem Block.answerUnknown_only (b : Block) (h key : Nat) (still : b.Quiet) :
    HubsOnly b (b.answerUnknown h key) ∧ ∀ g, ((b.answerUnknown h key).hub g).unmailed = (b.hub g).unmailed := by
  unfold Block.answerUnknown
  dsimp only
  split
  · exact ⟨.refl b, fun _ => rfl⟩
  · generalize ({ hub := h, key := key, pm := (b.pair h key).pm, x := (copyOf (b.pair h key).req).toNat } : Msg) = m
    generalize (fun p : Pair => { p with st := PairState.taken, copy := copyOf (b.pair h key).req }) = f
    have copied : HubsOnly b (b.onPair h key f) := .onHub b h _ fun _ => rfl
    have quiet := (copied.addr.addr m.hub).trans (still m.hub)
    have mail : ∀ g, (((b.onPair h key f).reply m 16 2 (headerCheck (b.onPair h key f).eng m false) 0 h 0).hub g).unmailed = (b.hub g).unmailed := fun g =>
      ((b.onPair h key f).reply_hub m _ _ _ _ _ _ g).trans (b.hub_onHub_unmailed h g _ fun _ => rfl)
    exact ⟨copied.trans ⟨Block.reply_quiet _ m _ _ _ _ _ _ quiet, .reply _ _ _ _ _ _ _ _⟩, mail⟩

theorem Block.answerUnknowns_only (b : Block) (h : Nat) (still : b.Quiet) :
    HubsOnly b (b.answerUnknowns h) ∧ ∀ g, ((b.answerUnknowns h).hub g).unmailed = (b.hub g).unmailed := by
  have each : ∀ (ks : List Nat) (b : Block), b.Quiet → HubsOnly b (ks.foldl (fun b k => b.answerUnknown h k) b) ∧
      ∀ g, ((ks.foldl (fun b k => b.answerUnknown h k) b).hub g).unmailed = (b.hub g).unmailed := by
    intro ks
    induction ks with
    | nil => exact fun b _ => ⟨.refl b, fun _ => rfl⟩
    | cons k ks ih =>
      intro b still
      obtain ⟨only, mail⟩ := b.answerUnknown_only h k still
      obtain ⟨onlyRest, mailRest⟩ := ih _ (only.addr.quiet still)
      exact ⟨only.trans onlyRest, fun g => (mailRest g).trans (mail g)⟩
  exact each _ b still

/-- FWSTATE of each hub of a list is RUN, on a bank. -/
def Block.runOn (b : Block) (bank : Nat) (hs : List Nat) : Block := hs.foldl (fun b h => (b.onRegs h fun r => { r with bank := bank }).setFw h .run) b

theorem Block.runOn_only (b : Block) (bank : Nat) (hs : List Nat) (still : b.Quiet) : HubsOnly b (b.runOn bank hs) := by
  unfold Block.runOn
  induction hs generalizing b with
  | nil => exact .refl b
  | cons h hs ih =>
    have banked : HubsOnly b (b.onRegs h fun r => { r with bank := bank }) := .onHub b h _ fun _ => rfl
    have first := banked.trans (Block.setFw_quiet _ h .run ((banked.addr.addr h).trans (still h)))
    exact first.trans (ih _ (first.addr.quiet still))

theorem Block.runOn_regs (b : Block) (bank : Nat) (hs : List Nat) (still : b.Quiet) (there : ∀ h ∈ hs, ∃ y, b.hubs.get? h = some y) (g : Nat)
    (due : g ∈ hs ∨ b.fw g = .run ∧ (b.hub g).regs.bank = bank) : (b.runOn bank hs).fw g = .run ∧ ((b.runOn bank hs).hub g).regs.bank = bank := by
  unfold Block.runOn
  induction hs generalizing b with
  | nil => exact due.resolve_left List.not_mem_nil
  | cons h hs ih =>
    have banked : HubsOnly b (b.onRegs h fun r => { r with bank := bank }) := .onHub b h _ fun _ => rfl
    have first := banked.trans (Block.setFw_quiet _ h .run ((banked.addr.addr h).trans (still h)))
    have stands := there h List.mem_cons_self
    refine ih _ (first.addr.quiet still) (fun i mem => first.addr.there (there i (List.mem_cons_of_mem _ mem))) ?_
    have bankAt : (((b.onRegs h fun r => { r with bank := bank }).setFw h .run).hub g).regs.bank = ((b.onRegs h fun r => { r with bank := bank }).hub g).regs.bank :=
      Hub.of_unstated (Block.setFw_hub _ h g .run) (·.regs.bank)
    rw [Block.setFw_fw _ h g .run (banked.addr.there stands), bankAt]
    obtain rfl | other := eq_or_ne g h
    · obtain ⟨y, found⟩ := stands
      exact .inr ⟨if_pos rfl, congrArg (·.regs.bank) (b.hub_onHub_same g _ y found)⟩
    · refine (due.imp_left fun mem => (List.mem_cons.mp mem).resolve_left other).imp_right fun both => ?_
      rw [if_neg other, Block.fw, Block.onRegs, b.hub_onHub_other h g _ other]
      exact both

/-- The end of a handover, on hubs without interrupt address (R430). -/
theorem Block.endHandover_runs (b : Block) (bank : Nat) (still : b.Quiet) :
    HubsOnly (b.onEng fun e => { e with handover := none }) (b.endHandover bank) ∧
      ∀ g, g < 4 → b.hubUp g = true → (b.endHandover bank).fw g = .run ∧ ((b.endHandover bank).hub g).regs.bank = bank := by
  have only := Block.runOn_only (b.onEng fun e => { e with handover := none }) bank b.upHubs still
  have each : ∀ (hs : List Nat) (b : Block), b.Quiet → HubsOnly b (hs.foldl Block.answerUnknowns b) ∧
      ∀ g, ((hs.foldl Block.answerUnknowns b).hub g).unmailed = (b.hub g).unmailed := by
    intro hs
    induction hs with
    | nil => exact fun b _ => ⟨.refl b, fun _ => rfl⟩
    | cons h hs ih =>
      intro b still
      obtain ⟨only, mail⟩ := b.answerUnknowns_only h still
      obtain ⟨onlyRest, mailRest⟩ := ih _ (only.addr.quiet still)
      exact ⟨only.trans onlyRest, fun g => (mailRest g).trans (mail g)⟩
  obtain ⟨onlyRest, mail⟩ := each ((b.onEng fun e => { e with handover := none }).runOn bank b.upHubs).upHubs _ (only.addr.quiet still)
  refine ⟨only.trans onlyRest, fun g low up => ?_⟩
  obtain ⟨run, own⟩ := Block.runOn_regs (b.onEng fun e => { e with handover := none }) bank b.upHubs still
    (fun i mem => Block.there_of_hubUp (b := b) (Block.mem_upHubs.mp mem).2) g (.inl (Block.mem_upHubs.mpr ⟨low, up⟩))
  exact ⟨(Hub.of_unmailed (·.regs.fw) (mail g) fun _ => rfl).trans run, (Hub.of_unmailed (·.regs.bank) (mail g) fun _ => rfl).trans own⟩

/-- From b to c what a dump keeps: rings and tables, FWSTATE, the twin's state, and that no interrupt write is made. -/
structure Dumped (b c : Block) : Prop where
  shelved : Shelved b c
  fw : ∀ g, c.fw g = b.fw g
  twin : c.eng.twin = b.eng.twin
  addr : AddrKept b c
  silent : b.Quiet → Silent b → Silent c

namespace Dumped

theorem refl (b : Block) : Dumped b b := ⟨.refl b, fun _ => rfl, rfl, .of_hubs rfl, fun _ silent => silent⟩

theorem trans {b c d : Block} (first : Dumped b c) (second : Dumped c d) : Dumped b d :=
  ⟨first.shelved.trans second.shelved, fun g => (second.fw g).trans (first.fw g), second.twin.trans first.twin, first.addr.trans second.addr,
    fun still silent => second.silent (first.addr.quiet still) (first.silent still silent)⟩

theorem foldl {α : Type} {f : Block → α → Block} (step : ∀ b a, Dumped b (f b a)) (as : List α) (b : Block) : Dumped b (as.foldl f b) := by
  induction as generalizing b with
  | nil => exact refl b
  | cons a as ih => exact (step b a).trans (ih (f b a))

theorem of_touch {b c : Block} (touch : Touch Wr.plain b c) (shelved : Shelved b c) : Dumped b c :=
  ⟨shelved, fun g => touch.hub g (·.regs.fw), touch.part (·.eng.twin), .of_touch touch, fun still silent => touch.silent_plain still silent⟩

theorem wrMem (b : Block) (hub pa : Nat) (data : List Byte) (source cls : Nat) : Dumped b (b.wrMem hub pa data source cls) :=
  .of_touch ((Touch.wrMem b hub pa data source cls).mono fun _ => Wr.inside_plain) (.wrMem b hub pa data source cls)

theorem raiseAll (b : Block) (cause : Nat) : Dumped b (b.raiseAll cause) := .of_touch (Touch.foldl _ (fun b h _ => Touch.raise b h cause) b) (.raiseAll b cause)

theorem dumpWrite (b : Block) (hub off : Nat) (data : List Byte) : Dumped b (b.dumpWrite hub off data) := by
  unfold Block.dumpWrite
  dsimp only
  refine Dumped.trans ?_ (foldl (f := fun b (x : List Byte × Nat) => b.wrMem hub x.2 x.1 1) (fun b x => wrMem b hub x.2 x.1 1 1) _ _)
  split
  · exact wrMem b _ _ _ _ _
  · exact refl b

theorem freeBytes (b : Block) : Dumped b b.freeBytes.2 := ⟨⟨rfl, rfl, rfl, rfl, rfl, le_rfl⟩, fun _ => rfl, rfl, .of_hubs rfl, fun _ silent => silent⟩

theorem placeSections (space : Nat) (ss : List Section) (off : Nat) (fits : Bool) (b : Block) : Dumped b (placeSections space ss off fits b).2.2.2 := by
  induction ss generalizing off fits b with
  | nil => exact refl b
  | cons s ss ih =>
    unfold Machine.placeSections
    split
    · exact ih off false b
    · cases s.bytes with
      | some bs =>
        dsimp only
        split
        · exact ih _ _ b
        · exact ih _ _ b
      | none =>
        dsimp only
        split
        · exact (freeBytes b).trans (ih _ _ _)
        · exact (freeBytes b).trans (ih _ _ _)

theorem onEng (b : Block) (f : Eng → Eng) (twin : ∀ e, (f e).twin = e.twin) (eseq : ∀ e, (f e).eseq = e.eseq) : Dumped b (b.onEng f) :=
  ⟨⟨rfl, rfl, rfl, rfl, rfl, (eseq b.eng).ge⟩, fun _ => rfl, twin b.eng, .of_hubs rfl, fun _ silent => silent⟩

theorem writeDump (b : Block) (cause feseq : Nat) : Dumped b (b.writeDump cause feseq) := by
  rw [Block.writeDump]
  have head := dumpWrite b b.eng.leader 0 (b.dumpHeader cause 1 0 feseq 0)
  generalize b.dumpWrite b.eng.leader 0 (b.dumpHeader cause 1 0 feseq 0) = c at head ⊢
  have placed := head.trans (placeSections (65536 * (b.eng.dump.pages - b.eng.dump.svcPages)) b.sections (roundUp (4096 + 32 * b.sections.length) 4096) true c)
  generalize Machine.placeSections (65536 * (b.eng.dump.pages - b.eng.dump.svcPages)) b.sections (roundUp (4096 + 32 * b.sections.length) 4096) true c = r
    at placed ⊢
  obtain ⟨ws, dir, all, d⟩ := r
  dsimp only at placed ⊢
  have filled := placed.trans (foldl (f := fun c (x : Nat × List Byte) => c.dumpWrite b.eng.leader x.1 x.2) (fun c x => dumpWrite c _ x.1 x.2) ws d)
  refine Dumped.trans ?_ (raiseAll _ _)
  refine Dumped.trans ?_ (onEng _ _ (fun _ => rfl) fun _ => rfl)
  exact Dumped.trans (filled.trans (dumpWrite _ _ 4096 _)) (dumpWrite _ _ _ _)

end Dumped

/-- A hub but for what it has sent through its Telemark link. -/
def Hub.unsent (x : Hub) : Hub := { x with fseq := 0, lastSent := 0 }

/-- From b to c only frames were sent. -/
structure Sent (b c : Block) : Prop where
  eq : c = { b with hubs := c.hubs, outbox := c.outbox }
  hubs : c.hubs.mapVal (fun _ => Hub.unsent) = b.hubs.mapVal fun _ => Hub.unsent

namespace Sent

theorem refl (b : Block) : Sent b b := ⟨rfl, rfl⟩

theorem trans {b c d : Block} (first : Sent b c) (second : Sent c d) : Sent b d := by
  refine ⟨second.eq.trans ?_, second.hubs.trans first.hubs⟩
  rw [first.eq]

theorem foldl {α : Type} {f : Block → α → Block} (step : ∀ b a, Sent b (f b a)) (as : List α) (b : Block) : Sent b (as.foldl f b) := by
  induction as generalizing b with
  | nil => exact refl b
  | cons a as ih => exact (step b a).trans (ih (f b a))

/-- A part of the block outside hubs and what was sent. -/
theorem part {b c : Block} (sent : Sent b c) {α : Type} (p : Block → α)
    (keeps : ∀ (d : Block) hubs outbox, p { d with hubs := hubs, outbox := outbox } = p d := by exact fun _ _ _ => rfl) : p c = p b :=
  (congrArg p sent.eq).trans (keeps b _ _)

theorem hubPart {b c : Block} (sent : Sent b c) (g : Nat) {α : Type} (p : Hub → α) (keeps : ∀ x : Hub, p x.unsent = p x := by exact fun _ => rfl) :
    p (c.hub g) = p (b.hub g) := by
  have same := congrArg (fun t => Tbl.getD t g {}) sent.hubs
  rw [Tbl.getD_mapVal_apply c.hubs _ g {} rfl, Tbl.getD_mapVal_apply b.hubs _ g {} rfl] at same
  rw [← keeps (c.hub g), ← keeps (b.hub g), Block.hub, Block.hub, same]

theorem addr {b c : Block} (sent : Sent b c) : AddrKept b c := by
  intro g
  have same := congrArg (fun t => (Tbl.get? t g).map fun x : Hub => x.regs.msiAddr) sent.hubs
  simp only [Tbl.get?_mapVal, Option.map_map] at same
  exact same

theorem sendOn (b : Block) (link shub dhub : Nat) (f : TFrame) : Sent b (b.sendOn link shub dhub f) :=
  ⟨rfl, Tbl.mapVal_modify b.hubs link _ _ fun _ => rfl⟩

theorem sendFrame (b : Block) (shub dhub : Nat) (f : TFrame) : Sent b (b.sendFrame shub dhub f) := by
  unfold Block.sendFrame
  split
  · exact sendOn b _ _ _ _
  · exact refl b

theorem sendAll (b : Block) (f : TFrame) : Sent b (b.sendAll f) := foldl (fun b l => sendOn b l l l f) _ b

end Sent

/-- A fatal cause but for the dump: the event, FWSTATE of every hub in service, and the end of the twin (R412, R413). -/
def Block.fatalHubs (b : Block) (h cause : Nat) : Block :=
  (b.endPassing.event h 0x15 none (pack [(0, 4, cause), (4, 2, h)])).setFws .fatal (b.endPassing.event h 0x15 none (pack [(0, 4, cause), (4, 2, h)])).upHubs

/-- The twin ends unless it is unpaired or runs solo already. -/
def Block.twinEnds (b : Block) : Block :=
  if b.eng.twin.state == .unpaired || b.eng.twin.state == .solo then b else (b.sendAll (.unpair 2)).onTwin fun t => { t with state := .solo }

theorem fatal_acts (h cause : Nat) (b : Block) (up : b.hubUp h = true) (alive : b.fatal = false) (low : 1 ≤ cause) (high : cause ≤ 2) :
    ∃ c, (b.fatalHubs h cause).twinEnds = c ∧ (fatal h cause b = c ∨ c.eng.dump.armed = true ∧ Dumped c (fatal h cause b)) := by
  refine ⟨_, rfl, ?_⟩
  have acts : fatal h cause b = if (b.fatalHubs h cause).twinEnds.eng.dump.armed && !(b.fatalHubs h cause).twinEnds.eng.dump.ready then
      (b.fatalHubs h cause).twinEnds.writeDump cause (b.endPassing.event h 0x15 none (pack [(0, 4, cause), (4, 2, h)])).eng.eseq
      else (b.fatalHubs h cause).twinEnds := by
    rw [fatal, if_neg (by simp [up, alive]; omega)]
    rfl
  rw [acts]
  split
  · rename_i armed
    rw [Bool.and_eq_true] at armed
    exact .inr ⟨armed.1, .writeDump _ _ _⟩
  · exact .inl rfl

theorem Tbl.mem_vals_of_get {α : Type} {t : Tbl α} {k : Nat} {v : α} (found : t.get? k = some v) : v ∈ t.vals := by
  induction t with
  | nil => cases found
  | cons e t ih =>
    obtain ⟨q, x⟩ := e
    rw [Tbl.get?] at found
    split at found
    · exact List.mem_cons.mpr (.inl (Option.some.inj found).symm)
    · split at found
      · cases found
      · exact List.mem_cons_of_mem _ (ih found)

/-- A hub whose FWSTATE is FATAL makes the engine fatal. -/
theorem Block.fatal_of_fw {b : Block} {h : Nat} (state : b.fw h = .fatal) : b.fatal = true := by
  obtain gone | ⟨x, found⟩ := (b.hubs.get? h).eq_none_or_eq_some
  · rw [Block.fw, Block.hub, Tbl.getD, gone] at state
    cases state
  · rw [Block.fw, b.hub_of_get h x found] at state
    exact List.any_eq_true.mpr ⟨x, Tbl.mem_vals_of_get found, beq_iff_eq.mpr state⟩

/-- A fatal cause at hubs without interrupt address, before any dump. -/
theorem fatalHubs_twinEnds (s : State) (h cause : Nat) (still : Quiet s) (c : Block) (ends : (s.start.fatalHubs h cause).twinEnds = c) :
    (∀ g, g < 4 → s.blk.hubUp g = true → c.fw g = .fatal) ∧ c.wr = [] ∧ s.blk.eng.eseq < c.eng.eseq ∧
      (s.blk.eng.twin.state ≠ .unpaired → c.eng.twin.state = .solo) ∧ c.eng.dump.armed = s.blk.eng.dump.armed ∧
      (c.rings = s.blk.rings ∧ c.tables = s.blk.tables) ∧ c.Quiet := by
  have passed := s.start.endPassing_told still
  have quiet := passed.quiet still
  have told := passed.trans (Told.event _ h 0x15 none (pack [(0, 4, cause), (4, 2, h)]) quiet)
  have numbered := Block.event_eseq s.start.endPassing h 0x15 none (pack [(0, 4, cause), (4, 2, h)]) quiet (passed.engPart (·.passing))
  have later : s.blk.eng.eseq ≤ s.start.endPassing.eng.eseq := passed.later
  have upHubs : (s.start.endPassing.event h 0x15 none (pack [(0, 4, cause), (4, 2, h)])).upHubs = s.blk.upHubs := told.upHubs
  have whole : s.start.fatalHubs h cause = (s.start.endPassing.event h 0x15 none (pack [(0, 4, cause), (4, 2, h)])).setFws .fatal s.blk.upHubs := by
    rw [Block.fatalHubs, upHubs]
  generalize s.start.endPassing.event h 0x15 none (pack [(0, 4, cause), (4, 2, h)]) = e at told numbered whole
  have only := e.setFws_quiet .fatal s.blk.upHubs (told.quiet still)
  have fatal : ∀ g, g < 4 → s.blk.hubUp g = true → (e.setFws .fatal s.blk.upHubs).fw g = .fatal := fun g low up =>
    (e.setFws_fw .fatal s.blk.upHubs (told.quiet still) (fun i mem => told.addr.there (Block.there_of_hubUp (b := s.blk) (Block.mem_upHubs.mp mem).2)) g).trans
      (if_pos (Block.mem_upHubs.mpr ⟨low, up⟩))
  rw [← whole] at only fatal
  have wr : (s.start.fatalHubs h cause).wr = [] := (only.part (·.wr)).trans (told.part (·.wr))
  have eseq : s.blk.eng.eseq < (s.start.fatalHubs h cause).eng.eseq := by
    rw [only.part (·.eng), numbered]
    omega
  have twin : (s.start.fatalHubs h cause).eng.twin = s.blk.eng.twin := (only.part (·.eng.twin)).trans (told.engPart (·.twin))
  have armed : (s.start.fatalHubs h cause).eng.dump.armed = s.blk.eng.dump.armed := (only.part (·.eng.dump.armed)).trans (told.engPart (·.dump.armed))
  have shelf : (s.start.fatalHubs h cause).rings = s.blk.rings ∧ (s.start.fatalHubs h cause).tables = s.blk.tables :=
    ⟨(only.part (·.rings)).trans (told.part (·.rings)), (only.part (·.tables)).trans (told.part (·.tables))⟩
  have quiet' := only.addr.quiet (told.quiet still)
  generalize s.start.fatalHubs h cause = d at *
  unfold Block.twinEnds at ends
  split at ends
  · rename_i alone
    rw [← ends]
    refine ⟨fatal, wr, eseq, fun paired => ?_, armed, shelf, quiet'⟩
    rw [twin] at alone ⊢
    simpa [paired] using alone
  · have sent := Sent.sendAll d (.unpair 2)
    rw [← ends]
    exact ⟨fun g low up => (sent.hubPart g (·.regs.fw)).trans (fatal g low up), (sent.part (·.wr)).trans wr, eseq.trans_eq (sent.part (·.eng.eseq)).symm,
      fun _ => rfl, (sent.part (·.eng.dump.armed)).trans armed, ⟨(sent.part (·.rings)).trans shelf.1, (sent.part (·.tables)).trans shelf.2⟩,
      sent.addr.quiet quiet'⟩

/-- Settles O30. -/
theorem handoverTimeoutAndFatalAct : Obligations.HandoverTimeoutAndFatalAct := by
  unfold Obligations.HandoverTimeoutAndFatalAct
  intro s still
  refine ⟨fun n since handover late alive => ?_, fun h cause low up alive some_ few => ?_⟩
  · obtain ⟨c, marked⟩ : ∃ c, c = s.start.onEng fun e =>
        { e with pend := e.pend.map fun p => if p.code == 0x00A2 && !p.behind then { p with aux := [p.aux.getD 0 0, 5] } else p } := ⟨_, rfl⟩
    have quiet : c.Quiet := marked ▸ still
    obtain ⟨ended, regs⟩ := c.endHandover_runs c.runBank quiet
    have told : Told (c.endHandover c.runBank) ((c.endHandover c.runBank).firmwareEvent c.runBank 2) :=
      .event _ _ _ _ _ (ended.addr.quiet quiet)
    have effect : handoverTimeout s.start = (c.endHandover c.runBank).firmwareEvent c.runBank 2 := by
      unfold handoverTimeout
      rw [show s.start.eng.handover = some (n, since) from handover]
      dsimp only
      rw [if_neg, marked]
      rw [Bool.or_eq_true, not_or, decide_eq_true_iff, not_lt]
      exact ⟨late, (Bool.not_eq_true _).mpr alive⟩
    have bank : c.runBank = s.blk.runBank := by rw [marked]; rfl
    refine Runs.of_effect (s := s) rfl _ effect ?_ ⟨rfl, ?_, ?_, ?_, fun h low up => ?_⟩
    · rw [told.part (·.wr), ended.part (·.wr), marked]
      rfl
    · exact (told.engPart (·.handover)).trans (ended.part (·.eng.handover))
    · exact (told.engPart (·.boot)).trans ((ended.part (·.eng.boot)).trans (by rw [marked]; rfl))
    · exact (told.engPart (·.fwver)).trans ((ended.part (·.eng.fwver)).trans (by rw [marked]; rfl))
    · obtain ⟨run, own⟩ := regs h low (by rw [marked]; exact up)
      exact ⟨(told.hubPart h (·.regs.fw)).trans run, (told.hubPart h (·.regs.bank)).trans (own.trans bank)⟩
  · obtain ⟨c, ends, dumps⟩ := fatal_acts h cause s.start up alive some_ few
    obtain ⟨fw, silent, eseq, twin, armed, shelf, quiet⟩ := fatalHubs_twinEnds s h cause still c ends
    have reached : ∀ d, Dumped c d → s.blk.eng.eseq < d.eng.eseq ∧ (∀ g, g < 4 → s.blk.hubUp g = true → d.fw g = .fatal) ∧
        (s.blk.eng.twin.state ≠ .unpaired → d.eng.twin.state = .solo) ∧ d.rings = s.blk.rings ∧ d.tables = s.blk.tables := fun d kept =>
      ⟨eseq.trans_le kept.shelved.later, fun g low up => (kept.fw g).trans (fw g low up), fun paired => (congrArg Twin.state kept.twin).trans (twin paired),
        kept.shelved.rings.trans shelf.1, kept.shelved.tables.trans shelf.2⟩
    obtain same | ⟨isArmed, kept⟩ := dumps
    · obtain ⟨later, fatal, solo, rings, tables⟩ := reached c (.refl c)
      exact Runs.of_effect (s := s) rfl _ same silent ⟨Block.fatal_of_fw (fatal h low up), fatal, later, solo, fun _ => rfl, rings, tables⟩
    · obtain ⟨later, fatal, solo, rings, tables⟩ := reached _ kept
      exact Runs.of_settle (s := s) rfl _ rfl (kept.silent quiet (.of_wr silent)) ⟨Block.fatal_of_fw (fatal h low up), fatal, later, solo,
        fun unarmed => absurd isArmed (by rw [armed, unarmed]; exact Bool.false_ne_true), rings, tables⟩

end Sys2Proof.Machine
end

section
/-!
SUPPORT. What firmware work of every kind leaves: the frame of the engine, of its hubs and of its row dies.
-/
namespace Sys2Proof.Machine
open Sys2Proof.Spec

/-- Of a hub: what is in service of it, its registers but for the interrupt causes, its test port and its identification. -/
def Hub.frame (x : Hub) : Hub :=
  { inService := x.inService, ringStop := x.ringStop, stewards := x.stewards, clusters := x.clusters, deadClusters := x.deadClusters, spares := x.spares
    tap := x.tap, dieId := x.dieId, regs := { x.regs with intStatus := 0 } }

/-- Of a row die: what is in service of it, and its identification. -/
def RowDie.frame (d : RowDie) : RowDie :=
  { st := d.st, active := d.active, failed := d.failed, ucieUp := d.ucieUp, clusters := d.clusters, deadClusters := d.deadClusters, spares := d.spares
    dieId := d.dieId }

/-- Of the engine's record: power and start, leadership, the layout and its change, the dump region, the host link. -/
def Eng.frame (e : Eng) : Eng :=
  { power := e.power, leader := e.leader, passing := e.passing, layout := e.layout, relayout := e.relayout, dump := e.dump, boot := e.boot, fwver := e.fwver
    staged := e.staged, handover := e.handover, almGen := e.almGen, host := e.host }

/-- From b to c the frames stand, and with no interrupt address no interrupt write is made. -/
structure Firm (b c : Block) : Prop where
  eng : c.eng.frame = b.eng.frame
  hubs : c.hubs.mapVal (fun _ => Hub.frame) = b.hubs.mapVal fun _ => Hub.frame
  dies : c.dies.mapVal (fun _ => RowDie.frame) = b.dies.mapVal fun _ => RowDie.frame
  silent : b.Quiet → Silent b → Silent c

theorem Tbl.mapVal_mapVal {α : Type} (t : Tbl α) (f g : α → α) : (t.mapVal fun _ => f).mapVal (fun _ => g) = t.mapVal fun _ x => g (f x) := by
  simp only [Tbl.mapVal, List.map_map]
  rfl

namespace Firm

variable {b c d : Block}

theorem refl (b : Block) : Firm b b := ⟨rfl, rfl, rfl, fun _ => id⟩

theorem hub (firm : Firm b c) (g : Nat) {α : Type} (p : Hub → α) (keeps : ∀ x : Hub, p x.frame = p x := by exact fun _ => rfl) : p (c.hub g) = p (b.hub g) := by
  have same := congrArg (fun t => Tbl.getD t g {}) firm.hubs
  rw [Tbl.getD_mapVal_apply c.hubs _ g {} rfl, Tbl.getD_mapVal_apply b.hubs _ g {} rfl] at same
  rw [← keeps (c.hub g), ← keeps (b.hub g), Block.hub, Block.hub, same]

theorem die (firm : Firm b c) (q : Nat) {α : Type} (p : RowDie → α) (keeps : ∀ x : RowDie, p x.frame = p x := by exact fun _ => rfl) :
    p (c.die q) = p (b.die q) := by
  have same := congrArg (fun t => Tbl.getD t q {}) firm.dies
  rw [Tbl.getD_mapVal_apply c.dies _ q {} rfl, Tbl.getD_mapVal_apply b.dies _ q {} rfl] at same
  rw [← keeps (c.die q), ← keeps (b.die q), Block.die, Block.die, same]

theorem engPart (firm : Firm b c) {α : Type} (p : Eng → α) (keeps : ∀ e : Eng, p e.frame = p e := by exact fun _ => rfl) : p c.eng = p b.eng := by
  rw [← keeps c.eng, ← keeps b.eng, firm.eng]

theorem addr (firm : Firm b c) : AddrKept b c := by
  intro g
  have same := congrArg (fun t => (Tbl.get? t g).map fun x : Hub => x.regs.msiAddr) firm.hubs
  simp only [Tbl.get?_mapVal, Option.map_map] at same
  exact same

theorem quiet (firm : Firm b c) (still : b.Quiet) : c.Quiet := firm.addr.quiet still

theorem dieThere (firm : Firm b c) {q : Nat} (there : b.dies.get? q ≠ none) : c.dies.get? q ≠ none := by
  have same := congrArg (fun t => (Tbl.get? t q).isSome) firm.dies
  simp only [Tbl.get?_mapVal, Option.isSome_map] at same
  rw [← Option.isSome_iff_ne_none] at there ⊢
  exact same.trans there

theorem hubUp (firm : Firm b c) : c.hubUp = b.hubUp := funext fun g => firm.hub g (·.inService)

theorem upHubs (firm : Firm b c) : c.upHubs = b.upHubs := by rw [Block.upHubs, firm.hubUp, Block.upHubs]

theorem trans (first : Firm b c) (second : Firm c d) : Firm b d :=
  ⟨second.eng.trans first.eng, second.hubs.trans first.hubs, second.dies.trans first.dies,
    fun still silent => second.silent (first.quiet still) (first.silent still silent)⟩

theorem foldl {α : Type} {f : Block → α → Block} (step : ∀ b a, Firm b (f b a)) (as : List α) (b : Block) : Firm b (as.foldl f b) := by
  induction as generalizing b with
  | nil => exact refl b
  | cons a as ih => exact (step b a).trans (ih (f b a))

theorem of_touch (touch : Touch Wr.plain b c) : Firm b c := by
  refine ⟨touch.part (·.eng.frame), ?_, ?_, fun still silent => touch.silent_plain still silent⟩
  · have same := congrArg (fun d : Block => d.hubs.mapVal fun _ => Hub.frame) touch.core
    simp only [Block.core, Tbl.mapVal_mapVal] at same
    exact same
  · have same := congrArg (fun d : Block => d.dies.mapVal fun _ => RowDie.frame) touch.core
    simp only [Block.core, Tbl.mapVal_mapVal] at same
    exact same

/-- A change of jobs, tables, programs, rings, slots or what was sent. -/
theorem of_same (eng : c.eng = b.eng) (hubs : c.hubs = b.hubs) (dies : c.dies = b.dies) (wr : c.wr = b.wr) : Firm b c :=
  ⟨by rw [eng], by rw [hubs], by rw [dies], fun _ silent => by unfold Silent; rwa [wr]⟩

theorem onEng (b : Block) (f : Eng → Eng) (keeps : (f b.eng).frame = b.eng.frame) : Firm b (b.onEng f) := ⟨keeps, rfl, rfl, fun _ => id⟩

theorem onHub (b : Block) (h : Nat) (f : Hub → Hub) (keeps : ∀ x, (f x).frame = x.frame) : Firm b (b.onHub h f) :=
  ⟨rfl, Tbl.mapVal_modify b.hubs h f _ keeps, rfl, fun _ => id⟩

theorem onSlice (b : Block) (h : Nat) (f : Slice → Slice) : Firm b (b.onSlice h f) := onHub b h _ fun _ => rfl

theorem onSched (b : Block) (h : Nat) (f : Sched → Sched) : Firm b (b.onSched h f) := onHub b h _ fun _ => rfl

theorem onDie (b : Block) (s : Nat) (f : RowDie → RowDie) (keeps : ∀ x, (f x).frame = x.frame) : Firm b (b.onDie s f) :=
  ⟨rfl, rfl, Tbl.mapVal_modify b.dies s f _ keeps, fun _ => id⟩

theorem onChan (b : Block) (ch : Nat) (f : Chan → Chan) : Firm b (b.onChan ch f) := onDie b (ch / 64) _ fun _ => rfl

theorem onShare (b : Block) (stack table : Nat) (f : Share → Share) : Firm b (b.onShare stack table f) := onDie b stack _ fun _ => rfl

theorem onTable (b : Block) (t : Nat) (f : TableSt → TableSt) : Firm b (b.onTable t f) := of_same rfl rfl rfl rfl

theorem onWork (b : Block) (r p : Nat) (f : Work → Work) : Firm b (b.onWork r p f) := of_same rfl rfl rfl rfl

/-- Every hub changed, and no frame. -/
theorem mapHubs (b : Block) (f : Nat → Hub → Hub) (keeps : ∀ q x, (f q x).frame = x.frame) : Firm b { b with hubs := b.hubs.mapVal f } := by
  refine ⟨rfl, ?_, rfl, fun _ => id⟩
  simp only [Tbl.mapVal, List.map_map]
  exact List.map_congr_left fun e _ => congrArg (Prod.mk e.1) (keeps e.1 e.2)

theorem mapDies (b : Block) (f : Nat → RowDie → RowDie) (keeps : ∀ q x, (f q x).frame = x.frame) : Firm b { b with dies := b.dies.mapVal f } := by
  refine ⟨rfl, rfl, ?_, fun _ => id⟩
  simp only [Tbl.mapVal, List.map_map]
  exact List.map_congr_left fun e _ => congrArg (Prod.mk e.1) (keeps e.1 e.2)

theorem mapBoth (b : Block) (f : Nat → RowDie → RowDie) (g : Nat → Hub → Hub) (dies : ∀ q x, (f q x).frame = x.frame) (hubs : ∀ q x, (g q x).frame = x.frame) :
    Firm b { b with dies := b.dies.mapVal f, hubs := b.hubs.mapVal g } :=
  (mapDies b f dies).trans (mapHubs { b with dies := b.dies.mapVal f } g hubs)

theorem push (b : Block) (w : Wr) (plain : w.plain) : Firm b (b.push w) := of_touch (Touch.push b w plain)

theorem event (b : Block) (hub kind : Nat) (job : Option Nat) (payload : Nat) : Firm b (b.event hub kind job payload) := of_touch (Touch.event b _ _ _ _)

theorem raise (b : Block) (h cause : Nat) : Firm b (b.raise h cause) := of_touch (Touch.raise b h cause)

theorem raiseAll (b : Block) (cause : Nat) : Firm b (b.raiseAll cause) := foldl (fun b h => raise b h cause) _ b

theorem wrMem (b : Block) (hub pa : Nat) (data : List Byte) (source cls : Nat) : Firm b (b.wrMem hub pa data source cls) :=
  of_touch ((Touch.wrMem b hub pa data source cls).mono fun _ => Wr.inside_plain)

theorem wrHost (b : Block) (port ha : Nat) (data : List Byte) : Firm b (b.wrHost port ha data) :=
  of_touch (Touch.wrHost b port ha data fun _ _ _ same => by cases same)

theorem onInProg (b : Block) (stack table : Nat) (f : InProg → InProg) : Firm b (b.onInProg stack table f) := onDie b stack _ fun _ => rfl

theorem onGroup (b : Block) (r p : Nat) (f : Work → Work) : Firm b (b.onGroup r p f) := of_same rfl rfl rfl rfl

theorem onGroupSlice (b : Block) (s : Nat) (f : Slice → Slice) : Firm b (b.onGroupSlice s f) := by
  unfold Block.onGroupSlice
  split
  · exact onSlice b _ f
  · exact refl b

/-! ### Row commits -/

theorem commitTags (b : Block) (q : Nat) (row : List (Nat × Nat)) (wrote : List (Nat × Nat × Bool)) : Firm b (b.commitTags q row wrote).1 := by
  unfold Block.commitTags
  split
  · exact refl b
  · dsimp only
    generalize buffered : b.onDie _ _ = c
    have firm : Firm b c := by
      rw [← buffered]
      exact onDie b _ _ fun _ => rfl
    have filled : ∀ h f, Firm b (c.onSlice h f) := fun h f => firm.trans (onSlice c h f)
    have cached : ∀ h f f', Firm b ((c.onSlice h f).onSlice h f') := fun h f f' => (filled h f).trans (onSlice _ h f')
    split
    · exact firm
    · split
      · dsimp only
        exact cached _ _ _
      · split
        · dsimp only
          exact cached _ _ _
        · split
          · split
            · dsimp only
              exact cached _ _ _
            · dsimp only
              exact filled _ _
          · dsimp only
            exact filled _ _

theorem wrCommit (b : Block) (hub part : Nat) (row : List (Nat × Nat)) (parts : List (Nat × Nat × Nat)) (img : List Byte) (cls : Nat) :
    Firm b (b.wrCommit hub part row parts img cls).1 := by
  have stored : ∀ (xs : List (Nat × Nat × Nat)) (b : Block) (wrote : List (Nat × Nat × Bool)), Firm b (xs.foldl (fun (b, wrote) (a, off, n) =>
      match b.locate a with
      | none => (b, wrote)
      | some (ch, r) =>
        if (b.chan ch).lost then (b.lostWrite hub (a / 256 * 256) (ch / 64) 1, wrote)
        else
          let piece := (img.drop off).take n
          ((b.push (.mem a piece)).wcbAccept (ch / 64) a n cls false, wrote ++ [(ch, r, zeroGranule piece)])) (b, wrote)).1 := by
    intro xs
    induction xs with
    | nil => exact fun b _ => refl b
    | cons x xs ih =>
      intro b wrote
      obtain ⟨a, off, n⟩ := x
      rw [List.foldl_cons]
      dsimp only
      split
      · exact ih b wrote
      · split
        · exact (of_touch (Touch.lostWrite b _ _ _ _)).trans (ih _ _)
        · exact ((push b _ fun _ _ _ same => by cases same).trans (of_touch (Touch.wcbAccept _ _ _ _ _ _))).trans (ih _ _)
  unfold Block.wrCommit
  dsimp only
  exact Firm.trans (stored _ b []) (commitTags _ _ _ _)

theorem neighbours (r : RowRef) (st : Store) (b b' : Block) : Firm b' (r.neighbours st b b') := by
  unfold RowRef.neighbours
  dsimp only
  split
  · exact refl b'
  · exact foldl (fun b _ => push b _ fun _ _ _ same => by cases same) _ b'

theorem commitRow (st : Store) (b : Block) (r : RowRef) (hub : Nat) (img : List Byte) (cls : Nat) : Firm b (Block.commitRow st b r hub img cls).1 :=
  ((push b _ fun _ _ _ same => by cases same).trans (neighbours r st b _)).trans (wrCommit _ _ _ _ _ _ _)

theorem passRow (b : Block) (stack table lrow : Nat) : Firm b (b.passRow stack table lrow) := (onInProg b _ _ _).trans (onShare _ _ _ _)

theorem consume (b : Block) (stack table lrow k : Nat) : Firm b (b.consume stack table lrow k) := by
  refine Firm.trans ?_ (passRow _ stack table lrow)
  refine Firm.trans ?_ (onShare _ stack table _)
  exact onDie b stack _ fun _ => rfl

theorem journal (b : Block) (td : TD) (stack lrow bseq : Nat) : Firm b (b.journal td stack lrow bseq) := by
  unfold Block.journal Block.journalAdd
  dsimp only
  split
  · exact refl b
  · split
    · exact refl b
    · split
      · exact onDie b stack _ fun _ => rfl
      · exact (onTable b _ _).trans (event _ _ _ _ _)

theorem dropEntry (b : Block) (h table : Nat) : Firm b (b.dropEntry h table) := (onTable b _ _).trans (event _ _ _ _ _)

theorem mismatch (b : Block) (table lrow bseq : Nat) : Firm b (b.mismatch table lrow bseq) := onEng b _ rfl

theorem ownEntry (b : Block) (h : Nat) (e : DigestEntry) : Firm b (b.ownEntry h e) := by
  unfold Block.ownEntry
  dsimp only
  split
  · split
    · exact onHub b h _ fun _ => rfl
    · refine Firm.trans ?_ (mismatch _ _ _ _)
      exact onHub b h _ fun _ => rfl
  · split
    · exact onHub b h _ fun _ => rfl
    · refine Firm.trans ?_ (dropEntry _ _ _)
      exact onHub b h _ fun _ => rfl

theorem committed (b : Block) (td : TD) (stack lrow bseq digest mdigest : Nat) : Firm b (b.committed td stack lrow bseq digest mdigest) := by
  refine (journal b td stack lrow bseq).trans ?_
  show Firm _ ((b.journal td stack lrow bseq).rowCommitted td stack lrow bseq digest mdigest)
  unfold Block.rowCommitted
  split
  · exact ownEntry _ _ _
  · exact refl _

theorem applyCommit (st : Store) (b : Block) (stack : Nat) (r : RowRef) (bseq : Nat) (h : RowHdr) (payload : List Byte) (inp : List Word) (m : Master)
    (aux rec_ : List Byte) (cls : Nat) : Firm b (Block.applyCommit st b stack r bseq h payload inp m aux rec_ cls).1 :=
  (((commitRow st b r _ _ cls).trans (consume _ _ _ _ _)).trans (onTable _ _ _)).trans (committed _ _ _ _ _ _ _)

theorem wrMaster (b : Block) (hub : Nat) (td : TD) (parts : List (Nat × Nat × Nat)) (rec_ : List Byte) : Firm b (b.wrMaster hub td parts rec_) :=
  foldl (f := fun b (x : Nat × Nat × Nat) => b.wrHost hub x.2.1 (((masterImage td rec_).drop x.1).take x.2.2)) (fun b _ => wrHost b _ _ _) parts b

/-! ### The end of slots -/

theorem freePages (b : Block) (rid lead : Nat) : Firm b (b.freePages rid lead) := by
  unfold Block.freePages
  split
  · exact refl b
  · exact onGroup b _ _ _

theorem closeSlot (b : Block) (rid p status pos : Nat) (counters : List Nat) : Firm b (b.closeSlot rid p status pos counters) :=
  ((onWork b rid p _).trans (freePages _ _ _)).trans (of_touch (Touch.dropWalks _ _ _))

theorem dropTasks (b : Block) (rid p : Nat) : Firm b (b.dropTasks rid p) :=
  mapBoth b _ _ (fun _ _ => rfl) fun _ _ => rfl

theorem endSlot (b : Block) (rid p status pos : Nat) (counters : List Nat) : Firm b (b.endSlot rid p status pos counters) :=
  (closeSlot b rid p status pos counters).trans (dropTasks _ _ _)

end Firm

end Sys2Proof.Machine
end

section
/-! O29: power, the orderly stop and start-up. -/
namespace Sys2Proof.Machine
open Sys2Proof.Spec

/-! ### Writes while no hub is in service -/

/-- No hub is in service. -/
def Block.Down (b : Block) : Prop := ∀ g, b.hubUp g = false

theorem Block.Down.upHubs {b : Block} (down : b.Down) : b.upHubs = [] := List.filter_eq_nil_iff.mpr fun g _ => by simp [down g]

theorem Block.Down.of_hubs {b c : Block} (down : b.Down) (same : c.hubs = b.hubs) : c.Down := fun g => by
  rw [Block.hubUp, Block.hub, same]
  exact down g

theorem Block.Down.event_hubs {b : Block} (down : b.Down) (hub kind : Nat) (job : Option Nat) (payload : Nat) : (b.event hub kind job payload).hubs = b.hubs := by
  unfold Block.event Block.report
  split
  · rfl
  · rw [Block.raiseAll, (down.of_hubs (c := b.logRecord _) rfl).upHubs]
    rfl

theorem Block.Down.foldl {α : Type} {f : Block → α → Block} (step : ∀ c : Block, c.Down → ∀ a, (f c a).hubs = c.hubs) (as : List α) {b : Block}
    (down : b.Down) : (as.foldl f b).hubs = b.hubs := by
  induction as generalizing b with
  | nil => rfl
  | cons a as ih => exact (ih (down.of_hubs (step b down a))).trans (step b down a)

theorem Block.Down.passTags_hubs {b : Block} (down : b.Down) (ch row : Nat) (zero : Bool) : (b.passTags ch row zero).hubs = b.hubs := by
  have none_ : ∀ f, b.onGroupSlice (ch / 64) f = b := fun f => by rw [Block.onGroupSlice, Block.sliceOf, down (ch / 64 / 3), if_neg Bool.false_ne_true]
  unfold Block.passTags
  dsimp only
  rw [none_]
  rfl

/-- A write to stack memory touches no hub then. -/
theorem Block.Down.wrMem_hubs {b : Block} (down : b.Down) (hub pa : Nat) (data : List Byte) (source cls : Nat) : (b.wrMem hub pa data source cls).hubs = b.hubs := by
  refine down.foldl (fun c down x => ?_) _
  obtain ⟨a, off, n⟩ := x
  dsimp only
  split
  · rfl
  · split
    · exact Block.Down.event_hubs (b := c.sample 0x10 _ 0) (down.of_hubs rfl) _ _ _ _
    · rename_i ch row _ _
      have accepted : ((c.push (.mem a ((data.drop off).take n))).wcbAccept (ch / 64) a n cls (decide (2 ≤ source))).hubs = c.hubs := Block.wcbAccept_hubs _ _ _ _ _ _
      exact ((down.of_hubs accepted).passTags_hubs _ _ _).trans accepted

/-- The interrupt writes at a command's end touch no hub then. -/
theorem Block.Down.interrupts_hubs {b : Block} (down : b.Down) (fuel : Nat) : (b.interrupts fuel).hubs = b.hubs := by
  induction fuel generalizing b with
  | zero => rfl
  | succ fuel ih =>
    have made : ∀ ws : List Wr, (ws.foldl Block.interrupt { b with wr := b.wr.filter fun | .intr _ _ _ => false | _ => true }).hubs = b.hubs := fun ws =>
      Block.Down.foldl (b := { b with wr := _ }) (fun c down w => by
        cases w with
        | intr h a d => exact down.wrMem_hubs h a d 2 1
        | _ => rfl) ws (down.of_hubs rfl)
    unfold Block.interrupts
    dsimp only
    split
    · rfl
    · exact (ih (down.of_hubs (made _))).trans (made _)

/-! ### The journals of an orderly stop -/

theorem Firm.finishJournal (st : Store) (s : Nat) (b : Block) (j : Journal) : Firm b (finishJournal st s b j) := by
  unfold Machine.finishJournal
  dsimp only
  split
  · exact (Firm.wrMaster b _ _ _ _).trans (Firm.applyCommit _ _ _ _ _ _ _ _ _ _ _ _)
  · refine Firm.trans ?_ (Firm.event _ _ _ _ _)
    exact .of_same rfl rfl rfl rfl

theorem Firm.finishJournals (st : Store) (b : Block) : Firm b (finishJournals st b) :=
  .foldl (f := fun b s => (b.die s).journals.foldl (Machine.finishJournal st s) b) (fun b s => .foldl (Firm.finishJournal st s) (b.die s).journals b) b.upDies b

theorem Firm.endPassing (b : Block) : Firm (b.onEng fun e => { e with passing := false, heldEvents := [] }) b.endPassing :=
  .foldl (fun b r => .of_touch (Touch.report b r)) _ _

/-- What an orderly stop goes through before everything is cleared. -/
def Block.finished (st : Store) (b : Block) : Block := if b.fatal then b else (Machine.finishJournals st b).endPassing

/-- What is left of a block that has stopped in order. -/
def Block.stopped (b : Block) : Block :=
  { b.cleared with
    eng := { b.cleared.eng with power := { b.eng.power with rstn := false, stopped := true }, layout := b.eng.layout, events := b.eng.events
                                eseq := b.eng.eseq, dump := b.eng.dump }
    dies := b.dies.mapVal fun _ d => d.stopped }

theorem orderlyStop_stops (st : Store) (b : Block) (power : b.eng.power.pwrgd = true) (reset : b.eng.power.rstn = true) (some_ : b.upHubs ≠ []) :
    orderlyStop st b = (b.finished st).stopped := by
  unfold orderlyStop
  rw [power, reset, if_neg (by simp), if_neg (by simpa using some_)]
  rfl

theorem Block.stopped_down (b : Block) : b.stopped.Down := fun g =>
  congrArg (·.inService) (Tbl.getD_mapVal_apply b.hubs (fun x => ({ tap := x.tap } : Hub)) g {} rfl)

theorem Block.stopped_hub (b : Block) (h : Nat) : b.stopped.hub h = { tap := (b.hub h).tap } :=
  Tbl.getD_mapVal_apply b.hubs (fun x => ({ tap := x.tap } : Hub)) h {} rfl

theorem Block.stopped_die (b : Block) (q : Nat) : b.stopped.die q = (b.die q).stopped := Tbl.getD_mapVal_apply b.dies RowDie.stopped q {} rfl

/-- Power, layout, dump region and test ports through the work before the stop. -/
theorem Block.finished_kept (st : Store) (b : Block) : (b.finished st).eng.power = b.eng.power ∧ (b.finished st).eng.layout = b.eng.layout ∧
    (b.finished st).eng.dump = b.eng.dump ∧ ∀ h, ((b.finished st).hub h).tap = (b.hub h).tap := by
  unfold Block.finished
  split
  · exact ⟨rfl, rfl, rfl, fun _ => rfl⟩
  · have journals := Firm.finishJournals st b
    have passed := Firm.endPassing (Machine.finishJournals st b)
    exact ⟨(passed.engPart (·.power)).trans (journals.engPart (·.power)), (passed.engPart (·.layout)).trans (journals.engPart (·.layout)),
      (passed.engPart (·.dump)).trans (journals.engPart (·.dump)), fun h => (passed.hub h (·.tap)).trans (journals.hub h (·.tap))⟩

/-! ### Start-up -/

/-- A hub's frame but for the Almanac generation that it shows. -/
def Hub.born (x : Hub) : Hub := { x.frame with regs := { x.frame.regs with almGen := 0 } }

/-- Power, leader, hubs and row dies as start-up makes them. -/
def Block.born (b : Block) : Block :=
  { eng := { power := b.eng.power, leader := b.eng.leader }
    hubs := b.hubs.mapVal fun _ => Hub.born
    dies := b.dies.mapVal fun _ => RowDie.frame }

theorem Block.born_hub (b : Block) (g : Nat) : b.born.hub g = (b.hub g).born := Tbl.getD_mapVal_apply b.hubs Hub.born g {} rfl

theorem Block.born_die (b : Block) (q : Nat) : b.born.die q = (b.die q).frame := Tbl.getD_mapVal_apply b.dies RowDie.frame q {} rfl

theorem Firm.born {b c : Block} (firm : Firm b c) : c.born = b.born := by
  have hubs : c.hubs.mapVal (fun _ => Hub.born) = b.hubs.mapVal fun _ => Hub.born := by
    have same := congrArg (fun t => t.mapVal fun _ => Hub.born) firm.hubs
    simp only [Tbl.mapVal_mapVal] at same
    exact same
  simp only [Block.born, firm.engPart (·.power), firm.engPart (·.leader), firm.dies, hubs]

theorem Block.born_onEng (b : Block) (f : Eng → Eng) (power : ∀ e, (f e).power = e.power) (leader : ∀ e, (f e).leader = e.leader) : (b.onEng f).born = b.born := by
  simp only [Block.born, Block.onEng_eng, Block.onEng_hubs, Block.onEng_dies, power, leader]

theorem Block.born_foldl {α : Type} {f : Block → α → Block} (step : ∀ b a, (f b a).born = b.born) (as : List α) (b : Block) : (as.foldl f b).born = b.born := by
  induction as generalizing b with
  | nil => rfl
  | cons a as ih => exact (ih (f b a)).trans (step b a)

theorem Block.born_onHub (b : Block) (h : Nat) (f : Hub → Hub) (keeps : ∀ x, (f x).born = x.born) : (b.onHub h f).born = b.born := by
  simp only [Block.born, Block.onHub, Tbl.mapVal_modify b.hubs h f Hub.born keeps]

theorem Block.born_publish (b : Block) : b.publish.born = b.born := by
  unfold Block.publish
  dsimp only
  rw [Block.born_foldl (f := fun c h => c.onRegs h fun r => { r with almGen := b.eng.almGen + 1 }) fun c h => c.born_onHub h _ fun _ => rfl]
  exact b.born_onEng _ (fun _ => rfl) fun _ => rfl

theorem Block.born_hardenStack (b : Block) (q : Nat) : (b.hardenStack q).born = b.born := by
  unfold Block.hardenStack
  dsimp only
  rw [Block.born_onEng]
  · exact Firm.born (Firm.onDie b q _ fun _ => rfl)
  · exact fun _ => rfl
  · exact fun _ => rfl

theorem Block.born_hardenAll (b : Block) (warm : Bool) : (b.hardenAll warm).born = b.born := by
  unfold Block.hardenAll
  split
  · exact Block.born_foldl Block.born_hardenStack _ b
  · dsimp only
    rw [Block.born_onEng]
    · exact Firm.born (Firm.mapDies b _ fun _ _ => rfl)
    · exact fun _ => rfl
    · exact fun _ => rfl

theorem Block.born_startLayout (b : Block) (warm : Bool) : (b.startLayout warm).born = b.born := by
  unfold Block.startLayout
  dsimp only
  split
  · exact b.born_onEng _ (fun _ => rfl) fun _ => rfl
  · split
    · rfl
    · refine (Block.born_foldl (fun b x => ?_) _ _).trans (b.born_onEng _ (fun _ => rfl) fun _ => rfl)
      exact ((Firm.push b _ fun _ _ _ same => by cases same).trans (.of_touch (Touch.lostWrite _ _ _ _ _))).born

theorem Firm.ledgerAdd (b : Block) (hub ch bank where_ kind state corrected : Nat) : Firm b (b.ledgerAdd hub ch bank where_ kind state corrected) :=
  (Firm.event b _ _ _ _).trans (.onDie _ _ _ fun d => by split <;> rfl)

theorem Block.born_laneRecords (b : Block) (rep : StartReport) : (b.laneRecords rep).born = b.born := by
  refine Block.born_foldl (fun b x => ?_) _ b
  dsimp only
  split
  · exact (Firm.ledgerAdd b _ _ _ _ _ _ _).born
  · rfl

/-- Start-up from step 6 on. -/
def Block.enterLayout (b : Block) (rep : StartReport) (warm : Bool) (n : Nat) (fb : Bool) : Block :=
  (if fb then ((b.hardenAll warm).startLayout warm).firmwareEvent n 0 else (b.hardenAll warm).startLayout warm).laneRecords rep

theorem Block.born_enterLayout (b : Block) (rep : StartReport) (warm : Bool) (n : Nat) (fb : Bool) : (b.enterLayout rep warm n fb).born = b.born := by
  refine (Block.born_laneRecords _ rep).trans ?_
  have laid := (Block.born_startLayout _ warm).trans (b.born_hardenAll warm)
  split
  · exact (Firm.event _ _ _ _ _).born.trans laid
  · exact laid

/-- The block as START_UP brings up hubs and row dies. -/
def Block.starting (b : Block) (rep : StartReport) (warm : Bool) (l : Nat) : Block :=
  { eng := { power := { b.eng.power with rstn := true, stopped := false }, leader := l }
    hubs := b.hubs.mapVal fun h x => startHub b.eng.boot rep h x
    dies := b.dies.mapVal fun q d => startDie b.eng.boot rep warm q d }

theorem Block.upHubs_of_born {b c : Block} (same : c.born = b.born) : c.upHubs = b.upHubs := by
  have up : c.hubUp = b.hubUp := by
    funext g
    have hub : (c.hub g).born = (b.hub g).born := by rw [← Block.born_hub, ← Block.born_hub, same]
    exact congrArg (·.inService) hub
  rw [Block.upHubs, Block.upHubs, up]

theorem startUp_born (rep : StartReport) (b : Block) (n : Nat) (fb : Bool) (power : b.eng.power.pwrgd = true) (reset : b.eng.power.rstn = false)
    (bank : startBank b.eng.boot rep = some (n, fb)) (warm : Bool) (isWarm : warm = (b.eng.power.stopped && b.dies.vals.any (·.warmMarker)))
    (up : List Nat) (ups : ({ b with hubs := b.hubs.mapVal fun h x => startHub b.eng.boot rep h x } : Block).upHubs = up) (some_ : up ≠ []) :
    ∃ c : Block, startUp rep b = c.setFws .run up ∧ c.born = (b.starting rep warm (up.headD 0)).born := by
  have ups' : ∀ (e : Eng) (wr : List Wr), ({ b with eng := e, wr := wr, hubs := b.hubs.mapVal fun h x => startHub b.eng.boot rep h x } : Block).upHubs = up :=
    fun _ _ => ups
  unfold startUp
  rw [power, reset, if_neg (by decide)]
  dsimp only
  rw [bank, ← isWarm, if_neg (by simpa [ups'] using some_)]
  dsimp only [Option.getD_some]
  have tail : ∀ z : Block, z.born = (b.starting rep warm (up.headD 0)).born → ∃ c : Block,
      (z.enterLayout rep warm n fb).upHubs.foldl (fun b h => b.setFw h .run) (z.enterLayout rep warm n fb).publish = c.setFws .run up ∧
        c.born = (b.starting rep warm (up.headD 0)).born := by
    intro z begun
    have reached := (z.born_enterLayout rep warm n fb).trans begun
    refine ⟨(z.enterLayout rep warm n fb).publish, ?_, (Block.born_publish _).trans reached⟩
    rw [Block.upHubs_of_born reached]
    exact congrArg (List.foldl _ _) ups
  refine tail _ ?_
  rw [← ups]
  cases warm <;> rfl

theorem Block.starting_hub (b : Block) (rep : StartReport) (warm : Bool) (l g : Nat) :
    (b.starting rep warm l).hub g = match b.hubs.get? g with | some x => startHub b.eng.boot rep g x | none => {} := by
  simp only [Block.hub, Tbl.getD, Block.starting, Tbl.get?_mapVal]
  cases b.hubs.get? g <;> rfl

/-- A hub that starts runs on the bank that starts; its interrupt address is reset either way. -/
theorem startHub_regs (boot : BootStore) (rep : StartReport) (g : Nat) (x : Hub) (n : Nat) (fb : Bool) (bank : startBank boot rep = some (n, fb)) :
    (startHub boot rep g x).regs.msiAddr = 0 ∧ ((startHub boot rep g x).inService = true ↔ bootFailOf boot rep g = 0) ∧
      (bootFailOf boot rep g = 0 → (startHub boot rep g x).regs.bank = n) := by
  unfold startHub
  rw [bank]
  dsimp only
  split
  · rename_i starts
    exact ⟨rfl, ⟨fun _ => starts, fun _ => rfl⟩, fun _ => rfl⟩
  · rename_i fails
    exact ⟨rfl, ⟨fun up => absurd up Bool.false_ne_true, fun starts => absurd starts fails⟩, fun starts => absurd starts fails⟩

/-- The least number below n that passes a test heads the list of those that do. -/
theorem headD_filter_range {n l : Nat} {p : Nat → Bool} (low : l < n) (holds : p l = true) (least : ∀ g, g < l → p g = false) :
    ((List.range n).filter p).headD 0 = l := by
  have found : (List.range n).find? p = some l :=
    List.find?_range_eq_some.mpr ⟨holds, List.mem_range.mpr low, fun g less => by simp [least g less]⟩
  rw [List.headD_eq_head?_getD, List.head?_filter, found]
  rfl

/-- A row die with a channel that starts is in service with those that do. -/
theorem startDie_starts (boot : BootStore) (rep : StartReport) (warm : Bool) (q : Nat) (d : RowDie) (sound : rep.stackFail.testBit q = false)
    (some_ : startActive rep warm q d.chans ≠ 0) :
    (startDie boot rep warm q d).st = 1 ∧ (startDie boot rep warm q d).active = startActive rep warm q d.chans := by
  unfold startDie
  dsimp only
  rw [sound, if_neg (by simpa using some_)]
  exact ⟨rfl, rfl⟩

/-- What the interrupt writes at a command's end leave. -/
theorem Block.interrupts_hub (b : Block) (fuel g : Nat) : ((b.interrupts fuel).hub g).core = (b.hub g).core := by
  rw [← Touch.hub_core, ← Touch.hub_core, b.interrupts_core]

theorem Block.interrupts_die (b : Block) (fuel q : Nat) : ((b.interrupts fuel).die q).core = (b.die q).core := by
  rw [← Touch.die_core, ← Touch.die_core, b.interrupts_core]

/-- START_UP with a bank that starts and a lowest hub that starts from it (R420 to R428). -/
theorem startUp_brings (rep : StartReport) (b : Block) (n l : Nat) (fb : Bool) (power : b.eng.power.pwrgd = true) (reset : b.eng.power.rstn = false)
    (bank : startBank b.eng.boot rep = some (n, fb)) (low : l < 4) (starts : b.hubs.get? l ≠ none ∧ bootFailOf b.eng.boot rep l = 0)
    (least : ∀ g, g < l → ¬(b.hubs.get? g ≠ none ∧ bootFailOf b.eng.boot rep g = 0)) (d : Block) (done : startUp rep b = d) :
    d.eng.power.rstn = true ∧ d.eng.leader = l ∧
      (∀ h, h < 4 → b.hubs.get? h ≠ none ∧ bootFailOf b.eng.boot rep h = 0 → d.hubUp h = true ∧ d.fw h = .run ∧ (d.hub h).regs.bank = n) ∧
      (∀ h, h < 4 → ¬(b.hubs.get? h ≠ none ∧ bootFailOf b.eng.boot rep h = 0) → d.hubUp h = false) ∧
      ∀ q, b.dies.get? q ≠ none → rep.stackFail.testBit q = false →
        let active := startActive rep (b.eng.power.stopped && b.dies.vals.any (·.warmMarker)) q (b.die q).chans
        active ≠ 0 → (d.die q).st = 1 ∧ (d.die q).active = active := by
  obtain ⟨warm, isWarm⟩ : ∃ warm, warm = (b.eng.power.stopped && b.dies.vals.any (·.warmMarker)) := ⟨_, rfl⟩
  obtain ⟨begun, isBegun⟩ : ∃ e, e = b.starting rep warm l := ⟨_, rfl⟩
  have hubAt : ∀ g, begun.hub g = match b.hubs.get? g with | some x => startHub b.eng.boot rep g x | none => {} := fun g =>
    isBegun ▸ b.starting_hub rep warm l g
  have regs : ∀ g, (begun.hub g).regs.msiAddr = 0 ∧ (begun.hubUp g = true ↔ b.hubs.get? g ≠ none ∧ bootFailOf b.eng.boot rep g = 0) ∧
      (begun.hubUp g = true → (begun.hub g).regs.bank = n) := by
    intro g
    rw [Block.hubUp, hubAt]
    obtain gone | ⟨x, found⟩ := (b.hubs.get? g).eq_none_or_eq_some
    · rw [gone]
      simp
    · rw [found]
      obtain ⟨addr, up, own⟩ := startHub_regs b.eng.boot rep g x n fb bank
      exact ⟨addr, by simpa using up, fun on => own (up.mp on)⟩
  have upHubs : ({ b with hubs := b.hubs.mapVal fun h x => startHub b.eng.boot rep h x } : Block).upHubs = begun.upHubs := by rw [isBegun]; rfl
  have leads : begun.upHubs.headD 0 = l :=
    headD_filter_range low ((regs l).2.1.mpr starts) fun g less => Bool.eq_false_iff.mpr fun up => least g less ((regs g).2.1.mp up)
  have some_ : begun.upHubs ≠ [] := List.ne_nil_of_mem (Block.mem_upHubs.mpr ⟨low, (regs l).2.1.mpr starts⟩)
  obtain ⟨c, effect, born⟩ := startUp_born rep b n fb power reset bank warm isWarm begun.upHubs upHubs some_
  rw [leads, ← isBegun] at born
  have hub : ∀ g, (c.hub g).born = (begun.hub g).born := fun g => by rw [← Block.born_hub, ← Block.born_hub, born]
  have die : ∀ q, (c.die q).frame = (begun.die q).frame := fun q => by rw [← Block.born_die, ← Block.born_die, born]
  have hubUp : ∀ g, c.hubUp g = begun.hubUp g := fun g => congrArg (·.inService) (hub g)
  have still : c.Quiet := fun g => (congrArg (·.regs.msiAddr) (hub g)).trans (regs g).1
  have only := c.setFws_quiet .run begun.upHubs still
  have unstated := c.setFws_hub .run begun.upHubs
  have fw := c.setFws_fw .run begun.upHubs still fun h mem => Block.there_of_hubUp ((hubUp h).trans (Block.mem_upHubs.mp mem).2)
  rw [← effect, done] at only unstated fw
  have upAfter : ∀ g, d.hubUp g = begun.hubUp g := fun g => (Hub.of_unstated (unstated g) (·.inService)).trans (hubUp g)
  refine ⟨?_, ?_, fun h small on => ?_, fun h small off => ?_, fun q there sound => ?_⟩
  · rw [only.part (·.eng.power.rstn)]
    exact (congrArg (·.eng.power.rstn) born).trans (by rw [isBegun])
  · rw [only.part (·.eng.leader)]
    exact (congrArg (·.eng.leader) born).trans (by rw [isBegun])
  · have on' := (regs h).2.1.mpr on
    refine ⟨(upAfter h).trans on', ?_, ?_⟩
    · rw [fw, if_pos (Block.mem_upHubs.mpr ⟨small, on'⟩)]
    · exact (Hub.of_unstated (unstated h) (·.regs.bank)).trans ((congrArg (·.regs.bank) (hub h)).trans ((regs h).2.2 on'))
  · rw [upAfter]
    exact Bool.eq_false_iff.mpr fun up => off ((regs h).2.1.mp up)
  · intro active some_
    obtain ⟨x, found⟩ := Option.ne_none_iff_exists'.mp there
    have made : begun.die q = startDie b.eng.boot rep warm q x := by
      rw [isBegun, Block.die, Tbl.getD, Block.starting, Tbl.get?_mapVal, found]
      rfl
    have own : b.die q = x := b.die_of_get q x found
    have reached : (d.die q).frame = (startDie b.eng.boot rep warm q x).frame := by
      rw [only.part (·.die q), die q, made]
    obtain ⟨st, act⟩ := startDie_starts b.eng.boot rep warm q x sound (by rw [← own, isWarm]; exact some_)
    refine ⟨(congrArg (·.st) reached).trans st, (congrArg (·.active) reached).trans (act.trans ?_)⟩
    rw [isWarm, ← own]

/-- A table of one value reads as that value. -/
theorem Tbl.getD_const {α : Type} {t : Tbl α} {d : α} (all : ∀ x ∈ t, x.2 = d) (k : Nat) : t.getD k d = d := by
  unfold Tbl.getD
  cases found : t.get? k with
  | none => rfl
  | some x =>
    obtain ⟨e, mem, rfl⟩ := List.mem_map.mp (Tbl.mem_vals_of_get found)
    exact all e mem

/-- Without a journal, a fatal engine or a leadership that passes, nothing but the passing itself is left to finish. -/
theorem Block.finished_nothing (st : Store) (b : Block) (passing : b.eng.passing = false) (held : b.eng.heldEvents = [])
    (nothing : b.fatal = true ∨ ∀ q, (b.die q).journals = []) : b.finished st = b := by
  unfold Block.finished
  split
  · rfl
  · rename_i running
    have none_ := nothing.resolve_left running
    have journals : Machine.finishJournals st b = b := by
      unfold Machine.finishJournals
      have step : ∀ ss : List Nat, ss.foldl (fun c s => (c.die s).journals.foldl (finishJournal st s) c) b = b := fun ss => by
        induction ss with
        | nil => rfl
        | cons s ss ih => rw [List.foldl_cons, none_ s]; exact ih
      exact step _
    have ended : b.onEng (fun e => { e with passing := false, heldEvents := [] }) = b := by
      simp only [Block.onEng, ← passing, ← held]
    rw [journals, Block.endPassing, held]
    exact ended

/-- Settles O29. -/
theorem powerAndStartCommandsAct : Obligations.PowerAndStartCommandsAct := by
  unfold Obligations.PowerAndStartCommandsAct
  intro s
  refine ⟨fun off => ?_, fun on => ?_, fun on reset some_ => ?_, fun on reset some_ leads held rest => ?_, fun rep n l fb on reset bank low => ?_⟩
  · have effect : pwrgdRise s.start = s.start.onEng fun e => { e with power := { pwrgd := true, rstn := false, stopped := false } } := by
      unfold pwrgdRise
      rw [show s.start.eng.power.pwrgd = false from off]
      rfl
    exact Runs.of_effect (s := s) rfl _ effect rfl ⟨rfl, rfl⟩
  · have effect : pwrgdFall s.start =
        ({ s.start.cleared with hubs := [(0, {}), (1, {}), (2, {}), (3, {})] }.onEng fun e => { e with power := {} }).push .wipe := by
      unfold pwrgdFall
      rw [show s.start.eng.power.pwrgd = true from on]
      rfl
    refine Runs.of_settle (s := s) rfl _ effect (by simp [Block.push, Block.cleared]) ⟨rfl, rfl, rfl, rfl, fun h => ?_, fun q => ?_, rfl, rfl, rfl, rfl, rfl⟩
    · exact Tbl.getD_const (t := [(0, ({} : Hub)), (1, {}), (2, {}), (3, {})]) (d := {}) (by simp) h
    · exact Tbl.getD_const (t := (List.range 12).map fun s => (s, ({} : RowDie))) (d := {}) (by simp) q
  · have effect : orderlyStop s.store s.start = (s.start.finished s.store).stopped := orderlyStop_stops s.store s.start on reset some_
    obtain ⟨power, layout, dump, tap⟩ := Block.finished_kept s.store s.start
    generalize ended : s.start.finished s.store = c at *
    have core := c.stopped.interrupts_core 16
    have hubs := (Block.stopped_down c).interrupts_hubs 16
    have done : exec .orderlyStop s = .next (settle s (c.stopped.interrupts 16)) := by
      rw [← effect]
      rfl
    refine ⟨_, done, rfl, ?_, (congrArg (·.eng.layout) core).trans layout, (congrArg (·.eng.dump) core).trans dump, fun h => ?_, fun q => ?_,
      congrArg (·.jobs) core, congrArg (·.tables) core, ?_, ?_, congrArg (·.progs) core⟩
    · refine (congrArg (·.eng.power) core).trans ?_
      show ({ c.eng.power with rstn := false, stopped := true } : Power) = _
      rw [power]
      dsimp only
      rw [show s.start.eng.power.pwrgd = true from on]
    · refine Eq.trans ?_ ((Block.stopped_hub c h).trans (by rw [tap h]; rfl))
      show (c.stopped.interrupts 16).hubs.getD h {} = _
      rw [hubs]
      rfl
    · exact (congrArg (·.st) (Block.interrupts_die c.stopped 16 q)).trans (congrArg (·.st) (Block.stopped_die c q))
    · exact List.map_eq_nil_iff.mp (congrArg (·.rings) core)
    · exact List.map_eq_nil_iff.mp (congrArg (·.works) core)
  · have effect : orderlyStop s.store s.start = s.start.stopped :=
      (orderlyStop_stops s.store s.start on reset some_).trans (congrArg _ (Block.finished_nothing s.store s.start leads held rest))
    refine Runs.of_effect (s := s) rfl _ effect rfl ⟨rfl, rfl, rfl, rfl, fun q => ?_⟩
    have die : s.start.stopped.die q = (s.blk.die q).stopped := Block.stopped_die s.start q
    refine ⟨congrArg (·.ledger) die, ?_⟩
    rw [show ({ s with blk := s.start.stopped } : State).blk.die q = (s.blk.die q).stopped from die]
    exact beq_iff_eq
  · intro starts first least
    obtain ⟨rstn, leader, ups, downs, dies⟩ := startUp_brings rep s.start n l fb on reset bank low first least _ rfl
    have hub : ∀ g, (((startUp rep s.start).interrupts 16).hub g).core = ((startUp rep s.start).hub g).core := fun g => Block.interrupts_hub _ 16 g
    have die : ∀ q, (((startUp rep s.start).interrupts 16).die q).core = ((startUp rep s.start).die q).core := fun q => Block.interrupts_die _ 16 q
    have core := (startUp rep s.start).interrupts_core 16
    have done : exec (.startUp rep) s = .next (settle s ((startUp rep s.start).interrupts 16)) := rfl
    generalize startUp rep s.start = c at *
    refine ⟨_, done, rfl, (congrArg (·.eng.power.rstn) core).trans rstn, (congrArg (·.eng.leader) core).trans leader, fun h small on => ?_, fun h small off => ?_,
      fun q there sound => ?_⟩
    · obtain ⟨up, run, own⟩ := ups h small on
      exact ⟨(congrArg (·.inService) (hub h)).trans up, (congrArg (·.regs.fw) (hub h)).trans run, (congrArg (·.regs.bank) (hub h)).trans own⟩
    · exact (congrArg (·.inService) (hub h)).trans (downs h small off)
    · intro warm active some_
      obtain ⟨st, act⟩ := dies q there sound some_
      exact ⟨(congrArg (·.st) (die q)).trans st, (congrArg (·.active) (die q)).trans act⟩

end Sys2Proof.Machine
end

section
/-! O31: signal words and latched signals; O34: the host link. -/
namespace Sys2Proof.Machine
open Sys2Proof.Spec

/-- A command whose claim rests on nothing that the interrupt writes at its end touch. -/
theorem Runs.of_core {i : Instr} {s : State} {P : State → Prop} (e : Block) (arm : exec i s = .next (settle s (e.interrupts 16)))
    (holds : ∀ t : State, t.blk.core = e.core → P t) : Runs i s P :=
  ⟨_, arm, rfl, holds _ (e.interrupts_core 16)⟩

/-- What a core fixes of a hub. -/
theorem Block.hub_of_core {b c : Block} (same : c.core = b.core) (g : Nat) : (c.hub g).core = (b.hub g).core := by
  rw [← Touch.hub_core, ← Touch.hub_core, same]

/-- What a core fixes of a row die. -/
theorem Block.die_of_core {b c : Block} (same : c.core = b.core) (q : Nat) : (c.die q).core = (b.die q).core := by
  rw [← Touch.die_core, ← Touch.die_core, same]

/-- What a core fixes of a ring. -/
theorem Block.ring_of_core {b c : Block} (same : c.core = b.core) {q : Nat} {r : Ring} (found : b.rings.get? q = some r) :
    ∃ r', c.rings.get? q = some r' ∧ r'.core = r.core := by
  have rings := congrArg (·.rings.get? q) same
  simp only [Block.core, Tbl.get?_mapVal, found] at rings
  cases has : c.rings.get? q with
  | none => simp [has] at rings
  | some r' => exact ⟨r', rfl, by simpa [has] using rings⟩

/-! ### Signals (R193 to R195) -/

/-- A signal at a semaphore that is no ring's fill semaphore. -/
theorem Block.latch_free {b : Block} {h sem : Nat} (free : b.fillRing h sem = none) (c : Nat) : b.latch h sem c = (b.semAdd h sem c, true) := by
  unfold Block.latch
  rw [free]

/-- A signal that fills a ring. -/
theorem Block.latch_fills {b : Block} {h sem c rid : Nat} {r : Ring} (fill : b.fillRing h sem = some (rid, r)) (room : r.tail + c ≤ r.head + r.n) :
    b.latch h sem c = ((b.semAdd h sem c).showRing rid fun r => { r with tail := r.tail + c, fills := r.fills ++ [(r.tail, b.age h)] }, true) := by
  unfold Block.latch
  rw [fill]
  dsimp only
  rw [if_neg (by omega)]
  rfl

/-- A signal changes no latched arrival and no table. -/
theorem Block.latch_kept (b : Block) (h sem c : Nat) : (b.latch h sem c).1.eng.arrivals = b.eng.arrivals ∧ (b.latch h sem c).1.tables = b.tables := by
  unfold Block.latch
  split
  · exact ⟨rfl, rfl⟩
  · dsimp only
    split
    · exact ⟨(Touch.statusWrite _ _).part (·.eng.arrivals), (Touch.statusWrite _ _).part (·.tables)⟩
    · exact ⟨(Touch.statusWrite _ _).part (·.eng.arrivals), (Touch.statusWrite _ _).part (·.tables)⟩

theorem Block.sem_semAdd (b : Block) (h sem c : Nat) (there : ∃ y, b.hubs.get? h = some y) : (b.semAdd h sem c).sem h sem = b.sem h sem + BitVec.ofNat 64 c :=
  b.sem_semSet_same h sem _ there

/-- A word that passes its checks signals its semaphore (R196). -/
theorem signalWord_signals {h : Nat} {word : BitVec 64} {b : Block} (low : h < 4) (up : b.hubUp h = true)
    (version : versionOk (bits word.toNat 0 8) b.eng.minor = true) (reserved : bits word.toNat 46 18 = 0)
    (own : b.allotted h (bits word.toNat 40 6) (bits word.toNat 8 16) = true) (plain : b.freeOrDone h (bits word.toNat 8 16) = false) :
    signalWord h word b = (b.signal h (bits word.toNat 8 16) (bits word.toNat 24 16 + 1) (bits word.toNat 40 6)).1 := by
  have none_ : rsvSet word.toNat [(46, 18)] = false := by simp [rsvSet, reserved]
  unfold signalWord
  dsimp only
  rw [up, version, none_, own, plain, if_neg (by simp; omega)]
  rfl

/-- Settles O31. -/
theorem signalWordsReachTheirSemaphores : Obligations.SignalWordsReachTheirSemaphores := by
  unfold Obligations.SignalWordsReachTheirSemaphores
  intro h word s job sem c
  refine ⟨fun low up version reserved own plain => ?_, fun q a rest oldest => ?_⟩
  · have there := Block.there_of_hubUp up
    have effect : signalWord h word s.start = (s.start.signal h sem c job).1 := signalWord_signals low up version reserved own plain
    refine ⟨fun direct free => ?_, fun rid r direct fill found room => ?_, fun arrival => ?_⟩
    · have added : (s.start.signal h sem c job).1 = s.start.semAdd h sem c := by
        unfold Block.signal
        rw [show s.start.arrivalSem h sem = false from direct, if_neg Bool.false_ne_true, Block.latch_free (b := s.start) free]
      refine Runs.of_effect (s := s) rfl _ (effect.trans added) rfl ⟨⟨rfl, rfl, fun g other => ?_⟩, ?_, fun q other => ?_, ?_⟩
      · exact Block.hub_onHub_other s.start h g _ other
      · exact s.start.sem_semAdd h sem c there
      · exact s.start.sem_semSet_other h sem q _ other
      · obtain ⟨y, found⟩ := there
        refine (Block.hub_onHub_same s.start h _ y found).trans ?_
        show _ = ({ s.start.hub h with sems := ((s.start.semAdd h sem c).hub h).sems } : Hub)
        rw [Block.hub_of_get s.start h y found, Block.semAdd, Block.semSet, Block.hub_onHub_same s.start h _ y found]
    · have added : (s.start.signal h sem c job).1 =
          (s.start.semAdd h sem c).showRing rid fun r => { r with tail := r.tail + c, fills := r.fills ++ [(r.tail, s.start.age h)] } := by
        unfold Block.signal
        rw [show s.start.arrivalSem h sem = false from direct, if_neg Bool.false_ne_true, Block.latch_fills (b := s.start) fill room]
      refine Runs.of_core _ (show exec (.signalWord h word) s = .next (settle s ((signalWord h word s.start).interrupts 16)) from rfl) fun t core => ?_
      rw [effect, added] at core
      have shown := Touch.statusWrite ((s.start.semAdd h sem c).onRing rid fun r => { r with tail := r.tail + c, fills := r.fills ++ [(r.tail, s.start.age h)] }) rid
      obtain ⟨q, at_, same⟩ := Block.showRing_ring (s.start.semAdd h sem c) rid _ r found
      obtain ⟨q', at', same'⟩ := Block.ring_of_core core at_
      have own := same'.trans same
      refine ⟨?_, q', at', Ring.of_core own (·.tail), Ring.of_core own (·.head), Ring.of_core own (·.done)⟩
      have hub := (Block.hub_of_core core h).trans (Block.hub_of_core shown.core h)
      exact (congrArg (·.sems.getD sem 0) hub).trans (s.start.sem_semAdd h sem c there)
    · refine Runs.of_effect (s := s) rfl (s.start.onEng fun e => { e with arrivals := e.arrivals ++ [{ hub := h, sem := sem, count := c, job := job }] })
        (effect.trans ?_) rfl ⟨rfl, rfl⟩
      unfold Block.signal
      rw [show s.start.arrivalSem h sem = true from arrival]
      rfl
  · have effect : arrivalSignalApply h q s.start = (((s.start.onEng fun e => { e with arrivals := rest }).latch h q a.count).1).countArrival h q := by
      unfold arrivalSignalApply
      rw [show takeFirst (fun x : Arrival => x.sol.isNone && x.hub == h && x.sem == q) s.start.eng.arrivals = some (a, rest) from oldest]
    cases fill : s.blk.fillRing h q with
    | none =>
      rw [Block.latch_free (b := s.start.onEng fun e => { e with arrivals := rest }) fill] at effect
      exact Runs.of_effect (s := s) rfl _ effect rfl ⟨rfl, rfl, fun _ there =>
        ⟨rfl, rfl, (s.start.onEng fun e => { e with arrivals := rest }).sem_semAdd h q a.count (Option.ne_none_iff_exists'.mp there)⟩⟩
    | some x =>
      refine Runs.of_core _ (show exec (.arrivalSignalApply h q) s = .next (settle s ((arrivalSignalApply h q s.start).interrupts 16)) from rfl) fun t core => ?_
      rw [effect] at core
      obtain ⟨arrivals, tables⟩ := (s.start.onEng fun e => { e with arrivals := rest }).latch_kept h q a.count
      exact ⟨(congrArg (·.eng.arrivals) core).trans arrivals, (congrArg (·.tables) core).trans tables, fun none_ => absurd none_ (by simp)⟩

/-! ### Writes held for the host link -/

/-- The host link stays as it is, and with the link lost so does what is held for it. -/
structure LinkKept (b c : Block) : Prop where
  host : c.eng.host = b.eng.host
  held : b.eng.host = .lost → c.heldHost = b.heldHost

namespace LinkKept

variable {b c d : Block}

theorem refl (b : Block) : LinkKept b b := ⟨rfl, fun _ => rfl⟩

theorem of_same (host : c.eng.host = b.eng.host) (held : c.heldHost = b.heldHost) : LinkKept b c := ⟨host, fun _ => held⟩

theorem trans (first : LinkKept b c) (second : LinkKept c d) : LinkKept b d :=
  ⟨second.host.trans first.host, fun lost => (second.held (first.host.trans lost)).trans (first.held lost)⟩

theorem after (last : LinkKept c d) (host : c.eng.host = b.eng.host) (held : c.heldHost = b.heldHost) : LinkKept b d := (of_same host held).trans last

theorem foldl {α : Type} {f : Block → α → Block} (step : ∀ b a, LinkKept b (f b a)) (as : List α) (b : Block) : LinkKept b (as.foldl f b) := by
  induction as generalizing b with
  | nil => exact refl b
  | cons a as ih => exact (step b a).trans (ih (f b a))

theorem request (b : Block) (ch : Nat) (rt : Bool) (q : Req) : LinkKept b (b.request ch rt q) := by
  unfold Block.request
  split
  · exact refl b
  · exact of_same rfl rfl

theorem requestAtoms (b : Block) (rt : Bool) (q : Req) (atoms : List Nat) : LinkKept b (b.requestAtoms rt q atoms) :=
  foldl (f := fun b (x : Nat × Nat × Nat) => b.request x.1 rt { q with row := x.2.1, atoms := x.2.2 }) (fun b _ => request b _ rt _) _ b

theorem drainOne (b : Block) (s : Nat) : LinkKept b (b.drainOne s).1 := by
  unfold Block.drainOne
  split
  · exact refl b
  · rename_i e es _
    have taken : LinkKept b (b.onDie s fun d => { d with wcb := es }) := of_same rfl rfl
    dsimp only
    split
    · exact taken.trans (requestAtoms _ _ _ _)
    · split
      · exact refl b
      · exact ((taken.trans (requestAtoms _ _ _ _)).trans (requestAtoms _ _ _ _)).trans (of_same rfl rfl)

theorem drainFor (b : Block) (s n fuel : Nat) : LinkKept b (b.drainFor s n fuel) := by
  induction fuel generalizing b with
  | zero => exact refl b
  | succ fuel ih =>
    unfold Block.drainFor
    split
    · exact refl b
    · have one := drainOne b s
      split
      · rename_i drained
        rw [drained] at one
        exact one.trans (ih _)
      · exact refl b

theorem wcbAccept (b : Block) (stack pa n cls : Nat) (remote : Bool) : LinkKept b (b.wcbAccept stack pa n cls remote) :=
  (drainFor b stack n _).trans (of_same rfl rfl)

theorem raise (b : Block) (h cause : Nat) : LinkKept b (b.raise h cause) := by
  have write : ∀ c : Block, LinkKept c (c.msiWrite h) := fun c => by
    refine ⟨(Touch.msiWrite (P := fun _ => True) c h).part (·.eng.host), fun _ => ?_⟩
    unfold Block.msiWrite
    dsimp only
    repeat' split
    all_goals rfl
  unfold Block.raise
  dsimp only
  split
  · exact after (write _) rfl rfl
  · exact of_same rfl rfl

theorem report (b : Block) (r : BitVec 256) : LinkKept b (b.report r) := by
  have logged : LinkKept b (b.logRecord r) := of_same (by unfold Block.logRecord Block.onEng; dsimp only; split <;> rfl) rfl
  unfold Block.report
  split
  · exact logged
  · exact logged.trans (foldl (fun b h => raise b h intEVENT) _ _)

theorem event (b : Block) (hub kind : Nat) (job : Option Nat) (payload : Nat) : LinkKept b (b.event hub kind job payload) := report b _

theorem lostWrite (b : Block) (hub granule stack source : Nat) : LinkKept b (b.lostWrite hub granule stack source) := by
  unfold Block.lostWrite
  exact after (event _ _ _ _ _) rfl rfl

theorem passTags (b : Block) (ch row : Nat) (zero : Bool) : LinkKept b (b.passTags ch row zero) := by
  have slice : ∀ (b : Block) s f, LinkKept b (b.onGroupSlice s f) := fun b s f => by
    unfold Block.onGroupSlice
    split
    · exact of_same rfl rfl
    · exact refl b
  exact (slice b (ch / 64) _).trans (of_same rfl rfl)

theorem wrMem (b : Block) (hub pa : Nat) (data : List Byte) (source cls : Nat) : LinkKept b (b.wrMem hub pa data source cls) := by
  refine foldl (fun b x => ?_) _ b
  obtain ⟨a, off, n⟩ := x
  dsimp only
  split
  · exact refl b
  · split
    · exact lostWrite b _ _ _ _
    · refine LinkKept.trans ?_ (passTags _ _ _ _)
      exact after (wcbAccept _ _ _ _ _ _) rfl rfl

theorem wrHost (b : Block) (port ha : Nat) (data : List Byte) : LinkKept b (b.wrHost port ha data) := by
  unfold Block.wrHost
  split
  · exact of_same rfl rfl
  · rename_i retraining
    exact ⟨rfl, fun lost => by rw [lost] at retraining; cases retraining⟩
  · exact refl b

theorem hostLose (b : Block) (rid what : Nat) : LinkKept b (b.hostLose rid what) := by
  unfold Block.hostLose
  split
  · exact refl b
  · split
    · exact of_same rfl rfl
    · exact after (raise _ _ _) rfl rfl

theorem pageWriteRaw (b : Block) (rid p : Nat) (pg : Page) (off : Nat) (data : List Byte) (what : Nat) :
    LinkKept b (b.pageWriteRaw rid p pg off data what) := by
  unfold Block.pageWriteRaw
  dsimp only
  split
  · exact wrMem b _ _ _ _ _
  · split
    · split
      · exact (hostLose b _ _).trans (of_same rfl rfl)
      · exact (wrHost b _ _ _).trans (of_same rfl rfl)
    · exact of_same rfl rfl

theorem cached (b : Block) (h job : Nat) (n : Need) : LinkKept b (b.cached h job n).2 := by
  unfold Block.cached
  split
  · exact refl b
  · dsimp only
    repeat' split
    all_goals exact of_same rfl rfl

theorem startWalk (b : Block) (h : Nat) (who : Who) (job : Nat) (n : Need) (rt : Bool) : LinkKept b (b.startWalk h who job n rt) := by
  have issue : ∀ (c : Block) id, LinkKept c (c.issueWalk h id) := fun c id => by
    unfold Block.issueWalk
    split
    · exact refl c
    · dsimp only
      split
      · exact refl c
      · exact after (requestAtoms _ _ _ _) rfl rfl
  unfold Block.startWalk
  split
  · exact refl b
  · split
    · exact refl b
    · exact after (issue _ _) rfl rfl

theorem statusWrite (b : Block) (rid : Nat) : LinkKept b (b.statusWrite rid) := by
  have shown : LinkKept b (b.haltFields rid) := of_same rfl rfl
  unfold Block.statusWrite
  dsimp only
  split
  · exact shown
  · rename_i r found
    split
    · exact shown
    · have translated := shown.trans (cached (b.haltFields rid) (ringHub rid) r.job { va := r.cbase, write := true })
      split
      · rename_i hit
        rw [hit] at translated
        split
        · split
          · exact translated.trans (hostLose _ _ _)
          · exact translated
        · exact translated.trans (pageWriteRaw _ _ _ _ _ _ _)
      · rename_i missed
        rw [missed] at translated
        exact translated.trans (startWalk _ _ _ _ _ _)

theorem hostNeeded (b : Block) (rid p what : Nat) : LinkKept b (b.hostNeeded rid p what) := by
  have lost : LinkKept b ((b.hostLose rid what).onWork rid p fun x => { x with hostWhat := x.hostWhat ||| what }) := (hostLose b rid what).trans (of_same rfl rfl)
  unfold Block.hostNeeded Block.hostLostWritten
  dsimp only
  split
  · exact lost.trans (statusWrite _ _)
  · exact lost

theorem endSlot (b : Block) (rid p status pos : Nat) (counters : List Nat) : LinkKept b (b.endSlot rid p status pos counters) := by
  have freed : ∀ (c : Block) lead, LinkKept c (c.freePages rid lead) := fun c lead => by
    unfold Block.freePages
    split
    · exact refl c
    · exact of_same rfl rfl
  unfold Block.endSlot Block.closeSlot
  dsimp only
  generalize closed : Block.freePages _ _ _ = c
  have step : LinkKept b c := by
    rw [← closed]
    exact after (freed _ _) rfl rfl
  exact step.trans (of_same rfl rfl)

theorem joinShare (b : Block) (stack : Nat) (sh : Share) : LinkKept b (b.joinShare stack sh) := by
  unfold Block.joinShare
  split
  · exact refl b
  · split
    · split
      · exact refl b
      · dsimp only
        have joined : ∀ f, LinkKept b (b.onWork sh.ring sh.p f) := fun _ => of_same rfl rfl
        split
        · unfold Block.batchEnd
          split
          · exact (joined _).trans (endSlot _ _ _ _ _ _)
          · exact (joined _).trans (endSlot _ _ _ _ _ _)
        · exact joined _
    · exact refl b

theorem hostEndShare (b : Block) (stack table : Nat) : LinkKept b (b.hostEndShare stack table) := by
  unfold Block.hostEndShare
  split
  · exact refl b
  · refine LinkKept.trans ?_ (joinShare _ _ _)
    refine LinkKept.trans ?_ (hostNeeded _ _ _ _)
    exact of_same rfl rfl

theorem interrupts (b : Block) (fuel : Nat) : LinkKept b (b.interrupts fuel) := by
  induction fuel generalizing b with
  | zero => exact refl b
  | succ fuel ih =>
    unfold Block.interrupts
    dsimp only
    split
    · exact refl b
    · refine LinkKept.trans ?_ (ih _)
      refine LinkKept.trans (c := { b with wr := b.wr.filter fun | .intr _ _ _ => false | _ => true }) (of_same rfl rfl) ?_
      refine foldl (fun b w => ?_) _ _
      cases w with
      | intr h a d => exact wrMem b h a d 2 1
      | _ => exact refl b

end LinkKept

/-- A loss of the host link, up to its status writes and its event. -/
theorem Block.loseHost_lost (b : Block) (cause : Nat) : (b.loseHost cause).eng.host = .lost ∧ (b.loseHost cause).heldHost = [] := by
  unfold Block.loseHost
  dsimp only
  generalize gone : Block.onEng { b.onEng fun e => { e with host := .lost } with heldHost := [] } _ = c
  have lost : c.eng.host = .lost ∧ c.heldHost = [] := by
    rw [← gone]
    exact ⟨rfl, rfl⟩
  have rest : ∀ d, LinkKept c d → d.eng.host = .lost ∧ d.heldHost = [] := fun d kept => ⟨kept.host.trans lost.1, (kept.held lost.1).trans lost.2⟩
  refine rest _ (LinkKept.trans ?_ (LinkKept.event _ _ _ _ _))
  refine LinkKept.trans ?_ (LinkKept.foldl LinkKept.statusWrite _ _)
  refine LinkKept.trans ?_ (LinkKept.foldl (fun b x => LinkKept.foldl (fun b t => ?_) _ b) _ _)
  · refine LinkKept.foldl (fun b w => ?_) _ c
    split
    · exact (LinkKept.hostLose b _ _).trans (.of_same rfl rfl)
    · split
      · exact LinkKept.hostLose b _ _
      · exact .refl b
  · split
    · exact LinkKept.hostEndShare b _ _
    · exact .refl b

/-- A loss of the host link that no slot and no share feels (R348). -/
theorem Block.loseHost_idle (b : Block) (cause : Nat) (idle : b.works = []) (done : ∀ x ∈ b.dies, x.2.journals = []) :
    b.loseHost cause = (({ b.onEng fun e => { e with host := .lost } with heldHost := [] } : Block).onEng fun e =>
      { e with twin := { e.twin with rowsIn := e.twin.rowsIn.map fun x => { x with sent := false, acked := false } } }).event b.eng.leader 0x14 none (pack [(0, 2, cause), (2, 11, 0)]) := by
  unfold Block.loseHost
  dsimp only
  generalize gone : Block.onEng { b.onEng fun e => { e with host := .lost } with heldHost := [] } _ = c
  have works : c.works.vals = [] := by rw [← gone]; exact congrArg Tbl.vals idle
  have dies : c.dies = b.dies := by rw [← gone]; rfl
  have leader : c.eng.leader = b.eng.leader := by rw [← gone]; rfl
  have shares : ∀ ds : List (Nat × RowDie), (∀ x ∈ ds, x.2.journals = []) → ds.foldl (fun b x => x.2.shares.keys.foldl (fun b t =>
      if x.2.journals.any fun j => j.table == t && !j.acked then b.hostEndShare x.1 t else b) b) c = c := fun ds none_ => by
    induction ds with
    | nil => rfl
    | cons x ds ih =>
      have same : ∀ ts : List Nat, ts.foldl (fun b t => if x.2.journals.any fun j => j.table == t && !j.acked then b.hostEndShare x.1 t else b) c = c := fun ts => by
        rw [none_ x List.mem_cons_self]
        induction ts with
        | nil => rfl
        | cons t ts ih => exact ih
      rw [List.foldl_cons, same]
      exact ih fun y mem => none_ y (List.mem_cons_of_mem _ mem)
  have fresh : ((c.rings.filter fun x => x.2.hostLost.isSome).map (·.1)).filter (fun r => !(c.rings.filter fun x => x.2.hostLost.isSome).any fun x => x.1 == r) = [] := by
    refine List.filter_eq_nil_iff.mpr fun r mem => ?_
    obtain ⟨x, there, rfl⟩ := List.mem_map.mp mem
    simp only [Bool.not_eq_true', Bool.not_eq_false]
    exact List.any_eq_true.mpr ⟨x, there, beq_self_eq_true _⟩
  rw [works, List.foldl_nil, shares c.dies (dies ▸ done), fresh, ← leader]
  rfl

/-- Such a loss, with no interrupt address set, leaves the rings and writes nothing. -/
theorem Block.loseHost_rings (b : Block) (cause : Nat) (idle : b.works = []) (done : ∀ x ∈ b.dies, x.2.journals = []) (still : b.Quiet) :
    (b.loseHost cause).rings = b.rings ∧ (b.loseHost cause).wr = b.wr := by
  rw [b.loseHost_idle cause idle done]
  generalize before : Block.onEng { b.onEng fun e => { e with host := .lost } with heldHost := [] } _ = c
  have same : c.hubs = b.hubs ∧ c.rings = b.rings ∧ c.wr = b.wr := by
    rw [← before]
    exact ⟨rfl, rfl, rfl⟩
  have quiet : c.Quiet := fun g => by rw [Block.hub, same.1]; exact still g
  have told := Told.event c b.eng.leader 0x14 none (pack [(0, 2, cause), (2, 11, 0)]) quiet
  exact ⟨(told.part (·.rings)).trans same.2.1, (told.part (·.wr)).trans same.2.2⟩

/-- The writes held go to host memory in their order, and to nothing else. -/
theorem Store.apply_host (ws : List (Nat × Nat × List Byte)) (st : Store) : (st.apply (ws.map fun x => Wr.host x.2.1 x.2.2)).mem = st.mem ∧
    (st.apply (ws.map fun x => Wr.host x.2.1 x.2.2)).host = ws.foldl (fun m x => writeBytes m x.2.1 x.2.2) st.host := by
  induction ws generalizing st with
  | nil => exact ⟨rfl, rfl⟩
  | cons w ws ih => exact ih (st.apply1 (.host w.2.1 w.2.2))

/-- The writes that go on after a retrain. -/
theorem Block.sendHeld_wr (ws : List (Nat × Nat × List Byte)) (b : Block) :
    (ws.foldl (fun (b : Block) x => (b.push (.host x.2.1 x.2.2)).send (.hostWrite x.1 x.2.1 x.2.2)) b).wr = b.wr ++ ws.map fun x => Wr.host x.2.1 x.2.2 := by
  induction ws generalizing b with
  | nil => exact (List.append_nil _).symm
  | cons w ws ih => rw [List.foldl_cons, ih, List.map_cons, List.append_cons]; rfl

/-- Settles O34. -/
theorem hostLinkCommandsAct : Obligations.HostLinkCommandsAct := by
  unfold Obligations.HostLinkCommandsAct
  intro s
  have lose : ∀ (i : Instr) (cause : Nat) (e : Block), exec i s = .next (settle s (e.interrupts 16)) → e = s.start.loseHost cause →
      Runs i s fun t => t.blk.eng.host = .lost ∧ t.blk.heldHost = [] := by
    intro i cause e arm effect
    obtain ⟨host, held⟩ := s.start.loseHost_lost cause
    rw [← effect] at host held
    have kept := LinkKept.interrupts e 16
    exact ⟨_, arm, rfl, kept.host.trans host, (kept.held host).trans held⟩
  refine ⟨fun some_ up => ?_, fun cause standing => ?_, fun h since retraining => ⟨fun late => ?_, fun early => ?_, ?_⟩, fun lost => ?_⟩
  · have effect : hostLinkRetrain s.start = ({ s.start with freeCount := s.blk.freeCount + 1 } : Block).onEng fun e =>
        let h := s.blk.upHubs.getD ((Config.freeValue s.blk.freeCount).toNat % s.blk.upHubs.length) 0
        { e with host := .retraining h (s.blk.age h) } := by
      unfold hostLinkRetrain Block.hostUp
      rw [show s.start.eng.host = .up from up, if_neg (by simpa using show s.start.upHubs ≠ [] from some_)]
      rfl
    refine Runs.of_effect (s := s) rfl _ effect rfl ⟨rfl, _, ?_, rfl⟩
    rw [List.getD_eq_getElem _ _ (Nat.mod_lt _ (List.length_pos_iff.mpr some_))]
    exact List.getElem_mem _
  · obtain ⟨n, effect⟩ : ∃ n, hostLinkLoss cause s.start = s.start.loseHost n := by
      unfold hostLinkLoss Block.hostLostNow
      split
      · rename_i gone
        exact absurd gone standing
      · exact ⟨_, rfl⟩
    obtain ⟨t, arm, pending, lost, held⟩ := lose (.hostLinkLoss cause) _ _ rfl effect
    refine ⟨t, arm, pending, lost, held, fun still idle done => ?_⟩
    obtain ⟨rings, wr⟩ := s.start.loseHost_rings n idle done still
    rw [← effect] at rings wr
    replace wr : (hostLinkLoss cause s.start).wr = [] := wr
    have ran : exec (.hostLinkLoss cause) s = .next (settle s ((hostLinkLoss cause s.start).interrupts 16)) := rfl
    rw [Block.interrupts_none _ (Silent.of_wr wr)] at ran
    obtain rfl := Host.Outcome.next.inj (arm.symm.trans ran)
    refine ⟨?_, rings⟩
    show s.store.apply (hostLinkLoss cause s.start).wr = s.store
    rw [wr]
    rfl
  · have effect : hostRetrainTimeout s.start = s.start.loseHost 2 := by
      unfold hostRetrainTimeout
      rw [show s.start.eng.host = .retraining h since from retraining]
      exact if_pos late
    exact lose _ 2 _ rfl effect
  · have effect : hostRetrainTimeout s.start = s.start := by
      unfold hostRetrainTimeout
      rw [show s.start.eng.host = .retraining h since from retraining]
      exact if_neg (Nat.not_le.mpr early)
    exact Runs.of_effect (s := s) rfl _ effect rfl ⟨rfl, rfl⟩
  · have effect : hostLinkReconnect s.start = ({ ((s.blk.heldHost.foldl (fun (b : Block) x => (b.push (.host x.2.1 x.2.2)).send (.hostWrite x.1 x.2.1 x.2.2)) s.start).onEng fun e =>
        { e with host := .up }) with heldHost := [], works := (s.blk.heldHost.foldl (fun (b : Block) x => (b.push (.host x.2.1 x.2.2)).send (.hostWrite x.1 x.2.1 x.2.2)) s.start).works.mapVal fun _ w => { w with hostHeld := false } } : Block) := by
      unfold hostLinkReconnect
      rw [show s.start.eng.host = .retraining h since from retraining]
      rfl
    have wr := Block.sendHeld_wr s.blk.heldHost s.start
    generalize s.blk.heldHost.foldl (fun (b : Block) x => (b.push (.host x.2.1 x.2.2)).send (.hostWrite x.1 x.2.1 x.2.2)) s.start = c at effect wr
    replace wr : c.wr = s.blk.heldHost.map fun x => Wr.host x.2.1 x.2.2 := wr
    obtain ⟨mem, host⟩ := Store.apply_host s.blk.heldHost s.store
    rw [← wr] at mem host
    refine Runs.of_settle (s := s) rfl _ effect (fun k a d there => ?_) ⟨rfl, rfl, mem, host, fun w there => ?_⟩
    · obtain ⟨x, _, same⟩ := List.mem_map.mp (wr ▸ there : Wr.intr k a d ∈ s.blk.heldHost.map fun x => Wr.host x.2.1 x.2.2)
      cases same
    · obtain ⟨e, mem, rfl⟩ := List.mem_map.mp there
      obtain ⟨v, _, same⟩ := Tbl.mem_mapVal c.works (fun _ w => { w with hostHeld := false }) e mem
      rw [same]
  · have effect : hostLinkReconnect s.start = s.start.onEng fun e => { e with host := .up } := by
      unfold hostLinkReconnect
      rw [show s.start.eng.host = .lost from lost]
    exact Runs.of_effect (s := s) rfl _ effect rfl ⟨rfl, rfl⟩

end Sys2Proof.Machine
end

section
/-! O58: ALIVE frames, discarded frames and digests. -/
namespace Sys2Proof.Machine
open Sys2Proof.Spec

/-! ### The record of an event -/

/-- A report with no interrupt address set enters the log as its newest record, with the next number. -/
theorem Block.report_last (b : Block) (r : BitVec 256) (still : b.Quiet) (logs : b.eng.passing = false) :
    (b.report r).eng.eseq = b.eng.eseq + 1 ∧ (b.report r).eng.events.getLast? = some (BitVec.ofNat 256 (setBits r.toNat 16 48 (b.eng.eseq + 1))) := by
  rw [b.report_eng _ still, Block.logRecord, Block.onEng_eng, logs]
  refine ⟨rfl, ?_⟩
  dsimp only [Bool.false_eq_true, if_false]
  rw [if_neg Bool.false_ne_true, List.getLast?_drop, if_neg, List.getLast?_append]
  · rfl
  · rw [List.length_append, List.length_singleton]
    have room : 0 < Config.eventLogMax := by decide
    omega

theorem eventRecord_bits (b : Block) (hub kind : Nat) (job : Option Nat) (payload : Nat) (small : kind < 256) :
    bits (eventRecord b hub kind job payload).toNat 0 8 = 0x20 ∧ bits (eventRecord b hub kind job payload).toNat 8 8 = kind := by
  unfold eventRecord
  rw [BitVec.toNat_ofNat]
  refine ⟨?_, ?_⟩
  · rw [bits_mod _ _ _ _ (by decide), bits_pack_of_mem _ 0 8 0x20 (by simp) (by simp)]
    rfl
  · rw [bits_mod _ _ _ _ (by decide), bits_pack_of_mem _ 8 8 kind (by simp) (by simp), show (2 : Nat) ^ 8 = 256 from rfl, Nat.mod_eq_of_lt small]

/-- The record of an event that is not held. -/
theorem recorded_event (s : State) (b : Block) (hub kind : Nat) (job : Option Nat) (payload : Nat) (small : kind < 256) (still : b.Quiet)
    (logs : b.eng.passing = false) (first : b.eng.eseq = s.blk.eng.eseq) (t : State) (ended : t.blk.eng.eseq = (b.event hub kind job payload).eng.eseq)
    (log : t.blk.eng.events = (b.event hub kind job payload).eng.events) : Recorded s t kind := by
  obtain ⟨next, last⟩ := b.report_last (eventRecord b hub kind job payload) still logs
  obtain ⟨version, code⟩ := eventRecord_bits b hub kind job payload small
  refine ⟨ended.trans (next.trans (by rw [first])), _, (congrArg List.getLast? log).trans last, ?_, ?_, ?_⟩
  · rw [BitVec.toNat_ofNat, bits_mod _ _ _ _ (by decide), bits_setBits_other _ _ _ _ _ _ (by decide), version]
  · rw [BitVec.toNat_ofNat, bits_mod _ _ _ _ (by decide), bits_setBits_other _ _ _ _ _ _ (by decide), code]
  · rw [BitVec.toNat_ofNat, bits_mod _ _ _ _ (by decide), bits_setBits_same, first]

/-! ### Frames -/

/-- A frame of the pairing that is taken finds its link heard. -/
theorem withFrame_hears {s : State} {hdr : FrameHdr} (hears : Hears s hdr) (kind : Nat) (f : Block → Block) :
    s.start.withFrame hdr kind f = f (heardOn s hdr.link) := by
  obtain ⟨low, up, alive, ours, set⟩ := hears
  unfold Block.withFrame
  rw [show s.start.linkUp hdr.link = true from up, show s.start.fatal = false from alive, if_neg (by simp; omega),
    if_neg (by simp only [Bool.or_eq_true, decide_eq_true_eq, not_or, not_not]; exact ⟨ours, set⟩)]
  rfl

theorem Block.hubUp_of_linkUp {b : Block} {h : Nat} (up : b.linkUp h = true) : b.hubUp h = true := by
  unfold Block.linkUp at up
  simp only [Bool.and_eq_true] at up
  exact up.2

/-- Rows of the twin that wait: none. -/
theorem twinRows_none (st : Store) (b : Block) (none_ : b.eng.twin.rowsIn = []) : twinRows st b = b := by
  unfold twinRows
  rw [none_]
  show b.onEng (fun e => { e with twin := { e.twin with rowsIn := [] } }) = b
  simp only [Block.onEng, ← none_]

theorem unpairIfSettled_paired (st : Store) (b : Block) (going : b.eng.twin.unpairing = false) : unpairIfSettled st b = b := by
  unfold unpairIfSettled
  dsimp only
  rw [going]
  rfl

/-- A frame that leaves through a link. -/
theorem Block.sendFrame_on {b : Block} {shub l : Nat} (link : b.linkFor shub = some l) (dhub : Nat) (f : TFrame) :
    b.sendFrame shub dhub f = b.sendOn l shub dhub f := by
  unfold Block.sendFrame
  rw [link]

/-- The digests that a DIGEST frame carries. -/
def firstBatch (e : DigestEntry) (es : List DigestEntry) : List DigestEntry := (es.filter fun x => x.table == e.table && x.bseq == e.bseq).take 4096

theorem mem_firstBatch (e : DigestEntry) (es : List DigestEntry) : e ∈ firstBatch e (e :: es) ∧ (firstBatch e (e :: es)).length ≤ 4096 ∧
    ∀ x ∈ firstBatch e (e :: es), x ∈ e :: es ∧ x.table = e.table ∧ x.bseq = e.bseq := by
  unfold firstBatch
  refine ⟨?_, List.length_take_le _ _, fun x mem => ?_⟩
  · rw [List.filter_cons_of_pos (by simp)]
    exact List.mem_cons_self
  · obtain ⟨there, same⟩ := List.mem_filter.mp (List.mem_of_mem_take mem)
    exact ⟨there, by simpa using same⟩

/-- The entry of a row of ours that has one of our own waiting is settled (R391). -/
theorem takeEntry_paired {st : Store} {dhub : Nat} {b : Block} {e o : DigestEntry} {x : TableSt} {q : Nat} (found : b.tables.get? e.table = some x)
    (owner : ownerOf st b (tdOf x.desc) e.lrow = some q) (own : (b.hub (b.homeHub q)).digests.own.find? (sameKey e) = some o) :
    takeEntry st dhub b e =
      let c := b.onHub (b.homeHub q) fun y => { y with digests := { y.digests with own := y.digests.own.filter (!sameKey e ·) } }
      if equalTo e o then c else c.mismatch e.table e.lrow e.bseq := by
  unfold takeEntry
  rw [found]
  dsimp only
  rw [owner]
  dsimp only
  rw [own]

/-- Without one, an entry of a batch applied is a mismatch, and another is kept where there is room. -/
theorem takeEntry_alone {st : Store} {dhub : Nat} {b : Block} {e : DigestEntry} {x : TableSt} {q : Nat} (found : b.tables.get? e.table = some x)
    (owner : ownerOf st b (tdOf x.desc) e.lrow = some q) (own : (b.hub (b.homeHub q)).digests.own.find? (sameKey e) = none) :
    takeEntry st dhub b e =
      if e.bseq ≤ ((b.die q).replay.getD e.table {}).applied then b.mismatch e.table e.lrow e.bseq
      else if (b.hub (b.homeHub q)).digests.room then b.onHub (b.homeHub q) fun y => { y with digests := { y.digests with theirs := y.digests.theirs ++ [e] } }
      else b.dropEntry (b.homeHub q) e.table := by
  unfold takeEntry
  rw [found]
  dsimp only
  rw [owner]
  dsimp only
  rw [own]
  simp only [decide_eq_true_eq]

/-- A row that differs and is not listed yet is listed. -/
theorem Block.mismatch_lists (b : Block) (table lrow bseq : Nat) (unlisted : ∀ m ∈ b.eng.twin.mismatched, ¬(m.1 = table ∧ m.2.1 = lrow)) :
    b.mismatch table lrow bseq = b.onEng fun e => { e with twin := { e.twin with mismatched := e.twin.mismatched ++ [(table, lrow, bseq)] } } := by
  have none_ : (b.eng.twin.mismatched.any fun m => m.1 == table && m.2.1 == lrow) = false := by
    rw [List.any_eq_false]
    intro m mem
    simpa using unlisted m mem
  simp only [Block.mismatch, Block.onEng, none_]
  rfl

/-- Links stay up where no link, ring stop or service of a hub changes. -/
theorem Block.linkUp_onHub (b : Block) (h : Nat) (f : Hub → Hub) (up : ∀ x, (f x).regs.tlmUp = x.regs.tlmUp := by exact fun _ => rfl)
    (stop : ∀ x, (f x).ringStop = x.ringStop := by exact fun _ => rfl) (serves : ∀ x, (f x).inService = x.inService := by exact fun _ => rfl) : (b.onHub h f).linkUp = b.linkUp := by
  funext g
  unfold Block.linkUp Block.hubUp
  rw [b.hub_onHub_proj h g f (·.regs.tlmUp) up, b.hub_onHub_proj h g f (·.ringStop) stop, b.hub_onHub_proj h g f (·.inService) serves]

theorem Block.linkFor_onHub (b : Block) (h : Nat) (f : Hub → Hub) (g : Nat) (up : ∀ x, (f x).regs.tlmUp = x.regs.tlmUp := by exact fun _ => rfl)
    (stop : ∀ x, (f x).ringStop = x.ringStop := by exact fun _ => rfl) (serves : ∀ x, (f x).inService = x.inService := by exact fun _ => rfl) : (b.onHub h f).linkFor g = b.linkFor g := by
  unfold Block.linkFor
  rw [b.linkUp_onHub h f up stop serves]

theorem Block.homeHub_onHub (b : Block) (h : Nat) (f : Hub → Hub) (q : Nat) (serves : ∀ x, (f x).inService = x.inService := by exact fun _ => rfl) :
    (b.onHub h f).homeHub q = b.homeHub q := by
  have up : (b.onHub h f).hubUp = b.hubUp := funext fun g => b.hub_onHub_proj h g f (·.inService) serves
  unfold Block.homeHub Block.groupHub
  rw [up]

/-- Settles O58. -/
theorem aliveAndDigestFramesAct : Obligations.AliveAndDigestFramesAct := by
  unfold Obligations.AliveAndDigestFramesAct
  intro s w
  refine ⟨fun h up tied idle => ?_, fun hdr hears waiting => ?_, fun hdr kind reserved low up logs still why => ?_, fun h l e es going out due link => ?_,
    fun hdr e x q hears tied going found owner there => ?_⟩
  · have effect : aliveSend h s.start = s.start.sendOn h h h .alive := by
      unfold aliveSend
      dsimp only
      rw [show s.start.linkUp h = true from up, show (s.start.eng.twin.state == .paired || s.start.eng.twin.state == .resync ||
        (s.start.eng.twin.state == .pairing && s.start.eng.twin.gotPair)) = true from tied, if_neg]
      simp only [Bool.not_true, Bool.false_or, decide_eq_true_eq]
      exact Nat.not_lt.mpr idle
    obtain ⟨y, found⟩ := Block.there_of_hubUp (Block.hubUp_of_linkUp up)
    refine Runs.of_effect (s := s) rfl _ effect rfl ⟨⟨rfl, rfl, fun g other => ?_⟩, ?_⟩
    · exact Block.hub_onHub_other s.start h g _ other
    · exact (Block.hub_onHub_same s.start h _ y found).trans (by rw [← Block.hub_of_get s.blk h y found]; rfl)
  · have effect : twinRows s.store (s.start.withFrame hdr 1 id) = heardOn s hdr.link := by
      rw [withFrame_hears hears]
      exact twinRows_none _ _ waiting
    obtain ⟨y, found⟩ := Block.there_of_hubUp (Block.hubUp_of_linkUp hears.2.1)
    refine Runs.of_effect (s := s) rfl _ effect rfl ⟨⟨rfl, rfl, fun g other => ?_⟩, ?_⟩
    · exact Block.hub_onHub_other s.start hdr.link g _ other
    · exact (Block.hub_onHub_same s.start hdr.link _ y found).trans (by rw [← Block.hub_of_get s.blk hdr.link y found])
  · obtain ⟨payload, effect⟩ : ∃ payload, frameDiscard hdr kind reserved s.start = s.start.event hdr.link 0x10 none payload := by
      unfold frameDiscard Block.discardFrame
      rw [show s.start.linkUp hdr.link = true from up, if_neg (by simp; omega)]
      split
      · exact ⟨_, rfl⟩
      · split
        · exact ⟨_, rfl⟩
        · split
          · exact ⟨_, rfl⟩
          · rename_i defined ours clean
            simp only [Bool.or_eq_true, decide_eq_true_eq, not_or, not_not] at ours
            obtain high | other | dirty := why
            · exact absurd high defined
            · exact absurd ours.1 other
            · exact absurd dirty clean
    have told := Told.event s.start hdr.link 0x10 none payload still
    refine Runs.of_effect (s := s) rfl _ effect (told.part (·.wr)) ⟨rfl, recorded_event s s.start hdr.link 0x10 none payload (by decide) still logs rfl _ rfl rfl,
      told.engPart (·.twin), told.part (·.tables), told.part (·.dies), told.part (·.rings), told.part (·.outbox), fun h => told.hubPart h (·.heard)⟩
  · let c := s.start.onHub h fun x => { x with digests := { x.digests with outgoing := x.digests.outgoing.filter (!(firstBatch e (e :: es)).contains ·) } }
    have effect : digestSend h s.store s.start = c.sendOn l h h (.digest (firstBatch e (e :: es))) := by
      unfold digestSend
      dsimp only
      rw [show (s.start.hub h).digests.outgoing = e :: es from out]
      dsimp only
      have wait : ((e :: es).length < 4096 && s.start.age h < (s.start.hub h).digests.firstAge + 100) = false := by
        simp only [Bool.and_eq_false_iff, decide_eq_false_iff_not, List.length_cons]
        exact due.imp (by omega) Nat.not_lt.mpr
      rw [wait, if_neg Bool.false_ne_true]
      have linked : c.linkFor h = some l := by
        refine Eq.trans (b := s.start.linkFor h) ?_ link
        exact s.start.linkFor_onHub h _ h
      rw [← Block.sendFrame_on linked]
      refine unpairIfSettled_paired _ _ ?_
      show (c.sendFrame h h (.digest (firstBatch e (e :: es)))).eng.twin.unpairing = false
      rw [Block.sendFrame_on linked]
      exact going
    obtain ⟨y, found⟩ : ∃ y, s.start.hubs.get? h = some y := by
      obtain gone | ⟨y, found⟩ := (s.start.hubs.get? h).eq_none_or_eq_some
      · rw [Block.hub, Tbl.getD, show s.blk.hubs.get? h = none from gone] at out
        cases out
      · exact ⟨y, found⟩
    have own : c.hub h = _ := Block.hub_onHub_same s.start h _ y found
    obtain ⟨first, short, alike⟩ := mem_firstBatch e es
    have seq : (c.hub l).fseq = (s.blk.hub l).fseq := s.start.hub_onHub_proj h l _ (·.fseq) fun _ => rfl
    have digests : ((c.sendOn l h h (.digest (firstBatch e (e :: es)))).hub h).digests = (c.hub h).digests := c.hub_onHub_proj l h _ (·.digests) fun _ => rfl
    refine Runs.of_effect (s := s) rfl _ effect rfl ⟨rfl, rfl, rfl, firstBatch e (e :: es), first, short, alike, ?_, ?_, ?_⟩
    · show s.blk.outbox ++ [_] = _
      rw [frameOn, ← seq]
      rfl
    · exact (congrArg (·.own) digests).trans (by rw [own, ← Block.hub_of_get s.blk h y found])
    · refine (congrArg (·.outgoing) digests).trans ?_
      rw [own, ← Block.hub_of_get s.blk h y found]
      exact congrArg (List.filter _) out
  · have effect : digestFrame hdr [e] s.store s.start = unpairIfSettled s.store (takeEntry s.store hdr.dhub (heardOn s hdr.link) e) := by
      unfold digestFrame
      rw [withFrame_hears hears, show twinTied (heardOn s hdr.link).eng.twin = true from tied]
      rfl
    have home : (heardOn s hdr.link).homeHub q = s.blk.homeHub q := by
      refine Eq.trans (b := s.start.homeHub q) ?_ rfl
      exact s.start.homeHub_onHub hdr.link _ q
    have mine : ((heardOn s hdr.link).hub (s.blk.homeHub q)).digests = (s.blk.hub (s.blk.homeHub q)).digests := s.start.hub_onHub_proj hdr.link _ _ (·.digests) fun _ => rfl
    obtain ⟨y, at_⟩ : ∃ y, (heardOn s hdr.link).hubs.get? (s.blk.homeHub q) = some y := by
      have kept : AddrKept s.start (heardOn s hdr.link) := .of_modify hdr.link _ rfl fun _ => rfl
      exact kept.there (Option.ne_none_iff_exists'.mp there)
    obtain ⟨b, isB⟩ : ∃ b, b = heardOn s hdr.link := ⟨_, rfl⟩
    have eng : b.eng = s.blk.eng := by rw [isB]; rfl
    have wr : b.wr = [] := by rw [isB]; rfl
    have dies : b.dies = s.blk.dies := by rw [isB]; rfl
    have table : b.tables.get? e.table = some x := by rw [isB]; exact found
    rw [← isB] at effect home mine at_ owner
    rw [← home] at mine at_ ⊢
    have set : ∀ f : Digests → Digests, ((b.onHub (b.homeHub q) fun y => { y with digests := f y.digests }).hub (b.homeHub q)).digests =
        f (s.blk.hub (b.homeHub q)).digests := fun f => by
      rw [Block.hub_onHub_same _ _ _ y at_, ← mine, Block.hub_of_get _ _ y at_]
    have ended : ∀ c : Block, c.eng.twin.unpairing = false → takeEntry s.store hdr.dhub b e = c → digestFrame hdr [e] s.store s.start = c := fun c going taken => by
      rw [effect, taken, unpairIfSettled_paired _ _ going]
    have going' : b.eng.twin.unpairing = false := by rw [eng]; exact going
    have listed : (∀ m ∈ w.mismatched, ¬(m.1 = e.table ∧ m.2.1 = e.lrow)) → ∀ c : Block, c.eng = b.eng → (c.mismatch e.table e.lrow e.bseq) =
        c.onEng fun e' => { e' with twin := { e'.twin with mismatched := w.mismatched ++ [(e.table, e.lrow, e.bseq)] } } := fun unlisted c same => by
      rw [c.mismatch_lists _ _ _ (by rw [same, eng]; exact unlisted)]
      simp only [Block.onEng, same, eng]
      rfl
    intro d applied
    refine ⟨fun o own => ?_, fun alone later room => ?_, fun alone earlier unlisted => ?_⟩
    · have taken := takeEntry_paired (st := s.store) (dhub := hdr.dhub) table owner (by rw [mine]; exact own)
      have paired := set fun d => { d with own := d.own.filter (!sameKey e ·) }
      dsimp only at taken
      generalize settled : b.onHub (b.homeHub q) (fun y => { y with digests := { y.digests with own := y.digests.own.filter (!sameKey e ·) } }) = c at taken paired
      have rest : c.eng = b.eng ∧ c.wr = [] ∧ c.dies = s.blk.dies := by
        rw [← settled]
        exact ⟨rfl, wr, dies⟩
      obtain ⟨eng', wr', dies'⟩ := rest
      cases same : equalTo e o with
      | true =>
        rw [same, if_pos rfl] at taken
        exact Runs.of_effect (s := s) rfl c (ended c (by rw [eng']; exact going') taken) wr' ⟨rfl, dies', paired, fun _ => eng'.trans eng, fun differs => absurd differs.symm Bool.false_ne_true⟩
      | false =>
        rw [same, if_neg Bool.false_ne_true] at taken
        refine Runs.of_effect (s := s) rfl (c.mismatch e.table e.lrow e.bseq) (ended _ ?_ taken) wr' ⟨rfl, dies', paired, fun alike => absurd alike Bool.false_ne_true, fun _ unlisted => ?_⟩
        · show c.eng.twin.unpairing = false
          rw [eng']
          exact going'
        · show (c.mismatch e.table e.lrow e.bseq).eng.twin.mismatched = _
          rw [listed unlisted c eng']
          rfl
    · have taken := takeEntry_alone (st := s.store) (dhub := hdr.dhub) table owner (by rw [mine]; exact alone)
      rw [if_neg (by rw [Block.die, dies]; exact Nat.not_le.mpr later), if_pos (by rw [mine]; exact room)] at taken
      have kept := set fun d => { d with theirs := d.theirs ++ [e] }
      generalize settled : b.onHub (b.homeHub q) (fun y => { y with digests := { y.digests with theirs := y.digests.theirs ++ [e] } }) = c at taken kept
      have rest : c.eng = b.eng ∧ c.wr = [] ∧ c.dies = s.blk.dies := by
        rw [← settled]
        exact ⟨rfl, wr, dies⟩
      obtain ⟨eng', wr', dies'⟩ := rest
      exact Runs.of_effect (s := s) rfl c (ended c (by rw [eng']; exact going') taken) wr' ⟨rfl, eng'.trans eng, dies', kept⟩
    · have taken := takeEntry_alone (st := s.store) (dhub := hdr.dhub) table owner (by rw [mine]; exact alone)
      rw [if_pos (by rw [Block.die, dies]; exact earlier)] at taken
      refine Runs.of_effect (s := s) rfl (b.mismatch e.table e.lrow e.bseq) (ended _ ?_ taken) wr ⟨rfl, dies, mine, ?_⟩
      · exact going'
      · show (b.mismatch e.table e.lrow e.bseq).eng.twin.mismatched = _
        rw [listed unlisted b rfl]
        rfl

end Sys2Proof.Machine
end

section
/-! O57: pairing, its failures and its ends. -/
namespace Sys2Proof.Machine
open Sys2Proof.Spec

/-! ### Frames on every link -/

/-- The n-th frame from now that leaves through a link. -/
def Block.frameNext (b : Block) (l shub dhub : Nat) (f : TFrame) : Out :=
  .frame l { link := l, pairId := b.eng.twin.pairId, fseq := (b.hub l).fseq + 1, shub := shub, dhub := dhub, version := 0x20 + b.eng.minor } f

/-- One frame on each of several links. -/
theorem Block.sendEach_outbox (ls : List Nat) (distinct : ls.Nodup) (f : TFrame) (b : Block) :
    (ls.foldl (fun b l => b.sendOn l l l f) b).outbox = b.outbox ++ ls.map fun l => b.frameNext l l l f := by
  induction ls generalizing b with
  | nil => exact (List.append_nil _).symm
  | cons l ls ih =>
    obtain ⟨fresh, rest⟩ := List.nodup_cons.mp distinct
    rw [List.foldl_cons, ih rest, List.map_cons, List.append_cons]
    refine congrArg₂ _ rfl (List.map_congr_left fun k mem => ?_)
    have other : k ≠ l := fun same => fresh (same ▸ mem)
    have hub : ((b.sendOn l l l f).hub k) = b.hub k := Block.hub_onHub_other b l k _ other
    simp only [Block.frameNext, hub]
    rfl

theorem Block.sendAll_outbox (b : Block) (f : TFrame) :
    (b.sendAll f).outbox = b.outbox ++ ((List.range 4).filter b.linkUp).map fun l => b.frameNext l l l f :=
  b.sendEach_outbox _ (List.nodup_range.filter _) f

/-! ### A pairing that fails (R386) -/

/-- The state is what it was before the pairing, and the message learns why. -/
theorem failPairing_fails (s : State) (b : Block) (detail table : Nat) (still : b.Quiet) (logs : b.eng.passing = false) (t : State)
    (ended : t.blk = b.failPairing detail table) (stored : t.store = s.store) (eseq : b.eng.eseq = s.blk.eng.eseq) (before : b.eng.twin.before = s.blk.eng.twin.before)
    (tables : b.tables = s.blk.tables) (rings : b.rings = s.blk.rings) (dies : b.dies = s.blk.dies) (pend : b.eng.pend = s.blk.eng.pend) :
    PairingFailed s t detail := by
  unfold Block.failPairing at ended
  dsimp only at ended
  generalize failed : Block.pairFailed _ detail = c at ended
  change t.blk = c.event b.eng.leader 0x11 none (pack [(0, 32, b.eng.twin.pairId), (32, 3, 5), (35, 5, detail), (40, 20, table)]) at ended
  have eng : c.eng = { b.eng with twin := { b.eng.twin with state := b.eng.twin.before, gotPair := false, receiver := false, sweeps := [], resyncs := [] }
                                  pend := b.eng.pend.map fun p => if p.code = 0x90 && !p.behind then { p with aux := [detail] } else p } := by
    rw [← failed]
    rfl
  have same : c.hubs = b.hubs ∧ c.tables = b.tables ∧ c.rings = b.rings ∧ c.dies = b.dies := by
    rw [← failed]
    exact ⟨rfl, rfl, rfl, rfl⟩
  obtain ⟨hubs', tables', rings', dies'⟩ := same
  have quiet : c.Quiet := fun g => by rw [Block.hub, hubs']; exact still g
  have told := Told.event c b.eng.leader 0x11 none (pack [(0, 32, b.eng.twin.pairId), (32, 3, 5), (35, 5, detail), (40, 20, table)]) quiet
  have twin := told.engPart (·.twin)
  refine ⟨stored, ?_, ?_, ?_, ?_, ?_, ?_, fun p mem code front => ?_⟩
  · rw [ended, twin, eng]
    exact before
  · rw [ended, twin, eng]
  · exact recorded_event s c _ 0x11 none _ (by decide) quiet (by rw [eng]; exact logs) (by rw [eng]; exact eseq) t (by rw [ended]) (by rw [ended])
  · rw [ended, told.part (·.tables), tables', tables]
  · rw [ended, told.part (·.rings), rings', rings]
  · rw [ended, told.part (·.dies), dies', dies]
  · rw [ended, told.engPart (·.pend), eng]
    refine List.mem_map.mpr ⟨p, pend ▸ mem, ?_⟩
    rw [if_pos (by simp [code, front])]

/-- A failed pairing writes nothing. -/
theorem Block.failPairing_wr (b : Block) (detail table : Nat) (still : b.Quiet) : (b.failPairing detail table).wr = b.wr := by
  unfold Block.failPairing
  dsimp only
  generalize failed : Block.pairFailed _ detail = c
  change (c.event b.eng.leader 0x11 none (pack [(0, 32, b.eng.twin.pairId), (32, 3, 5), (35, 5, detail), (40, 20, table)])).wr = b.wr
  have same : c.hubs = b.hubs ∧ c.wr = b.wr := by
    rw [← failed]
    exact ⟨rfl, rfl⟩
  have quiet : c.Quiet := fun g => by rw [Block.hub, same.1]; exact still g
  exact ((Told.event c b.eng.leader 0x11 none _ quiet).part (·.wr)).trans same.2

/-! ### The loss of the twin (R399, R404) -/

/-- A part of an entry that a change of every entry leaves. -/
theorem Tbl.getD_mapVal_part {α β : Type} {t u : Tbl α} (f : Nat → α → α) (same : u = t.mapVal f) (p : α → β) (k : Nat) (d : α)
    (keeps : ∀ q x, p (f q x) = p x := by exact fun _ _ => rfl) : p (u.getD k d) = p (t.getD k d) := by
  simp only [same, Tbl.getD, Tbl.get?_mapVal]
  cases t.get? k with
  | none => rfl
  | some x => exact keeps k x

/-- Tasks that are dropped leave a row die but for its channels' queues. -/
theorem Block.dropTasks_dies (b : Block) (rid p : Nat) : ∃ f : Nat → RowDie → RowDie, (b.dropTasks rid p).dies = b.dies.mapVal f ∧
    ∀ q d, f q d = { d with chans := (f q d).chans } := by
  unfold Block.dropTasks
  dsimp only
  refine ⟨_, rfl, ?_⟩
  exact fun _ _ => rfl

/-- Tasks that are dropped leave a hub but for its tasks. -/
theorem Block.dropTasks_hubs (b : Block) (rid p : Nat) : ∃ f : Nat → Hub → Hub, (b.dropTasks rid p).hubs = b.hubs.mapVal f ∧
    ∀ q x, f q x = { x with sched := (f q x).sched } := by
  unfold Block.dropTasks
  dsimp only
  refine ⟨_, rfl, ?_⟩
  exact fun _ _ => rfl

/-- The twin's state, the digests, the exchanging tables and the twin's journals are the same, and the frames of Firm stand. -/
structure Alone (b c : Block) : Prop where
  firm : Firm b c
  twin : c.eng.twin = b.eng.twin
  digests : ∀ g, (c.hub g).digests = (b.hub g).digests
  tables : c.tables = b.tables
  journals : ∀ q, (c.die q).twinJournal = (b.die q).twinJournal
  later : b.eng.eseq ≤ c.eng.eseq

namespace Alone

variable {b c d : Block}

theorem refl (b : Block) : Alone b b := ⟨.refl b, rfl, fun _ => rfl, rfl, fun _ => rfl, le_rfl⟩

theorem trans (first : Alone b c) (second : Alone c d) : Alone b d :=
  ⟨first.firm.trans second.firm, second.twin.trans first.twin, fun g => (second.digests g).trans (first.digests g), second.tables.trans first.tables,
    fun q => (second.journals q).trans (first.journals q), first.later.trans second.later⟩

theorem foldl {α : Type} {f : Block → α → Block} (step : ∀ b a, Alone b (f b a)) (as : List α) (b : Block) : Alone b (as.foldl f b) := by
  induction as generalizing b with
  | nil => exact refl b
  | cons a as ih => exact (step b a).trans (ih (f b a))

theorem event (b : Block) (hub kind : Nat) (job : Option Nat) (payload : Nat) : Alone b (b.event hub kind job payload) :=
  have touch : Touch Wr.plain b (b.event hub kind job payload) := Touch.event b _ _ _ _
  have shelved := Shelved.event b hub kind job payload
  ⟨.of_touch touch, touch.part (·.eng.twin), fun g => touch.hub g (·.digests), shelved.tables, fun q => touch.die q (·.twinJournal), shelved.later⟩

theorem onWork (b : Block) (r p : Nat) (f : Work → Work) : Alone b (b.onWork r p f) := ⟨.onWork b r p f, rfl, fun _ => rfl, rfl, fun _ => rfl, le_rfl⟩

theorem endSlot (b : Block) (rid p status pos : Nat) (counters : List Nat) : Alone b (b.endSlot rid p status pos counters) := by
  have freed : ∀ (c : Block) lead, Alone c (c.freePages rid lead) := fun c lead => by
    unfold Block.freePages
    split
    · exact refl c
    · exact ⟨.onGroup c _ _ _, rfl, fun _ => rfl, rfl, fun _ => rfl, le_rfl⟩
  have dropped : ∀ c : Block, Alone c (c.dropTasks rid p) := fun c => ⟨.dropTasks c rid p, rfl,
    fun g => by
      obtain ⟨f, same, keeps⟩ := c.dropTasks_hubs rid p
      exact Tbl.getD_mapVal_part f same (·.digests) g {} fun q x => congrArg (·.digests) (keeps q x), rfl,
    fun q => by
      obtain ⟨f, same, keeps⟩ := c.dropTasks_dies rid p
      exact Tbl.getD_mapVal_part f same (·.twinJournal) q {} fun q d => congrArg (·.twinJournal) (keeps q d), le_rfl⟩
  have walks : ∀ c : Block, Alone c (c.dropWalks (ringHub rid) fun w => decide (w.who = .unit rid p)) := fun c =>
    have touch : Touch Wr.plain c (c.dropWalks (ringHub rid) fun w => decide (w.who = .unit rid p)) := Touch.dropWalks c _ _
    ⟨.of_touch touch, rfl, fun g => touch.hub g (·.digests), rfl, fun _ => rfl, le_rfl⟩
  unfold Block.endSlot Block.closeSlot
  dsimp only
  exact ((onWork b rid p _).trans (freed _ _)).trans ((walks _).trans (dropped _))

theorem finish (b : Block) (rid p status pos : Nat) : Alone b (b.finish rid p status pos) := by
  unfold Block.finish
  split
  · exact endSlot b _ _ _ _ _
  · exact refl b

theorem askGate (b : Block) (rid p stack : Nat) : Alone b (b.askGate rid p stack) := by
  unfold Block.askGate
  split
  · exact refl b
  · split
    · exact onWork b _ _ _
    · exact refl b

theorem reask (b : Block) (table : Nat) : Alone b (b.reask table) := by
  unfold Block.reask
  refine foldl (fun b w => ?_) _ b
  split
  · split
    · exact foldl (fun b s => askGate b _ _ s) _ b
    · exact refl b
  · exact refl b

theorem sendOn (b : Block) (link shub dhub : Nat) (f : TFrame) : Alone b (b.sendOn link shub dhub f) :=
  have counted : Firm b (b.onHub link fun x => { x with fseq := (b.hub link).fseq + 1, lastSent := b.age link }) := .onHub b link _ fun _ => rfl
  ⟨counted.trans (.of_same rfl rfl rfl rfl), rfl, fun g => (Sent.sendOn b link shub dhub f).hubPart g (·.digests), rfl, fun _ => rfl, le_rfl⟩

theorem sendAll (b : Block) (f : TFrame) : Alone b (b.sendAll f) := foldl (fun b l => sendOn b l l l f) _ b

theorem pairFailed (b : Block) (detail : Nat) : Alone b (b.pairFailed detail) := ⟨.onEng b _ rfl, rfl, fun _ => rfl, rfl, fun _ => rfl, le_rfl⟩

end Alone

/-- The twin's state as its loss leaves it. -/
def Twin.lost (x : Twin) : Twin :=
  { x with state := .solo, fences := [], resyncs := [], sweeps := [], mismatched := [], abandoned := [], gotPair := false, unpairing := false, receiver := false
           rowsIn := [] }

/-- No digest waits and no table exchanges digests any more. -/
def Block.undigested (b : Block) (left : List Nat) (emptyJournals : Bool) : Block :=
  { b with hubs := b.hubs.mapVal fun _ h => { h with digests := {} }
           tables := b.tables.mapVal fun t x => { x with exchanging := false, incomplete := x.incomplete || left.contains t }
           dies := if emptyJournals then b.dies.mapVal fun _ d => { d with twinJournal := [] } else b.dies }

/-- The events, slots and frames of the twin's loss. -/
def Block.lossTold (b : Block) (left : List Nat) (pairId cause unpair : Nat) : Block :=
  let b := left.foldl (fun b t => b.event b.eng.leader 0x13 (some (tdOf (b.tables.getD t {}).desc).job) (pack [(0, 20, t), (20, 2, 2)])) b
  let b := ((b.endExchanges).pairFailed 0).sendAll (.unpair unpair)
  b.event b.eng.leader 0x11 none (pack [(0, 32, pairId), (32, 3, cause)])

theorem twinLost_eq (st : Store) (b : Block) (cause unpair : Nat) (emptyJournals : Bool) : ∃ (left : List Nat) (own : List DigestEntry) (c : Block),
    c = ((own.foldl (entryToJournal st) (b.onTwin Twin.lost)).undigested left emptyJournals).lossTold left b.eng.twin.pairId cause unpair ∧
      twinLost st b cause unpair emptyJournals = c.mirrored.foldl (fun b x => b.reask x.1) c :=
  ⟨_, _, _, rfl, rfl⟩

/-- An entry that moves into the journal leaves the twin's state, and events are only added. -/
theorem entryToJournal_kept (st : Store) (b : Block) (e : DigestEntry) : Firm b (entryToJournal st b e) ∧ (entryToJournal st b e).eng.twin = b.eng.twin ∧
    b.eng.eseq ≤ (entryToJournal st b e).eng.eseq := by
  have journal : ∀ td q, (b.journal td q e.lrow e.bseq).eng.twin = b.eng.twin ∧ b.eng.eseq ≤ (b.journal td q e.lrow e.bseq).eng.eseq := fun td q => by
    unfold Block.journal Block.journalAdd
    dsimp only
    split
    · exact ⟨rfl, le_rfl⟩
    · split
      · exact ⟨rfl, le_rfl⟩
      · split
        · exact ⟨rfl, le_rfl⟩
        · have told := Alone.event (b.onTable td.table fun x => { x with overflowed := true }) (b.homeHub q) 0x13 (some td.job) (pack [(0, 20, td.table), (20, 2, 1)])
          exact ⟨told.twin, told.later⟩
  unfold entryToJournal
  dsimp only
  split
  · exact ⟨Firm.journal b _ _ _ _, journal _ _⟩
  · exact ⟨.refl b, rfl, le_rfl⟩

theorem entriesToJournal_kept (st : Store) (es : List DigestEntry) (b : Block) : Firm b (es.foldl (entryToJournal st) b) ∧
    (es.foldl (entryToJournal st) b).eng.twin = b.eng.twin ∧ b.eng.eseq ≤ (es.foldl (entryToJournal st) b).eng.eseq := by
  induction es generalizing b with
  | nil => exact ⟨.refl b, rfl, le_rfl⟩
  | cons e es ih =>
    obtain ⟨firm, twin, later⟩ := entryToJournal_kept st b e
    obtain ⟨firm', twin', later'⟩ := ih (entryToJournal st b e)
    exact ⟨firm.trans firm', twin'.trans twin, later.trans later'⟩

theorem Block.lossTold_alone (b : Block) (left : List Nat) (pairId cause unpair : Nat) (still : b.Quiet) (logs : b.eng.passing = false) :
    Alone b (b.lossTold left pairId cause unpair) ∧ b.eng.eseq < (b.lossTold left pairId cause unpair).eng.eseq := by
  have exchanges : ∀ c : Block, Alone c c.endExchanges := fun c => .foldl (fun b w => by
    split
    · exact Alone.finish b _ _ _ _
    · exact Alone.refl b) _ c
  have events := Alone.foldl (f := fun (b : Block) t => b.event b.eng.leader 0x13 (some (tdOf (b.tables.getD t {}).desc).job) (pack [(0, 20, t), (20, 2, 2)]))
    (fun b t => .event b _ _ _ _) left b
  unfold Block.lossTold
  dsimp only
  have sent := (events.trans (exchanges _)).trans ((Alone.pairFailed _ 0).trans (Alone.sendAll _ (.unpair unpair)))
  refine ⟨sent.trans (.event _ _ _ _ _), ?_⟩
  rw [Block.event_eseq _ _ _ _ _ (sent.firm.quiet still) ((sent.firm.engPart (·.passing)).trans logs)]
  exact Nat.lt_succ_of_le sent.later

/-- What the loss of the twin leaves (R399, R404). -/
theorem twinLost_gone (st : Store) (s : State) (b : Block) (cause unpair : Nat) (emptyJournals : Bool) (still : b.Quiet) (logs : b.eng.passing = false)
    (silent : Silent b) (last : b.eng.twin.lastPairId = s.blk.eng.twin.lastPairId) (t : State) (ended : t.blk = { twinLost st b cause unpair emptyJournals with wr := [] }) :
    Silent (twinLost st b cause unpair emptyJournals) ∧ TwinGone s t ∧ b.eng.eseq < t.blk.eng.eseq ∧ (emptyJournals = true → ∀ q, (t.blk.die q).twinJournal = []) := by
  obtain ⟨left, own, c, isC, lost⟩ := twinLost_eq st b cause unpair emptyJournals
  obtain ⟨firm, twin, later⟩ := entriesToJournal_kept st own (b.onTwin Twin.lost)
  have quiet : (own.foldl (entryToJournal st) (b.onTwin Twin.lost)).Quiet := firm.quiet still
  have silent' : Silent (own.foldl (entryToJournal st) (b.onTwin Twin.lost)) := firm.silent still silent
  have passing : (own.foldl (entryToJournal st) (b.onTwin Twin.lost)).eng.passing = false := (firm.engPart (·.passing)).trans logs
  generalize own.foldl (entryToJournal st) (b.onTwin Twin.lost) = d at isC twin later quiet silent' passing
  have cleared : ∀ g, ((d.undigested left emptyJournals).hub g) = { d.hub g with digests := {} } := fun g =>
    Tbl.getD_mapVal_apply d.hubs (fun x => { x with digests := {} }) g {} rfl
  have quiet' : (d.undigested left emptyJournals).Quiet := fun g => by rw [cleared]; exact quiet g
  obtain ⟨alone, grows⟩ := (d.undigested left emptyJournals).lossTold_alone left b.eng.twin.pairId cause unpair quiet' passing
  have whole : Alone (d.undigested left emptyJournals) (twinLost st b cause unpair emptyJournals) := by
    rw [lost, isC]
    exact alone.trans (.foldl (f := fun (b : Block) (x : Nat × TD) => b.reask x.1) (fun b x => .reask b x.1) _ _)
  have reached : Alone c (twinLost st b cause unpair emptyJournals) := by
    rw [lost]
    exact .foldl (f := fun (b : Block) (x : Nat × TD) => b.reask x.1) (fun b x => .reask b x.1) _ _
  have state : (twinLost st b cause unpair emptyJournals).eng.twin = b.eng.twin.lost := whole.twin.trans twin
  refine ⟨whole.firm.silent quiet' silent', ?_, ?_, fun empty q => ?_⟩
  · rw [TwinGone, ended]
    refine ⟨?_, ?_, ?_, ?_, ?_, ?_, ?_, fun h => ?_, fun n x found => ?_⟩
    · rw [state]; rfl
    · rw [state]; rfl
    · rw [state]; rfl
    · rw [state]; rfl
    · rw [state]; rfl
    · rw [state]; rfl
    · rw [state]; exact last
    · exact (whole.digests h).trans (by rw [cleared])
    · replace found : (twinLost st b cause unpair emptyJournals).tables.get? n = some x := found
      rw [whole.tables, Block.undigested, Tbl.get?_mapVal] at found
      obtain ⟨y, _, rfl⟩ := Option.map_eq_some_iff.mp found
      rfl
  · rw [ended]
    refine lt_of_lt_of_le ?_ reached.later
    rw [isC]
    exact lt_of_le_of_lt later grows
  · rw [ended]
    refine (whole.journals q).trans ?_
    rw [Block.undigested, empty]
    exact congrArg (·.twinJournal) (Tbl.getD_mapVal_apply d.dies (fun x => { x with twinJournal := [] }) q {} rfl)

/-! ### The checks of a PAIR frame (R386) -/

/-- The block after the frame is heard, and the PAIR frame that a leader without one sends. -/
def Block.pairHeard (b : Block) : Block := if b.eng.twin.state == .pairing && b.eng.twin.pairSent.isNone then b.sendPair else b

/-- What a PAIR frame of this engine tells. -/
def Block.pairPayload (b : Block) : PairPayload :=
  { primary := b.eng.twin.primaryAsked, resync := b.eng.twin.resyncAsked, state := stateCode b.eng.twin.before, lastPairId := b.eng.twin.lastPairId
    entries := (b.tables.filter fun (_, x) => (tdOf x.desc).mirror).map fun (n, x) => b.pairEntry n x }

/-- A PAIR frame sent leaves everything but the links' counts and the age at which it was sent. -/
theorem sendPair_sent (b : Block) : Sent (b.onTwin fun x => { x with pairSent := some (b.age b.eng.leader) }) b.sendPair := Sent.sendAll _ _

/-- What the checks of a PAIR frame read is as it was before it. -/
structure PairRead (b c : Block) : Prop where
  twin : ∃ a, c.eng = { b.eng with twin := { b.eng.twin with pairSent := a } }
  hubs : c.hubs.mapVal (fun _ => Hub.unsent) = b.hubs.mapVal fun _ => Hub.unsent
  rest : c = { b with hubs := c.hubs, outbox := c.outbox, eng := c.eng }

theorem Block.pairHeard_read (b : Block) : PairRead b b.pairHeard := by
  unfold Block.pairHeard
  split
  · have sent := sendPair_sent b
    refine ⟨⟨some (b.age b.eng.leader), sent.part (·.eng)⟩, sent.hubs, ?_⟩
    rw [sent.eq]
    rfl
  · exact ⟨⟨b.eng.twin.pairSent, rfl⟩, rfl, rfl⟩

namespace PairRead

variable {b c : Block}

theorem part (read : PairRead b c) {α : Type} (p : Block → α)
    (keeps : ∀ (d : Block) hubs outbox eng, p { d with hubs := hubs, outbox := outbox, eng := eng } = p d := by exact fun _ _ _ _ => rfl) : p c = p b :=
  (congrArg p read.rest).trans (keeps b _ _ _)

theorem engPart (read : PairRead b c) {α : Type} (p : Eng → α)
    (keeps : ∀ (e : Eng) a, p { e with twin := { e.twin with pairSent := a } } = p e := by exact fun _ _ => rfl) : p c.eng = p b.eng := by
  obtain ⟨a, same⟩ := read.twin
  rw [same, keeps]

theorem quiet (read : PairRead b c) (still : b.Quiet) : c.Quiet := fun g => by
  have same := congrArg (fun t => Tbl.getD t g {}) read.hubs
  rw [Tbl.getD_mapVal_apply c.hubs _ g {} rfl, Tbl.getD_mapVal_apply b.hubs _ g {} rfl] at same
  exact (congrArg (·.regs.msiAddr) same).trans (still g)

end PairRead

/-- The mirrored tables are those that a PAIR frame lists. -/
theorem Block.mirrored_eq (b : Block) : b.mirrored = (b.tables.filter fun x => (tdOf x.2.desc).mirror).map fun x => (x.1, tdOf x.2.desc) := by
  rw [Block.mirrored, List.filter_map]
  rfl

/-- Where the twin has every mirrored table, its frame lists some if there are any. -/
theorem Block.entries_of_pairTables {b : Block} {p : PairPayload} (agree : b.pairTables p = none) (some_ : b.mirrored ≠ []) : p.entries ≠ [] := by
  intro empty
  rw [b.mirrored_eq] at some_
  unfold Block.pairTables at agree
  dsimp only at agree
  obtain ⟨x, xs, own⟩ := List.exists_cons_of_ne_nil fun none_ => some_ (congrArg (List.map _) none_)
  rw [own, List.find?_cons_of_pos (by simp [empty])] at agree
  cases agree

theorem Sent.nameRows (b : Block) : Sent b b.nameRows := by
  refine Sent.foldl (f := fun b (x : Nat × RowDie) => x.2.twinJournal.foldl (fun (b : Block) (y : Nat × Nat × Nat) =>
    if (b.tables.getD y.1 {}).overflowed then b
    else b.sendFrame (b.homeHub x.1) (b.homeHub x.1) (.row { table := y.1, lrow := y.2.1, bseq := y.2.2, slot := [], master := [], accum := [] })) b) (fun b x => ?_) _ b
  refine Sent.foldl (fun b y => ?_) _ b
  split
  · exact Sent.refl b
  · exact Sent.sendFrame b _ _ _

/-- A pairing that has something left to sweep or to resynchronise is not complete. -/
theorem Block.checkPaired_open {b : Block} (left : b.eng.twin.sweeps ≠ [] ∨ b.eng.twin.resyncs ≠ []) : b.checkPaired = b := by
  unfold Block.checkPaired
  dsimp only
  refine if_neg ?_
  simp only [Bool.and_eq_true, List.isEmpty_iff]
  exact fun all => left.elim (· all.1.2) (· all.2)

/-- The block as a pairing begins: every link is taken as heard, and tables are swept or resynchronised (R386, R388). -/
def Block.pairBegins (b : Block) (p : PairPayload) (primary receiver : Bool) : Block :=
  let b := { b with hubs := b.hubs.mapVal fun h x => { x with heard := b.age h } }
  let resync := receiver || p.resync
  b.onTwin fun x => { x with
    gotPair := true, role := if primary then 1 else 2, receiver := receiver, state := if resync then .resync else .pairing
    resyncs := if !resync then [] else p.entries.map fun e =>
      let full := b.resyncFull p e
      { table := e.table, full := full, pass := if full then 0 else 1, marks := if full then b.journalMarks e.table else [] }
    sweeps := if resync then [] else b.mirrored.map fun (n, td) => (n, 0, td.lrows, true) }

theorem Block.pairBegins_twin (b : Block) (p : PairPayload) (primary receiver : Bool) :
    ((receiver || p.resync) = true → (b.pairBegins p primary receiver).eng.twin.state = .resync ∧
      (b.pairBegins p primary receiver).eng.twin.resyncs.map (·.table) = p.entries.map (·.table)) ∧
    ((receiver || p.resync) = false → (b.pairBegins p primary receiver).eng.twin.state = .pairing ∧ (b.pairBegins p primary receiver).eng.twin.resyncs = [] ∧
      (b.pairBegins p primary receiver).eng.twin.sweeps = b.mirrored.map fun x => (x.1, 0, x.2.lrows, true)) := by
  unfold Block.pairBegins
  dsimp only [Block.onTwin, Block.onEng]
  refine ⟨fun on => ?_, fun off => ?_⟩
  · rw [on]
    refine ⟨rfl, ?_⟩
    rw [if_neg (by simp), List.map_map]
    rfl
  · rw [off]
    exact ⟨rfl, rfl, rfl⟩

/-- A PAIR frame that a pairing engine takes. -/
theorem pairFrame_checks {s : State} {hdr : FrameHdr} (p : PairPayload) (hears : Hears s hdr) (state : s.blk.eng.twin.state = .pairing)
    (first : s.blk.eng.twin.gotPair = false) : ∃ b, PairRead (heardOn s hdr.link) b ∧ pairFrame hdr p s.start =
      if s.blk.eng.twin.primaryAsked == p.primary then b.failPairing 3 0
      else if (s.blk.eng.twin.resyncAsked && (p.resync || s.blk.eng.twin.before == .solo)) || (p.resync && p.state == 4) then b.failPairing 4 0
      else match b.pairTables p with
        | some x => b.failPairing 5 x
        | none =>
          if !s.blk.eng.twin.resyncAsked && !p.resync && !b.sameApplied p then b.failPairing 6 0
          else
            let c := b.pairBegins p s.blk.eng.twin.primaryAsked s.blk.eng.twin.resyncAsked
            (if s.blk.eng.twin.resyncAsked then c.nameRows else c).checkPaired := by
  have read := (heardOn s hdr.link).pairHeard_read
  refine ⟨_, read, ?_⟩
  unfold pairFrame
  rw [withFrame_hears hears]
  dsimp only
  rw [if_neg (by simp [show (heardOn s hdr.link).eng.twin.state = .pairing from state, show (heardOn s hdr.link).eng.twin.gotPair = false from first])]
  rfl

theorem heardOn_addr (s : State) (l : Nat) : AddrKept s.start (heardOn s l) := .of_modify l _ rfl fun _ => rfl

/-- What a pairing that begins leaves, with a table to sweep or to resynchronise. -/
theorem pairBegins_began (b : Block) (p : PairPayload) (primary receiver : Bool) (some_ : b.mirrored ≠ []) (agree : b.pairTables p = none) :
    ∃ c, (if receiver then (b.pairBegins p primary receiver).nameRows else b.pairBegins p primary receiver).checkPaired = c ∧
      Sent (b.pairBegins p primary receiver) c := by
  have sent : Sent (b.pairBegins p primary receiver) (if receiver then (b.pairBegins p primary receiver).nameRows else b.pairBegins p primary receiver) := by
    split
    · exact Sent.nameRows _
    · exact Sent.refl _
  have entries := Block.entries_of_pairTables agree some_
  have left : (b.pairBegins p primary receiver).eng.twin.sweeps ≠ [] ∨ (b.pairBegins p primary receiver).eng.twin.resyncs ≠ [] := by
    cases resync : receiver || p.resync with
    | true =>
      refine .inr ?_
      show (if !(receiver || p.resync) then [] else _) ≠ _
      rw [resync]
      simpa using entries
    | false =>
      refine .inl ?_
      show (if receiver || p.resync then [] else _) ≠ _
      rw [resync, if_neg Bool.false_ne_true]
      exact fun none_ => some_ (List.map_eq_nil_iff.mp none_)
  generalize (if receiver then (b.pairBegins p primary receiver).nameRows else b.pairBegins p primary receiver) = c at sent ⊢
  refine ⟨c, Block.checkPaired_open ?_, sent⟩
  rw [sent.part (·.eng)]
  exact left

/-- Settles O57. -/
theorem pairingChecksBeginsAndEnds : Obligations.PairingChecksBeginsAndEnds := by
  unfold Obligations.PairingChecksBeginsAndEnds
  intro s still logs w
  refine ⟨fun state first acts due => ?_, fun state first late => ?_, fun hdr p hears state first => ?_, fun hdr cause hears tied => ?_, fun tied unheard => ?_⟩
  · obtain ⟨alive, standing, _⟩ := acts
    have effect : (if s.start.fatal then s.start else if s.start.fw s.start.eng.leader == .handover then s.start else pairFrameSend s.start) = s.start.sendPair := by
      rw [show s.start.fatal = false from alive, if_neg Bool.false_ne_true, if_neg (show ¬(s.start.fw s.start.eng.leader == .handover) = true from fun eq => standing (beq_iff_eq.mp eq))]
      unfold pairFrameSend
      dsimp only
      rw [show s.start.eng.twin.state = .pairing from state, show s.start.eng.twin.gotPair = false from first]
      refine if_neg ?_
      rw [Bool.or_eq_true, not_or]
      refine ⟨by simp, ?_⟩
      cases sent : s.start.eng.twin.pairSent with
      | none => exact Bool.false_ne_true
      | some a => exact fun early => Nat.not_lt.mpr (due a sent) (decide_eq_true_iff.mp early)
    have sent := sendPair_sent s.start
    refine Runs.of_effect (s := s) rfl _ effect (sent.part (·.wr)) ⟨rfl, sent.part (·.eng), s.start.pairPayload, rfl, rfl, rfl, rfl, ?_, ?_⟩
    · rw [Block.mirrored_eq, List.map_map]
      exact List.map_map
    · exact Block.sendAll_outbox _ _
  · have effect : pairingTimeout s.start = s.start.failPairing 2 0 := by
      unfold pairingTimeout
      dsimp only
      rw [show s.start.eng.twin.state = .pairing from state, show s.start.eng.twin.gotPair = false from first, if_neg]
      simp only [Bool.or_eq_true, decide_eq_true_eq]
      rintro ((unpaired | got) | early)
      · cases unpaired
      · cases got
      · exact absurd late (Nat.not_le.mpr early)
    exact Runs.of_effect (s := s) rfl _ effect (s.start.failPairing_wr 2 0 still)
      (failPairing_fails s s.start 2 0 still logs _ rfl rfl rfl rfl rfl rfl rfl rfl)
  · obtain ⟨b, read, effect⟩ := pairFrame_checks p hears state first
    have quiet : b.Quiet := read.quiet ((heardOn_addr s hdr.link).quiet still)
    have wr : b.wr = [] := read.part (·.wr)
    have dies : b.dies = s.blk.dies := read.part (·.dies)
    have tables : b.tables = s.blk.tables := read.part (·.tables)
    have fails : ∀ detail table, pairFrame hdr p s.start = b.failPairing detail table → Runs (.pairFrame hdr p) s fun t => PairingFailed s t detail :=
      fun detail table ends => Runs.of_effect (s := s) rfl _ ends ((b.failPairing_wr detail table quiet).trans wr)
        (failPairing_fails s b detail table quiet ((read.engPart (·.passing)).trans logs) _ rfl rfl (read.engPart (·.eseq)) (read.engPart (·.twin.before))
          tables (read.part (·.rings)) dies (read.engPart (·.pend)))
    have same : b.pairTables p = s.blk.pairTables p := by rw [Block.pairTables, tables, Block.pairTables]
    have applied : b.sameApplied p = s.blk.sameApplied p := by
      have up : b.upDies = s.blk.upDies := read.part (·.upDies)
      rw [Block.sameApplied, Block.sameApplied, up]
      simp only [Block.die, dies]
    intro roles sources resync
    have asSources : sources → ((s.blk.eng.twin.resyncAsked && (p.resync || s.blk.eng.twin.before == .solo)) || (p.resync && p.state == 4)) = true := fun hold => by
      simpa [sources, w] using hold
    have notSources : ¬sources → ¬((s.blk.eng.twin.resyncAsked && (p.resync || s.blk.eng.twin.before == .solo)) || (p.resync && p.state == 4)) = true := fun no yes =>
      no (by simpa [sources, w] using yes)
    refine ⟨fun alike => ?_, fun apart both => ?_, fun x apart sound differs => ?_, fun apart sound agree sweeps other => ?_, fun apart sound agree begins some_ => ?_⟩
    · refine fails 3 0 ?_
      rw [effect, if_pos (beq_iff_eq.mpr alike)]
    · refine fails 4 0 ?_
      rw [effect, if_neg (fun eq => apart (beq_iff_eq.mp eq)), if_pos (asSources both)]
    · refine fails 5 x ?_
      rw [effect, if_neg (fun eq => apart (beq_iff_eq.mp eq)), if_neg (notSources sound), same, differs]
    · refine fails 6 0 ?_
      rw [effect, if_neg (fun eq => apart (beq_iff_eq.mp eq)), if_neg (notSources sound), same, agree, applied, other, if_pos]
      simpa [resync, w] using sweeps
    · have mirrored : b.mirrored = s.blk.mirrored := by rw [Block.mirrored, tables, Block.mirrored]
      obtain ⟨c, ends, sent⟩ := pairBegins_began b p s.blk.eng.twin.primaryAsked s.blk.eng.twin.resyncAsked (by rw [mirrored]; exact some_) (by rw [same, agree])
      have whole : pairFrame hdr p s.start = c := by
        rw [effect, if_neg (fun eq => apart (beq_iff_eq.mp eq)), if_neg (notSources sound), same, agree, applied]
        dsimp only
        rw [if_neg, ends]
        obtain (asked | asked) | alike := begins
        · simp [show s.blk.eng.twin.resyncAsked = true from asked]
        · simp [asked]
        · simp [alike]
      have twin := sent.part (·.eng.twin)
      have begun := b.pairBegins_twin p s.blk.eng.twin.primaryAsked s.blk.eng.twin.resyncAsked
      have on : resync → (s.blk.eng.twin.resyncAsked || p.resync) = true := fun asked => by simpa [resync, w] using asked
      have off : ¬resync → (s.blk.eng.twin.resyncAsked || p.resync) = false := fun fresh => by simpa [resync, w] using fresh
      refine Runs.of_effect (s := s) rfl c whole ((sent.part (·.wr)).trans wr) ⟨rfl, (sent.part (·.tables)).trans tables, (sent.part (·.dies)).trans dies, ?_, ?_, ?_,
        fun again some_ => ⟨?_, ?_⟩, fun fresh => ⟨?_, ?_, ?_⟩⟩
      · exact congrArg (·.gotPair) twin
      · exact congrArg (·.role) twin
      · exact congrArg (·.receiver) twin
      · rw [← (begun.1 (on again)).1]
        exact congrArg (·.state) twin
      · rw [← (begun.1 (on again)).2]
        exact congrArg (·.resyncs.map (·.table)) twin
      · rw [← (begun.2 (off fresh)).1]
        exact congrArg (·.state) twin
      · rw [← (begun.2 (off fresh)).2.1]
        exact congrArg (·.resyncs) twin
      · refine (congrArg (·.sweeps) twin).trans ((begun.2 (off fresh)).2.2.trans ?_)
        rw [mirrored]
  · have ends : unpairFrame hdr cause s.store s.start = twinLost s.store (heardOn s hdr.link) (cause + 1) 0 (cause == 1) := by
      unfold unpairFrame
      rw [withFrame_hears hears]
      exact if_pos tied
    obtain ⟨silent, gone, later, empty⟩ := twinLost_gone s.store s (heardOn s hdr.link) (cause + 1) 0 (cause == 1) ((heardOn_addr s hdr.link).quiet still) logs
      (.of_wr rfl) rfl (settle s (twinLost s.store (heardOn s hdr.link) (cause + 1) 0 (cause == 1))) rfl
    exact Runs.of_settle (s := s) rfl _ ends silent ⟨gone, later, fun asked => empty (beq_iff_eq.mpr asked)⟩
  · have ends : twinLoss s.store s.start = twinLost s.store s.start 0 0 false := by
      unfold twinLoss
      rw [show twinTied s.start.eng.twin = true from tied, if_neg]
      simp only [Bool.not_true, Bool.false_or, List.any_eq_true, decide_eq_true_eq, not_exists, not_and]
      intro l mem
      exact Nat.not_lt.mpr (unheard l (Block.mem_upHubs.mp mem).1 (Block.mem_upHubs.mp mem).2)
    obtain ⟨silent, gone, later, _⟩ := twinLost_gone s.store s s.start 0 0 false still logs (.of_wr rfl) rfl (settle s (twinLost s.store s.start 0 0 false)) rfl
    exact Runs.of_settle (s := s) rfl _ ends silent ⟨gone, later⟩

end Sys2Proof.Machine
end

section
/-! O59: repair fences and digest sweeps. -/
namespace Sys2Proof.Machine
open Sys2Proof.Spec

/-! ### Batches asked again -/

theorem Block.askGate_works (b : Block) (rid p stack : Nat) : b.askGate rid p stack = { b with works := (b.askGate rid p stack).works } := by
  unfold Block.askGate
  split
  · rfl
  · split <;> rfl

/-- Asking the row dies again changes slots in flight alone. -/
theorem Block.reask_works (b : Block) (table : Nat) : b.reask table = { b with works := (b.reask table).works } := by
  have fold : ∀ {α : Type} (f : Block → α → Block) (_ : ∀ b a, f b a = { b with works := (f b a).works }) (as : List α) (b : Block),
      as.foldl f b = { b with works := (as.foldl f b).works } := by
    intro α f step as
    induction as with
    | nil => exact fun _ => rfl
    | cons a as ih =>
      intro b
      rw [List.foldl_cons]
      refine (ih (f b a)).trans ?_
      rw [step b a]
  unfold Block.reask
  refine fold _ (fun b w => ?_) _ b
  split
  · split
    · exact fold _ (fun b s => b.askGate_works _ _ s) _ b
    · rfl
  · rfl

/-! ### Fences -/

theorem Block.fence?_onFence {b : Block} {t : Nat} {f : Fence} (there : b.fence? t = some f) (g : Fence → Fence)
    (keeps : ∀ y, (g y).table = y.table := by exact fun _ => rfl) :
    (b.onFence t g).fence? t = some (g f) := by
  have table : f.table = t := by simpa using List.find?_some there
  show (b.eng.twin.fences.map fun y => if y.table = t then g y else y).find? (·.table == t) = some (g f)
  have same : ((fun y : Fence => y.table == t) ∘ fun y => if y.table = t then g y else y) = fun y => y.table == t := by
    funext y
    simp only [Function.comp]
    split
    · rw [keeps]
    · rfl
  rw [List.find?_map, same, show b.eng.twin.fences.find? (·.table == t) = some f from there]
  simp only [Option.map_some, if_pos table]

theorem Block.fence?_dropFence (b : Block) (t : Nat) : (b.dropFence t).fence? t = none := by
  unfold Block.dropFence
  split
  · assumption
  · refine List.find?_eq_none.mpr fun y mem => ?_
    have kept := (List.mem_filter.mp mem).2
    simpa using kept

/-- A fence taken down keeps what was listed, and lists its rows again but for those of a tile (R395, R399). -/
theorem Block.dropFence_lists {b : Block} {t : Nat} {f : Fence} (there : b.fence? t = some f) :
    (∀ m ∈ b.eng.twin.mismatched, m ∈ (b.dropFence t).eng.twin.mismatched) ∧
      ∀ r ∈ f.rows, r.2.2 < 8 → (t, r.1, r.2.1) ∈ (b.dropFence t).eng.twin.mismatched := by
  unfold Block.dropFence
  rw [there]
  refine ⟨fun m mem => List.mem_append_left _ mem, fun r mem low => List.mem_append_right _ ?_⟩
  exact List.mem_map.mpr ⟨r, List.mem_filter.mpr ⟨mem, by simpa using low⟩, rfl⟩

/-- A fence as its start leaves it (steps 1 and 2). -/
def Block.newFence (b : Block) (f : Fence) : Fence := { f with step := 2, age := b.age b.eng.leader, own := some (b.highestStarted f.table) }

/-- The block with a fence that starts, before its frames. -/
def Block.withFence (b : Block) (f : Fence) : Block :=
  b.onTwin fun x => { x with fences := x.fences.filter (·.table != f.table) ++ [b.newFence f] }

theorem Block.startFence_sent (b : Block) (f : Fence) : Sent (b.withFence f) (b.startFence f) := by
  unfold Block.startFence
  dsimp only
  refine Sent.trans ?_ (Sent.sendFrame _ _ _ _)
  split
  · exact Sent.sendFrame _ _ _ _
  · exact Sent.refl _

theorem Block.fence?_startFence (b : Block) (f : Fence) : (b.startFence f).fence? f.table = some (b.newFence f) := by
  refine ((b.startFence_sent f).part (·.fence? f.table)).trans ?_
  show (b.eng.twin.fences.filter (·.table != f.table) ++ [b.newFence f]).find? (·.table == f.table) = _
  rw [List.find?_append, List.find?_eq_none.mpr]
  · simp [Block.newFence]
  · intro y mem
    simpa using (List.mem_filter.mp mem).2

/-- A frame of a fence where a link stands. -/
theorem Block.fencePhase_outbox {b : Block} {l : Nat} (link : b.linkFor b.eng.leader = some l) (t : Nat) (ph : FencePhase) (q : Nat) :
    (b.fencePhase t ph q).outbox = b.outbox ++ [b.frameNext l b.eng.leader b.eng.leader (.fence t ph q)] := by
  rw [Block.fencePhase, Block.sendFrame_on link]
  rfl

/-- With nothing to release, a fence stands. -/
theorem fenceDone_stands {st : Store} {b : Block} {t : Nat} {f : Fence} (there : b.fence? t = some f) (going : b.eng.twin.unpairing = false)
    (waits : f.lead = false ∨ f.step ≠ 4) : fenceDone st b t = b := by
  unfold fenceDone
  rw [there]
  dsimp only
  rw [going, if_neg Bool.false_ne_true, if_pos]
  simp only [Bool.or_eq_true, Bool.not_eq_true', decide_eq_true_eq]
  exact .inl waits

theorem fenceDone_gone {st : Store} {b : Block} {t : Nat} (gone : b.fence? t = none) (going : b.eng.twin.unpairing = false) : fenceDone st b t = b := by
  unfold fenceDone
  rw [gone]
  exact unpairIfSettled_paired st b going

theorem enterRepair_waits {st : Store} {b : Block} {t : Nat} {f : Fence} (there : b.fence? t = some f)
    (waits : 4 ≤ f.step ∨ f.reachedOwn = false ∨ f.reachedTheirs = false) : enterRepair st b t = b := by
  unfold enterRepair
  rw [there]
  refine if_pos ?_
  simp only [Bool.or_eq_true, Bool.not_eq_true', decide_eq_true_eq]
  tauto

/-- A fence whose twin has only said how far it has started goes no further than step 3. -/
theorem fenceGo_started {st : Store} {b : Block} {t : Nat} {f : Fence} (there : b.fence? t = some f) (going : b.eng.twin.unpairing = false) (early : f.step < 4)
    (waits : f.reachedTheirs = false) :
    (fenceGo st b t).wr = b.wr ∧ ∃ f', (fenceGo st b t).fence? t = some f' ∧ f'.theirs = f.theirs ∧ f'.own = f.own ∧ f'.lead = f.lead ∧ f'.rows = f.rows := by
  have still : fenceDone st b t = b := fenceDone_stands there going (.inr (by omega))
  unfold fenceGo fenceReached
  rw [there]
  dsimp only
  split
  · rw [still]
    exact ⟨rfl, f, there, rfl, rfl, rfl, rfl⟩
  · split
    · rw [still]
      exact ⟨rfl, f, there, rfl, rfl, rfl, rfl⟩
    · rename_i h _ _
      have moved := Block.fence?_onFence there fun f => { f with step := Nat.max f.step 3, reachedOwn := true }
      have sent : Sent (b.onFence t fun f => { f with step := Nat.max f.step 3, reachedOwn := true })
          ((b.onFence t fun f => { f with step := Nat.max f.step 3, reachedOwn := true }).fencePhase t .reached h) := Sent.sendFrame _ _ _ _
      have wr := sent.part (·.wr)
      have fence := (sent.part (·.fence? t)).trans moved
      have unpairing := sent.part (·.eng.twin.unpairing)
      generalize (b.onFence t fun f => { f with step := Nat.max f.step 3, reachedOwn := true }).fencePhase t .reached h = c at wr fence unpairing
      rw [enterRepair_waits fence (.inr (.inr waits)), fenceDone_stands fence (unpairing.trans going) (.inr ?_)]
      · exact ⟨wr, _, fence, rfl, rfl, rfl, rfl⟩
      · show Nat.max f.step 3 ≠ 4
        have bound : Nat.max f.step 3 ≤ 3 := Nat.max_le.mpr ⟨by omega, le_rfl⟩
        omega

/-! ### Rows under a fence (R394, R397) -/

/-- A row is of the table and has the number that it was looked up by. -/
theorem rowAt_named {st : Store} {b : Block} {td : TD} {lrow : Nat} {r : RowRef} (found : rowAt st b td lrow = some r) : r.td = td ∧ r.lrow = lrow := by
  have ref : ∀ parts, (b.rowRef td lrow parts).1.td = td ∧ (b.rowRef td lrow parts).1.lrow = lrow := fun parts => by
    unfold Block.rowRef
    dsimp only
    split <;> exact ⟨rfl, rfl⟩
  unfold rowAt at found
  split at found
  · rename_i seen
    obtain rfl := Option.some.inj found
    unfold rowSeen at seen
    dsimp only at seen
    obtain ⟨parts, _, same⟩ := Option.map_eq_some_iff.mp seen
    rw [← (Prod.mk.inj same).1]
    exact ref parts
  · cases found

theorem Sent.sendSweep (st : Store) (b : Block) (td : TD) (rows : List Nat) : Sent b (sendSweep st b td rows) := by
  unfold Machine.sendSweep
  refine Sent.foldl (fun b x => ?_) _ b
  obtain ⟨f, h, ds⟩ := x
  exact Sent.foldl (fun b k => Sent.sendFrame b _ _ _) _ b

/-- A row of a tile that is equal is settled without an outcome. -/
theorem settleRow_equal {b : Block} {td : TD} {f : Fence} (there : b.fence? td.table = some f) (plain : f.slot = none) (hub lrow : Nat) :
    b.settleRow td hub lrow none = b.onFence td.table fun f => { f with rows := f.rows.filter (·.1 != lrow) } := by
  unfold Block.settleRow
  rw [there]
  dsimp only
  rw [plain]

/-- What a row of a SWEEP frame does that is equal, in a tile not yet compared. -/
theorem sweepRow_equal {st : Store} {td : TD} {b : Block} {f : Fence} {lrow q : Nat} {d : Nat × Nat} {r : RowRef} (there : b.fence? td.table = some f)
    (found : rowAt st b td lrow = some r) (own : rowDigests st b r = some d) (listed : f.rows.find? (·.1 == lrow) = some (lrow, q, 9)) (sound : d.1 ≠ poisonMark)
    (plain : f.slot = none) : sweepRow st td b (lrow, d) = b.onFence td.table fun f => { f with rows := f.rows.filter (·.1 != lrow) } := by
  unfold sweepRow
  dsimp only
  rw [there, found]
  dsimp only
  rw [own]
  dsimp only
  rw [listed]
  dsimp only
  rw [if_pos (by simp [sound])]
  exact settleRow_equal there plain _ _

/-- A row that differs and is not listed is listed, its own digests sent back. -/
theorem sweepRow_lists {st : Store} {td : TD} {b : Block} {f : Fence} {lrow : Nat} {d own : Nat × Nat} {r : RowRef} (there : b.fence? td.table = some f)
    (found : rowAt st b td lrow = some r) (mine : rowDigests st b r = some own) (fresh : f.rows.find? (·.1 == lrow) = none)
    (differs : own = d → own.1 = poisonMark) (one : ¬(own.1 = poisonMark ∧ d.1 = poisonMark)) :
    sweepRow st td b (lrow, d) = (sendSweep st b td [lrow]).rowStage td.table lrow 8 := by
  unfold sweepRow
  dsimp only
  rw [there, found]
  dsimp only
  rw [mine]
  dsimp only
  rw [fresh]
  dsimp only
  rw [if_neg, if_neg]
  · simpa using one
  · simp only [Bool.and_eq_true, decide_eq_true_eq, not_and]
    exact fun sound same => sound (differs same)

/-- The primary sends a row that both hold well and that differs in its master too. -/
theorem sweepRow_sends {st : Store} {td : TD} {b : Block} {f : Fence} {lrow q : Nat} {d own : Nat × Nat} {r : RowRef} (there : b.fence? td.table = some f)
    (found : rowAt st b td lrow = some r) (mine : rowDigests st b r = some own) (listed : f.rows.find? (·.1 == lrow) = some (lrow, q, 8))
    (primary : b.eng.twin.role = 1) (masters : own.2 ≠ d.2) (sound : own.1 ≠ poisonMark) (theirs : d.1 ≠ poisonMark) :
    sweepRow st td b (lrow, d) = sendRowFrame st (b.rowStage td.table lrow 2) r 0 := by
  obtain ⟨table, row⟩ := rowAt_named found
  have differs : own ≠ d := fun same => masters (by rw [same])
  unfold sweepRow
  dsimp only
  rw [there, found]
  dsimp only
  rw [mine]
  dsimp only
  rw [listed]
  dsimp only
  rw [if_neg (by simp [differs])]
  unfold repairRow
  dsimp only
  rw [table, row, if_neg (by simp [sound]), if_neg (by simp), if_neg theirs, if_neg sound, if_neg (by simp [masters]), if_pos primary]

/-- The stage of a row that a fence lists already, or lists now. -/
theorem Block.fence?_rowStage {b : Block} {t : Nat} {f : Fence} (there : b.fence? t = some f) (lrow stage : Nat) :
    (b.rowStage t lrow stage).fence? t = some (if f.rows.any (·.1 == lrow) then { f with rows := f.rows.map fun (l, q, s) => if l = lrow then (l, q, stage) else (l, q, s) }
      else { f with rows := f.rows ++ [(lrow, 0, stage)] }) :=
  Block.fence?_onFence there _ fun y => by split <;> rfl

theorem find?_restaged {rows : List (Nat × Nat × Nat)} {lrow q s : Nat} (listed : rows.find? (·.1 == lrow) = some (lrow, q, s)) (stage : Nat) :
    (rows.map fun (l, q, s) => if l = lrow then (l, q, stage) else (l, q, s)).find? (·.1 == lrow) = some (lrow, q, stage) := by
  have same : ((fun x : Nat × Nat × Nat => x.1 == lrow) ∘ fun (l, q, s) => if l = lrow then (l, q, stage) else (l, q, s)) = fun x => x.1 == lrow := by
    funext ⟨l, q, s⟩
    simp only [Function.comp]
    split <;> rfl
  rw [List.find?_map, same, listed]
  simp

/-- A SWEEP frame with one row, at a fence that is repairing here and that the twin leads. -/
theorem sweepFrame_one {s : State} {hdr : FrameHdr} {n lrow : Nat} {d : Nat × Nat} {f : Fence} (hears : Hears s hdr) (there : s.blk.fence? n = some f)
    (repairs : f.step = 4) (reached : f.reachedOwn = true) :
    sweepFrame hdr n lrow [d] s.store s.start = fenceDone s.store (sweepRow s.store (tdOf (s.blk.tables.getD n {}).desc)
      ((heardOn s hdr.link).onFence n fun f => { f with reachedTheirs := true }) (lrow, d)) n := by
  unfold sweepFrame
  rw [withFrame_hears hears, show (heardOn s hdr.link).fence? n = some f from there]
  dsimp only
  rw [reached, if_neg (by simp), enterRepair_waits (Block.fence?_onFence (b := heardOn s hdr.link) there _) (.inl (by rw [repairs]))]
  rfl

/-- What firmware does where the engine is neither fatal nor handing over. -/
theorem firmware_acts {b c : Block} (alive : b.fatal = false) (standing : b.fw b.eng.leader ≠ .handover) :
    (if b.fatal then b else if b.fw b.eng.leader == .handover then b else c) = c := by
  rw [alive, if_neg Bool.false_ne_true, if_neg fun eq => standing (beq_iff_eq.mp eq)]

theorem heardOn_linkFor (s : State) (l g : Nat) : (heardOn s l).linkFor g = s.blk.linkFor g := by
  refine Eq.trans (b := s.start.linkFor g) ?_ rfl
  exact s.start.linkFor_onHub l _ g

theorem heardOn_fseq (s : State) (l g : Nat) : ((heardOn s l).hub g).fseq = (s.blk.hub g).fseq := by
  refine Eq.trans (b := (s.start.hub g).fseq) ?_ rfl
  exact s.start.hub_onHub_proj l g _ (·.fseq) fun _ => rfl

/-- A fence taken down changes the twin's state alone, and of it the fences and the rows listed. -/
theorem Block.dropFence_twin (b : Block) (t : Nat) : ∃ fences listed, b.dropFence t = b.onTwin fun x => { x with fences := fences, mismatched := listed } := by
  unfold Block.dropFence
  split
  · exact ⟨_, _, rfl⟩
  · exact ⟨_, _, rfl⟩

/-- Settles O59. -/
theorem fencesSweepAndRepair : Obligations.FencesSweepAndRepair := by
  unfold Obligations.FencesSweepAndRepair
  intro n s w td own lead going mirror
  refine ⟨fun l acts paired primary free differs again link => ?_, fun hdr bseq hears tied => ⟨fun l free link => ?_, fun f there => ⟨fun early first => ?_, fun early unreached => ?_, ?_⟩⟩,
    fun f alive standing there late => ?_, fun first last rep tied logs free sweep some_ => ?_, fun hdr f lrow d r own hears table there repairs reached follows plain => ?_⟩
  · obtain ⟨alive, standing, logs⟩ := acts
    let b := s.start.onTwin fun x => { x with abandoned := x.abandoned.del n }
    have effect : repairFenceStart n s.start = b.startFence { table := n } := by
      obtain ⟨m, listed, mine⟩ := differs
      have rows : (s.start.eng.twin.mismatched.filter (·.1 == n)).isEmpty = false :=
        List.isEmpty_eq_false_iff.mpr (List.ne_nil_of_mem (List.mem_filter.mpr ⟨listed, beq_iff_eq.mpr mine⟩))
      unfold repairFenceStart
      dsimp only
      rw [show s.start.eng.twin.state = .paired from paired, show s.start.eng.passing = false from logs, show s.start.fence? n = none from free,
        show s.start.eng.twin.role = 1 from primary, show (tdOf (s.start.tables.getD n {}).desc).mirror = true from mirror, rows]
      have again' : (match s.start.eng.twin.abandoned.get? n with | some h => s.start.appliedAll n h | none => true) = true := by
        cases abandoned : s.start.eng.twin.abandoned.get? n with
        | none => rfl
        | some h => exact again h abandoned
      refine if_neg ?_
      simp only [Bool.or_eq_true, not_or]
      refine ⟨⟨⟨⟨⟨by simp, by simp⟩, by simp⟩, fun no => ?_⟩, by simp⟩, by simp⟩
      rw [Bool.not_eq_true'] at no
      exact Bool.false_ne_true (no.symm.trans again')
    have sent := b.startFence_sent { table := n }
    refine Runs.of_effect (s := s) rfl _ ((firmware_acts (b := s.start) alive standing).trans effect) (sent.part (·.wr)) ⟨rfl, sent.part (·.dies), sent.part (·.eng.twin.mismatched), ?_, ?_⟩
    · exact b.fence?_startFence { table := n }
    · have asked : Sent (b.withFence { table := n }) ((b.withFence { table := n }).sendOn l lead lead (.fence n .request 0)) := Sent.sendOn _ _ _ _ _
      have first : (b.withFence { table := n }).fencePhase n .request 0 = (b.withFence { table := n }).sendOn l lead lead (.fence n .request 0) :=
        Block.sendFrame_on (b := b.withFence { table := n }) link _ _
      have linked : ((b.withFence { table := n }).sendOn l lead lead (.fence n .request 0)).linkFor lead = some l := by
        refine Eq.trans (b := (b.withFence { table := n }).linkFor lead) ?_ link
        exact (b.withFence { table := n }).linkFor_onHub l _ lead
      have whole : b.startFence { table := n } = ((b.withFence { table := n }).sendOn l lead lead (.fence n .request 0)).fencePhase n .started own := by
        rw [← first]
        rfl
      obtain ⟨y, found⟩ : ∃ y, s.start.hubs.get? l = some y := Block.there_of_hubUp (Block.hubUp_of_linkUp (List.find?_some link))
      have counted : (((b.withFence { table := n }).sendOn l lead lead (.fence n .request 0)).hub l).fseq = (s.blk.hub l).fseq + 1 := by
        refine congrArg (·.fseq) (Block.hub_onHub_same (b.withFence { table := n }) l _ y found)
      show (b.startFence { table := n }).outbox = _
      rw [whole, Block.fencePhase_outbox linked, Block.frameNext, counted]
      exact List.append_assoc _ _ _
  · have effect : fenceFrame hdr n .request bseq s.store s.start = (heardOn s hdr.link).startFence { table := n, lead := false } := by
      unfold fenceFrame
      rw [withFrame_hears hears, show (heardOn s hdr.link).fence? n = none from free, show twinTied (heardOn s hdr.link).eng.twin = true from tied,
        show (tdOf ((heardOn s hdr.link).tables.getD n {}).desc).mirror = true from mirror]
      rfl
    have sent := (heardOn s hdr.link).startFence_sent { table := n, lead := false }
    refine Runs.of_effect (s := s) rfl _ effect (sent.part (·.wr)) ⟨rfl, ⟨_, (heardOn s hdr.link).fence?_startFence { table := n, lead := false }, rfl, rfl, rfl⟩, ?_⟩
    have linked : ((heardOn s hdr.link).withFence { table := n, lead := false }).linkFor lead = some l := (heardOn_linkFor s hdr.link lead).trans link
    refine (Block.fencePhase_outbox linked n .started own).trans ?_
    rw [Block.frameNext, show (((heardOn s hdr.link).withFence { table := n, lead := false }).hub l).fseq = (s.blk.hub l).fseq from heardOn_fseq s hdr.link l]
    rfl
  · have moved := Block.fence?_onFence (b := heardOn s hdr.link) there fun y =>
      { y with theirs := some bseq, reachedOwn := y.reachedOwn && !f.theirs.isSome, reachedTheirs := false }
    let b := (heardOn s hdr.link).onFence n fun y => { y with theirs := some bseq, reachedOwn := y.reachedOwn && !f.theirs.isSome, reachedTheirs := false }
    have effect : fenceFrame hdr n .started bseq s.store s.start = fenceGo s.store (b.reask n) n := by
      unfold fenceFrame
      rw [withFrame_hears hears, show (heardOn s hdr.link).fence? n = some f from there, show twinTied (heardOn s hdr.link).eng.twin = true from tied,
        show (tdOf ((heardOn s hdr.link).tables.getD n {}).desc).mirror = true from mirror]
      dsimp only
      rw [if_neg (by simp), if_neg (by simp [first])]
    have works := b.reask_works n
    have there' : (b.reask n).fence? n = some _ := (congrArg (·.fence? n) works).trans moved
    obtain ⟨wr, f', fence, theirs, own', lead', rows⟩ := fenceGo_started (st := s.store) there' ((congrArg (·.eng.twin.unpairing) works).trans going) early rfl
    exact Runs.of_effect (s := s) rfl _ effect (wr.trans (congrArg (·.wr) works)) ⟨rfl, f', fence, theirs, own', lead', rows⟩
  · have moved := Block.fence?_onFence (b := heardOn s hdr.link) there fun f => { f with reachedTheirs := true }
    have effect : fenceFrame hdr n .reached bseq s.store s.start = (heardOn s hdr.link).onFence n fun f => { f with reachedTheirs := true } := by
      unfold fenceFrame
      rw [withFrame_hears hears, show (heardOn s hdr.link).fence? n = some f from there, show twinTied (heardOn s hdr.link).eng.twin = true from tied,
        show (tdOf ((heardOn s hdr.link).tables.getD n {}).desc).mirror = true from mirror]
      refine (congrArg (fenceDone s.store · n) (enterRepair_waits moved (.inr (.inl unreached)))).trans ?_
      exact fenceDone_stands moved going (.inr (Nat.ne_of_lt early))
    exact Runs.of_effect (s := s) rfl _ effect rfl ⟨rfl, rfl, moved⟩
  · have effect : fenceFrame hdr n .release bseq s.store s.start = ((heardOn s hdr.link).dropFence n).reask n := by
      unfold fenceFrame
      rw [withFrame_hears hears, show (heardOn s hdr.link).fence? n = some f from there, show twinTied (heardOn s hdr.link).eng.twin = true from tied,
        show (tdOf ((heardOn s hdr.link).tables.getD n {}).desc).mirror = true from mirror]
      refine fenceDone_gone ?_ ?_
      · exact (congrArg (·.fence? n) (((heardOn s hdr.link).dropFence n).reask_works n)).trans ((heardOn s hdr.link).fence?_dropFence n)
      · obtain ⟨fences, listed, dropped⟩ := (heardOn s hdr.link).dropFence_twin n
        rw [Block.reask_works, dropped]
        exact going
    obtain ⟨fences, listed, dropped⟩ := (heardOn s hdr.link).dropFence_twin n
    have works := ((heardOn s hdr.link).dropFence n).reask_works n
    have rows := (Block.dropFence_lists (b := heardOn s hdr.link) there).2
    have gone := (heardOn s hdr.link).fence?_dropFence n
    refine Runs.of_effect (s := s) rfl _ effect ?_ ⟨rfl, ?_, (congrArg (·.fence? n) works).trans gone, fun r mem low => ?_⟩
    · rw [works, dropped]
      rfl
    · show (((heardOn s hdr.link).dropFence n).reask n).outbox = s.blk.outbox
      rw [works, dropped]
      rfl
    · show (n, r.1, r.2.1) ∈ (((heardOn s hdr.link).dropFence n).reask n).eng.twin.mismatched
      rw [congrArg (·.eng.twin.mismatched) works]
      exact rows r mem low
  · have gone := s.start.fence?_dropFence n
    obtain ⟨kept, rows⟩ := Block.dropFence_lists (b := s.start) there
    obtain ⟨fences, listed, dropped⟩ := s.start.dropFence_twin n
    let b := (s.start.dropFence n).onTwin fun x => { x with abandoned := x.abandoned.put n ((fenceTop f).getD own) }
    have effect : fenceTimeout n s.start = (if f.lead then b.fencePhase n .release 0 else b).reask n := by
      unfold fenceTimeout
      rw [show s.start.fence? n = some f from there]
      exact if_neg (Nat.not_lt.mpr late)
    have sent : Sent b (if f.lead then b.fencePhase n .release 0 else b) := by
      split
      · exact Sent.sendFrame _ _ _ _
      · exact Sent.refl _
    generalize (if f.lead then b.fencePhase n .release 0 else b) = c at effect sent
    have works := c.reask_works n
    have twin : (c.reask n).eng.twin = b.eng.twin := (congrArg (·.eng.twin) works).trans (sent.part (·.eng.twin))
    refine Runs.of_effect (s := s) rfl _ ((firmware_acts (b := s.start) alive standing).trans effect) ?_ ⟨rfl, ?_, ?_, fun m mem => ?_, fun r mem low => ?_⟩
    · exact (congrArg (·.wr) works).trans ((sent.part (·.wr)).trans (by rw [show b.wr = (s.start.dropFence n).wr from rfl, dropped]))
    · show (c.reask n).eng.twin.fences.find? (·.table == n) = none
      rw [twin]
      exact gone
    · exact (congrArg (·.abandoned.get? n) twin).trans (Tbl.get?_put_same _ _ _)
    · show m ∈ (c.reask n).eng.twin.mismatched
      rw [twin]
      exact kept m mem
    · show _ ∈ (c.reask n).eng.twin.mismatched
      rw [twin]
      exact rows r mem low
  · have effect : digestSweep n s.start = s.start.startFence { table := n, sweep := some (first, Nat.min tileRows (last - first)), repair := rep } := by
      unfold digestSweep
      dsimp only
      rw [show twinTied s.start.eng.twin = true from tied, show s.start.eng.passing = false from logs, show s.start.eng.twin.unpairing = false from going,
        show s.start.fence? n = none from free, show (tdOf (s.start.tables.getD n {}).desc).mirror = true from mirror,
        show s.start.eng.twin.sweeps.find? (·.1 == n) = some (n, first, last, rep) from sweep]
      obtain ⟨k, size⟩ : ∃ k, Nat.min tileRows (last - first) = k + 1 :=
        Nat.exists_eq_succ_of_ne_zero (by unfold tileRows; have := Nat.le_min.mpr ⟨show 1 ≤ 65536 by decide, show 1 ≤ last - first by omega⟩; exact Nat.ne_of_gt this)
      dsimp only
      rw [size]
      rfl
    have sent := s.start.startFence_sent { table := n, sweep := some (first, Nat.min tileRows (last - first)), repair := rep }
    exact Runs.of_effect (s := s) rfl _ effect (sent.part (·.wr)) ⟨rfl, _, s.start.fence?_startFence _, rfl, rfl, rfl, rfl⟩
  · intro b found mine
    have moved := Block.fence?_onFence (b := heardOn s hdr.link) there fun f => { f with reachedTheirs := true }
    have at_ : b.fence? td.table = some { f with reachedTheirs := true } := by rw [table]; exact moved
    have one := sweepFrame_one (d := d) (lrow := lrow) hears there repairs reached
    have ended : ∀ c f', sweepRow s.store td b (lrow, d) = c → c.fence? n = some f' → c.eng.twin.unpairing = false → f'.lead = false →
        sweepFrame hdr n lrow [d] s.store s.start = c := fun c f' row fence open_ unled => by
      rw [one]
      refine (congrArg (fenceDone s.store · n) row).trans ?_
      exact fenceDone_stands fence open_ (.inl unled)
    refine ⟨fun q listed same sound => ?_, fun fresh differs notBoth => ?_, fun q l listed primary masters sound theirs link => ?_⟩
    · have row := sweepRow_equal at_ found (by rw [mine, same]) listed (by rw [← same]; exact sound) plain
      have fence := Block.fence?_onFence at_ fun f => { f with rows := f.rows.filter (·.1 != lrow) }
      rw [table] at row fence
      exact Runs.of_effect (s := s) rfl _ (ended _ _ row fence going follows) rfl ⟨rfl, rfl, rfl, fence⟩
    · have row := sweepRow_lists at_ found mine fresh differs notBoth
      have sent := Sent.sendSweep s.store b td [lrow]
      have fence := Block.fence?_rowStage ((sent.part (·.fence? td.table)).trans at_) lrow 8
      have none_ : (f.rows.any fun x => x.1 == lrow) = false := List.any_eq_false.mpr (List.find?_eq_none.mp fresh)
      rw [if_neg (by simp [none_]), table] at fence
      rw [table] at row
      have open_ : (sendSweep s.store b td [lrow]).eng.twin.unpairing = false := (sent.part (·.eng.twin.unpairing)).trans going
      have wr := sent.part (·.wr)
      generalize sendSweep s.store b td [lrow] = c at row fence open_ wr
      exact Runs.of_effect (s := s) rfl _ (ended _ _ row fence open_ follows) wr ⟨rfl, fence⟩
    · have row := sweepRow_sends at_ found mine listed primary masters sound theirs
      have fence := Block.fence?_rowStage at_ lrow 2
      have any_ : (f.rows.any fun x => x.1 == lrow) = true := List.any_eq_true.mpr ⟨_, List.mem_of_find?_eq_some listed, beq_self_eq_true lrow⟩
      rw [if_pos any_, table] at fence
      rw [table] at row
      obtain ⟨isTable, isRow⟩ := rowAt_named found
      have linked : (b.rowStage n lrow 2).linkFor ((b.rowStage n lrow 2).homeHub r.stack) = some l := by
        have home : (heardOn s hdr.link).homeHub r.stack = s.blk.homeHub r.stack := by
          refine Eq.trans (b := s.start.homeHub r.stack) ?_ rfl
          exact s.start.homeHub_onHub hdr.link _ r.stack
        show (heardOn s hdr.link).linkFor ((heardOn s hdr.link).homeHub r.stack) = some l
        rw [home, heardOn_linkFor]
        exact link
      have sent : sendRowFrame s.store (b.rowStage n lrow 2) r 0 = (b.rowStage n lrow 2).sendOn l ((b.rowStage n lrow 2).homeHub r.stack) ((b.rowStage n lrow 2).homeHub r.stack) _ :=
        Block.sendFrame_on linked _ _
      rw [sent] at row
      refine Runs.of_effect (s := s) rfl _ (ended _ _ row fence going follows) rfl ⟨rfl, ⟨_, fence, find?_restaged listed 2⟩, _, _, rfl, ?_, isRow, ?_⟩
      · rw [isTable]
        exact table
      · rw [isTable]
        rfl

end Sys2Proof.Machine
end

section
/-! O48: tasks, their charges and their ends. -/
namespace Sys2Proof.Machine
open Sys2Proof.Spec

/-! ### The balances (R229, R233, R234) -/

/-- The first charge of a task that runs again is none. -/
theorem Sched.firstCharge_again (x : Sched) {t : Task} (charged : t.charged ≠ 0) (rate : Nat) : x.firstCharge t rate = 0 := by
  unfold Sched.firstCharge
  dsimp only
  rw [if_pos (by simpa using charged)]

theorem Sched.firstCharge_le (x : Sched) (t : Task) (rate : Nat) : x.firstCharge t rate ≤ t.ops * rate := by
  unfold Sched.firstCharge
  dsimp only
  split
  · exact Nat.zero_le _
  · split
    · rename_i capped
      simp only [Bool.and_eq_true, decide_eq_true_eq] at capped
      exact capped.2.le
    · exact le_rfl

/-- A real-time task is charged whole. -/
theorem Sched.firstCharge_rt (x : Sched) {t : Task} (fresh : t.charged = 0) (rt : t.cls = 0) (rate : Nat) : x.firstCharge t rate = t.ops * rate := by
  unfold Sched.firstCharge
  dsimp only
  rw [fresh, rt]
  rfl

/-- A task fits only where its charge stands in the balances. -/
theorem Sched.fits_balance {x : Sched} {t : Task} {rate : Nat} (fits : x.fits t rate = true) :
    if t.cls = 0 then x.firstCharge t rate ≤ x.reserve + x.mainBal else x.firstCharge t rate ≤ x.mainBal := by
  unfold Sched.fits at fits
  dsimp only at fits
  split at fits
  · rename_i rt
    rw [if_pos rt]
    simp only [Bool.and_eq_true, Bool.or_eq_true, bne_iff_ne, decide_eq_true_eq] at fits
    obtain ⟨charged | enough, _⟩ := fits
    · rw [x.firstCharge_again charged]
      exact Nat.zero_le _
    · exact (x.firstCharge_le t rate).trans enough
  · rename_i other
    rw [if_neg other]
    simp only [Bool.and_eq_true, decide_eq_true_eq] at fits
    exact fits.1.1

/-- A charge that fits comes off the two balances together. -/
theorem Sched.charge_sum (x : Sched) (cls n : Nat) (enough : if cls = 0 then n ≤ x.reserve + x.mainBal else n ≤ x.mainBal) :
    (x.charge (cls == 0) n).mainBal + (x.charge (cls == 0) n).reserve + n = x.mainBal + x.reserve := by
  unfold Sched.charge
  by_cases rt : cls = 0
  · rw [if_pos rt] at enough
    rw [if_pos (beq_iff_eq.mpr rt)]
    show x.mainBal - (n - x.reserve) + (x.reserve - n) + n = x.mainBal + x.reserve
    omega
  · rw [if_neg rt] at enough
    rw [if_neg (by simpa using rt)]
    show x.mainBal - n + x.reserve + n = x.mainBal + x.reserve
    omega

/-- New credit lowers no balance, and raises them by no more than it is. -/
theorem Sched.credit_bounds (x : Sched) (n : Nat) : x.mainBal ≤ (x.credit n).mainBal ∧ x.reserve ≤ (x.credit n).reserve ∧
    (x.credit n).mainBal + (x.credit n).reserve ≤ x.mainBal + x.reserve + n := by
  unfold Sched.credit
  dsimp only
  refine ⟨Nat.le_max_left _ _, Nat.le_add_right _ _, ?_⟩
  have given : Nat.min n (x.rtres * 1000000 - x.reserve) ≤ n := Nat.min_le_left _ _
  have main : Nat.max x.mainBal (Nat.min (x.mainBal + (n - Nat.min n (x.rtres * 1000000 - x.reserve))) x.capNow) ≤
      x.mainBal + (n - Nat.min n (x.rtres * 1000000 - x.reserve)) := Nat.max_le.mpr ⟨Nat.le_add_right _ _, Nat.min_le_left _ _⟩
  omega

/-! ### Tasks on their hub -/

/-- The scheduler of a hub after a change of it. -/
theorem Block.sched_onSched {b : Block} {h : Nat} {hub : Hub} (found : b.hubs.get? h = some hub) (f : Sched → Sched) :
    ((b.onSched h f).hub h).sched = f hub.sched := congrArg (·.sched) (Block.hub_onHub_same b h _ hub found)

/-- A job slot after a charge or a refund. -/
theorem Block.job_onJob {b : Block} {n : Nat} {j : Job} (found : b.jobs.get? n = some j) (f : Job → Job) : (b.onJob n f).jobs.get? n = some (f j) :=
  (Tbl.get?_modify_same _ _ _).trans (congrArg _ found)

/-- A task that waits for task `id` of hub h no more. -/
def Task.released (h id now : Nat) (t : Task) : Task :=
  if t.after.contains (h, id) then { t with after := t.after.filter (· != (h, id)), readyAge := now } else t

theorem Task.released_spec (h id now : Nat) (t : Task) : (t.released h id now).id = t.id ∧ ¬(h, id) ∈ (t.released h id now).after := by
  unfold Task.released
  split
  · exact ⟨rfl, fun mem => by simpa using (List.mem_filter.mp mem).2⟩
  · rename_i free
    exact ⟨rfl, fun mem => free (List.contains_iff_mem.mpr mem)⟩

/-- What waits for a task on hub h waits for it no more (R230). -/
theorem Block.taskGone_sched (b : Block) (h id g : Nat) :
    ((b.taskGone h id).hub g).sched = { (b.hub g).sched with ready := (b.hub g).sched.ready.map (Task.released h id (b.hub g).regs.age) } := by
  have hubs : (b.taskGone h id).hubs = b.hubs.mapVal fun _ x => { x with sched := { x.sched with ready := x.sched.ready.map (Task.released h id x.regs.age) } } := rfl
  unfold Block.hub
  rw [hubs]
  exact congrArg Hub.sched (Tbl.getD_mapVal_apply b.hubs _ g {} rfl)

/-- The running tasks with one instalment more for the task charged. -/
theorem find?_instalment {l : List Task} {id n : Nat} {tk : Task} (runs : l.find? (·.id == id) = some tk) :
    ((l.map fun y => if y.id == id then { y with charged := y.charged + n } else y).find? (·.id == id)).map (·.charged) = some (tk.charged + n) := by
  rw [List.find?_map, show ((·.id == id) ∘ fun y : Task => if y.id == id then { y with charged := y.charged + n } else y) = (·.id == id) from
    funext fun y => by dsimp only [Function.comp]; split <;> rfl, runs]
  have named : (tk.id == id) = true := List.find?_some (p := fun y : Task => y.id == id) runs
  show some (if tk.id == id then _ else tk : Task).charged = _
  rw [named]
  rfl

/-- Settles O48. -/
theorem tasksAreDispatchedChargedAndEnded : Obligations.TasksAreDispatchedChargedAndEnded := by
  unfold Obligations.TasksAreDispatchedChargedAndEnded
  intro h s hub found x
  have hubIs : s.start.hub h = hub := Block.hub_of_get s.start h hub found
  refine ⟨fun c chain ctx tk mine up takes low few two idle => ?_, fun id steps tk runs => ?_, fun id tk runs => ?_⟩
  · intro fit chosen
    let y : Task := { tk with cluster := c, chain := chain, ctx := ctx, charged := tk.charged + x.firstCharge tk (s.blk.rateAt c),
                              rate := if tk.charged = 0 then s.blk.rateAt c else tk.rate, estimate := if tk.charged = 0 then tk.ops * s.blk.rateAt c else tk.estimate }
    have effect : taskDispatch h c chain ctx s.start =
        (s.start.onSched h fun x' => { x'.charge (tk.cls == 0) (x.firstCharge tk (s.blk.rateAt c)) with
          ready := x'.ready.filter (·.id != tk.id), running := x'.running ++ [y] }).onJob tk.job fun j => { j with charged := j.charged + x.firstCharge tk (s.blk.rateAt c) } := by
      have free : (x.running.any fun t => t.cluster == c && t.chain == chain && t.ctx == ctx) = false := List.any_eq_false.mpr fun t mem => by
        simpa [and_assoc] using idle t mem
      have choice : (sortBy s.start.taskBefore (hub.sched.ready.filter fun y => y.runsOn h c (s.start.keptCtx c chain ctx) (s.start.bare h) && s.start.isReady y &&
          y.avoid != some (c, chain) && s.start.mayPlace h y c chain)).find? (fun y => hub.sched.fits y (s.start.rateAt c)) = some tk := chosen
      unfold taskDispatch
      dsimp only
      rw [hubIs, show (hub.sched.running.any fun t => t.cluster == c && t.chain == chain && t.ctx == ctx) = false from free,
        show s.start.takes c = true from takes, show s.start.hubUp h = true by rw [Block.hubUp, hubIs]; exact up, if_neg]
      · rw [choice]
        rfl
      · simp only [Bool.or_eq_true, decide_eq_true_eq, not_or]
        exact ⟨⟨⟨⟨⟨⟨not_not.mpr mine, by simp⟩, by simp⟩, by simp⟩, by omega⟩, by omega⟩, by omega⟩
    have enough := Sched.fits_balance (List.find?_some (p := fun y : Task => x.fits y (s.blk.rateAt c)) chosen)
    have sum := x.charge_sum tk.cls (x.firstCharge tk (s.blk.rateAt c)) enough
    have sched := Block.sched_onSched (b := s.start) found fun x' => { x'.charge (tk.cls == 0) (x.firstCharge tk (s.blk.rateAt c)) with
          ready := x'.ready.filter (·.id != tk.id), running := x'.running ++ [y] }
    refine Runs.of_effect (s := s) rfl _ effect rfl ⟨rfl, rfl, rfl, y, x.firstCharge tk (s.blk.rateAt c), congrArg (·.running) sched, rfl, rfl, rfl, rfl, rfl,
      fun fresh => ⟨if_pos fresh, ?_, fun rt => ?_⟩, fun charged => x.firstCharge_again charged _, congrArg (·.ready) sched, ?_, fun j open_ => ⟨_, Block.job_onJob open_ _, rfl⟩⟩
    · exact (x.firstCharge_le tk _).trans (if_pos (c := tk.charged = 0) fresh).ge
    · exact (x.firstCharge_rt fresh rt _).trans (if_pos (c := tk.charged = 0) fresh).symm
    · refine Eq.trans ?_ sum
      exact congrArg (· + _) (congrArg₂ (· + ·) (congrArg (·.mainBal) sched) (congrArg (·.reserve) sched))
  · intro cost covered
    let paid := (s.start.onSched h fun x' => { x'.credit (tk.charged - cost) with running := x'.running.filter (·.id != id) }).onJob tk.job fun j =>
      { j with charged := j.charged - (tk.charged - cost) }
    have effect : taskEnd h id steps s.start = paid.taskGone h id := by
      unfold taskEnd
      rw [hubIs, show hub.sched.running.find? (·.id == id) = some tk from runs]
      exact if_neg (Nat.not_lt.mpr covered)
    have sched : (paid.hub h).sched = _ := Block.sched_onSched (b := s.start) found fun x' => { x'.credit (tk.charged - cost) with running := x'.running.filter (·.id != id) }
    have gone := paid.taskGone_sched h id h
    rw [sched] at gone
    obtain ⟨main, reserve, most⟩ := x.credit_bounds (tk.charged - cost)
    have mainIs := congrArg Sched.mainBal gone
    have reserveIs := congrArg Sched.reserve gone
    have readyIs := congrArg Sched.ready gone
    refine Runs.of_effect (s := s) rfl _ effect rfl ⟨rfl, rfl, rfl, congrArg Sched.running gone, ?_, fun y mem => ?_, main.trans mainIs.ge, reserve.trans reserveIs.ge,
      (Nat.add_le_add mainIs.le reserveIs.le).trans most, fun j open_ => ⟨_, Block.job_onJob open_ _, rfl⟩⟩
    · refine (congrArg (List.map (·.id)) readyIs).trans ((List.map_map ..).trans ?_)
      exact List.map_congr_left fun t _ => (t.released_spec h id _).1
    · obtain ⟨t, _, is⟩ := List.mem_map.mp ((show _ = _ from readyIs) ▸ mem)
      exact is ▸ (t.released_spec h id _).2
  · intro n some_ enough
    have effect : instalmentCharge h id s.start = (s.start.onSched h fun x' => { x'.charge false n with
        running := x'.running.map fun y => if y.id == id then { y with charged := y.charged + n } else y }).onJob tk.job fun j => { j with charged := j.charged + n } := by
      unfold instalmentCharge
      rw [hubIs]
      dsimp only
      rw [show hub.sched.running.find? (·.id == id) = some tk from runs]
      refine if_neg ?_
      simp only [Bool.or_eq_true, decide_eq_true_eq, not_or, Nat.not_lt]
      exact ⟨some_, enough⟩
    have sched := Block.sched_onSched (b := s.start) found fun x' => { x'.charge false n with
        running := x'.running.map fun y => if y.id == id then { y with charged := y.charged + n } else y }
    refine Runs.of_effect (s := s) rfl _ effect rfl ⟨rfl, rfl, ?_, congrArg (·.reserve) sched, ?_, ?_⟩
    · exact (congrArg (· + n) (congrArg (·.mainBal) sched)).trans (Nat.sub_add_cancel enough)
    · exact (congrArg (·.running.length) sched).trans (List.length_map _)
    · exact (congrArg (fun w => (w.running.find? (·.id == id)).map (·.charged)) sched).trans (find?_instalment runs)

end Sys2Proof.Machine
end

section
/-!
SUPPORT. Channels, stacks and what is lost with them (Table 9-5, R126, R270, R271).
-/
namespace Sys2Proof.Machine
open Sys2Proof.Spec

/-- A part of a row die that a change of a row die leaves. -/
theorem Block.die_onDie_part (b : Block) (s q : Nat) (f : RowDie → RowDie) {α : Type} (p : RowDie → α) (keeps : ∀ x, p (f x) = p x := by exact fun _ => rfl) :
    p ((b.onDie s f).die q) = p (b.die q) := by
  obtain rfl | other := eq_or_ne q s
  · obtain none_ | ⟨d, found⟩ := (b.dies.get? q).eq_none_or_eq_some
    · rw [Block.onDie, Tbl.modify_of_none _ _ _ none_]
    · rw [b.die_onDie_same _ _ d found, b.die_of_get _ d found, keeps]
  · rw [b.die_onDie_other _ _ _ other]

/-! ### Lost channels take nothing -/

/-- Of a channel, all but its queues. -/
def Chan.rest (c : Chan) : Chan := { c with narrow := [], narrowIn := [], wide := [], wideIn := [] }

/-- From b to c the channels have changed in their queues only, and the lost ones stand as they were. -/
structure ChansKept (b c : Block) : Prop where
  rest : ∀ ch, (c.chan ch).rest = (b.chan ch).rest
  idle : ∀ ch, (b.chan ch).lost = true → c.chan ch = b.chan ch

namespace ChansKept

variable {b c d : Block}

/-- What is no queue of a channel is the same. -/
theorem part (kept : ChansKept b c) (ch : Nat) {α : Type} (p : Chan → α) (keeps : ∀ x : Chan, p x.rest = p x := by exact fun _ => rfl) :
    p (c.chan ch) = p (b.chan ch) := by
  rw [← keeps (c.chan ch), ← keeps (b.chan ch), kept.rest]

theorem lost (kept : ChansKept b c) (ch : Nat) : (c.chan ch).lost = (b.chan ch).lost := kept.part ch (·.lost)

theorem refl (b : Block) : ChansKept b b := ⟨fun _ => rfl, fun _ _ => rfl⟩

theorem trans (first : ChansKept b c) (second : ChansKept c d) : ChansKept b d :=
  ⟨fun ch => (second.rest ch).trans (first.rest ch), fun ch gone => (second.idle ch ((first.lost ch).trans gone)).trans (first.idle ch gone)⟩

theorem foldl {α : Type} {f : Block → α → Block} (step : ∀ b a, ChansKept b (f b a)) (as : List α) (b : Block) : ChansKept b (as.foldl f b) := by
  induction as generalizing b with
  | nil => exact refl b
  | cons a as ih => exact (step b a).trans (ih (f b a))

theorem of_chan (same : ∀ ch, c.chan ch = b.chan ch) : ChansKept b c := ⟨fun ch => by rw [same ch], fun ch _ => same ch⟩

theorem of_dies (same : c.dies = b.dies) : ChansKept b c := of_chan fun ch => by rw [Block.chan, Block.chan, Block.die, Block.die, same]

/-- After a step that leaves the row dies. -/
theorem after (second : ChansKept c d) (same : c.dies = b.dies) : ChansKept b d := (of_dies same).trans second

theorem onDie (b : Block) (q : Nat) (f : RowDie → RowDie) (keeps : ∀ x, (f x).chans = x.chans := by exact fun _ => rfl) : ChansKept b (b.onDie q f) :=
  of_chan fun ch => by rw [Block.chan, Block.chan, b.die_onDie_part q _ f (·.chans) keeps]

theorem msiWrite (b : Block) (h : Nat) : ChansKept b (b.msiWrite h) := by
  refine of_dies ?_
  unfold Block.msiWrite
  dsimp only
  repeat' split
  all_goals rfl

theorem raise (b : Block) (h cause : Nat) : ChansKept b (b.raise h cause) := by
  unfold Block.raise
  dsimp only
  split
  · exact (msiWrite _ h).after rfl
  · exact of_dies rfl

theorem report (b : Block) (r : BitVec 256) : ChansKept b (b.report r) := by
  unfold Block.report
  split
  · exact of_dies rfl
  · exact (foldl (fun b h => raise b h intEVENT) (b.logRecord r).upHubs (b.logRecord r)).after rfl

theorem event (b : Block) (hub kind : Nat) (job : Option Nat) (payload : Nat) : ChansKept b (b.event hub kind job payload) := report b _

theorem lostWrite (b : Block) (hub granule stack source : Nat) : ChansKept b (b.lostWrite hub granule stack source) :=
  (event (b.sample 0x10 stack 0) _ _ _ _).after rfl

theorem onGroupSlice (b : Block) (s : Nat) (f : Slice → Slice) : ChansKept b (b.onGroupSlice s f) := by
  unfold Block.onGroupSlice
  split
  · exact of_dies rfl
  · exact refl b

theorem passTags (b : Block) (ch row : Nat) (zero : Bool) : ChansKept b (b.passTags ch row zero) := (onGroupSlice b _ _).trans (onDie _ _ _)

/-- A request goes to a channel that is not lost. -/
theorem request (b : Block) (ch : Nat) (rt : Bool) (q : Req) : ChansKept b (b.request ch rt q) := by
  unfold Block.request
  split
  · exact refl b
  · rename_i live
    obtain none_ | ⟨d, found⟩ := (b.dies.get? (ch / 64)).eq_none_or_eq_some
    · refine of_dies ?_
      rw [Block.onChan, Block.onDie, Tbl.modify_of_none _ _ _ none_]
    · have there : b.dies.get? (ch / 64) ≠ none := by
        rw [found]
        exact Option.some_ne_none d
      refine ⟨fun x => ?_, fun x gone => ?_⟩ <;> rw [b.chan_onChan ch x _ there]
      · split
        · rename_i here
          rw [here]
          dsimp only
          split <;> split <;> rfl
        · rfl
      · exact if_neg fun here : x = ch => live (here ▸ gone)

theorem requestAtoms (b : Block) (rt : Bool) (q : Req) (atoms : List Nat) : ChansKept b (b.requestAtoms rt q atoms) :=
  foldl (fun b (x : Nat × Nat × Nat) => request b x.1 rt _) _ b

theorem drainOne (b : Block) (s : Nat) : ChansKept b (b.drainOne s).1 := by
  unfold Block.drainOne
  split
  · exact refl b
  · rename_i e es _
    have taken : ChansKept b (b.onDie s fun d => { d with wcb := es }) := onDie b s _
    dsimp only
    split
    · exact taken.trans (requestAtoms _ _ _ _)
    · split
      · exact refl b
      · exact ((taken.trans (requestAtoms _ _ _ _)).trans (requestAtoms _ _ _ _)).trans (onDie _ _ _)

theorem drainFor (b : Block) (s n fuel : Nat) : ChansKept b (b.drainFor s n fuel) := by
  induction fuel generalizing b with
  | zero => exact refl b
  | succ fuel ih =>
    unfold Block.drainFor
    split
    · exact refl b
    · have one : ChansKept b (b.drainOne s).1 := drainOne b s
      split
      · rename_i drained
        rw [drained] at one
        exact one.trans (ih _)
      · exact refl b

theorem accepted (b : Block) (stack pa n cls : Nat) (remote : Bool) : ChansKept b (b.wcbAccept stack pa n cls remote) :=
  (drainFor b stack n _).trans (onDie _ stack _)

theorem wrMem (b : Block) (hub pa : Nat) (data : List Byte) (source cls : Nat) : ChansKept b (b.wrMem hub pa data source cls) := by
  refine foldl (fun b x => ?_) _ b
  obtain ⟨a, off, n⟩ := x
  dsimp only
  split
  · exact refl b
  · split
    · exact lostWrite b _ _ _ _
    · exact ((accepted _ _ _ _ _ _).trans (passTags _ _ _ _)).after rfl

theorem interrupt (b : Block) (w : Wr) : ChansKept b (b.interrupt w) := by
  cases w with
  | intr h a d => exact wrMem b h a d 2 1
  | _ => exact refl b

theorem interrupts (b : Block) (fuel : Nat) : ChansKept b (b.interrupts fuel) := by
  induction fuel generalizing b with
  | zero => exact refl b
  | succ fuel ih =>
    unfold Block.interrupts
    dsimp only
    split
    · exact refl b
    · refine ((foldl interrupt _ _).trans (ih _)).after rfl

end ChansKept

/-! ### Losing a channel -/

/-- A channel as its loss leaves it. -/
def Chan.shut (c : Chan) : Chan := { c with lost := true, narrow := [], wide := [], narrowIn := [], wideIn := [], serving := none, test := none }

/-- The lines of a lost channel, and fills of them, go with it and change no channel. -/
theorem Block.loseChan_kept (b : Block) (ch : Nat) : ChansKept (b.onChan ch Chan.shut) (b.loseChan ch) :=
  (ChansKept.onGroupSlice _ _ _).trans (ChansKept.onDie _ _ _)

theorem Block.loseChan_lost (b : Block) (ch x : Nat) (there : b.dies.get? (ch / 64) ≠ none) :
    ((b.loseChan ch).chan x).lost = (decide (x = ch) || (b.chan x).lost) := by
  rw [(b.loseChan_kept ch).lost, b.chan_onChan ch x _ there]
  split
  · rename_i here
    rw [decide_eq_true here]
    rfl
  · rename_i other
    rw [decide_eq_false other, Bool.false_or]

/-- The channels of a row die after the loss of one. -/
theorem Block.loseChan_chans (b : Block) (ch q : Nat) : ((b.loseChan ch).die q).chans = ((b.onChan ch Chan.shut).die q).chans := by
  have slice : ∀ (b : Block) s f, (b.onGroupSlice s f).die q = b.die q := by
    intro b s f
    unfold Block.onGroupSlice
    split <;> rfl
  exact (Block.die_onDie_part _ _ q _ (·.chans)).trans (congrArg (·.chans) (slice _ _ _))

theorem Tbl.has_put {α : Type} (t : Tbl α) (k j : Nat) (v : α) (there : t.has j = true) : (t.put k v).has j = true := by
  unfold Tbl.has at there ⊢
  obtain rfl | other := eq_or_ne j k
  · rw [Tbl.get?_put_same]
    rfl
  · rwa [Tbl.get?_put_other _ _ _ _ other]

theorem Block.loseChan_has (b : Block) (ch q k : Nat) (there : (b.die q).chans.has k = true) : ((b.loseChan ch).die q).chans.has k = true := by
  rw [b.loseChan_chans, Block.onChan]
  obtain rfl | other := eq_or_ne q (ch / 64)
  · obtain none_ | ⟨d, found⟩ := (b.dies.get? (ch / 64)).eq_none_or_eq_some
    · rwa [Block.onDie, Tbl.modify_of_none _ _ _ none_]
    · rw [b.die_of_get _ d found] at there
      rw [b.die_onDie_same _ _ d found]
      exact Tbl.has_put _ _ _ _ there
  · rwa [b.die_onDie_other _ _ _ other]

theorem Firm.loseChan (b : Block) (ch : Nat) : Firm b (b.loseChan ch) := ((Firm.onChan b ch _).trans (Firm.onGroupSlice _ _ _)).trans (Firm.onDie _ _ _ fun _ => rfl)

/-- The channels of a stack that a row die has, lost one by one. -/
def Block.loseChans (b : Block) (q : Nat) (ps : List Nat) : Block :=
  ps.foldl (fun b p => if (b.die q).chans.has (64 * q + p) then b.loseChan (64 * q + p) else b) b

theorem Firm.loseChans (b : Block) (q : Nat) (ps : List Nat) : Firm b (b.loseChans q ps) :=
  Firm.foldl (fun b p => by split <;> [exact Firm.loseChan b _; exact Firm.refl b]) ps b

theorem Block.loseChans_lost (b : Block) (q : Nat) (ps : List Nat) (there : b.dies.get? q ≠ none) (low : ∀ p ∈ ps, p < 64) (x : Nat)
    (due : (b.chan x).lost = true ∨ ∃ p ∈ ps, x = 64 * q + p ∧ (b.die q).chans.has x = true) : ((b.loseChans q ps).chan x).lost = true := by
  unfold Block.loseChans
  induction ps generalizing b with
  | nil => exact due.resolve_right fun ⟨_, mem, _⟩ => absurd mem List.not_mem_nil
  | cons p ps ih =>
    rw [List.foldl_cons]
    have home : (64 * q + p) / 64 = q := by
      have := low p List.mem_cons_self
      omega
    have rest : ∀ p ∈ ps, p < 64 := fun p mem => low p (List.mem_cons_of_mem _ mem)
    split
    · have each := b.loseChan_lost (64 * q + p) x (home.symm ▸ there)
      refine ih _ ((Firm.loseChan b _).dieThere there) rest ?_
      obtain gone | ⟨r, mem, is, has⟩ := due
      · exact .inl (by rw [each, gone, Bool.or_true])
      · obtain rfl | later := List.mem_cons.mp mem
        · exact .inl (by rw [each, decide_eq_true is, Bool.true_or])
        · exact .inr ⟨r, later, is, b.loseChan_has _ q x has⟩
    · rename_i absent
      refine ih b there rest (due.imp_right fun ⟨r, mem, is, has⟩ => ⟨r, (List.mem_cons.mp mem).resolve_left fun here => absent ?_, is, has⟩)
      exact here ▸ is ▸ has

/-- Channels lost one by one, each of them named. -/
theorem Block.loseAll_lost (b : Block) (chs : List Nat) (there : ∀ c ∈ chs, b.dies.get? (c / 64) ≠ none) (x : Nat)
    (due : x ∈ chs ∨ (b.chan x).lost = true) : ((chs.foldl Block.loseChan b).chan x).lost = true := by
  induction chs generalizing b with
  | nil => exact due.resolve_left List.not_mem_nil
  | cons c cs ih =>
    have each := b.loseChan_lost c x (there c List.mem_cons_self)
    refine ih _ (fun d mem => (Firm.loseChan b c).dieThere (there d (List.mem_cons_of_mem _ mem))) ?_
    obtain mem | gone := due
    · obtain rfl | later := List.mem_cons.mp mem
      · exact .inr (by rw [each, decide_eq_true rfl, Bool.true_or])
      · exact .inl later
    · exact .inr (by rw [each, gone, Bool.or_true])

/-! ### The engine posts a plan (R271) -/

theorem Touch.serviceArea (b : Block) (hub id : Nat) (v : List (Nat × Nat)) : Touch Wr.plain b (b.serviceArea hub id v) := by
  unfold Block.serviceArea
  dsimp only
  split
  · exact Touch.refl b
  · exact Touch.foldl _ (fun b x _ => (Touch.wrMem b hub x.2 x.1 1 1).mono fun _ => Wr.inside_plain) b

theorem ChansKept.serviceArea (b : Block) (hub id : Nat) (v : List (Nat × Nat)) : ChansKept b (b.serviceArea hub id v) := by
  unfold Block.serviceArea
  dsimp only
  split
  · exact ChansKept.refl b
  · exact ChansKept.foldl (fun b (x : List Byte × Nat) => ChansKept.wrMem b hub x.2 x.1 1 1) _ b

/-- A change of the plan kept and of the plans put off. -/
def Plans (f : Eng → Eng) : Prop := ∀ e, { f e with plan := e.plan, plansDue := e.plansDue } = e

/-- The plan that the engine posts. -/
def Block.planWithout (b : Block) (out : List Nat) : Plan :=
  { layout := b.eng.layout.less (distinct (out ++ b.lostChans)), id := layoutId (b.eng.layout.less (distinct (out ++ b.lostChans))), mapout := true
    out := distinct (out ++ b.lostChans), posted := true }

/-- The engine's record with a plan put off until the re-layout ends. -/
def Eng.postponed (cause : Nat) (out : List Nat) (e : Eng) : Eng := { e with plansDue := e.plansDue ++ [(cause, out)] }

/-- The engine's record with a plan kept. -/
def Eng.planned (p : Plan) (e : Eng) : Eng := { e with plan := some p }

/-- What posting a plan does: it is kept, or put off until a re-layout ends, or no layout without the channels is allowed. -/
theorem Block.postPlan_cases (b : Block) (cause : Nat) (out : List Nat) :
    (b.eng.relayout.isSome = true ∧ b.postPlan cause out = b.onEng (Eng.postponed cause out)) ∨
    (layoutOk ((List.range 12).map fun _ => 2 ^ 64 - 1) (b.eng.layout.less (distinct (out ++ b.lostChans))) = false ∧ b.postPlan cause out = b) ∨
    ∃ payload v, b.postPlan cause out =
      ((b.onEng (Eng.planned (b.planWithout out))).event b.eng.leader 0x0A none payload).serviceArea
        ((b.onEng (Eng.planned (b.planWithout out))).event b.eng.leader 0x0A none payload).eng.leader (b.planWithout out).id v := by
  unfold Block.postPlan
  dsimp only
  split
  · exact .inl ⟨‹_›, rfl⟩
  · split
    · rename_i unsound
      exact .inr (.inl ⟨by simpa using unsound, rfl⟩)
    · exact .inr (.inr ⟨pack [(0, 32, (b.planWithout out).id), (32, 4, cause), (36, 1, b2n (b.planWithout out).posted),
        (64, 32, (vacateList b.eng.layout (b.planWithout out).layout b.gonePages).length)], vacateList b.eng.layout (b.planWithout out).layout b.gonePages, rfl⟩)

/-- A plan is kept or put off, and its event, vacate list and dump leave the rest of the engine as it was. -/
theorem Block.postPlan_touch (b : Block) (cause : Nat) (out : List Nat) :
    ∃ f : Eng → Eng, Plans f ∧ Touch Wr.plain (b.onEng f) (b.postPlan cause out) ∧ ChansKept (b.onEng f) (b.postPlan cause out) := by
  obtain ⟨_, is⟩ | ⟨_, is⟩ | ⟨payload, v, is⟩ := b.postPlan_cases cause out <;> rw [is]
  · exact ⟨Eng.postponed cause out, fun _ => rfl, Touch.refl _, ChansKept.refl _⟩
  · exact ⟨id, fun _ => rfl, Touch.refl _, ChansKept.refl _⟩
  · exact ⟨Eng.planned _, fun _ => rfl, (Touch.event _ _ _ _ _).trans (Touch.serviceArea _ _ _ _), (ChansKept.event _ _ _ _ _).trans (ChansKept.serviceArea _ _ _ _)⟩

theorem Block.postPlan_told (b : Block) (cause : Nat) (out : List Nat) (unarmed : b.eng.dump.armed = false) (still : b.Quiet) :
    ∃ f : Eng → Eng, Plans f ∧ Told (b.onEng f) (b.postPlan cause out) := by
  obtain ⟨_, is⟩ | ⟨_, is⟩ | ⟨payload, v, is⟩ := b.postPlan_cases cause out <;> rw [is]
  · exact ⟨Eng.postponed cause out, fun _ => rfl, Told.refl _⟩
  · exact ⟨id, fun _ => rfl, Told.refl _⟩
  · refine ⟨Eng.planned (b.planWithout out), fun _ => rfl, ?_⟩
    generalize posted : b.onEng (Eng.planned (b.planWithout out)) = c
    have cQuiet : c.Quiet := posted ▸ still
    have told := Told.event c b.eng.leader 0x0A none payload cQuiet
    have none_ : (c.event b.eng.leader 0x0A none payload).serviceArea (c.event b.eng.leader 0x0A none payload).eng.leader (b.planWithout out).id v = c.event b.eng.leader 0x0A none payload := by
      unfold Block.serviceArea
      refine if_pos ?_
      rw [told.engPart (·.dump.armed), ← posted]
      exact congrArg (!·) unarmed
    rw [none_]
    exact told

theorem Firm.postPlan (b : Block) (cause : Nat) (out : List Nat) : Firm b (b.postPlan cause out) := by
  obtain ⟨f, plans, touch, _⟩ := b.postPlan_touch cause out
  refine (Firm.onEng b f ?_).trans (Firm.of_touch touch)
  have same := congrArg Eng.frame (plans b.eng)
  exact same

/-- With no re-layout under way and a layout that R252 allows, the plan posted is kept. -/
theorem Block.postPlan_posts (b : Block) (cause : Nat) (out : List Nat) (still : b.eng.relayout = none)
    (sound : layoutOk ((List.range 12).map fun _ => 2 ^ 64 - 1) (b.eng.layout.less (distinct (out ++ b.lostChans))) = true) :
    ∃ p, (b.postPlan cause out).eng.plan = some p ∧ p.out = distinct (out ++ b.lostChans) ∧ p.posted = true := by
  obtain ⟨due, _⟩ | ⟨unsound, _⟩ | ⟨payload, v, is⟩ := b.postPlan_cases cause out
  · rw [still] at due
    exact absurd due (by simp)
  · exact absurd (sound.symm.trans unsound) (by simp)
  · refine ⟨b.planWithout out, ?_, rfl, rfl⟩
    rw [is]
    exact ((Touch.event _ _ _ _ _).trans (Touch.serviceArea _ _ _ _)).part (·.eng.plan)

/-! ### A stack's shares end, and the stack is lost (Table 9-5) -/

/-- Of a row die, all but its shares, its accumulators and its channels. -/
def RowDie.unshared (d : RowDie) : RowDie := { d with shares := [], accs := [], log := [], lostAccs := [], chans := [] }

/-- From b to c shares have ended: frames and lost channels stand, no ring was made, and with no interrupt address set the row dies changed
in their shares, accumulators and channels only. -/
structure SharesEnd (b c : Block) : Prop where
  firm : Firm b c
  lost : ∀ ch, (c.chan ch).lost = (b.chan ch).lost
  rings : ∀ r, b.rings.get? r = none → c.rings.get? r = none
  dies : b.Quiet → ∀ q, (c.die q).unshared = (b.die q).unshared

namespace SharesEnd

variable {b c d : Block}

theorem refl (b : Block) : SharesEnd b b := ⟨Firm.refl b, fun _ => rfl, fun _ => id, fun _ _ => rfl⟩

theorem trans (first : SharesEnd b c) (second : SharesEnd c d) : SharesEnd b d :=
  ⟨first.firm.trans second.firm, fun ch => (second.lost ch).trans (first.lost ch), fun r none_ => second.rings r (first.rings r none_),
    fun still q => (second.dies (first.firm.quiet still) q).trans (first.dies still q)⟩

theorem foldl {α : Type} {f : Block → α → Block} (step : ∀ b a, SharesEnd b (f b a)) (as : List α) (b : Block) : SharesEnd b (as.foldl f b) := by
  induction as generalizing b with
  | nil => exact refl b
  | cons a as ih => exact (step b a).trans (ih (f b a))

theorem onDie (b : Block) (q : Nat) (f : RowDie → RowDie) (keeps : ∀ x, (f x).unshared = x.unshared := by exact fun _ => rfl)
    (chans : ∀ x, (f x).chans = x.chans := by exact fun _ => rfl) : SharesEnd b (b.onDie q f) :=
  ⟨Firm.onDie b q f fun x => show (f x).unshared.frame = x.unshared.frame by rw [keeps x], fun ch => (ChansKept.onDie b q f chans).lost ch, fun _ => id,
    fun _ p => b.die_onDie_part q p f RowDie.unshared keeps⟩

theorem of_touch {P : Wr → Prop} (touch : Touch P b c) : ∀ r, b.rings.get? r = none → c.rings.get? r = none := fun r none_ => by
  have same := touch.ring r
  rw [none_] at same
  exact Option.map_eq_none_iff.mp same

theorem event (b : Block) (hub kind : Nat) (job : Option Nat) (payload : Nat) : SharesEnd b (b.event hub kind job payload) :=
  ⟨Firm.event b _ _ _ _, fun ch => (ChansKept.event b _ _ _ _).lost ch, of_touch (Touch.event (P := fun _ => True) b _ _ _ _),
    fun still q => congrArg RowDie.unshared ((Told.event b hub kind job payload still).part (·.die q))⟩

/-- A step that leaves frames, row dies and rings. -/
theorem of_dies (firm : Firm b c) (dies : c.dies = b.dies) (rings : c.rings = b.rings) : SharesEnd b c :=
  ⟨firm, fun ch => (ChansKept.of_dies dies).lost ch, fun r none_ => by rwa [rings], fun _ q => by rw [Block.die, Block.die, dies]⟩

theorem dropTasks (b : Block) (rid p : Nat) : SharesEnd b (b.dropTasks rid p) := by
  refine ⟨Firm.dropTasks b rid p, fun ch => ?_, fun _ => id, fun _ q => ?_⟩
  · have queues : ∃ f : Nat → RowDie → RowDie, (b.dropTasks rid p).dies = b.dies.mapVal f ∧
        ∀ q d, ∃ g : Nat → Chan → Chan, (f q d).chans = d.chans.mapVal g ∧ ∀ k c, (g k c).lost = c.lost := by
      unfold Block.dropTasks
      dsimp only
      refine ⟨_, rfl, fun q d => ?_⟩
      dsimp only
      refine ⟨_, rfl, fun k c => ?_⟩
      split <;> rfl
    obtain ⟨f, same, inner⟩ := queues
    refine Tbl.getD_mapVal_part f same (fun d : RowDie => (d.chans.getD ch {}).lost) (ch / 64) {} fun q d => ?_
    obtain ⟨g, chans, keeps⟩ := inner q d
    exact Tbl.getD_mapVal_part g chans Chan.lost ch {} keeps
  · obtain ⟨f, same, keeps⟩ := b.dropTasks_dies rid p
    exact Tbl.getD_mapVal_part f same RowDie.unshared q {} fun q d => by rw [keeps q d]; rfl

theorem closeSlot (b : Block) (rid p status pos : Nat) (counters : List Nat) : SharesEnd b (b.closeSlot rid p status pos counters) := by
  refine of_dies (Firm.closeSlot b _ _ _ _ _) ?_ ?_ <;>
  · unfold Block.closeSlot Block.freePages
    dsimp only
    split <;> split <;> rfl

theorem endSlot (b : Block) (rid p status pos : Nat) (counters : List Nat) : SharesEnd b (b.endSlot rid p status pos counters) :=
  (closeSlot b _ _ _ _ _).trans (dropTasks _ _ _)

theorem batchEnd (b : Block) (w : Work) (u : Update) : SharesEnd b (b.batchEnd w u) := by
  unfold Block.batchEnd
  split
  · exact endSlot _ _ _ _ _ _
  · exact endSlot _ _ _ _ _ _

theorem joinShare (b : Block) (stack : Nat) (sh : Share) : SharesEnd b (b.joinShare stack sh) := by
  unfold Block.joinShare
  split
  · exact refl b
  · rename_i w _
    split
    · dsimp only
      split
      · exact refl b
      · have step : ∀ f, SharesEnd b (b.onWork sh.ring sh.p f) := fun f => of_dies (Firm.onWork b _ _ f) rfl rfl
        split
        · exact (step _).trans (batchEnd _ _ _)
        · exact step _
    · exact refl b

theorem accLost (b : Block) (stack job table lrow cause bseq : Nat) : SharesEnd b (b.accLost stack job table lrow cause bseq) :=
  (event b _ _ _ _).trans (onDie _ stack _)

theorem endShares (b : Block) (q : Nat) : SharesEnd b (b.endShares q) :=
  foldl (fun b (x : Nat × Share) => ((foldl (fun b _ => accLost b _ _ _ _ _ _) _ b).trans (onDie _ q _)).trans (joinShare _ q _)) _ b

end SharesEnd

/-- A row die as the loss of its stack marks it. -/
def RowDie.failing (cause : Nat) (d : RowDie) : RowDie := { d with st := if cause = 5 then d.st else 0, failed := true, board := [], wcb := [] }

/-- A row die as the loss of its stack empties it. -/
def RowDie.emptied (d : RowDie) : RowDie :=
  { d with accs := [], log := [], lostAccs := d.heldAccs.foldl (fun t (k, l) => Tbl.put t (accKey k l) 2) d.lostAccs }

/-- A stack once its channels and its shares are lost, before the plan is posted. -/
def Block.stackLost (b : Block) (q cause : Nat) (ps : List Nat) : Block :=
  (((b.loseChans q ps).onDie q (RowDie.failing cause)).endShares q).onDie q RowDie.emptied

/-- The loss of a stack, for the pseudo-channels named. -/
def Block.loseStackOn (b : Block) (q cause : Nat) (ps : List Nat) : Block := (b.stackLost q cause ps).postPlan cause (ps.map (64 * q + ·))

theorem Block.loseStack_eq (b : Block) (q cause : Nat) : b.loseStack q cause = b.loseStackOn q cause (List.range 64) := rfl

theorem Tbl.mapVal_put {α : Type} (t : Tbl α) (k : Nat) (v : α) (g : α → α) : (t.put k v).mapVal (fun _ => g) = (t.mapVal fun _ => g).put k (g v) := by
  induction t with
  | nil => rfl
  | cons e t ih =>
    obtain ⟨j, x⟩ := e
    unfold Tbl.put Tbl.mapVal
    simp only [List.map_cons]
    split
    · rfl
    · split
      · rfl
      · exact congrArg ((j, g x) :: ·) ih

/-- A change that commutes with what is looked at. -/
theorem Tbl.mapVal_modify_comm {α : Type} (t : Tbl α) (k : Nat) (f g : α → α) (comm : ∀ x, g (f x) = g (f (g x))) (idem : ∀ x, g (g x) = g x) :
    (t.modify k f).mapVal (fun _ => g) = ((t.mapVal fun _ => g).modify k f).mapVal fun _ => g := by
  unfold Tbl.modify
  rw [Tbl.get?_mapVal]
  cases t.get? k with
  | none => simp only [Option.map_none, Tbl.mapVal_mapVal, idem]
  | some v => simp only [Option.map_some, Tbl.mapVal_put, Tbl.mapVal_mapVal, idem, comm v]

/-- A stack marked lost has the frame of the stack marked first. -/
theorem Firm.failing {b c : Block} (firm : Firm b c) (q cause : Nat) : Firm (b.onDie q (RowDie.failing cause)) (c.onDie q (RowDie.failing cause)) := by
  have step : ∀ b : Block, (b.onDie q (RowDie.failing cause)).dies.mapVal (fun _ => RowDie.frame) =
      (((b.dies.mapVal fun _ => RowDie.frame).modify q (RowDie.failing cause)).mapVal fun _ => RowDie.frame) := fun b =>
    Tbl.mapVal_modify_comm b.dies q _ _ (fun _ => rfl) fun _ => rfl
  exact ⟨firm.eng, firm.hubs, by rw [step, step, firm.dies], firm.silent⟩

theorem Block.stackLost_ends (b : Block) (q cause : Nat) (ps : List Nat) :
    SharesEnd ((b.loseChans q ps).onDie q (RowDie.failing cause)) (b.stackLost q cause ps) :=
  (SharesEnd.endShares _ q).trans (SharesEnd.onDie _ q _)

/-- The loss of a stack leaves the frames, but that the row die has failed. -/
theorem Firm.loseStackOn (b : Block) (q cause : Nat) (ps : List Nat) : Firm (b.onDie q (RowDie.failing cause)) (b.loseStackOn q cause ps) := by
  unfold Block.loseStackOn
  exact (((Firm.loseChans b q ps).failing q cause).trans (b.stackLost_ends q cause ps).firm).trans (Firm.postPlan _ _ _)

/-- What the loss of a stack leaves of its row die. -/
theorem Block.loseStackOn_die (b : Block) (q cause : Nat) (ps : List Nat) (there : b.dies.get? q ≠ none) :
    ((b.loseStackOn q cause ps).die q).failed = true ∧ ((b.loseStackOn q cause ps).die q).st = if cause = 5 then (b.die q).st else 0 := by
  obtain ⟨d, found⟩ := Option.ne_none_iff_exists'.mp there
  have firm := Firm.loseStackOn b q cause ps
  have marked : (b.onDie q (RowDie.failing cause)).die q = (b.die q).failing cause := by rw [b.die_onDie_same _ _ d found, b.die_of_get _ d found]
  exact ⟨(firm.die q (·.failed)).trans (by rw [marked]; rfl), (firm.die q (·.st)).trans (by rw [marked]; rfl)⟩

/-- The channels of a lost stack are lost. -/
theorem Block.loseStackOn_lost (b : Block) (q cause : Nat) (ps : List Nat) (there : b.dies.get? q ≠ none) (all : ∀ p ∈ ps, p < 64) {p : Nat} (low : p ∈ ps)
    (has : (b.die q).chans.has (64 * q + p) = true) : ((b.loseStackOn q cause ps).chan (64 * q + p)).lost = true := by
  obtain ⟨f, _, _, kept⟩ := (b.stackLost q cause ps).postPlan_touch cause (ps.map (64 * q + ·))
  unfold Block.loseStackOn
  rw [kept.lost]
  refine ((b.stackLost_ends q cause ps).lost _).trans ?_
  rw [(ChansKept.onDie _ q (RowDie.failing cause)).lost]
  exact b.loseChans_lost q ps there all _ (.inr ⟨p, low, rfl, has⟩)

theorem Firm.stackLost_there {b : Block} (q cause : Nat) (ps : List Nat) {o : Nat} (there : b.dies.get? o ≠ none) :
    ((((b.loseChans q ps).onDie q (RowDie.failing cause)).endShares q).dies.get? o) ≠ none := by
  refine (SharesEnd.endShares _ q).firm.dieThere (fun none_ => (Firm.loseChans b q ps).dieThere there ?_)
  obtain rfl | other := eq_or_ne o q
  · exact Option.map_eq_none_iff.mp ((Tbl.get?_modify_same ..).symm.trans none_)
  · exact (Tbl.get?_modify_other _ _ _ _ other).symm.trans none_

/-- No accumulator of a lost stack is left. -/
theorem Block.loseStackOn_emptied (b : Block) (q cause : Nat) (ps : List Nat) (there : b.dies.get? q ≠ none) :
    ((b.loseStackOn q cause ps).die q).accs = [] ∧ ((b.loseStackOn q cause ps).die q).log = [] := by
  obtain ⟨f, _, touch, _⟩ := (b.stackLost q cause ps).postPlan_touch cause (ps.map (64 * q + ·))
  obtain ⟨d, found⟩ := Option.ne_none_iff_exists'.mp (Firm.stackLost_there (b := b) q cause ps there)
  have emptied : (b.stackLost q cause ps).die q = d.emptied := Block.die_onDie_same _ q _ d found
  unfold Block.loseStackOn
  exact ⟨(touch.die q (·.accs)).trans (congrArg (·.accs) emptied), (touch.die q (·.log)).trans (congrArg (·.log) emptied)⟩

/-- With no interrupt address set and no dump region armed, no operation of a lost stack is left. -/
theorem Block.loseStackOn_board (b : Block) (q cause : Nat) (ps : List Nat) (there : b.dies.get? q ≠ none) (still : b.Quiet) (unarmed : b.eng.dump.armed = false) :
    ((b.loseStackOn q cause ps).die q).board = [] := by
  have chans := Firm.loseChans b q ps
  have ends := b.stackLost_ends q cause ps
  have marked : ((b.loseChans q ps).onDie q (RowDie.failing cause)).Quiet := chans.quiet still
  obtain ⟨f, _, told⟩ := (b.stackLost q cause ps).postPlan_told cause (ps.map (64 * q + ·))
    ((ends.firm.engPart (·.dump.armed)).trans ((chans.engPart (·.dump.armed)).trans unarmed)) (ends.firm.quiet marked)
  obtain ⟨d, found⟩ := Option.ne_none_iff_exists'.mp (chans.dieThere there)
  have failing := Block.die_onDie_same _ q (RowDie.failing cause) d found
  have kept := congrArg RowDie.board (ends.dies marked q)
  unfold Block.loseStackOn
  exact (congrArg RowDie.board (told.part (·.die q))).trans (kept.trans (congrArg (RowDie.board ∘ RowDie.unshared) failing))

/-- The loss of a stack makes no ring. -/
theorem Block.loseStackOn_rings (b : Block) (q cause : Nat) (ps : List Nat) {r : Nat} (none_ : b.rings.get? r = none) : (b.loseStackOn q cause ps).rings.get? r = none := by
  have chans : (b.loseChans q ps).rings = b.rings := by
    unfold Block.loseChans
    refine (List.foldlRecOn (motive := fun c : Block => c.rings = b.rings) _ _ rfl fun c same p _ => ?_)
    split
    · unfold Block.loseChan Block.onGroupSlice
      dsimp only
      split <;> exact same
    · exact same
  obtain ⟨f, _, touch, _⟩ := (b.stackLost q cause ps).postPlan_touch cause (ps.map (64 * q + ·))
  unfold Block.loseStackOn
  exact SharesEnd.of_touch touch r ((b.stackLost_ends q cause ps).rings r (show (b.loseChans q ps).rings.get? r = none by rwa [chans]))

theorem Firm.loseStack (b : Block) (q cause : Nat) : Firm (b.onDie q (RowDie.failing cause)) (b.loseStack q cause) := Firm.loseStackOn b q cause _

theorem Block.loseStack_lost (b : Block) (q cause : Nat) (there : b.dies.get? q ≠ none) {p : Nat} (low : p < 64)
    (has : (b.die q).chans.has (64 * q + p) = true) : ((b.loseStack q cause).chan (64 * q + p)).lost = true := by
  rw [b.loseStack_eq]
  exact b.loseStackOn_lost q cause _ there (fun p mem => List.mem_range.mp mem) (List.mem_range.mpr low) has

end Sys2Proof.Machine
end

section
/-! O50: operating points and the heat of the stacks. -/
namespace Sys2Proof.Machine
open Sys2Proof.Spec

/-! ### Operating points (R238) -/

/-- The point that a choice moves to, from one that the queues want. -/
theorem nextPoint_bounds (p cap wanted : Nat) (low : p ≤ 2) (near : wanted ≤ p + 1) (most : wanted ≤ 2) (close : p ≤ wanted + 1) :
    let next := if Nat.min wanted cap < p then p - 1 else Nat.min wanted cap
    next ≤ p + 1 ∧ p ≤ next + 1 ∧ next ≤ 2 ∧ (cap < p → next = p - 1) ∧ (wanted = p - 1 → next = p - 1) := by
  have least : Nat.min wanted cap ≤ wanted := Nat.min_le_left _ _
  have capped : Nat.min wanted cap ≤ cap := Nat.min_le_right _ _
  dsimp only
  split <;> omega

/-- A choice that is due moves the point by at most one step, whatever the longest queue is. -/
theorem pointChoice_moves (b : Block) (h c : Nat) (mine : b.clusterHub c = h) (few : c < 1024) (up : b.hubUp h = true) (free : b.rtCluster c = false)
    (still : (((b.hub h).sched.points.getD c {}).point) = ((b.hub h).sched.points.getD c {}).target) (low : ((b.hub h).sched.points.getD c {}).point ≤ 2)
    (due : (b.hub h).sched.points.has c = true → ((b.hub h).sched.points.getD c {}).chosenAge + 100 ≤ b.age h) :
    ∃ n next, let p := ((b.hub h).sched.points.getD c {}).point
      pointChoice h c b = ({ b with freeCount := n } : Block).onSched h (fun x => { x with points := x.points.put c { point := p, target := next, chosenAge := b.age h, changeAge := b.age h } }) ∧
        next ≤ p + 1 ∧ p ≤ next + 1 ∧ next ≤ 2 ∧ (b.thermalCap c < p → next = p - 1) ∧ (b.queued c = [] → next = p - 1) := by
  generalize is : (b.hub h).sched.points.getD c {} = pt at still low due
  unfold pointChoice
  dsimp only
  rw [is, if_neg]
  · have drawn : ∃ v n, (if ((b.queued c).map fun t => t.ops / 32).sum = 0 then (0#64, b) else b.free) = (v, ({ b with freeCount := n } : Block)) := by
      split
      · exact ⟨_, b.freeCount, rfl⟩
      · exact ⟨_, _, rfl⟩
    obtain ⟨v, n, drawn⟩ := drawn
    rw [drawn]
    dsimp only
    refine ⟨n, _, rfl, ?_⟩
    generalize points : (if (decide (pt.point < 2) && decide ((b.hub h).sched.horizon * stepRate pt.point < 10 * (v.toNat % (((b.queued c).map fun t => t.ops / 32).sum + 1))) && _) = true
      then pt.point + 1 else _) = wanted
    have bounds : wanted ≤ pt.point + 1 ∧ wanted ≤ 2 ∧ pt.point ≤ wanted + 1 := by
      rw [← points]
      split
      · rename_i up
        simp only [Bool.and_eq_true, decide_eq_true_eq] at up
        omega
      · split <;> omega
    have idle : b.queued c = [] → wanted = pt.point - 1 := fun none_ => by
      rw [← points, none_]
      simp only [List.map_nil, List.sum_nil, Nat.zero_add, Nat.mod_one, Nat.mul_zero, Nat.not_lt_zero, decide_false, Bool.and_false, Bool.false_and,
        Bool.false_eq_true, if_false, Nat.zero_le, decide_true, Bool.and_true, decide_eq_true_eq]
      split <;> omega
    obtain ⟨most, close, least, capped, kept⟩ := nextPoint_bounds pt.point (b.thermalCap c) wanted low bounds.1 bounds.2.1 bounds.2.2
    exact ⟨most, close, least, capped, fun none_ => kept (idle none_)⟩
  · simp only [Bool.or_eq_true, decide_eq_true_eq, not_or, Bool.and_eq_true, not_and]
    exact ⟨⟨⟨⟨⟨not_not.mpr mine, by omega⟩, by simp [up]⟩, by simp [free]⟩, not_not.mpr still⟩, fun has => by have := due has; omega⟩

/-! ### Heat (R240 to R242) -/

/-- From b to c the row dies, the slots in flight and the writes made stand, and so do the interrupt addresses. -/
structure Noted (b c : Block) : Prop where
  dies : c.dies = b.dies
  works : c.works = b.works
  wr : c.wr = b.wr
  addr : AddrKept b c

namespace Noted

theorem trans {b c d : Block} (first : Noted b c) (second : Noted c d) : Noted b d :=
  ⟨second.dies.trans first.dies, second.works.trans first.works, second.wr.trans first.wr, first.addr.trans second.addr⟩

theorem of_told {b c : Block} (told : Told b c) : Noted b c := ⟨told.part (·.dies), told.part (·.works), told.part (·.wr), told.addr⟩

theorem refl (b : Block) : Noted b b := of_told (Told.refl b)

theorem thermal (b : Block) (q what : Nat) (still : b.Quiet) : Noted b (b.thermal q what) := of_told (Told.event b _ _ _ _ still)

theorem send (b : Block) (o : Out) : Noted b (b.send o) := ⟨rfl, rfl, rfl, .of_hubs rfl⟩

theorem sample (b : Block) (mon inst v : Nat) : Noted b (b.sample mon inst v) := ⟨rfl, rfl, rfl, .of_hubs rfl⟩

end Noted

/-- A row die that a reading has taken to a level. -/
def RowDie.read (l : Nat) (reading : Int) (now : Nat) (d : RowDie) : RowDie :=
  { d with reading := reading, level := l, level4Age := if l = 4 && d.level != 4 then now else d.level4Age
           chans := if d.level = 4 && l != 4 then d.chans.mapVal fun _ c => c.takeIn else d.chans }

/-- A reading reaches its row die; of the rest it changes what tells of it. -/
theorem Block.heat_notes (b : Block) (q : Nat) (reading : Int) (d : RowDie) (found : b.dies.get? q = some d) (still : b.Quiet) :
    Noted (b.onDie q (RowDie.read (nextLevel d.trep reading d.level) reading (b.age (b.homeHub q)))) (b.heat q reading) := by
  generalize level : nextLevel d.trep reading d.level = l
  have quiet : (b.onDie q (RowDie.read l reading (b.age (b.homeHub q)))).Quiet := still
  unfold Block.heat
  dsimp only
  rw [b.die_of_get q d found, level]
  split
  · exact Noted.refl _
  · split
    · exact (Noted.thermal _ _ _ quiet).trans (Noted.send _ _)
    · exact Noted.thermal _ _ _ quiet

theorem Block.heat_die (b : Block) (q : Nat) (reading : Int) (d : RowDie) (found : b.dies.get? q = some d) (still : b.Quiet) :
    (b.heat q reading).die q = d.read (nextLevel d.trep reading d.level) reading (b.age (b.homeHub q)) ∧ (b.heat q reading).works = b.works ∧ (b.heat q reading).wr = b.wr ∧
      (b.heat q reading).Quiet := by
  have noted := b.heat_notes q reading d found still
  refine ⟨?_, noted.works, noted.wr, noted.addr.quiet still⟩
  rw [Block.die, noted.dies]
  exact b.die_onDie_same q _ d found

/-- Settles O50. -/
theorem operatingPointsAndHeat : Obligations.OperatingPointsAndHeat := by
  unfold Obligations.OperatingPointsAndHeat
  refine ⟨fun h c s hub p found at_ => ⟨fun mine few up free still low due => ?_, fun has => ?_⟩, fun q s d found on still => ?_⟩
  · have hubIs : s.start.hub h = hub := Block.hub_of_get s.start h hub found
    obtain ⟨n, next, effect, bounds⟩ := pointChoice_moves s.start h c mine few (by rw [Block.hubUp, hubIs]; exact up) free (by rwa [hubIs, at_]) (by rwa [hubIs, at_])
      (by rw [hubIs, at_]; exact due)
    rw [hubIs, at_] at effect bounds
    refine Runs.of_effect (s := s) rfl _ effect rfl
      ⟨rfl, rfl, { point := p.point, target := next, chosenAge := s.start.age h, changeAge := s.start.age h }, ?_, rfl, rfl, bounds⟩
    have sched := Block.sched_onSched (b := ({ s.start with freeCount := n } : Block)) found fun x =>
      { x with points := x.points.put c { point := p.point, target := next, chosenAge := s.start.age h, changeAge := s.start.age h } }
    exact (congrArg (fun x : Sched => x.points.get? c) sched).trans (Tbl.get?_put_same _ _ _)
  · refine runs_onHub rfl h _ rfl hub found fun t only is => ⟨only, ?_⟩
    obtain ⟨v, there⟩ := Option.isSome_iff_exists.mp has
    have pIs : v = p := by rw [← at_, Tbl.getD, there]; rfl
    rw [is]
    refine (Tbl.get?_modify_same _ _ _).trans ?_
    rw [there, pIs]
    rfl
  have dieIs : s.start.die q = d := Block.die_of_get s.start q d found
  refine ⟨fun reading reported => ?_, fun open_ late => ?_, fun sound hot late => ?_, fun p low => ?_⟩
  · intro trep
    let d' : RowDie := { d with trep := trep, readAge := s.start.age (s.start.homeHub q), gap := false }
    generalize entered : s.start.onDie q (fun d => { d with trep := trep, readAge := s.start.age (s.start.homeHub q), gap := false }) = c
    have foundC : c.dies.get? q = some d' := by
      rw [← entered]
      exact (Tbl.get?_modify_same _ _ _).trans (congrArg _ found)
    have stillC : c.Quiet := entered ▸ still
    obtain ⟨die, works, wr, quiet⟩ := c.heat_die q reading d' foundC stillC
    generalize heated : c.heat q reading = e at die works wr quiet
    have told : Noted e (if d.gap then e.thermal q 2 else e) := by
      split
      · exact Noted.thermal e q 2 quiet
      · exact Noted.refl e
    generalize toldIs : (if d.gap then e.thermal q 2 else e) = f at told
    have effect : tempRead q reading reported s.start = (f.sample 0x05 q reading.toNat).sample 0x06 q (f.die q).level := by
      have trepIs : (if reported = 0 || 105 < reported then 95 else reported) = trep := by simp only [trep, Bool.or_eq_true, decide_eq_true_eq]
      unfold tempRead
      rw [show s.start.dieOn q = true by rw [Block.dieOn, dieIs, on]; rfl]
      dsimp only
      rw [dieIs, trepIs, entered, heated, toldIs]
      rfl
    have dieF := die
    rw [Block.die, ← told.dies, ← Block.die] at dieF
    refine Runs.of_effect (s := s) rfl _ effect (told.wr.trans (wr.trans (entered ▸ rfl))) ⟨rfl, told.works.trans (works.trans (entered ▸ rfl)), ?_⟩
    show (f.die q).trep = trep ∧ (f.die q).reading = reading ∧ (f.die q).level = _ ∧ (f.die q).gap = false ∧ (f.die q).readAge = _
    rw [dieF]
    exact ⟨rfl, rfl, rfl, rfl, rfl⟩
  · let d' : RowDie := { d with gap := true }
    generalize entered : s.start.onDie q (fun d => { d with gap := true }) = c
    have foundC : c.dies.get? q = some d' := by
      rw [← entered]
      exact (Tbl.get?_modify_same _ _ _).trans (congrArg _ found)
    have stillC : c.Quiet := entered ▸ still
    obtain ⟨die, works, wr, quiet⟩ := c.heat_die q d.trep d' foundC stillC
    have told := Noted.thermal (c.heat q d.trep) q 1 quiet
    have effect : tempGap q s.start = (c.heat q d.trep).thermal q 1 := by
      unfold tempGap
      dsimp only
      rw [dieIs, if_neg, entered]
      simp only [Bool.or_eq_true, decide_eq_true_eq, not_or]
      exact ⟨⟨by simp [Block.dieOn, dieIs, on], by simp [open_]⟩, Nat.not_lt.mpr late⟩
    generalize (c.heat q d.trep).thermal q 1 = f at told effect
    have dieF := die
    rw [Block.die, ← told.dies, ← Block.die] at dieF
    refine Runs.of_effect (s := s) rfl _ effect (told.wr.trans (wr.trans (entered ▸ rfl))) ⟨rfl, told.works.trans (works.trans (entered ▸ rfl)), ?_⟩
    show (f.die q).gap = true ∧ (f.die q).reading = _ ∧ (f.die q).level = _
    rw [dieF]
    exact ⟨rfl, rfl, rfl⟩
  · have there : s.start.dies.get? q ≠ none := by
      rw [show s.start.dies.get? q = some d from found]
      exact Option.some_ne_none d
    have told : Told s.start (s.start.thermal q 3) := Told.event _ _ _ _ _ still
    have effect : level4Timeout q s.start = (s.start.thermal q 3).loseStackOn q 5 (List.range 64) := by
      rw [← Block.loseStack_eq]
      unfold level4Timeout
      dsimp only
      rw [dieIs, if_neg]
      simp only [Bool.or_eq_true, decide_eq_true_eq, not_or]
      exact ⟨⟨by simp [Block.dieUp, dieIs, on, sound], not_not.mpr hot⟩, Nat.not_lt.mpr late⟩
    generalize s.start.thermal q 3 = b at told effect
    have dieB : b.die q = d := (told.part (·.die q)).trans dieIs
    have thereB : b.dies.get? q ≠ none := by rwa [told.part (·.dies)]
    have quiet := told.quiet still
    obtain ⟨ps, all, each⟩ : ∃ ps : List Nat, (∀ p ∈ ps, p < 64) ∧ ps = List.range 64 := ⟨_, fun _ mem => List.mem_range.mp mem, rfl⟩
    rw [← each] at effect
    have firm := Firm.loseStackOn b q 5 ps
    have silent : Silent (b.loseStackOn q 5 ps) := firm.silent quiet (Silent.of_wr (told.part (·.wr)))
    obtain ⟨failed, st⟩ := b.loseStackOn_die q 5 ps thereB
    obtain ⟨accs, log⟩ := b.loseStackOn_emptied q 5 ps thereB
    refine Runs.of_settle (s := s) rfl _ effect silent ⟨failed, st.trans (by rw [if_pos rfl, dieB, on]), accs, log, fun unarmed => ?_, fun p low has => ?_⟩
    · exact b.loseStackOn_board q 5 ps thereB quiet ((told.engPart (·.dump.armed)).trans unarmed)
    · exact b.loseStackOn_lost q 5 ps thereB all (each ▸ List.mem_range.mpr low) (dieB.symm ▸ has)
  · intro ch
    have home : ch / 64 = q := by omega
    have there : s.start.dies.get? (ch / 64) ≠ none := by
      rw [home, show s.start.dies.get? q = some d from found]
      exact Option.some_ne_none d
    have others : ∀ (f : Chan → Chan) o, o ≠ q → (s.start.onChan ch f).die o = s.blk.die o := fun f o other => Block.die_onDie_other _ _ o _ (home.symm ▸ other)
    have self : ∀ f : Chan → Chan, (s.start.onChan ch f).chan ch = f (s.blk.chan ch) := fun f => (s.start.chan_onChan ch ch f there).trans (if_pos rfl)
    refine ⟨fun hot priv => ?_, ?_⟩
    · have effect : throttleIdle ch s.start = s.start.onChan ch fun c => if c.serving.isSome then { c with idleDue := true } else { c with idle := true } := by
        unfold throttleIdle
        rw [home, dieIs, hot, show s.start.eng.layout.priv.contains ch = true from priv]
        rfl
      exact Runs.of_effect (s := s) rfl _ effect rfl ⟨rfl, rfl, self _, others _⟩
    · exact Runs.of_effect (s := s) rfl (s.start.onChan ch fun c => { c with idle := false, idleDue := false }) rfl rfl ⟨rfl, rfl, self _, others _⟩

end Sys2Proof.Machine
end

section
/-! O56: links replay, train again or are lost, and monitors take their samples. -/
namespace Sys2Proof.Machine
open Sys2Proof.Spec

/-- A state whose engine has taken one sample has taken it. -/
theorem sampled_of_eng {s t : State} {mon inst v : Nat} (store : t.store = s.store)
    (eng : ∃ sampled, t.blk.eng = { (s.start.sample mon inst v).eng with sampled := sampled }) : Sampled s t mon inst v := by
  obtain ⟨sampled, eng⟩ := eng
  have monitors : t.blk.eng.monitors = s.blk.eng.monitors.put (monKey mon inst) ((s.blk.eng.monitors.getD (monKey mon inst) {}).take v) := by rw [eng]; rfl
  have one : t.blk.eng.monitors.getD (monKey mon inst) {} = (s.blk.eng.monitors.getD (monKey mon inst) {}).take v := by rw [monitors, Tbl.getD_put_same]
  unfold Sampled
  dsimp only
  rw [one]
  refine ⟨store, by rw [eng]; rfl, rfl, ?_, Nat.le_max_right _ _, Nat.le_max_left _ _, fun k other => by rw [monitors, Tbl.get?_put_other _ _ _ _ other]⟩
  unfold Monitor.take
  dsimp only
  split
  · exact le_rfl
  · exact Nat.min_le_right _ _

/-- A module taken out leaves the others. -/
theorem sub_two_pow_ne_zero {x m : Nat} (set_ : x.testBit m = true) (other : x ≠ 2 ^ m) : x - 2 ^ m ≠ 0 := by
  have := Nat.ge_two_pow_of_testBit set_
  omega

/-- Publishing the Almanac takes the next generation, and tells the hubs of it. -/
theorem Block.publish_only (b : Block) : b.publish = { b with eng := { b.eng with almGen := b.eng.almGen + 1 }, hubs := b.publish.hubs } := by
  have each : ∀ (hs : List Nat) (f : Regs → Regs) (c : Block),
      hs.foldl (fun c h => c.onRegs h f) c = { c with hubs := (hs.foldl (fun c h => c.onRegs h f) c).hubs } := by
    intro hs f
    induction hs with
    | nil => exact fun _ => rfl
    | cons h hs ih => exact fun c => ih _
  exact each _ _ _

/-- A part of a hub that a change of a hub leaves. -/
theorem Block.hub_onHub_part (b : Block) (h g : Nat) (f : Hub → Hub) {α : Type} (p : Hub → α) (keeps : ∀ x, p (f x) = p x := by exact fun _ => rfl) :
    p ((b.onHub h f).hub g) = p (b.hub g) := by
  obtain rfl | other := eq_or_ne g h
  · obtain none_ | ⟨x, found⟩ := (b.hubs.get? g).eq_none_or_eq_some
    · rw [Block.onHub, Tbl.modify_of_none _ _ _ none_]
    · rw [b.hub_onHub_same g _ x found, b.hub_of_get g x found, keeps]
  · rw [b.hub_onHub_other h g _ other]

/-- A part of a hub that its Almanac generation leaves. -/
theorem Block.publish_hub (b : Block) (g : Nat) {α : Type} (p : Hub → α)
    (keeps : ∀ (x : Hub) n, p { x with regs := { x.regs with almGen := n } } = p x := by exact fun _ _ => rfl) : p (b.publish.hub g) = p (b.hub g) := by
  have each : ∀ (hs : List Nat) (n : Nat) (c : Block), p ((hs.foldl (fun c h => c.onRegs h fun r => { r with almGen := n }) c).hub g) = p (c.hub g) := by
    intro hs n
    induction hs with
    | nil => exact fun _ => rfl
    | cons h hs ih =>
      intro c
      exact (ih _).trans (c.hub_onHub_part h g _ p fun x => keeps x n)
  exact each _ _ _

/-- Settles O56. -/
theorem linksReplayTrainAndAreSampled : Obligations.LinksReplayTrainAndAreSampled := by
  unfold Obligations.LinksReplayTrainAndAreSampled
  intro s
  refine ⟨fun q m ns up low on => ⟨fun out stays => ?_, fun others => ?_, fun last still => ?_⟩, fun h up ns out => ?_, fun h up ns out => ?_,
    fun h still logs up => ?_, fun h still logs down up => ?_, fun mon inst measured v n known few level up due => ?_⟩
  · have effect : ucieReplay q m ns out s.start = s.start.sample 0x13 q ns := by
      unfold ucieReplay
      rw [show s.start.dieUp q = true from up, show (s.start.die q).ucieUp.testBit m = true from on, if_neg (by simp; omega)]
      cases out <;> [rfl; rfl; exact absurd rfl stays]
    exact Runs.of_effect (s := s) rfl _ effect rfl ⟨sampled_of_eng rfl ⟨_, rfl⟩, rfl⟩
  · have left : (s.blk.die q).ucieUp - 2 ^ m ≠ 0 := sub_two_pow_ne_zero on others
    obtain ⟨d, found⟩ := Option.ne_none_iff_exists'.mp (Block.there_of_dieUp up)
    have die := Block.die_onDie_same (s.start.sample 0x13 q ns) q (fun d => { d with ucieUp := d.ucieUp - 2 ^ m }) d found
    have dIs : s.blk.die q = d := Block.die_of_get _ _ _ found
    have effect : ucieReplay q m ns .lost s.start = (s.start.sample 0x13 q ns).onDie q fun d => { d with ucieUp := d.ucieUp - 2 ^ m } := by
      unfold ucieReplay
      rw [show s.start.dieUp q = true from up, show (s.start.die q).ucieUp.testBit m = true from on, if_neg (by simp; omega)]
      dsimp only
      rw [die, if_neg (dIs ▸ left)]
    refine Runs.of_effect (s := s) rfl _ effect rfl ⟨sampled_of_eng rfl ⟨_, rfl⟩, rfl, ?_, fun o other => Block.die_onDie_other _ q o _ other⟩
    rw [dIs]
    exact die
  · obtain ⟨d, found⟩ := Option.ne_none_iff_exists'.mp (Block.there_of_dieUp up)
    have dIs : s.blk.die q = d := Block.die_of_get _ _ _ found
    generalize cIs : (s.start.sample 0x13 q ns).onDie q (fun d => { d with ucieUp := d.ucieUp - 2 ^ m }) = c
    have die : c.die q = { d with ucieUp := d.ucieUp - 2 ^ m } := cIs ▸ Block.die_onDie_same _ q _ d found
    have there : c.dies.get? q ≠ none := by
      rw [← cIs]
      show (s.start.dies.modify q _).get? q ≠ none
      rw [Tbl.get?_modify_same, show s.start.dies.get? q = some d from found]
      exact Option.some_ne_none _
    have effect : ucieReplay q m ns .lost s.start = (c.loseStackOn q 6 (List.range 64)).publish := by
      unfold ucieReplay
      rw [show s.start.dieUp q = true from up, show (s.start.die q).ucieUp.testBit m = true from on, if_neg (by simp; omega)]
      dsimp only
      rw [cIs, die, if_pos (by rw [← dIs, last]; exact Nat.sub_self _), Block.loseStack_eq]
    generalize List.range 64 = ps at effect
    have firm := Firm.loseStackOn c q 6 ps
    have silent : Silent (c.loseStackOn q 6 ps) := firm.silent (cIs ▸ still) (cIs ▸ .of_wr rfl)
    obtain ⟨failed, st⟩ := c.loseStackOn_die q 6 ps there
    have published := (c.loseStackOn q 6 ps).publish_only
    generalize (c.loseStackOn q 6 ps).publish = t at effect published
    have silentT : Silent t := by
      rw [published]
      exact silent
    refine Runs.of_settle (s := s) rfl _ effect silentT ?_
    show (t.die q).st = 0 ∧ (t.die q).failed = true ∧ s.blk.eng.almGen < t.eng.almGen
    rw [published]
    refine ⟨st, failed, ?_⟩
    have gen : (c.loseStackOn q 6 ps).eng.almGen = s.blk.eng.almGen := (firm.engPart (·.almGen)).trans (cIs ▸ rfl)
    exact gen ▸ Nat.lt_succ_self _
  · obtain ⟨x, found⟩ := Block.there_of_hubUp up
    have effect : fabricReplay h ns out s.start = (s.start.sample 0x14 h ns).onRegs h fun r => { r with fabUp := out != .lost } := by
      unfold fabricReplay
      rw [show s.start.hubUp h = true from up]
      rfl
    refine Runs.of_effect (s := s) rfl _ effect rfl ⟨sampled_of_eng rfl ⟨_, rfl⟩, rfl, fun g other => Block.hub_onHub_other _ h g _ other, ?_⟩
    rw [Block.hub_of_get s.blk h x found]
    exact Block.hub_onHub_same _ h _ x found
  · have effect : telemarkReplay h ns out s.start = s.start.sample 0x15 h ns := by
      unfold telemarkReplay
      rw [show s.start.linkUp h = true from up]
      rfl
    exact Runs.of_effect (s := s) rfl _ effect rfl ⟨sampled_of_eng rfl ⟨_, rfl⟩, rfl⟩
  · have there : ∃ x, s.blk.hubs.get? h = some x := by
      obtain none_ | there := (s.blk.hubs.get? h).eq_none_or_eq_some
      · rw [Block.hub, Tbl.getD, none_] at up
        exact absurd up (by decide)
      · exact there
    obtain ⟨x, found⟩ := there
    generalize cIs : s.start.onRegs h (fun r => { r with tlmUp := false }) = c
    have quiet : c.Quiet := by
      rw [← cIs]
      exact fun g => (s.start.hub_onHub_part h g _ (·.regs.msiAddr)).trans (still g)
    have told := Told.event c h 0x10 none (pack [(0, 2, h)]) quiet
    have effect : telemarkLinkDown h s.start = c.event h 0x10 none (pack [(0, 2, h)]) := by
      unfold telemarkLinkDown
      rw [show (s.start.hub h).regs.tlmUp = true from up, cIs]
      rfl
    refine Runs.of_effect (s := s) rfl _ effect ((told.part (·.wr)).trans (cIs ▸ rfl)) ⟨rfl, (told.hubPart h (·.regs.tlmUp)).trans ?_,
      recorded_event s c h 0x10 none _ (by decide) quiet (cIs ▸ logs) (cIs ▸ rfl) _ rfl rfl, (told.part (·.dies)).trans (cIs ▸ rfl),
      (told.part (·.rings)).trans (cIs ▸ rfl), (told.engPart (·.twin)).trans (cIs ▸ rfl), fun g other => (told.hubPart g (·.regs.tlmUp)).trans ?_⟩
    · rw [← cIs, Block.onRegs, Block.hub_onHub_same s.start h _ x found]
    · rw [← cIs, Block.onRegs, Block.hub_onHub_other s.start h g _ other]
      rfl
  · obtain ⟨x, found⟩ := Block.there_of_hubUp up
    generalize cIs : s.start.onHub h (fun x => { x with regs := { x.regs with tlmUp := true }, fseq := 0, lastSent := s.blk.age h }) = c
    have quiet : c.Quiet := by
      rw [← cIs]
      exact fun g => (s.start.hub_onHub_part h g _ (·.regs.msiAddr)).trans (still g)
    have told := Told.event c h 0x10 none (pack [(0, 2, h), (2, 2, 1)]) quiet
    have effect : telemarkLinkUp h s.start = c.event h 0x10 none (pack [(0, 2, h), (2, 2, 1)]) := by
      unfold telemarkLinkUp
      rw [show (s.start.hub h).regs.tlmUp = false from down, show s.start.hubUp h = true from up, if_neg (by decide), ← cIs]
      exact congrArg (Block.event · h 0x10 none (pack [(0, 2, h), (2, 2, 1)])) (Block.onHub_onHub s.start h _ _)
    have hub := Block.hub_onHub_same s.start h (fun x => { x with regs := { x.regs with tlmUp := true }, fseq := 0, lastSent := s.blk.age h }) x found
    rw [cIs] at hub
    exact Runs.of_effect (s := s) rfl _ effect ((told.part (·.wr)).trans (cIs ▸ rfl)) ⟨rfl, (told.hubPart h (·.regs.tlmUp)).trans (by rw [hub]),
      (told.hubPart h (·.fseq)).trans (by rw [hub]), (told.hubPart h (·.lastSent)).trans (by rw [hub]),
      recorded_event s c h 0x10 none _ (by decide) quiet (cIs ▸ logs) (cIs ▸ rfl) _ rfl rfl, (told.part (·.dies)).trans (cIs ▸ rfl),
      (told.part (·.rings)).trans (cIs ▸ rfl), (told.engPart (·.twin)).trans (cIs ▸ rfl)⟩
  · have effect : monitorSample mon inst measured s.start =
        (s.start.sample mon inst v).onEng fun e => { e with sampled := e.sampled.put (monKey mon inst) (s.start.age (monHub mon inst)) } := by
      unfold monitorSample
      rw [known, show s.start.levelValue mon inst measured = some v from level]
      dsimp only
      rw [if_neg]
      simp only [Bool.or_eq_true, decide_eq_true_eq, not_or, Nat.not_le, Nat.not_lt]
      exact ⟨⟨few, by simp [show s.start.hubUp (monHub mon inst) = true from up]⟩, due⟩
    exact Runs.of_effect (s := s) rfl _ effect rfl ⟨sampled_of_eng rfl ⟨_, rfl⟩, rfl, Tbl.get?_put_same _ _ _⟩

end Sys2Proof.Machine
end

section
/-! O53: channels and row dies are lost, lanes recalibrated, and a re-layout moves stripe by stripe. -/
namespace Sys2Proof.Machine
open Sys2Proof.Spec

/-- A command whose claim rests on nothing that the interrupt writes at its end touch, but for the queues of channels that are not lost. -/
theorem Runs.of_kept {i : Instr} {s : State} {P : State → Prop} (e : Block) (arm : exec i s = .next (settle s (e.interrupts 16)))
    (holds : ∀ t : State, t.blk.core = e.core → ChansKept e t.blk → P t) : Runs i s P :=
  ⟨_, arm, rfl, holds _ (e.interrupts_core 16) ((ChansKept.interrupts e 16).trans (ChansKept.of_dies rfl))⟩

/-- A part of the block that lies in its core. -/
theorem Block.part_of_core {b c : Block} (same : c.core = b.core) {α : Type} (p : Block → α) (keeps : ∀ d : Block, p d.core = p d := by exact fun _ => rfl) : p c = p b := by
  rw [← keeps c, ← keeps b, same]

/-! ### Channels lost (R270) -/

/-- A channel as it stands once it is among those lost. -/
theorem Block.loseAll_shut (b : Block) (chs : List Nat) (there : ∀ c ∈ chs, b.dies.get? (c / 64) ≠ none) (x : Nat) {α : Type} (p : Chan → α) (v : α)
    (sets : ∀ c : Chan, p c.shut = v) (due : x ∈ chs ∨ (b.chan x).lost = true ∧ p (b.chan x) = v) :
    ((chs.foldl Block.loseChan b).chan x).lost = true ∧ p ((chs.foldl Block.loseChan b).chan x) = v := by
  induction chs generalizing b with
  | nil => exact due.resolve_left List.not_mem_nil
  | cons c cs ih =>
    have home := there c List.mem_cons_self
    have once := b.chan_onChan c x Chan.shut home
    refine ih _ (fun d mem => (Firm.loseChan b c).dieThere (there d (List.mem_cons_of_mem _ mem))) ?_
    by_cases here : x = c
    · rw [if_pos here] at once
      have shut := (b.loseChan_kept c).idle x (by rw [once]; rfl)
      exact .inr ⟨by rw [shut, once]; rfl, by rw [shut, once, sets]⟩
    · rw [if_neg here] at once
      refine due.imp (fun mem => (List.mem_cons.mp mem).resolve_left here) fun ⟨gone, is⟩ => ?_
      have same := (b.loseChan_kept c).idle x (by rw [once, gone])
      exact ⟨by rw [same, once, gone], by rw [same, once, is]⟩

theorem Firm.loseAll (b : Block) (chs : List Nat) : Firm b (chs.foldl Block.loseChan b) := Firm.foldl (fun b c => Firm.loseChan b c) chs b

/-- The channels of the layout that are lost are those whose channel or cluster is. -/
theorem Block.lostChans_of_core {b c : Block} (same : c.core = b.core) (kept : ChansKept b c) : c.lostChans = b.lostChans := by
  have layout : c.eng.layout = b.eng.layout := Block.part_of_core same (·.eng.layout)
  have dead : ∀ q, (c.die q).deadClusters = (b.die q).deadClusters := fun q => congrArg (·.deadClusters) (Block.die_of_core same q)
  unfold Block.lostChans
  simp only [layout, dead, kept.lost]

/-- A change of what the engine plans leaves its layout. -/
theorem Plans.layout {f : Eng → Eng} (plans : Plans f) (e : Eng) : (f e).layout = e.layout := by
  have same := congrArg Eng.layout (plans e)
  exact same

theorem mem_distinct_of_mem {y : Nat} {l : List Nat} (mem : y ∈ l) : y ∈ distinct l := by
  induction l with
  | nil => exact mem
  | cons x l ih =>
    refine List.mem_cons.mpr ((eq_or_ne y x).imp_right fun other => List.mem_filter.mpr ⟨ih ((List.mem_cons.mp mem).resolve_left other), ?_⟩)
    simpa using other

theorem Plans.relayout {f : Eng → Eng} (plans : Plans f) (e : Eng) : (f e).relayout = e.relayout := by
  have same := congrArg Eng.relayout (plans e)
  exact same

/-- What is planned decides nothing about lost channels. -/
theorem Plans.lostChans {f : Eng → Eng} (plans : Plans f) (b : Block) : (b.onEng f).lostChans = b.lostChans := by
  unfold Block.lostChans
  rw [show (b.onEng f).eng.layout = b.eng.layout from plans.layout b.eng]
  rfl

/-- A row die whose stack is in service is there. -/
theorem Block.there_of_st {b : Block} {q : Nat} (on : (b.die q).st = 1) : b.dies.get? q ≠ none := by
  intro none_
  rw [Block.die, Tbl.getD, none_] at on
  exact absurd on (by decide)

/-- The plan posted after channels are lost names each of them. -/
theorem Block.planWithout_names (b : Block) (out : List Nat) {ch : Nat} (mem : ch ∈ out) : (distinct (out ++ b.lostChans)).contains ch = true :=
  List.contains_iff_mem.mpr (mem_distinct_of_mem (List.mem_append_left _ mem))

/-! ### Lanes (R260, R431) -/

/-- A row die that was recalibrated whole. -/
def RowDie.recalibrated (now : Nat) (d : RowDie) : RowDie :=
  { d with recalAge := now, recalReading := d.reading, chans := d.chans.mapVal fun _ c => { c with recalAge := 0 } }

/-- A recalibration that is due renews the stack's, and then takes the lanes found below margin one by one. -/
theorem laneRecalibration_whole (b : Block) (q : Nat) (bad : List (Nat × Nat)) (up : b.dieUp q = true) (due : (b.die q).recalAge + 10000000 ≤ b.age (b.homeHub q))
    (found : ∀ x ∈ bad, x.1 / 64 = q ∧ (b.die q).chans.has x.1 = true ∧ (b.chan x.1).lost = false) :
    laneRecalibration q bad b = bad.foldl (fun b x => recalLane b x.1 x.2) (b.onDie q (RowDie.recalibrated (b.age (b.homeHub q)))) := by
  have all : bad.filter (fun x => x.1 / 64 == q && (b.die q).chans.has x.1 && !(b.chan x.1).lost) = bad := List.filter_eq_self.mpr fun x mem => by
    obtain ⟨home, has, live⟩ := found x mem
    simp [home, has, live]
  unfold laneRecalibration
  dsimp only
  simp only [decide_eq_true due, Bool.true_or, up, Bool.and_true, Bool.not_true, Bool.or_self, Bool.false_eq_true, if_false, if_true, all]
  rfl

/-- A channel after its stack's recalibration. -/
theorem Block.chan_recalibrated (b : Block) (q now ch : Nat) {α : Type} (p : Chan → α)
    (keeps : ∀ c : Chan, p { c with recalAge := 0 } = p c := by exact fun _ => rfl) : p ((b.onDie q (RowDie.recalibrated now)).chan ch) = p (b.chan ch) :=
  b.die_onDie_part q (ch / 64) _ (fun d => p (d.chans.getD ch {})) fun d => Tbl.getD_mapVal d.chans _ ch {} p fun _ c => keeps c

theorem Block.there_onDie {b : Block} {o : Nat} (q : Nat) (f : RowDie → RowDie) (there : b.dies.get? o ≠ none) : (b.onDie q f).dies.get? o ≠ none := by
  intro none_
  obtain rfl | other := eq_or_ne o q
  · exact there (Option.map_eq_none_iff.mp ((Tbl.get?_modify_same ..).symm.trans none_))
  · exact there ((Tbl.get?_modify_other _ _ _ _ other).symm.trans none_)

/-- A spare lane is taken, with its ledger record. -/
theorem recalLane_spares (b : Block) (ch lane : Nat) (low : lane < 64) (spare : (b.chan ch).spareLanes ≠ 0) :
    recalLane b ch lane = (b.onChan ch fun c => { c with spareLanes := c.spareLanes - 1 }).ledgerAdd (b.homeHub (ch / 64)) ch 0 lane 2 0 0 := by
  unfold recalLane
  dsimp only
  rw [if_neg (Nat.not_le.mpr low), if_neg spare]

/-- A spare command and address lane is taken at both pseudo-channels. -/
theorem recalLane_sparesCa (b : Block) (ch lane : Nat) (high : 64 ≤ lane) (spare : (b.chan ch).spareCa ≠ 0) :
    recalLane b ch lane = ((b.onChan ch fun c => { c with spareCa := c.spareCa - 1 }).onChan (chanPair ch) fun c => { c with spareCa := c.spareCa - 1 }).ledgerAdd
      (b.homeHub (ch / 64)) ch 0 lane 2 0 0 := by
  unfold recalLane
  dsimp only
  rw [if_pos high, if_neg spare]

theorem ChansKept.ledgerAdd (b : Block) (hub ch bank where_ kind state corrected : Nat) : ChansKept b (b.ledgerAdd hub ch bank where_ kind state corrected) :=
  (ChansKept.event b _ _ _ _).trans (ChansKept.onDie _ _ _ fun d => by split <;> rfl)

/-- A ledger record changes of a row die its ledger only, but for its channels and buffers. -/
theorem Block.ledgerAdd_recalAge (b : Block) (hub ch bank where_ kind state corrected q : Nat) :
    ((b.ledgerAdd hub ch bank where_ kind state corrected).die q).recalAge = (b.die q).recalAge :=
  (Block.die_onDie_part _ _ q _ (·.recalAge) fun d => by split <;> rfl).trans ((Touch.event (P := fun _ => True) b _ _ _ _).die q (·.recalAge))

/-- The other pseudo-channel of an HBM4 pair is another one, of the same stack. -/
theorem chanPair_ne (ch : Nat) : chanPair ch ≠ ch ∧ chanPair ch / 64 = ch / 64 := by
  have low : chanPair ch % 2 = (ch + 1) % 2 := Nat.xor_mod_two_eq
  have high : chanPair ch / 2 = ch / 2 := by
    unfold chanPair
    rw [Nat.xor_div_two]
    exact Nat.xor_zero _
  omega

/-! ### A re-layout (R272, R273) -/

/-- From b to c what a re-layout keeps stands, and the writes made are patterns of poison at these atoms. -/
structure Restriped (atoms : List (List Nat)) (b c : Block) : Prop where
  firm : Firm b c
  rings : c.rings = b.rings
  lost : ∀ ch, (c.chan ch).lost = (b.chan ch).lost
  wr : b.Quiet → c.wr = b.wr ++ atoms.map Wr.poison

namespace Restriped

variable {b c d : Block}

theorem refl (b : Block) : Restriped [] b b := ⟨Firm.refl b, rfl, fun _ => rfl, fun _ => (List.append_nil _).symm⟩

theorem trans {as es : List (List Nat)} (first : Restriped as b c) (second : Restriped es c d) : Restriped (as ++ es) b d :=
  ⟨first.firm.trans second.firm, second.rings.trans first.rings, fun ch => (second.lost ch).trans (first.lost ch), fun still => by
    rw [second.wr (first.firm.quiet still), first.wr still, List.map_append, List.append_assoc]⟩

/-- Steps one after another, each with its atoms, as long as lost channels stay lost. -/
theorem foldl {α : Type} {f : Block → α → Block} {atoms : α → List (List Nat)} {lost : Nat → Bool}
    (step : ∀ b : Block, (∀ ch, (b.chan ch).lost = lost ch) → ∀ a, Restriped (atoms a) b (f b a)) (as : List α) (b : Block)
    (at_ : ∀ ch, (b.chan ch).lost = lost ch) : Restriped (as.flatMap atoms) b (as.foldl f b) := by
  induction as generalizing b with
  | nil => exact refl b
  | cons a as ih =>
    have first := step b at_ a
    exact first.trans (ih _ fun ch => (first.lost ch).trans (at_ ch))

/-- Steps one after another that write nothing. -/
theorem steps {α : Type} {f : Block → α → Block} (step : ∀ b a, Restriped [] b (f b a)) (as : List α) (b : Block) : Restriped [] b (as.foldl f b) := by
  induction as generalizing b with
  | nil => exact refl b
  | cons a as ih => exact (step b a).trans (ih _)

theorem of_touch (touch : Touch (fun _ => False) b c) (rings : c.rings = b.rings) : Restriped [] b c :=
  ⟨Firm.of_touch (touch.mono fun _ => False.elim), rings, touch.lost, fun still => by
    obtain ⟨ws, made, none_⟩ := touch.wr still
    rw [made, List.eq_nil_iff_forall_not_mem.mpr fun w mem => none_ w mem]
    rfl⟩

theorem onDie (b : Block) (q : Nat) (f : RowDie → RowDie) (keeps : ∀ x, (f x).frame = x.frame := by exact fun _ => rfl)
    (chans : ∀ x, (f x).chans = x.chans := by exact fun _ => rfl) : Restriped [] b (b.onDie q f) :=
  ⟨Firm.onDie b q f keeps, rfl, (ChansKept.onDie b q f chans).lost, fun _ => (List.append_nil _).symm⟩

theorem request (b : Block) (ch : Nat) (rt : Bool) (q : Req) : Restriped [] b (b.request ch rt q) := of_touch (Touch.request b ch rt q) (Shelved.request b ch rt q).rings

theorem onGroupSlice (b : Block) (s : Nat) (f : Slice → Slice) : Restriped [] b (b.onGroupSlice s f) := by
  unfold Block.onGroupSlice
  split
  · exact of_touch (Touch.onSlice b _ f) rfl
  · exact refl b

theorem dropLine (b : Block) (ch row : Nat) : Restriped [] b (b.dropLine ch row) := (onGroupSlice b _ _).trans (onDie _ _ _)

theorem accepted (b : Block) (stack pa n cls : Nat) (remote : Bool) : Restriped [] b (b.wcbAccept stack pa n cls remote) :=
  of_touch (Touch.wcbAccept b stack pa n cls remote) (Shelved.drainFor b stack n _).rings

theorem event (b : Block) (hub kind : Nat) (job : Option Nat) (payload : Nat) : Restriped [] b (b.event hub kind job payload) :=
  of_touch (Touch.event b _ _ _ _) (Shelved.event b _ _ _ _).rings

theorem poisonAtoms (b : Block) (hub pa n source : Nat) : Restriped [atomsOf pa n] b (b.poisonAtoms hub pa n source) := by
  have pushed : Restriped [atomsOf pa n] b (b.push (.poison (atomsOf pa n))) := ⟨Firm.push b _ (fun _ _ _ same => by cases same), rfl, fun _ => rfl, fun _ => rfl⟩
  unfold Block.poisonAtoms
  dsimp only
  split
  · exact pushed.trans ((((accepted _ _ _ _ _ _).trans (onGroupSlice _ _ _)).trans (onDie _ _ _)).trans (event _ _ _ _ _))
  · exact pushed

end Restriped

/-- The atoms of a granule that moves from a lost channel. -/
def lostAtoms (old new : Layout) (lost : Nat → Bool) (g : Nat) : List (List Nat) :=
  match old.locate g with
  | some (ch, _) => if old.locate g ≠ new.locate g ∧ lost ch = true then (List.range 4).map fun k => atomsOf (g + 64 * k) 64 else []
  | none => []

/-- The four atoms of a granule are poisoned. -/
theorem Restriped.poisonGranule (b : Block) (hub g : Nat) : Restriped ((List.range 4).map fun k => atomsOf (g + 64 * k) 64) b
    ((List.range 4).foldl (fun b k => b.poisonAtoms hub (g + 64 * k) 64 0) b) := by
  have poisoned := foldl (fun c (_ : ∀ ch, (c.chan ch).lost = (b.chan ch).lost) k => poisonAtoms c hub (g + 64 * k) 64 0) (List.range 4) b fun _ => rfl
  rwa [← List.map_eq_flatMap] at poisoned

theorem Restriped.moveGranule (b : Block) (old new : Layout) (g : Nat) {lost : Nat → Bool} (at_ : ∀ ch, (b.chan ch).lost = lost ch) :
    Restriped (lostAtoms old new lost g) b (b.moveGranule old new g) := by
  unfold Block.moveGranule lostAtoms
  dsimp only
  cases a : old.locate g with
  | none =>
    cases new.locate g with
    | none => exact refl b
    | some z => exact dropLine b z.1 z.2
  | some p =>
    obtain ⟨ch, row⟩ := p
    dsimp only
    by_cases same : some (ch, row) = new.locate g
    · rw [if_pos (beq_iff_eq.mpr same), if_neg fun both => both.1 same]
      exact refl b
    · rw [if_neg fun eq => same (beq_iff_eq.mp eq)]
      have dropped : Restriped [] b (b.dropLine ch row) := dropLine b ch row
      by_cases gone : lost ch = true
      · rw [if_pos ⟨same, gone⟩]
        cases new.locate g with
        | none =>
          rw [if_pos ((dropped.lost ch).trans ((at_ ch).trans gone))]
          exact dropped.trans (poisonGranule _ _ g)
        | some z =>
          have both : Restriped [] b ((b.dropLine ch row).dropLine z.1 z.2) := dropped.trans (dropLine _ z.1 z.2)
          rw [if_pos ((both.lost ch).trans ((at_ ch).trans gone))]
          exact (both.trans (request _ z.1 _ _)).trans (poisonGranule _ _ g)
      · rw [if_neg fun and => gone and.2]
        cases new.locate g with
        | none =>
          rw [if_neg fun lost => gone ((at_ ch).symm.trans ((dropped.lost ch).symm.trans lost))]
          exact dropped.trans (request _ ch _ _)
        | some z =>
          have both : Restriped [] b ((b.dropLine ch row).dropLine z.1 z.2) := dropped.trans (dropLine _ z.1 z.2)
          rw [if_neg fun lost => gone ((at_ ch).symm.trans ((both.lost ch).symm.trans lost))]
          exact (both.trans (request _ ch _ _)).trans (request _ z.1 _ _)

theorem Restriped.moveAccs (st : Store) (b : Block) : Restriped [] b (Block.moveAccs st b) := by
  unfold Block.moveAccs
  dsimp only
  refine steps (fun b x => ?_) _ b
  split
  · split
    · exact refl b
    · exact (onDie _ _ _).trans (onDie _ _ _)
  · exact refl b

theorem Restriped.stageStripe (b : Block) (src dst : List (Nat × Nat)) : Restriped [] b (b.stageStripe src dst) :=
  steps (fun b s => (onDie b s _).trans (onDie _ s _)) _ b

/-- Steps that change row dies only. -/
theorem Block.foldl_dies {α : Type} {f : Block → α → Block} (step : ∀ b a, f b a = { b with dies := (f b a).dies }) (as : List α) (b : Block) :
    as.foldl f b = { b with dies := (as.foldl f b).dies } := by
  induction as generalizing b with
  | nil => rfl
  | cons a as ih =>
    refine (ih (f b a)).trans ?_
    rw [List.foldl_cons, step b a]

theorem Block.spreadReplay_dies (b : Block) : b.spreadReplay = { b with dies := b.spreadReplay.dies } := by
  unfold Block.spreadReplay
  split
  · rfl
  · exact Block.foldl_dies (fun _ _ => rfl) _ b

/-- The engine with the new layout in force, its plans taken up next. -/
def Block.relaid (b : Block) (r : Relayout) : Block :=
  let b := b.onEng fun e => { e with layout := r.plan.layout, relayout := none }
  let b := if r.plan.mapout then
      r.plan.out.foldl (fun b ch => b.onDie (ch / 64) fun d => { d with active := if d.active.testBit (ch % 64) then d.active - 2 ^ (ch % 64) else d.active }) b
    else b
  let b := b.spreadReplay
  { b with works := b.works.mapVal fun _ w => match w.data with
    | .update u => if u.started then w else { w with data := .update { checked := u.checked, transformed := u.transformed } }
    | _ => w }

theorem Block.relaid_only (b : Block) (r : Relayout) :
    b.relaid r = { b with eng := { b.eng with layout := r.plan.layout, relayout := none }, dies := (b.relaid r).dies, works := (b.relaid r).works } := by
  have active : ∀ b : Block, (if r.plan.mapout then
      r.plan.out.foldl (fun b ch => b.onDie (ch / 64) fun d => { d with active := if d.active.testBit (ch % 64) then d.active - 2 ^ (ch % 64) else d.active }) b
    else b) = { b with dies := (if r.plan.mapout then
      r.plan.out.foldl (fun b ch => b.onDie (ch / 64) fun d => { d with active := if d.active.testBit (ch % 64) then d.active - 2 ^ (ch % 64) else d.active }) b
    else b).dies } := by
    intro b
    split
    · exact Block.foldl_dies (fun _ _ => rfl) _ b
    · rfl
  unfold Block.relaid
  dsimp only
  rw [Block.spreadReplay_dies, active]
  rfl

/-- The new layout is in force, and no plan puts off what was under way; nothing is written. -/
theorem Block.endRelayout_ends (b : Block) (r : Relayout) (still : b.Quiet) (unarmed : b.eng.dump.armed = false) :
    (b.endRelayout r).eng.layout = r.plan.layout ∧ (b.endRelayout r).eng.relayout = none ∧ (b.endRelayout r).rings = b.rings ∧ (b.endRelayout r).wr = b.wr := by
  have only := b.relaid_only r
  have published := (b.relaid r).publish_only
  have quiet : (b.relaid r).publish.Quiet := fun g => ((b.relaid r).publish_hub g (·.regs.msiAddr)).trans (by rw [only]; exact still g)
  have ending : ∀ c : Block, c.Quiet → c.eng.dump.armed = false → ∀ (none_ : Bool) cause all, let e := if none_ then c else c.postPlan cause all
      e.eng.layout = c.eng.layout ∧ e.eng.relayout = c.eng.relayout ∧ e.rings = c.rings ∧ e.wr = c.wr := by
    intro c still unarmed none_ cause all
    cases none_ with
    | true => exact ⟨rfl, rfl, rfl, rfl⟩
    | false =>
      obtain ⟨f, plans, told⟩ := c.postPlan_told cause all unarmed still
      exact ⟨(told.engPart (·.layout)).trans (plans.layout c.eng), (told.engPart (·.relayout)).trans (plans.relayout c.eng), told.part (·.rings), told.part (·.wr)⟩
  obtain ⟨layout, relayout, rings, wr⟩ := ending ((b.relaid r).publish.onEng fun e => { e with plansDue := [] }) quiet
    (by rw [published, only]; exact unarmed) _ _ _
  refine ⟨layout.trans ?_, relayout.trans ?_, rings.trans ?_, wr.trans ?_⟩ <;> rw [published, only] <;> rfl

/-- A stripe is staged, its granules are moved, and accumulators with them. -/
def Block.movedStripe (b : Block) (st : Store) (r : Relayout) (n : Nat) : Block :=
  Block.moveAccs st (((r.plan.layout.stripeGranules n).foldl (fun b g => b.moveGranule r.old r.plan.layout g)
    (b.stageStripe (movedPlaces r.old r.plan.layout (r.plan.layout.stripeGranules n)).1 (movedPlaces r.old r.plan.layout (r.plan.layout.stripeGranules n)).2)).onEng
      fun e => { e with relayout := some { r with left := n } })

/-- What is poisoned in a stripe. -/
def Relayout.lostAtoms (r : Relayout) (n : Nat) (lost : Nat → Bool) : List (List Nat) :=
  (r.plan.layout.stripeGranules n).flatMap (Machine.lostAtoms r.old r.plan.layout lost)

theorem Block.movedStripe_moves (b : Block) (st : Store) (r : Relayout) (n : Nat) :
    ∃ c, Restriped (r.lostAtoms n fun ch => (b.chan ch).lost) b c ∧
      Restriped [] (c.onEng fun e => { e with relayout := some { r with left := n } }) (b.movedStripe st r n) := by
  have staged := Restriped.stageStripe b (movedPlaces r.old r.plan.layout (r.plan.layout.stripeGranules n)).1
    (movedPlaces r.old r.plan.layout (r.plan.layout.stripeGranules n)).2
  exact ⟨_, staged.trans (Restriped.foldl (fun b at_ g => Restriped.moveGranule b _ _ g at_) _ _ staged.lost), Restriped.moveAccs st _⟩

theorem mem_addN {x y : Nat} {xs : List Nat} (mem : x = y ∨ x ∈ xs) : x ∈ addN xs y := by
  induction xs with
  | nil => exact List.mem_singleton.mpr (mem.resolve_right List.not_mem_nil)
  | cons z zs ih =>
    unfold addN
    split
    · exact List.mem_cons.mpr mem
    · split
      · rename_i same
        exact mem.elim (fun is => is ▸ same ▸ List.mem_cons_self) id
      · obtain rfl | mem := mem
        · exact List.mem_cons_of_mem _ (ih (.inl rfl))
        · obtain rfl | mem := List.mem_cons.mp mem
          · exact List.mem_cons_self
          · exact List.mem_cons_of_mem _ (ih (.inr mem))

theorem mem_foldl_addN {x : Nat} (ys : List Nat) {xs : List Nat} (mem : x ∈ ys ∨ x ∈ xs) : x ∈ ys.foldl addN xs := by
  induction ys generalizing xs with
  | nil => exact mem.resolve_left List.not_mem_nil
  | cons y ys ih =>
    refine ih ?_
    obtain mem | mem := mem
    · exact (List.mem_cons.mp mem).symm.imp_right fun is => mem_addN (.inl is)
    · exact .inr (mem_addN (.inr mem))

/-- Patterns of poison leave host memory, and poison their atoms. -/
theorem Store.apply_poison (as : List (List Nat)) (st : Store) : (st.apply (as.map Wr.poison)).host = st.host ∧
    ∀ x, (x ∈ st.poison ∨ ∃ a ∈ as, x ∈ a) → x ∈ (st.apply (as.map Wr.poison)).poison := by
  induction as generalizing st with
  | nil => exact ⟨rfl, fun x mem => mem.resolve_right fun ⟨_, none_, _⟩ => absurd none_ List.not_mem_nil⟩
  | cons a as ih =>
    obtain ⟨host, poison⟩ := ih (st.apply1 (.poison a))
    refine ⟨host, fun x mem => poison x ?_⟩
    obtain mem | ⟨b, there, mem⟩ := mem
    · exact .inl (mem_foldl_addN a (.inr mem))
    · obtain rfl | later := List.mem_cons.mp there
      · exact .inl (mem_foldl_addN b (.inl mem))
      · exact .inr ⟨b, later, mem⟩

theorem mem_atomsOf_granule (g k : Nat) : g / 64 + k ∈ atomsOf (g + 64 * k) 64 := by
  unfold atomsOf
  rw [if_neg (by decide)]
  refine List.mem_map.mpr ⟨0, List.mem_range.mpr (Nat.succ_pos _), ?_⟩
  omega

/-- With no channel lost from which a granule moves, nothing is poisoned. -/
theorem Relayout.lostAtoms_none (r : Relayout) (n : Nat) (lost : Nat → Bool)
    (live : ∀ g ch, (g ∈ r.plan.layout.stripeGranules n ∧ r.old.locate g ≠ r.plan.layout.locate g ∧ ∃ row, r.old.locate g = some (ch, row)) → lost ch = false) :
    r.lostAtoms n lost = [] := by
  refine List.flatMap_eq_nil_iff.mpr fun g mem => ?_
  unfold Machine.lostAtoms
  split
  · rename_i ch row at_
    refine if_neg fun both => ?_
    rw [live g ch ⟨mem, both.1, row, at_⟩] at both
    exact absurd both.2 Bool.false_ne_true
  · rfl

/-- The atoms of a granule that moves from a lost channel are poisoned. -/
theorem Relayout.mem_lostAtoms {r : Relayout} {n : Nat} {lost : Nat → Bool} {g ch : Nat}
    (moves : g ∈ r.plan.layout.stripeGranules n ∧ r.old.locate g ≠ r.plan.layout.locate g ∧ ∃ row, r.old.locate g = some (ch, row)) (gone : lost ch = true)
    {k : Nat} (low : k < 4) : ∃ a ∈ r.lostAtoms n lost, g / 64 + k ∈ a := by
  obtain ⟨mem, other, row, at_⟩ := moves
  refine ⟨atomsOf (g + 64 * k) 64, List.mem_flatMap.mpr ⟨g, mem, ?_⟩, mem_atomsOf_granule g k⟩
  unfold Machine.lostAtoms
  rw [at_] at other ⊢
  dsimp only
  rw [if_pos ⟨other, gone⟩]
  exact List.mem_map.mpr ⟨k, List.mem_range.mpr low, rfl⟩

/-- What RELAYOUT_STRIPE does once every started share has retired. -/
theorem relayoutStripe_acts (st : Store) (b : Block) (r : Relayout) (under : b.eng.relayout = some r)
    (ready : b.dies.vals.any (fun d => !d.shares.isEmpty || !d.board.isEmpty) = false) :
    (∀ n, r.left = n + 2 → relayoutStripe st b = b.movedStripe st r (n + 1)) ∧
      (r.left = 1 → relayoutStripe st b = (b.movedStripe st r 0).endRelayout { r with left := 0 }) ∧ (r.left = 0 → relayoutStripe st b = b.endRelayout r) := by
  refine ⟨fun n left => ?_, fun left => ?_, fun left => ?_⟩ <;>
  · unfold relayoutStripe
    rw [under]
    dsimp only
    rw [ready, left]
    rfl

/-- What a stripe's re-layout leaves of memory: host memory, and all of it where no channel is lost. -/
theorem relaid_memory (s : State) (r : Relayout) (n : Nat) {b : Block} (wr : b.wr = (r.lostAtoms n fun ch => (s.blk.chan ch).lost).map Wr.poison) :
    (settle s b).store.host = s.store.host ∧
    ((∀ g ch, (g ∈ r.plan.layout.stripeGranules n ∧ r.old.locate g ≠ r.plan.layout.locate g ∧ ∃ row, r.old.locate g = some (ch, row)) →
      (s.blk.chan ch).lost = false) → (settle s b).store.mem = s.store.mem) := by
  show (s.store.apply b.wr).host = s.store.host ∧ (_ → (s.store.apply b.wr).mem = s.store.mem)
  rw [wr]
  exact ⟨(Store.apply_poison _ _).1, fun live => by rw [r.lostAtoms_none n _ live]; rfl⟩

/-- Settles O53. -/
theorem lossesAndRelayoutAct : Obligations.LossesAndRelayoutAct := by
  unfold Obligations.LossesAndRelayoutAct
  refine ⟨fun ch s pairToo up still unarmed live has => ?_, fun q s on => ?_, fun q s up due => ⟨?_, fun ch lane home has live => ⟨fun low spare => ?_, fun high spare => ?_⟩⟩, ?_⟩
  · intro chs
    have there : ∀ c ∈ chs, s.start.dies.get? (c / 64) ≠ none := by
      intro c mem
      have parts := (List.mem_filter.mp mem).2
      simp only [Bool.and_eq_true] at parts
      exact Block.there_of_dieUp parts.1.2
    have mem : ch ∈ chs := by
      refine List.mem_filter.mpr ⟨?_, by simp [live, up, has]⟩
      split <;> exact List.mem_cons_self
    have effect : channelLoss ch pairToo s.start = (chs.foldl Block.loseChan s.start).postPlan 4 chs := by
      refine if_neg ?_
      rw [List.isEmpty_iff]
      exact fun none_ : chs = [] => absurd (none_ ▸ mem) List.not_mem_nil
    have gone : ∀ x ∈ chs, ∀ {α : Type} (p : Chan → α) (v : α), (∀ c : Chan, p c.shut = v) → ((chs.foldl Block.loseChan s.start).chan x).lost = true ∧
        p ((chs.foldl Block.loseChan s.start).chan x) = v := fun x mem {α} p v sets => s.start.loseAll_shut chs there x p v sets (.inl mem)
    have firm := Firm.loseAll s.start chs
    generalize chs.foldl Block.loseChan s.start = b at effect gone firm
    obtain ⟨f, plans, touch, kept⟩ := b.postPlan_touch 4 chs
    refine Runs.of_kept (s := s) (channelLoss ch pairToo s.start) rfl fun t core tail => ?_
    rw [effect] at core tail
    have idle : ∀ x ∈ chs, t.blk.chan x = b.chan x := fun x mem => by
      have lost := (gone x mem Chan.lost true fun _ => rfl).1
      exact (tail.idle x ((kept.lost x).trans lost)).trans (kept.idle x lost)
    have layout : t.blk.eng.layout = b.eng.layout := (Block.part_of_core core (·.eng.layout)).trans ((touch.part (·.eng.layout)).trans (plans.layout b.eng))
    have lostChans : t.blk.lostChans = b.lostChans := (Block.lostChans_of_core core tail).trans ((Block.lostChans_of_core touch.core kept).trans (plans.lostChans b))
    refine ⟨fun x mem => by rw [idle x mem]; exact (gone x mem Chan.lost true fun _ => rfl).1, by rw [idle ch mem]; exact (gone ch mem Chan.wide [] fun _ => rfl).2,
      by rw [idle ch mem]; exact (gone ch mem Chan.test none fun _ => rfl).2, layout.trans (firm.engPart (·.layout)), fun sound => ?_⟩
    rw [lostChans, ← show b.eng.layout = s.blk.eng.layout from firm.engPart (·.layout)] at sound
    obtain ⟨p, plan, out, posted⟩ := b.postPlan_posts 4 chs ((firm.engPart (·.relayout)).trans still) sound
    refine ⟨p, (Block.part_of_core core (·.eng.plan)).trans plan, ?_, posted⟩
    rw [out]
    exact b.planWithout_names chs mem
  · have there : s.start.dies.get? q ≠ none := Block.there_of_st (b := s.start) on
    obtain ⟨ps, all, each⟩ : ∃ ps : List Nat, (∀ p ∈ ps, p < 64) ∧ ps = List.range 64 := ⟨_, fun _ mem => List.mem_range.mp mem, rfl⟩
    have effect : rowDieFailure q s.start = (s.start.loseStackOn q 6 ps).publish := by
      unfold rowDieFailure
      rw [show s.start.dieOn q = true from beq_iff_eq.mpr on, each, ← Block.loseStack_eq]
      rfl
    obtain ⟨failed, st⟩ := s.start.loseStackOn_die q 6 ps there
    have gen := (Firm.loseStackOn s.start q 6 ps).engPart (·.almGen)
    have lost : ∀ p, p < 64 → (s.start.die q).chans.has (64 * q + p) = true → ((s.start.loseStackOn q 6 ps).chan (64 * q + p)).lost = true := fun p low has =>
      s.start.loseStackOn_lost q 6 ps there all (each ▸ List.mem_range.mpr low) has
    have published := (s.start.loseStackOn q 6 ps).publish_only
    refine Runs.of_kept (s := s) (rowDieFailure q s.start) rfl fun t core tail => ?_
    rw [effect] at core tail
    generalize s.start.loseStackOn q 6 ps = b at published failed st gen lost core tail
    have dies : ∀ o, b.publish.die o = b.die o := fun o => by rw [published]; rfl
    refine ⟨(congrArg RowDie.st (Block.die_of_core core q) : _).trans ?_, (congrArg RowDie.failed (Block.die_of_core core q) : _).trans ?_, ?_, fun p low has => ?_⟩
    · exact (congrArg RowDie.st (dies q)).trans st
    · exact (congrArg RowDie.failed (dies q)).trans failed
    · have almGen : t.blk.eng.almGen = b.publish.eng.almGen := Block.part_of_core core (·.eng.almGen)
      rw [almGen, published]
      exact (show b.eng.almGen = s.blk.eng.almGen from gen) ▸ Nat.lt_succ_self _
    · rw [tail.lost, Block.chan, dies]
      exact lost p low has
  · have there : s.start.dies.get? q ≠ none := Block.there_of_dieUp (b := s.start) up
    obtain ⟨d, found⟩ := Option.ne_none_iff_exists'.mp there
    have effect := laneRecalibration_whole s.start q [] up due fun x mem => absurd mem List.not_mem_nil
    have die := Block.die_onDie_same s.start q (RowDie.recalibrated (s.start.age (s.start.homeHub q))) d found
    refine Runs.of_effect (s := s) rfl _ effect rfl ⟨rfl, (congrArg RowDie.recalAge die : _), (congrArg RowDie.recalReading die : _).trans (congrArg RowDie.reading (Block.die_of_get s.start q d found)).symm, fun c mem => ?_⟩
    have mem : c ∈ (d.chans.mapVal fun _ c => { c with recalAge := 0 }).vals := (congrArg (·.chans.vals) die : _) ▸ mem
    obtain ⟨e, there, is⟩ := List.mem_map.mp mem
    obtain ⟨v, _, same⟩ := Tbl.mem_mapVal _ _ _ there
    rw [← is, same]
  · have there : s.start.dies.get? (ch / 64) ≠ none := home.symm ▸ Block.there_of_dieUp (b := s.start) up
    generalize bIs : s.start.onDie q (RowDie.recalibrated (s.start.age (s.start.homeHub q))) = b
    have thereB : b.dies.get? (ch / 64) ≠ none := bIs ▸ Block.there_onDie q _ there
    have age : (b.die q).recalAge = s.blk.age (s.blk.homeHub q) := by
      obtain ⟨d, found⟩ := Option.ne_none_iff_exists'.mp there
      rw [← bIs]
      exact congrArg RowDie.recalAge (Block.die_onDie_same s.start q _ d (home ▸ found))
    have spareB : (b.chan ch).spareLanes = (s.blk.chan ch).spareLanes := bIs ▸ s.start.chan_recalibrated q _ ch (·.spareLanes)
    have liveB : (b.chan ch).lost = false := bIs ▸ (s.start.chan_recalibrated q _ ch (·.lost)).trans live
    have effect := (laneRecalibration_whole s.start q [(ch, lane)] up due fun x mem => List.mem_singleton.mp mem ▸ ⟨home, has, live⟩).trans
      (congrArg (fun c => recalLane c ch lane) bIs)
    rw [recalLane_spares b ch lane low (spareB ▸ spare)] at effect
    have one := b.chan_onChan ch ch (fun c => { c with spareLanes := c.spareLanes - 1 }) thereB
    rw [if_pos rfl] at one
    refine Runs.of_kept (s := s) (laneRecalibration q [(ch, lane)] s.start) rfl fun t core tail => ?_
    rw [effect] at core tail
    have kept := (ChansKept.ledgerAdd _ _ _ _ _ _ _ _).trans tail
    refine ⟨?_, ?_, ?_⟩
    · rw [kept.part ch (·.spareLanes), one, ← spareB]
      exact Nat.sub_add_cancel (Nat.one_le_iff_ne_zero.mpr (spareB ▸ spare))
    · rw [kept.lost, one]
      exact liveB
    · exact (congrArg RowDie.recalAge (Block.die_of_core core q) : _).trans ((Block.ledgerAdd_recalAge _ _ _ _ _ _ _ _ q).trans
        ((b.die_onDie_part (ch / 64) q _ (·.recalAge)).trans age))
  · have there : s.start.dies.get? (ch / 64) ≠ none := home.symm ▸ Block.there_of_dieUp (b := s.start) up
    obtain ⟨other, beside⟩ := chanPair_ne ch
    generalize bIs : s.start.onDie q (RowDie.recalibrated (s.start.age (s.start.homeHub q))) = b
    have thereB : b.dies.get? (ch / 64) ≠ none := bIs ▸ Block.there_onDie q _ there
    have spareB : ∀ x, (b.chan x).spareCa = (s.blk.chan x).spareCa := fun x => bIs ▸ s.start.chan_recalibrated q _ x (·.spareCa)
    have liveB : (b.chan ch).lost = false := bIs ▸ (s.start.chan_recalibrated q _ ch (·.lost)).trans live
    have effect := (laneRecalibration_whole s.start q [(ch, lane)] up due fun x mem => List.mem_singleton.mp mem ▸ ⟨home, has, live⟩).trans
      (congrArg (fun c => recalLane c ch lane) bIs)
    rw [recalLane_sparesCa b ch lane high (spareB ch ▸ spare)] at effect
    have first := fun x => b.chan_onChan ch x (fun c => { c with spareCa := c.spareCa - 1 }) thereB
    have both := fun x => (b.onChan ch fun c => { c with spareCa := c.spareCa - 1 }).chan_onChan (chanPair ch) x (fun c => { c with spareCa := c.spareCa - 1 })
      (beside.symm ▸ Block.there_onDie (ch / 64) _ thereB)
    refine Runs.of_kept (s := s) (laneRecalibration q [(ch, lane)] s.start) rfl fun t core tail => ?_
    rw [effect] at core tail
    have kept := (ChansKept.ledgerAdd _ _ _ _ _ _ _ _).trans tail
    refine ⟨?_, ?_, ?_⟩
    · rw [kept.part ch (·.spareCa), both ch, if_neg other.symm, first ch, if_pos rfl, ← spareB]
      exact Nat.sub_add_cancel (Nat.one_le_iff_ne_zero.mpr (spareB ch ▸ spare))
    · rw [kept.part (chanPair ch) (·.spareCa), both, if_pos rfl, first, if_neg other, ← spareB]
    · rw [kept.lost, both ch, if_neg other.symm, first ch, if_pos rfl]
      exact liveB
  · intro s r alive standing under still idle moves moved
    have ready : s.start.dies.vals.any (fun d => !d.shares.isEmpty || !d.board.isEmpty) = false := List.any_eq_false.mpr fun d mem => by
      obtain ⟨shares, board⟩ := idle d mem
      simp [shares, board]
    obtain ⟨next, last, end_⟩ := relayoutStripe_acts s.store s.start r under ready
    refine ⟨fun n left => ?_, fun left unarmed => ?_⟩
    · have steps : relayoutStripe s.store s.start = s.start.movedStripe s.store r (n + 1) := next n left
      obtain ⟨c, stripe, accs⟩ := s.start.movedStripe_moves s.store r (n + 1)
      have named : ∀ g ch, moves g ch ↔ (g ∈ r.plan.layout.stripeGranules (n + 1) ∧ r.old.locate g ≠ r.plan.layout.locate g ∧ ∃ row, r.old.locate g = some (ch, row)) :=
        fun g ch => by rw [← show r.left - 1 = n + 1 by omega]
      generalize s.start.movedStripe s.store r (n + 1) = e at steps accs
      have quiet : (c.onEng fun e => { e with relayout := some { r with left := n + 1 } }).Quiet := stripe.firm.quiet still
      have wr : e.wr = (r.lostAtoms (n + 1) fun ch => (s.blk.chan ch).lost).map Wr.poison := (accs.wr quiet).trans ((List.append_nil _).trans (stripe.wr still))
      have silent : Silent e := accs.firm.silent quiet (stripe.firm.silent still (.of_wr rfl))
      obtain ⟨host, mem⟩ := relaid_memory s r (n + 1) wr
      refine Runs.of_settle (s := s) rfl e ((firmware_acts (b := s.start) alive standing).trans steps) silent ⟨⟨host, ?_, fun live => ?_⟩, ?_, ?_, fun g ch k moving gone low => ?_⟩
      · exact accs.rings.trans stripe.rings
      · exact mem fun g ch moving => live g ch ((named g ch).mpr moving)
      · exact (accs.firm.engPart (·.layout)).trans (stripe.firm.engPart (·.layout))
      · exact accs.firm.engPart (·.relayout)
      · show (s.store.apply e.wr).poison.contains _ = true
        rw [wr]
        exact List.contains_iff_mem.mpr ((Store.apply_poison _ _).2 _ (.inr (Relayout.mem_lostAtoms ((named g ch).mp moving) gone low)))
    · obtain zero | one : r.left = 0 ∨ r.left = 1 := by omega
      · obtain ⟨layout, relayout, rings, wr⟩ := s.start.endRelayout_ends r still unarmed
        have steps := end_ zero
        generalize s.start.endRelayout r = e at steps layout relayout rings wr
        exact Runs.of_effect (s := s) rfl e ((firmware_acts (b := s.start) alive standing).trans steps) wr
          ⟨fun one => absurd (zero.symm.trans one) (by decide), fun _ => rfl, layout, relayout⟩
      · have steps := last one
        obtain ⟨c, stripe, accs⟩ := s.start.movedStripe_moves s.store r 0
        have named : ∀ g ch, moves g ch ↔ (g ∈ r.plan.layout.stripeGranules 0 ∧ r.old.locate g ≠ r.plan.layout.locate g ∧ ∃ row, r.old.locate g = some (ch, row)) :=
          fun g ch => by rw [← show r.left - 1 = 0 by omega]
        generalize s.start.movedStripe s.store r 0 = m at steps accs
        have quiet : (c.onEng fun e => { e with relayout := some { r with left := 0 } }).Quiet := stripe.firm.quiet still
        have wr : m.wr = (r.lostAtoms 0 fun ch => (s.blk.chan ch).lost).map Wr.poison := (accs.wr quiet).trans ((List.append_nil _).trans (stripe.wr still))
        have silent : Silent m := accs.firm.silent quiet (stripe.firm.silent still (.of_wr rfl))
        have dump : m.eng.dump.armed = false := (accs.firm.engPart (·.dump.armed)).trans ((stripe.firm.engPart (·.dump.armed)).trans unarmed)
        obtain ⟨layout, relayout, rings, wrEnd⟩ := m.endRelayout_ends { r with left := 0 } (accs.firm.quiet quiet) dump
        generalize m.endRelayout { r with left := 0 } = e at steps layout relayout rings wrEnd
        obtain ⟨host, mem⟩ := relaid_memory s r 0 (wrEnd.trans wr)
        have silentEnd : Silent e := by
          unfold Silent
          rwa [wrEnd]
        refine Runs.of_settle (s := s) rfl e ((firmware_acts (b := s.start) alive standing).trans steps) silentEnd
          ⟨fun _ => ⟨host, rings.trans (accs.rings.trans stripe.rings), fun live => ?_⟩, fun zero => absurd (zero.symm.trans one) (by decide), layout, relayout⟩
        exact mem fun g ch moving => live g ch ((named g ch).mpr moving)

end Sys2Proof.Machine
end

section
/-! O54: fills enter the row cache or are discarded, offers settle, and Mogul's counts are halved. -/
namespace Sys2Proof.Machine
open Sys2Proof.Spec

/-- A row filled whole has a line for each of its granules (R283). -/
theorem Cache.fillRow_whole {c c' : Cache} {setOf : Nat → Nat → Nat} {ways : List (CSet → Nat → Bool)} {locked : Line → Nat → Bool} {toward : Bool}
    {ls out : List Line} (filled : c.fillRow setOf ways locked toward ls = some (c', out)) : ∀ l ∈ ls, (c'.line? (setOf l.ch l.row) l.ch l.row).isSome = true := by
  unfold Cache.fillRow at filled
  dsimp only at filled
  split at filled
  · split at filled
    · rename_i whole
      cases filled
      exact List.all_eq_true.mp whole
    · exact absurd filled (by simp)
  · exact absurd filled (by simp)

/-- The hub's slice once a fill has left its list. -/
def Slice.unfilled (id : Nat) (x : Slice) : Slice := { x with fills := x.fills.filter (·.id != id) }

/-- What is kept of a table in its canonical form stood there. -/
theorem Tbl.get?_keep {α : Type} {t : Tbl α} {p : Nat → α → Bool} {lo k : Nat} {v : α} (wf : Tbl.wfFrom lo t = true) (found : (t.keep p).get? k = some v) :
    t.get? k = some v := by
  induction t generalizing lo with
  | nil => exact found
  | cons e t ih =>
    obtain ⟨j, x⟩ := e
    simp only [Tbl.wfFrom, Bool.and_eq_true, decide_eq_true_eq] at wf
    have step : Tbl.keep ((j, x) :: t) p = if p j x = true then (j, x) :: Tbl.keep t p else Tbl.keep t p := List.filter_cons
    rw [step] at found
    by_cases same : j = k
    · split at found
      · rwa [Tbl.get?, if_pos same] at found ⊢
      · have later := ih wf.2 found
        rw [← same, Tbl.get?_none_of_lt t (j + 1) j wf.2 (Nat.lt_succ_self j)] at later
        exact absurd later (by simp)
    · have tail : Tbl.get? t k = some v := by
        split at found
        · rw [Tbl.get?, if_neg same] at found
          split at found
          · exact absurd found (by simp)
          · exact ih wf.2 found
        · exact ih wf.2 found
      have high : ¬k < j := fun low => by
        rw [Tbl.get?_none_of_lt t (j + 1) k wf.2 (Nat.lt_succ_of_lt low)] at tail
        exact absurd tail (by simp)
      rw [Tbl.get?, if_neg same, if_neg high]
      exact tail

/-- Changing the values leaves a table's form. -/
theorem Tbl.wfFrom_mapVal {α : Type} (t : Tbl α) (f : Nat → α → α) (lo : Nat) : Tbl.wfFrom lo (t.mapVal f) = Tbl.wfFrom lo t := by
  induction t generalizing lo with
  | nil => rfl
  | cons e t ih => exact congrArg (decide (lo ≤ e.1) && ·) (ih _)

/-- Every kept entry of Mogul's table comes from one of before, halved (R289). -/
theorem Slice.halve_mogul {x : Slice} (wf : Tbl.wf x.mogul = true) {k : Nat} {es : List Mogul} (found : x.halve.mogul.get? k = some es) :
    ∃ es', x.mogul.get? k = some es' ∧ es = es'.map fun e => if e.count / 2 = 0 then {} else { e with count := e.count / 2 } := by
  have found : ((x.mogul.mapVal fun _ es => es.map fun e => if e.count / 2 = 0 then {} else { e with count := e.count / 2 }).keep fun _ es => es.any (·.count != 0)).get? k =
    some es := found
  have all := Tbl.get?_keep (lo := 0) ((Tbl.wfFrom_mapVal _ _ 0).trans wf) found
  rw [Tbl.get?_mapVal, Option.map_eq_some_iff] at all
  obtain ⟨es', there, is⟩ := all
  exact ⟨es', there, is.symm⟩

/-- The offers settled with one: itself, or all of its row (R283). -/
def Slice.offeredWith (x : Slice) (l : Line) : List Line := if l.mates.isEmpty then [l] else x.offers.filter fun y => y.mates == l.mates

/-- The slice once they are settled, so many accepted and so many declined. -/
def Slice.settled (l : Line) (i yes no : Nat) (x : Slice) : Slice :=
  { x with offers := if l.mates.isEmpty then x.offers.eraseIdx i else x.offers.filter fun y => y.mates != l.mates
           offersAccepted := x.offersAccepted + yes, offersDeclined := x.offersDeclined + no }

/-- An offer is settled with those of its row: it and they leave the list (R283, R292). -/
theorem evictionOffer_settles (b : Block) (h i : Nat) (l : Line) (at_ : (b.hub h).slice.offers[i]? = some l) :
    ∃ (dies : Tbl RowDie) (yes no : Nat), evictionOffer h i b = ({ b with dies := dies } : Block).onSlice h (Slice.settled l i yes no) ∧
      yes + no = ((b.hub h).slice.offeredWith l).length := by
  unfold evictionOffer
  rw [at_]
  dsimp only
  split
  · rename_i taken _ _
    refine ⟨(b.onDie (l.ch / 64) fun d => { d with buffer := taken }).dies, ((b.hub h).slice.offeredWith l).length, 0, ?_, rfl⟩
    exact Block.onHub_onHub (b.onDie (l.ch / 64) fun d => { d with buffer := taken }) h _ _
  · refine ⟨b.dies, 0, ((b.hub h).slice.offeredWith l).length, ?_, Nat.zero_add _⟩
    exact Block.onHub_onHub b h _ _

/-- What is settled and what stays on offer are the offers that there were. -/
theorem Slice.settled_length {x : Slice} {l : Line} {i : Nat} (at_ : x.offers[i]? = some l) (yes no : Nat) :
    (x.settled l i yes no).offers.length + (x.offeredWith l).length = x.offers.length := by
  have low : i < x.offers.length := (List.getElem?_eq_some_iff.mp at_).1
  unfold Slice.settled Slice.offeredWith
  dsimp only
  split
  · rw [List.length_eraseIdx_of_lt low]
    exact Nat.sub_add_cancel (by omega)
  · have parts := List.length_eq_length_filter_add (l := x.offers) fun y => y.mates == l.mates
    rw [Nat.add_comm]
    exact parts.symm

/-- Settles O54. -/
theorem cacheFillsOffersAndHalving : Obligations.CacheFillsOffersAndHalving := by
  unfold Obligations.CacheFillsOffersAndHalving
  intro h s hub found x
  have hubIs : s.start.hub h = hub := Block.hub_of_get s.start h hub found
  have here : ∀ f : Slice → Slice, ((s.start.onSlice h f).hub h) = { hub with slice := f hub.slice } := fun f => Block.hub_onHub_same s.start h _ hub found
  refine ⟨fun f listed => ?_, fun i l at_ => ?_, ?_⟩
  · intro after q free zero filled
    have started : s.start.onSlice h (Slice.unfilled f.id) = s.start.onSlice h fun x => { x with fills := x.fills.filter (·.id != f.id) } := rfl
    generalize bIs : s.start.onSlice h (Slice.unfilled f.id) = b at started
    have slice : (b.hub h).slice = x.unfilled f.id := bIs ▸ congrArg Hub.slice (here _)
    have taken : b.admitAt h f.part = s.blk.admitAt h f.part := by
      unfold Block.admitAt
      rw [slice, show (s.blk.hub h).slice = x from congrArg Hub.slice hubIs, ← bIs]
      rfl
    have effect : cacheFill h f.id s.start = if f.stale || decide (s.blk.admitAt h f.part = 0) then b else match filled with
        | some (c, out) => b.onSlice h fun x => { x with cache := c, offers := x.offers ++ s.start.offering out }
        | none => b := by
      unfold cacheFill
      rw [hubIs, show hub.slice.fills.find? (·.id == f.id) = some f from listed]
      dsimp only
      rw [← started, taken, slice]
      subst bIs
      rfl
    refine ⟨fun why => ?_, fun fresh admitted some_ => ?_⟩
    · have effect : cacheFill h f.id s.start = s.start.onSlice h (Slice.unfilled f.id) := by
        rw [effect, bIs]
        split
        · rfl
        · rename_i open_
          simp only [Bool.or_eq_true, decide_eq_true_eq, not_or, Bool.not_eq_true] at open_
          rw [(why.resolve_left (by simp [open_.1])).resolve_left open_.2]
      refine runs_onHub rfl h _ effect hub found fun t only is => ⟨⟨only, ?_⟩, ?_⟩ <;> rw [is] <;> rfl
    · obtain ⟨⟨c, out⟩, whole⟩ := Option.ne_none_iff_exists'.mp some_
      have effect : cacheFill h f.id s.start = s.start.onSlice h fun x => { x.unfilled f.id with cache := c, offers := x.offers ++ s.start.offering out } := by
        rw [effect, if_neg (by simp [fresh, admitted]), whole, ← bIs]
        exact Block.onHub_onHub s.start h _ _
      refine runs_onHub rfl h _ effect hub found fun t only is => ⟨⟨only, ?_⟩, fun g mem => ?_⟩ <;> rw [is]
      · rfl
      · obtain ⟨l, line, ch, row⟩ : ∃ l ∈ rowLines f.part f.id zero 0 f.granules, l.ch = g.1 ∧ l.row = g.2 := ⟨_, List.mem_map.mpr ⟨g, mem, rfl⟩, rfl, rfl⟩
        have line := Cache.fillRow_whole whole l line
        rwa [ch, row] at line
  · obtain ⟨dies, yes, no, effect, sum⟩ := evictionOffer_settles s.start h i l (by rw [hubIs]; exact at_)
    have slice := congrArg Hub.slice (Block.hub_onHub_same ({ s.start with dies := dies } : Block) h (fun y => { y with slice := y.slice.settled l i yes no }) hub found)
    refine Runs.of_effect (s := s) rfl _ effect rfl ⟨rfl, rfl, rfl, ?_, (congrArg Slice.cache slice).trans rfl, ?_⟩
    · refine (congrArg Slice.offers slice).trans ?_
      simp only [Slice.settled, List.isEmpty_iff, x]
    · have kept := Slice.settled_length (x := x) at_ yes no
      have counts : ∀ y : Slice, y = x.settled l i yes no → y.offersAccepted + y.offersDeclined + y.offers.length = x.offersAccepted + x.offersDeclined + x.offers.length := by
        rintro y rfl
        have sum : yes + no = (x.offeredWith l).length := by rw [sum, hubIs]
        show x.offersAccepted + yes + (x.offersDeclined + no) + _ = _
        omega
      exact counts _ slice
  · by_cases many : 4194304 ≤ x.fetches
    · have effect : mogulHalve h s.start = s.start.onSlice h Slice.halve := if_pos (by rw [hubIs]; exact many)
      refine runs_onHub rfl h _ effect hub found fun t only is => ⟨only, ?_, fun few => absurd many (Nat.not_le.mpr few), fun _ wf => ?_⟩ <;> rw [is]
      · rfl
      · refine ⟨rfl, fun k es there => ?_⟩
        obtain ⟨es', old, rfl⟩ := Slice.halve_mogul (x := x) wf there
        refine ⟨es', old, List.length_map _, fun e mem some_ => ?_⟩
        obtain ⟨e', old', rfl⟩ := List.mem_map.mp mem
        split at some_
        · exact absurd rfl some_
        · rename_i left
          rw [if_neg left]
          exact ⟨e', old', rfl, rfl, rfl⟩
    · have effect : mogulHalve h s.start = s.start := if_neg (by rw [hubIs]; exact many)
      refine Runs.of_effect (s := s) rfl _ effect rfl ⟨⟨rfl, rfl, fun _ _ => rfl⟩, ?_, fun _ => ?_, fun more => absurd more many⟩
      · exact congrArg (·.slice.cache) hubIs
      · exact congrArg (·.slice) hubIs

end Sys2Proof.Machine
end

section
/-! O51: channels divide their frames, serve their queues and refresh their banks, and buffers drain. -/
namespace Sys2Proof.Machine
open Sys2Proof.Spec

/-! ### Burst groups (R244, R256) -/

/-- The requests that fit into a group of so many atoms, taken in order. -/
theorem foldl_group (cap : Nat) (l : List Req) (acc : List Req) (n : Nat) (fits : n ≤ cap) :
    ∃ g, l.foldl (fun (acc : List Req × Nat) x => if acc.2 + x.atoms ≤ cap then (acc.1 ++ [x], acc.2 + x.atoms) else acc) (acc, n) =
        (acc ++ g, n + (g.map (·.atoms)).sum) ∧ g.Sublist l ∧ n + (g.map (·.atoms)).sum ≤ cap ∧ (g = [] → ∀ x ∈ l, cap < n + x.atoms) := by
  induction l generalizing acc n with
  | nil => exact ⟨[], by simp, List.Sublist.slnil, fits, fun _ _ mem => absurd mem List.not_mem_nil⟩
  | cons x l ih =>
    rw [List.foldl_cons]
    dsimp only
    split
    · rename_i more
      obtain ⟨g, is, sub, small, _⟩ := ih (acc ++ [x]) (n + x.atoms) more
      refine ⟨x :: g, ?_, sub.cons_cons x, ?_, fun none_ => absurd none_ (List.cons_ne_nil x g)⟩
      · rw [is, List.append_assoc, List.map_cons, List.sum_cons, Nat.add_assoc]
        rfl
      · rw [List.map_cons, List.sum_cons, ← Nat.add_assoc]
        exact small
    · rename_i full
      obtain ⟨g, is, sub, small, none_⟩ := ih acc n fits
      refine ⟨g, is, sub.cons x, small, fun nil y mem => ?_⟩
      obtain rfl | later := List.mem_cons.mp mem
      · exact Nat.not_le.mp full
      · exact none_ nil y later

/-- What a group takes out of a queue is what it holds. -/
theorem sum_eraseAll (ys xs : List Req) (sub : ys.Subperm xs) :
    ((eraseAll xs ys).map (·.atoms)).sum + (ys.map (·.atoms)).sum = (xs.map (·.atoms)).sum := by
  induction ys generalizing xs with
  | nil => rfl
  | cons y ys ih =>
    have mem : y ∈ xs := sub.subset List.mem_cons_self
    have rest : ys.Subperm (xs.erase y) := by
      have := sub.erase y
      rwa [List.erase_cons_head] at this
    have one := List.sum_map_erase (fun q : Req => q.atoms) mem
    have more := ih _ rest
    show ((eraseAll (xs.erase y) ys).map (·.atoms)).sum + _ = _
    rw [List.map_cons, List.sum_cons]
    omega

/-- Atoms cut from a request leave the queue. -/
theorem sum_cutFirst {q : Req} {n : Nat} (enough : n ≤ q.atoms) {xs : List Req} (mem : q ∈ xs) :
    ((cutFirst q n xs).map (·.atoms)).sum + n = (xs.map (·.atoms)).sum := by
  induction xs with
  | nil => exact absurd mem List.not_mem_nil
  | cons y ys ih =>
    unfold cutFirst
    split
    · rename_i here
      have is : y = q := beq_iff_eq.mp here
      simp only [List.map_cons, List.sum_cons, is]
      omega
    · rename_i other
      have later := ih ((List.mem_cons.mp mem).resolve_left fun is => other (beq_iff_eq.mpr is.symm))
      simp only [List.map_cons, List.sum_cons]
      omega

/-- The leading request is one that waits. -/
theorem Chan.lead_waits {c : Chan} {t : Traffic} {q : Req} (lead : c.lead t = some q) : q ∈ c.waiting t := by
  unfold Chan.lead at lead
  split at lead
  · exact absurd lead (by simp)
  · rename_i x xs waiting
    have least : ∀ (ys : List Req) (m : Req), ys.foldl (fun m x => if x.prio < m.prio then x else m) m ∈ m :: ys := by
      intro ys
      induction ys with
      | nil => exact fun m => List.mem_cons_self
      | cons y ys ih =>
        intro m
        have step := ih (if y.prio < m.prio then y else m)
        rw [List.foldl_cons]
        obtain is | later := List.mem_cons.mp step
        · rw [is]
          split
          · exact List.mem_cons_of_mem _ List.mem_cons_self
          · exact List.mem_cons_self
        · exact List.mem_cons_of_mem _ (List.mem_cons_of_mem _ later)
    cases lead
    rw [waiting]
    exact least xs x

/-- What Snowplow serves has slots, and waits. -/
theorem Chan.serve_some {c : Chan} {kind lender : Traffic} {borrowed : Bool} (serve : c.serve = some (kind, lender, borrowed)) :
    c.left lender ≠ 0 ∧ c.waiting kind ≠ [] := by
  unfold Chan.serve at serve
  dsimp only at serve
  split at serve
  · rename_i t found
    have holds := List.find?_some found
    cases serve
    simpa using holds
  · split at serve
    · rename_i one two
      have first := List.find?_some one
      have second := List.find?_some two
      cases serve
      exact ⟨by simpa using first, by simpa using second⟩
    · exact absurd serve (by simp)

/-- The group of a kind is of its waiting requests, within the room, and empty only where its leading request is larger than that. -/
theorem Chan.group_spec (c : Chan) {kind : Traffic} (room : Nat) (waits : c.waiting kind ≠ []) :
    ∃ q, c.lead kind = some q ∧ q ∈ c.wide ∧ (c.group kind room).Sublist c.wide ∧ ((c.group kind room).map (·.atoms)).sum ≤ Nat.min groupAtoms room ∧
      (c.group kind room = [] → Nat.min groupAtoms room ≤ q.atoms) := by
  obtain ⟨q, lead⟩ : ∃ q, c.lead kind = some q := by
    unfold Chan.lead
    split
    · exact absurd ‹_› waits
    · exact ⟨_, rfl⟩
  have mem := Chan.lead_waits lead
  have wide : q ∈ c.wide := (List.mem_filter.mp mem).1
  obtain ⟨g, is, sub, small, none_⟩ := foldl_group (Nat.min groupAtoms room)
    ((c.waiting kind).filter fun x => x.isWrite == q.isWrite && pageBank x.row == pageBank q.row && x.prio == q.prio) [] 0 (Nat.zero_le _)
  have group : c.group kind room = g := by
    unfold Chan.group
    rw [lead]
    dsimp only
    rw [is]
    exact List.nil_append g
  rw [group]
  refine ⟨q, lead, wide, sub.trans (List.filter_sublist.trans List.filter_sublist), by omega, fun nil => ?_⟩
  have := none_ nil q (List.mem_filter.mpr ⟨mem, by simp⟩)
  omega

theorem Chan.left_use (c : Chan) (t k : Traffic) (n : Nat) : (c.use t n).left k = if k = t then c.left t - n else c.left k := by
  cases t <;> cases k <;> rfl

/-- A channel once a group of n atoms, or a part of a request, is served: those that stay are `wide`. -/
def Chan.took (c : Chan) (kind lender : Traffic) (borrowed : Bool) (n : Nat) (wide : List Req) : Chan :=
  { c with wide := wide }.use lender n |> fun x => { x with lastBorrow := if borrowed then kind else c.lastBorrow }

/-- What a served group takes from a channel: its atoms, off the slots of one part. -/
structure Chan.Served (a x : Chan) (lender : Traffic) : Prop where
  narrow : x.narrow = a.narrow
  less : x.left lender < a.left lender
  others : ∀ k, k ≠ lender → x.left k = a.left k
  atoms : (x.wide.map (·.atoms)).sum + a.left lender = (a.wide.map (·.atoms)).sum + x.left lender

theorem Chan.took_served (a : Chan) (kind lender : Traffic) (borrowed : Bool) {n : Nat} {wide : List Req} (some_ : n ≠ 0) (room : n ≤ a.left lender)
    (sum : (wide.map (·.atoms)).sum + n = (a.wide.map (·.atoms)).sum) : a.Served (a.took kind lender borrowed n wide) lender := by
  have left : ∀ k, (a.took kind lender borrowed n wide).left k = if k = lender then a.left lender - n else a.left k := fun k =>
    (show (a.took kind lender borrowed n wide).left k = (({ a with wide := wide } : Chan).use lender n).left k by cases lender <;> cases k <;> rfl).trans
      (Chan.left_use _ lender k n)
  have is : (a.took kind lender borrowed n wide).wide = wide := by cases lender <;> rfl
  refine ⟨by cases lender <;> rfl, ?_, fun k other => (left k).trans (if_neg other), ?_⟩
  · rw [left, if_pos rfl]
    omega
  · rw [left, if_pos rfl, is]
    omega

/-- From b to c rows were filled into row buffers and toward hubs; no channel changed. -/
structure Filled (b c : Block) : Prop where
  eq : c = { b with hubs := c.hubs, dies := c.dies }
  chans : ∀ ch, c.chan ch = b.chan ch

namespace Filled

theorem refl (b : Block) : Filled b b := ⟨rfl, fun _ => rfl⟩

theorem of_eq {b c : Block} (same : c = b) : Filled b c := same ▸ refl b

theorem trans {b c d : Block} (first : Filled b c) (second : Filled c d) : Filled b d :=
  ⟨by rw [second.eq, first.eq], fun ch => (second.chans ch).trans (first.chans ch)⟩

theorem foldl {α : Type} {f : Block → α → Block} (step : ∀ b a, Filled b (f b a)) (as : List α) (b : Block) : Filled b (as.foldl f b) := by
  induction as generalizing b with
  | nil => exact refl b
  | cons a as ih => exact (step b a).trans (ih _)

theorem bufferFill (b : Block) (s part : Nat) (locs : List (Nat × Nat)) (toward zero : Bool) : Filled b (b.bufferFill s part locs toward zero) := by
  unfold Block.bufferFill
  split
  · exact ⟨rfl, fun ch => b.die_onDie_part s (ch / 64) _ (fun d => d.chans.getD ch {})⟩
  · exact refl b

theorem fillDone (b : Block) (ch : Nat) (q : Req) : Filled b (b.fillDone ch q) := by
  unfold Block.fillDone
  split
  · split
    · exact refl b
    · rename_i part locs toward up preload _ _
      dsimp only
      have filled : Filled b (if b.bufferHit (ch / 64) locs then b else b.bufferFill (ch / 64) part locs toward) := by
        split
        · exact refl b
        · exact bufferFill b _ _ _ _ _
      generalize (if b.bufferHit (ch / 64) locs then b else b.bufferFill (ch / 64) part locs toward) = c at filled
      split
      · split
        · exact filled.trans ⟨rfl, fun _ => rfl⟩
        · exact filled
      · exact filled
  · exact refl b

end Filled

/-- Two changes of a channel that agree on it are the same. -/
theorem Block.onChan_congr (b : Block) (ch : Nat) {f g : Chan → Chan} (same : f (b.chan ch) = g (b.chan ch)) : b.onChan ch f = b.onChan ch g := by
  unfold Block.onChan Block.onDie Tbl.modify
  cases found : b.dies.get? (ch / 64) with
  | none => rfl
  | some d =>
    rw [Block.chan, b.die_of_get _ d found] at same
    dsimp only
    rw [same]

/-- A channel takes in what waits for an entry, where its row die admits requests. -/
def Block.admitted (b : Block) (ch : Nat) : Block := if b.admitsAt ch then b.onChan ch Chan.takeIn else b

theorem Block.admitted_eq (b : Block) (ch : Nat) : b.admitted ch = { b with dies := (b.admitted ch).dies } := by
  unfold Block.admitted
  split <;> rfl

theorem Block.admitted_die (b : Block) (ch o : Nat) (other : o ≠ ch / 64) : (b.admitted ch).die o = b.die o := by
  unfold Block.admitted
  split
  · exact Block.die_onDie_other _ _ o _ other
  · rfl

theorem Block.admitted_there {b : Block} {ch : Nat} (there : b.dies.get? (ch / 64) ≠ none) : (b.admitted ch).dies.get? (ch / 64) ≠ none := by
  unfold Block.admitted
  split
  · exact Block.there_onDie _ _ there
  · exact there

theorem Block.admitted_chan {b : Block} {ch : Nat} (there : b.dies.get? (ch / 64) ≠ none) :
    (b.admitted ch).chan ch = if b.admitsAt ch then (b.chan ch).takeIn else b.chan ch := by
  unfold Block.admitted
  split
  · exact (b.chan_onChan ch ch _ there).trans (if_pos rfl)
  · rfl

/-- A narrow request is issued before any new group (R256). -/
theorem burstGroup_issues (b : Block) (ch : Nat) {q : Req} {rest : List Req} (live : ((b.admitted ch).chan ch).lost = false)
    (busy : ((b.admitted ch).chan ch).idle = false) (next : ((b.admitted ch).chan ch).nextNarrow = some (q, rest)) :
    burstGroup ch b = (b.admitted ch).onChan ch fun c => c.issueNarrow q rest := by
  unfold burstGroup
  dsimp only
  rw [show (if b.admitsAt ch then b.onChan ch Chan.takeIn else b) = b.admitted ch from rfl, live, busy, if_neg (by decide), next]

theorem Chan.issueNarrow_spec (c : Chan) (q : Req) (rest : List Req) : (c.issueNarrow q rest).narrow = rest ∧ (c.issueNarrow q rest).wide = c.wide ∧
    (c.issueNarrow q rest).left q.traffic = c.left q.traffic - q.atoms := by
  refine ⟨rfl, ?_, ?_⟩
  · show (c.use q.traffic q.atoms).wide = c.wide
    cases q.traffic <;> rfl
  · have left : ∀ k, (c.issueNarrow q rest).left k = (c.use q.traffic q.atoms).left k := fun k => by cases k <;> rfl
    rw [left, Chan.left_use, if_pos rfl]

/-! ### Requests (R255, R258) -/

/-- Places that are all one are one run. -/
theorem pageRuns_replicate (ch row n : Nat) : pageRuns (List.replicate (n + 1) (ch, row)) = [(ch, row, n + 1)] := by
  have grows : ∀ n m, (List.replicate n (ch, row)).foldl (fun (acc : List (Nat × Nat × Nat)) (x : Nat × Nat) =>
      match acc.getLast? with
      | some (c, r, k) => if c = x.1 && r / 4 = x.2 / 4 then acc.dropLast ++ [(c, r, k + 1)] else acc ++ [(x.1, x.2, 1)]
      | none => [(x.1, x.2, 1)]) [(ch, row, m)] = [(ch, row, m + n)] := by
    intro n
    induction n with
    | zero => exact fun _ => rfl
    | succ n ih =>
      intro m
      rw [List.replicate_succ, List.foldl_cons]
      simp only [List.getLast?_singleton, decide_true, Bool.and_self, if_true, List.dropLast_singleton, List.nil_append]
      rw [ih, Nat.add_right_comm, Nat.add_assoc]
  exact (grows n 1).trans (by rw [Nat.add_comm])

/-- Atoms of one granule are one request. -/
theorem Block.requestAtoms_one (b : Block) (rt : Bool) (q : Req) {atoms : List Nat} {ch row : Nat} (some_ : atoms ≠ [])
    (placed : ∀ a ∈ atoms, b.locate (64 * a) = some (ch, row)) : b.requestAtoms rt q atoms = b.request ch rt { q with row := row, atoms := atoms.length } := by
  have places : atoms.filterMap (fun a => b.locate (64 * a)) = List.replicate atoms.length (ch, row) := by
    refine (List.filterMap_congr (g := fun _ => some (ch, row)) placed).trans ?_
    exact (congrFun (List.filterMap_eq_map (f := fun _ : Nat => (ch, row))) atoms).trans (List.map_const' ..)
  obtain ⟨n, length⟩ := Nat.exists_eq_add_one_of_ne_zero (List.length_eq_zero_iff.not.mpr some_)
  unfold Block.requestAtoms
  rw [places, length, pageRuns_replicate]
  rfl

theorem mem_queued_takeIn (c : Chan) (r : Req) : r ∈ Spec.queued c.takeIn ↔ r ∈ Spec.queued c := by
  unfold Spec.queued Chan.takeIn
  dsimp only
  conv_rhs => rw [← List.take_append_drop (narrowEntries - c.narrow.length) c.narrowIn, ← List.take_append_drop (wideEntries - c.wide.length) c.wideIn]
  simp only [List.mem_append, or_assoc]

/-- A request that a channel takes waits in its queues, with those that waited. -/
theorem Block.request_waits (b : Block) {ch : Nat} (rt : Bool) (q : Req) (there : b.dies.get? (ch / 64) ≠ none) (live : (b.chan ch).lost = false) (some_ : q.atoms ≠ 0) :
    (∀ r ∈ Spec.queued (b.chan ch), r ∈ Spec.queued ((b.request ch rt q).chan ch)) ∧ ∃ r ∈ Spec.queued ((b.request ch rt q).chan ch), r = { q with atoms := r.atoms } := by
  have chan : ∃ c : Chan, (Spec.queued ((b.request ch rt q).chan ch) = Spec.queued c ∨ Spec.queued ((b.request ch rt q).chan ch) = Spec.queued c.takeIn) ∧
      (∀ r ∈ Spec.queued (b.chan ch), r ∈ Spec.queued c) ∧ ∃ r ∈ Spec.queued c, r = { q with atoms := r.atoms } := by
    unfold Block.request
    rw [live, if_neg Bool.false_ne_true]
    dsimp only
    rw [b.chan_onChan ch ch _ there, if_pos rfl]
    cases rt with
    | true =>
      refine ⟨{ b.chan ch with narrowIn := (b.chan ch).narrowIn ++ (List.range (ceilDiv q.atoms 8)).map fun i => { q with atoms := Nat.min 8 (q.atoms - 8 * i) } }, ?_,
        fun r mem => ?_, { q with atoms := Nat.min 8 (q.atoms - 8 * 0) }, ?_, rfl⟩
      · split
        · exact .inr rfl
        · exact .inl rfl
      · unfold Spec.queued at mem ⊢
        simp only [List.mem_append] at mem ⊢
        tauto
      · have first : 0 < ceilDiv q.atoms 8 := by
          unfold ceilDiv
          omega
        have new : ({ q with atoms := Nat.min 8 (q.atoms - 8 * 0) } : Req) ∈ (List.range (ceilDiv q.atoms 8)).map fun i => { q with atoms := Nat.min 8 (q.atoms - 8 * i) } :=
          List.mem_map.mpr ⟨0, List.mem_range.mpr first, rfl⟩
        unfold Spec.queued
        simp only [List.mem_append]
        exact .inl (.inl (.inr (.inr new)))
    | false =>
      refine ⟨{ b.chan ch with wideIn := (b.chan ch).wideIn ++ [q] }, ?_, fun r mem => ?_, q, ?_, rfl⟩
      · split
        · exact .inr rfl
        · exact .inl rfl
      · unfold Spec.queued at mem ⊢
        simp only [List.mem_append] at mem ⊢
        tauto
      · unfold Spec.queued
        simp only [List.mem_append, List.mem_singleton, or_true]
  obtain ⟨c, is, old, new⟩ := chan
  obtain is | is := is
  · rw [is]
    exact ⟨old, new⟩
  · rw [is]
    simp only [mem_queued_takeIn]
    exact ⟨old, new⟩

/-- A request changes the queues of its channel. -/
theorem Block.request_eq (b : Block) (ch : Nat) (rt : Bool) (q : Req) : b.request ch rt q = { b with dies := (b.request ch rt q).dies } := by
  unfold Block.request
  split <;> rfl

theorem Block.request_die (b : Block) (ch : Nat) (rt : Bool) (q : Req) (o : Nat) {α : Type} (p : RowDie → α)
    (keeps : ∀ (x : RowDie) cs, p { x with chans := cs } = p x := by exact fun _ _ => rfl) : p ((b.request ch rt q).die o) = p (b.die o) := by
  unfold Block.request
  split
  · rfl
  · exact b.die_onDie_part _ o _ p fun x => keeps x _

theorem Block.request_there {b : Block} {ch o : Nat} {rt : Bool} {q : Req} (there : b.dies.get? o ≠ none) : (b.request ch rt q).dies.get? o ≠ none := by
  unfold Block.request
  split
  · exact there
  · exact Block.there_onDie _ _ there

/-- The atoms that a write covers in part. -/
def partAtoms (addr len : Nat) : List Nat := (atomsOf addr len).filter fun a => !(decide (addr ≤ 64 * a) && decide (64 * a + 64 ≤ addr + len))

theorem mem_atomsOf {addr len a : Nat} : a ∈ atomsOf addr len ↔ 0 < len ∧ addr / 64 ≤ a ∧ a ≤ (addr + len - 1) / 64 := by
  unfold atomsOf
  split
  · rename_i none_
    exact ⟨fun mem => absurd mem List.not_mem_nil, fun ⟨some_, _⟩ => absurd none_ some_.ne'⟩
  · simp only [List.mem_map, List.mem_range]
    constructor
    · rintro ⟨i, low, rfl⟩
      omega
    · rintro ⟨some_, low, high⟩
      exact ⟨a - addr / 64, by omega, by omega⟩

/-- A write of whole atoms covers none in part. -/
theorem partAtoms_whole {addr len : Nat} (start : addr % 64 = 0) (whole : len % 64 = 0) : partAtoms addr len = [] :=
  List.filter_eq_nil_iff.mpr fun a mem => by
    have inside := mem_atomsOf.mp mem
    simp only [Bool.not_eq_true, Bool.not_eq_false', Bool.and_eq_true, decide_eq_true_eq]
    omega

/-- Any other write covers some atom in part. -/
theorem partAtoms_part {addr len : Nat} (some_ : 0 < len) (odd : addr % 64 ≠ 0 ∨ len % 64 ≠ 0) : partAtoms addr len ≠ [] := by
  by_cases start : addr % 64 = 0
  · refine List.ne_nil_of_mem (a := (addr + len - 1) / 64) (List.mem_filter.mpr ⟨mem_atomsOf.mpr ⟨some_, by omega, le_rfl⟩, ?_⟩)
    simp only [Bool.not_eq_true', Bool.and_eq_false_iff, decide_eq_false_iff_not]
    omega
  · refine List.ne_nil_of_mem (a := addr / 64) (List.mem_filter.mpr ⟨mem_atomsOf.mpr ⟨some_, le_rfl, by omega⟩, ?_⟩)
    simp only [Bool.not_eq_true', Bool.and_eq_false_iff, decide_eq_false_iff_not]
    omega

/-- Places that are all one are one place. -/
theorem dedup_filterMap_one {α β : Type} [DecidableEq β] {f : α → Option β} {l : List α} {x : β} (some_ : l ≠ []) (all : ∀ a ∈ l, f a = some x) :
    dedup (l.filterMap f) = [x] := by
  induction l with
  | nil => exact absurd rfl some_
  | cons a l ih =>
    rw [List.filterMap_cons_some (all a List.mem_cons_self)]
    unfold dedup
    by_cases last : l = []
    · rw [last]
      rfl
    · rw [ih last fun b mem => all b (List.mem_cons_of_mem _ mem)]
      simp

/-- The write that leaves a buffer, as a request of its channel. -/
def drainReq (e : WcbEntry) : Req := { what := .drain, prio := e.cls, traffic := if e.remote then .remote else .write, isWrite := true }

/-- The oldest write of a buffer whose atoms lie on one granule, as it drains. -/
theorem Block.drainOne_one (b : Block) (q : Nat) {e : WcbEntry} {es : List WcbEntry} {ch row : Nat} (at_ : (b.die q).wcb = e :: es) (some_ : 0 < e.len)
    (placed : ∀ a ∈ atomsOf e.addr e.len, b.locate (64 * a) = some (ch, row)) :
    (e.addr % 64 = 0 → e.len % 64 = 0 → (b.drainOne q).1 = (b.onDie q fun d => { d with wcb := es }).request ch (e.cls == 0)
      { drainReq e with row := row, atoms := (atomsOf e.addr e.len).length }) ∧
    (e.addr % 64 ≠ 0 ∨ e.len % 64 ≠ 0 → b.granStalls q [(ch, row)] = true → (b.drainOne q).1 = b) ∧
    (e.addr % 64 ≠ 0 ∨ e.len % 64 ≠ 0 → b.granStalls q [(ch, row)] = false → (b.drainOne q).1 =
      (((b.onDie q fun d => { d with wcb := es }).request ch (e.cls == 0)
        { drainReq e with traffic := if e.remote then .remote else .read, isWrite := false, row := row, atoms := (partAtoms e.addr e.len).length }).request ch (e.cls == 0)
        { drainReq e with row := row, atoms := (atomsOf e.addr e.len).length }).enter q { granules := [(ch, row)] }) := by
  have inside : ∀ a ∈ partAtoms e.addr e.len, a ∈ atomsOf e.addr e.len := fun a mem => (List.mem_filter.mp mem).1
  have atoms : atomsOf e.addr e.len ≠ [] := List.ne_nil_of_mem (mem_atomsOf.mpr ⟨some_, le_rfl, by omega⟩)
  have whole : ∀ r, (b.onDie q fun d => { d with wcb := es }).requestAtoms (e.cls == 0) r (atomsOf e.addr e.len) =
      (b.onDie q fun d => { d with wcb := es }).request ch (e.cls == 0) { r with row := row, atoms := (atomsOf e.addr e.len).length } :=
    fun r => Block.requestAtoms_one _ _ r atoms placed
  unfold Block.drainOne
  rw [at_]
  dsimp only
  rw [show ((atomsOf e.addr e.len).filter fun a => !(decide (e.addr ≤ 64 * a) && decide (64 * a + 64 ≤ e.addr + e.len))) = partAtoms e.addr e.len from rfl]
  refine ⟨fun start len => ?_, fun odd stalls => ?_, fun odd free => ?_⟩
  · rw [partAtoms_whole start len]
    exact whole (drainReq e)
  · have parts := partAtoms_part some_ odd
    rw [if_neg (List.isEmpty_iff.not.mpr parts), dedup_filterMap_one parts fun a mem => placed a (inside a mem), if_pos stalls]
  · have parts := partAtoms_part some_ odd
    rw [if_neg (List.isEmpty_iff.not.mpr parts), dedup_filterMap_one parts fun a mem => placed a (inside a mem), if_neg (Bool.not_eq_true _ ▸ free)]
    have first : ∀ r, (b.onDie q fun d => { d with wcb := es }).requestAtoms (e.cls == 0) r (partAtoms e.addr e.len) =
        (b.onDie q fun d => { d with wcb := es }).request ch (e.cls == 0) { r with row := row, atoms := (partAtoms e.addr e.len).length } :=
      fun r => Block.requestAtoms_one _ _ r parts fun a mem => placed a (inside a mem)
    dsimp only
    rw [first, Block.requestAtoms_one _ _ _ atoms (ch := ch) (row := row) fun a mem => ?_]
    · rfl
    · rw [Block.request_eq]
      exact placed a mem

/-- Snowplow's next group is served: it leaves the wide queue, and its fills go on. -/
theorem burstGroup_serves (b : Block) (ch : Nat) {kind lender : Traffic} {borrowed : Bool}
    (live : ((b.admitted ch).chan ch).lost = false) (busy : ((b.admitted ch).chan ch).idle = false) (none_ : ((b.admitted ch).chan ch).nextNarrow = none)
    (due : ((b.admitted ch).chan ch).idleDue = false) (serve : ((b.admitted ch).chan ch).serve = some (kind, lender, borrowed))
    (some_ : ∀ q ∈ ((b.admitted ch).chan ch).wide, 0 < q.atoms) :
    ∃ n wide, Filled ((b.admitted ch).onChan ch fun c => c.took kind lender borrowed n wide) (burstGroup ch b) ∧
      ((b.admitted ch).chan ch).Served (((b.admitted ch).chan ch).took kind lender borrowed n wide) lender := by
  unfold burstGroup
  dsimp only
  rw [show (if b.admitsAt ch then b.onChan ch Chan.takeIn else b) = b.admitted ch from rfl]
  generalize b.admitted ch = d at live busy none_ due serve some_ ⊢
  generalize dc : d.chan ch = c at live busy none_ due serve some_ ⊢
  obtain ⟨room, waits⟩ := Chan.serve_some serve
  obtain ⟨q, lead, wide, sub, small, alone⟩ := c.group_spec (c.left lender) waits
  rw [live, busy, if_neg (by decide), none_]
  dsimp only
  rw [due, if_neg (by decide), serve]
  dsimp only
  rw [lead]
  cases group : c.group kind (c.left lender) with
  | nil =>
    have enough := alone group
    have most : Nat.min groupAtoms (c.left lender) ≤ c.left lender := Nat.min_le_right _ _
    have some' : Nat.min groupAtoms (c.left lender) ≠ 0 := (lt_min (show 0 < groupAtoms by decide) (Nat.pos_of_ne_zero room)).ne'
    refine ⟨Nat.min groupAtoms (c.left lender), cutFirst q (Nat.min groupAtoms (c.left lender)) c.wide, ?_, c.took_served kind lender borrowed some' most (sum_cutFirst enough wide)⟩
    exact Filled.of_eq (d.onChan_congr ch (by rw [dc]; rfl))
  | cons g gs =>
    rw [group] at sub small
    have some' : ((g :: gs).map (·.atoms)).sum ≠ 0 := by
      have := some_ g (sub.subset List.mem_cons_self)
      rw [List.map_cons, List.sum_cons]
      omega
    refine ⟨((g :: gs).map (·.atoms)).sum, eraseAll c.wide (g :: gs), ?_, c.took_served kind lender borrowed some' (small.trans (Nat.min_le_right _ _)) (sum_eraseAll _ _ sub.subperm)⟩
    exact (Filled.of_eq (d.onChan_congr ch (by rw [dc]; rfl))).trans (Filled.foldl (fun b q => Filled.fillDone b ch q) _ _)

/-- Settles O51. -/
theorem channelsDivideServeAndDrain : Obligations.ChannelsDivideServeAndDrain := by
  unfold Obligations.ChannelsDivideServeAndDrain
  intro ch s d found c x n
  have there : s.start.dies.get? (ch / 64) ≠ none := by
    rw [show s.start.dies.get? (ch / 64) = some d from found]
    exact Option.some_ne_none d
  have others : ∀ (f : Chan → Chan) o, o ≠ ch / 64 → (s.start.onChan ch f).die o = s.blk.die o := fun f o other => Block.die_onDie_other _ _ o _ other
  have self : ∀ f : Chan → Chan, (s.start.onChan ch f).chan ch = f c := fun f => (s.start.chan_onChan ch ch f there).trans (if_pos rfl)
  have onlyDies : ∀ b : Block, b = { s.start with dies := b.dies } → OnlyDies s { s with blk := b } := fun b eq => by
    rw [eq]
    exact ⟨rfl, rfl, rfl, rfl, rfl, rfl, rfl⟩
  refine ⟨?_, fun live busy => ⟨fun q rest next => ?_, fun kind lender borrowed none_ due serve some_ => ?_⟩, fun bank low due => ?_, fun q e es row at_ live some_ placed => ?_⟩
  · refine Runs.of_effect (s := s) rfl (snowplowFrame ch s.start) rfl rfl ⟨onlyDies _ rfl, others _, ?_, fun most => ?_⟩
    · show (s.start.onChan ch _).chan ch = { c with leftRead := ((s.start.onChan ch _).chan ch).leftRead, leftWrite := _, leftRemote := _ }
      rw [self]
      rfl
    · show ((s.start.onChan ch _).chan ch).leftRead + ((s.start.onChan ch _).chan ch).leftWrite + ((s.start.onChan ch _).chan ch).leftRemote = n
      rw [self]
      show n - x.shareWrite * n / 64 - x.shareRemote * n / 64 + x.shareWrite * n / 64 + x.shareRemote * n / 64 = n
      have parts : x.shareWrite * n / 64 + x.shareRemote * n / 64 ≤ n := by
        have both : (x.shareWrite + x.shareRemote) * n ≤ 64 * n := Nat.mul_le_mul_right n most
        rw [Nat.add_mul] at both
        omega
      omega
  · have a := Block.admitted_chan (b := s.start) there
    have effect := burstGroup_issues s.start ch (q := q) (rest := rest) (by rw [a]; split <;> exact live) (by rw [a]; split <;> exact busy) (by rw [a]; exact next)
    have chan := (s.start.admitted ch).chan_onChan ch ch (fun c => c.issueNarrow q rest) (Block.admitted_there there)
    rw [if_pos rfl, a] at chan
    obtain ⟨narrow, wide, left⟩ := Chan.issueNarrow_spec (if s.start.admitsAt ch then c.takeIn else c) q rest
    refine Runs.of_effect (s := s) rfl _ effect ?_ ⟨onlyDies _ ?_, (congrArg Chan.narrow chan).trans narrow, (congrArg Chan.wide chan).trans wide,
      (congrArg (·.left q.traffic) chan).trans left⟩
    · rw [s.start.admitted_eq]
      rfl
    · rw [s.start.admitted_eq]
      rfl
  · have a := Block.admitted_chan (b := s.start) there
    have aIs : (s.start.admitted ch).chan ch = if s.blk.admitsAt ch then c.takeIn else c := a
    obtain ⟨n, wide, filled, served⟩ := burstGroup_serves s.start ch (kind := kind) (lender := lender) (borrowed := borrowed) (by rw [a]; split <;> exact live)
      (by rw [a]; split <;> exact busy) (by rw [a]; exact none_) (by rw [a]; exact due) (by rw [a]; exact serve) (by rw [a]; exact some_)
    have chan := (filled.chans ch).trans (((s.start.admitted ch).chan_onChan ch ch _ (Block.admitted_there there)).trans (if_pos rfl))
    have eq := filled.eq
    rw [s.start.admitted_eq] at eq
    rw [← chan, aIs] at served
    generalize effect : burstGroup ch s.start = e at eq served
    refine Runs.of_effect (s := s) rfl e effect (by rw [eq]; rfl) ⟨rfl, ?_, ?_, ?_, served.narrow, served.less, served.others, served.atoms⟩
    · exact (congrArg Block.rings eq).trans rfl
    · exact (congrArg Block.works eq).trans rfl
    · exact (congrArg Block.eng eq).trans rfl
  · have nowIs : s.start.age (s.start.homeHub (ch / 64)) = s.blk.age (s.blk.homeHub (ch / 64)) := rfl
    have effect : bankRefresh ch bank s.start = s.start.onChan ch fun c => { c with refreshes := c.refreshes.put bank (s.blk.age (s.blk.homeHub (ch / 64))) } := by
      unfold bankRefresh
      refine s.start.onChan_congr ch ?_
      rw [s.start.die_of_get _ d found, if_neg]
      · rfl
      · simp only [Bool.or_eq_true, decide_eq_true_eq, Bool.and_eq_true, not_or, not_and, Nat.not_le, Nat.not_lt]
        exact ⟨low, due⟩
    refine Runs.of_effect (s := s) rfl _ effect rfl ⟨onlyDies _ rfl, ?_, fun o other => ?_⟩
    · exact (congrArg (fun c : Chan => c.refreshes.get? bank) (self _)).trans (Tbl.get?_put_same _ _ _)
    · exact (congrArg (fun c : Chan => c.refreshes.get? o) (self _)).trans (Tbl.get?_put_other _ _ _ _ other)
  · intro kind sent
    obtain ⟨whole, stalls, part⟩ := s.start.drainOne_one q at_ some_ placed
    have qThere : s.start.dies.get? q ≠ none := fun none_ => by
      have empty := congrArg RowDie.wcb (show s.start.die q = {} by unfold Block.die Tbl.getD; rw [none_]; rfl)
      rw [show (s.start.die q).wcb = e :: es from at_] at empty
      exact absurd empty (List.cons_ne_nil e es)
    let taken := s.start.onDie q fun d => { d with wcb := es }
    have takenThere : taken.dies.get? (ch / 64) ≠ none := Block.there_onDie _ _ there
    have takenChan : taken.chan ch = c := Block.die_onDie_part s.start q (ch / 64) _ fun d => d.chans.getD ch {}
    have takenLive : (taken.chan ch).lost = false := by rw [takenChan]; exact live
    have takenWcb : (taken.die q).wcb = es := by
      obtain ⟨x, found⟩ := Option.ne_none_iff_exists'.mp qThere
      exact congrArg RowDie.wcb (Block.die_onDie_same _ q _ x found)
    have takenBoard : (taken.die q).board = (s.blk.die q).board := Block.die_onDie_part s.start q q _ RowDie.board
    have atoms : (atomsOf e.addr e.len).length ≠ 0 := fun none_ =>
      absurd (mem_atomsOf.mpr ⟨some_, le_rfl, by omega⟩ : e.addr / 64 ∈ atomsOf e.addr e.len) (by rw [List.length_eq_zero_iff.mp none_]; exact List.not_mem_nil)
    refine ⟨fun start len => ?_, fun odd free => ?_, fun odd full => Runs.of_effect (s := s) rfl _ (stalls odd full) rfl ⟨rfl, rfl⟩⟩
    · obtain ⟨_, r, mem, is⟩ := taken.request_waits (e.cls == 0) { drainReq e with row := row, atoms := (atomsOf e.addr e.len).length } takenThere takenLive atoms
      refine Runs.of_effect (s := s) rfl _ (whole start len) (by rw [Block.request_eq]; rfl) ⟨⟨onlyDies _ (by rw [Block.request_eq]; rfl), ?_, r, mem, ?_⟩, ?_⟩
      · exact (Block.request_die taken ch _ _ q RowDie.wcb).trans takenWcb
      · rw [is]
        exact ⟨rfl, rfl, rfl, rfl, rfl⟩
      · exact (Block.request_die taken ch _ _ q RowDie.board).trans takenBoard
    · have parts := List.length_eq_zero_iff.not.mpr (partAtoms_part some_ odd)
      obtain ⟨_, r, mem, is⟩ := taken.request_waits (e.cls == 0)
        { drainReq e with traffic := if e.remote then .remote else .read, isWrite := false, row := row, atoms := (partAtoms e.addr e.len).length } takenThere takenLive parts
      have drained := part odd free
      rw [show (s.start.onDie q fun d => { d with wcb := es }) = taken from rfl] at drained
      generalize asked : taken.request ch (e.cls == 0)
        { drainReq e with traffic := if e.remote then .remote else .read, isWrite := false, row := row, atoms := (partAtoms e.addr e.len).length } = one at mem drained
      have oneThere : one.dies.get? (ch / 64) ≠ none := by
        rw [← asked]
        exact Block.request_there takenThere
      have oneLive : (one.chan ch).lost = false := by
        rw [← asked]
        exact ((ChansKept.request taken ch _ _).lost ch).trans takenLive
      have oneIs : one = { s.start with dies := one.dies } := by
        rw [← asked, Block.request_eq]
        rfl
      obtain ⟨old, w, wMem, wIs⟩ := one.request_waits (e.cls == 0) { drainReq e with row := row, atoms := (atomsOf e.addr e.len).length } oneThere oneLive atoms
      generalize written : one.request ch (e.cls == 0) { drainReq e with row := row, atoms := (atomsOf e.addr e.len).length } = two at old wMem drained
      have twoIs : two = { s.start with dies := two.dies } := by
        rw [← written, Block.request_eq, oneIs]
      have chanIs : (two.enter q { granules := [(ch, row)] }).chan ch = two.chan ch := Block.die_onDie_part two q (ch / 64) _ fun d => d.chans.getD ch {}
      have enterIs : (two.enter q { granules := [(ch, row)] }) = { s.start with dies := (two.enter q { granules := [(ch, row)] }).dies } := by
        rw [twoIs]
        rfl
      have twoThere : two.dies.get? q ≠ none := by
        rw [← written, ← asked]
        exact Block.request_there (Block.request_there (Block.there_onDie _ _ qThere))
      obtain ⟨x, found⟩ := Option.ne_none_iff_exists'.mp twoThere
      have entered : (two.enter q { granules := [(ch, row)] }).die q = { two.die q with board := (two.die q).board ++ [{ granules := [(ch, row)] }] } := by
        rw [two.die_of_get q x found]
        exact Block.die_onDie_same two q _ x found
      refine Runs.of_effect (s := s) rfl _ drained (by rw [enterIs]; rfl) ⟨⟨onlyDies _ enterIs, ?_, w, by rw [chanIs]; exact wMem, ?_⟩, ?_, r, by rw [chanIs]; exact old r mem, ?_⟩
      · rw [entered, ← written, ← asked]
        exact ((Block.request_die _ ch _ _ q RowDie.wcb).trans (Block.request_die taken ch _ _ q RowDie.wcb)).trans takenWcb
      · rw [wIs]
        exact ⟨rfl, rfl, rfl, rfl, rfl⟩
      · rw [entered, ← written, ← asked, ← takenBoard]
        exact congrArg (· ++ _) ((Block.request_die _ ch _ _ q RowDie.board).trans (Block.request_die taken ch _ _ q RowDie.board))
      · rw [is]
        exact ⟨rfl, rfl, rfl⟩

end Sys2Proof.Machine
end

section
/-!
SUPPORT. PATROL_SCRUB of an atom that the code cannot correct, over a memory that is not in canonical form (R263, R264).

The statement does not ask for a memory whose addresses rise. Where they do not, a byte listed behind a higher address is not found, and reads
as 0; the poison pattern takes the listing before it out, and the byte of another atom reads otherwise than before.
-/
namespace Sys2Proof.UnsortedMemory
open Sys2Proof.Machine Sys2Proof.Spec Sys2Proof.Refute

/-- A byte of atom 2 is listed before one of atom 0. -/
def unsorted : State := { engine with store := { mem := [(128, 1), (0, 7)] } }

/-- The error of an atom with two lanes read wrongly. -/
def twoLanes : ReadErr := [{ wrong := 2 }]

theorem unsorted_meets : unsorted.blk.dieUp 0 = true ∧ (unsorted.blk.chan 0).lost = false ∧ (unsorted.blk.hubs.vals.all fun x => x.regs.msiAddr == 0) = true ∧
    unsorted.blk.admitsAt 0 = true ∧ (unsorted.blk.die 0).active.testBit 0 = true ∧ unsorted.blk.unlocate 0 0 = some 0 ∧
    poisonedIn unsorted.store unsorted.start 128 64 = false ∧ Block.slotAt unsorted.store unsorted.start 128 = none ∧ readByte unsorted.store.mem 0 = 0 := by
  decide +kernel

/-- The byte of atom 0 reads otherwise once atom 2 is poisoned. -/
theorem scrub_shows : passes (.patrolScrub 0 130 twoLanes) unsorted (fun t => readByte t.store.mem 0 == 0) = false := by decide +kernel

/-- Refutes O52: in a memory whose addresses do not rise, poisoning one atom changes how a byte of another one reads. -/
theorem not_scrubMarchAndRepairAct : ¬Obligations.ScrubMarchAndRepairAct := by
  unfold Obligations.ScrubMarchAndRepairAct
  intro h
  obtain ⟨up, live, quiet, admits, active, placed, clean, noSlot, zero⟩ := unsorted_meets
  obtain ⟨scrub, -⟩ := h 0 unsorted up live (quiet_of_all _ quiet)
  obtain ⟨-, poisons⟩ := scrub 130 (by decide) admits active
  have ran := poisons 0 twoLanes rfl placed rfl clean fun r found => absurd (noSlot.symm.trans found) (by simp)
  refine not_runs (fun t => readByte t.store.mem 0 == 0) ?_ scrub_shows ran
  rintro t ⟨-, -, same⟩
  exact beq_iff_eq.mpr ((same noSlot 0 (by decide)).trans zero)

end Sys2Proof.UnsortedMemory
end

section
/-! O32: the host-physical window. -/
namespace Sys2Proof.Machine
open Sys2Proof.Spec

/-! ### A write that meets no poison stores its bytes (R264, R331) -/

theorem writeBytes_append (m : List Host.Cell) (a : Nat) (xs ys : List Byte) : writeBytes m a (xs ++ ys) = writeBytes (writeBytes m a xs) (a + xs.length) ys := by
  induction xs generalizing m a with
  | nil => rfl
  | cons x xs ih =>
    show writeBytes (writeByte m a x) (a + 1) (xs ++ ys) = writeBytes (writeBytes (writeByte m a x) (a + 1) xs) (a + (xs.length + 1)) ys
    rw [ih, Nat.add_assoc, Nat.add_comm 1]

/-- A part of a write to an atom that is not poisoned is stored, and poisons nothing. -/
theorem Store.writeAtom_clean (st : Store) (a : Nat) (data : List Byte) (clean : st.poison.contains (a / 64) = false) :
    (st.writeAtom a data).mem = writeBytes st.mem a data ∧ ∀ x, st.poison.contains x = false → (st.writeAtom a data).poison.contains x = false := by
  unfold Store.writeAtom
  split
  · rename_i none_
    rw [List.isEmpty_iff.mp none_]
    exact ⟨rfl, fun _ => id⟩
  · split
    · refine ⟨rfl, fun x out => ?_⟩
      rw [← Bool.not_eq_true, List.contains_iff_mem] at out ⊢
      exact fun mem => out (List.mem_filter.mp mem).1
    · rw [clean, if_neg Bool.false_ne_true]
      exact ⟨rfl, fun _ => id⟩

theorem Store.writeMem_clean (fuel : Nat) (st : Store) (a : Nat) (data : List Byte) (enough : data.length ≤ fuel)
    (clean : ∀ x ∈ atomsOf a data.length, st.poison.contains x = false) : (st.writeMem a fuel data).mem = writeBytes st.mem a data := by
  induction fuel generalizing st a data with
  | zero =>
    rw [List.length_eq_zero_iff.mp (Nat.le_zero.mp enough)]
    rfl
  | succ fuel ih =>
    unfold Store.writeMem
    split
    · rename_i none_
      rw [List.isEmpty_iff.mp none_]
      rfl
    · rename_i some_
      have length : 0 < data.length := List.length_pos_iff.mpr (List.isEmpty_iff.not.mp some_)
      obtain ⟨mem, rest⟩ := st.writeAtom_clean a (data.take (64 - a % 64)) (clean _ (mem_atomsOf.mpr ⟨length, le_rfl, by omega⟩))
      have drop : (data.drop (64 - a % 64)).length = data.length - (64 - a % 64) := List.length_drop
      dsimp only
      rw [ih _ _ _ (by omega) fun x inside => rest x (clean x ?_), mem]
      · by_cases short : data.length ≤ 64 - a % 64
        · rw [List.drop_eq_nil_of_le short, List.take_of_length_le short]
          rfl
        · have split_ := writeBytes_append st.mem a (data.take (64 - a % 64)) (data.drop (64 - a % 64))
          rw [List.take_append_drop, List.length_take, Nat.min_eq_left (by omega)] at split_
          exact split_.symm
      · obtain ⟨some', low, high⟩ := mem_atomsOf.mp inside
        exact mem_atomsOf.mpr ⟨length, by omega, by omega⟩

/-- Bytes written where no atom is poisoned read back. -/
theorem Store.writeMem_reads (st : Store) (a : Nat) (data : List Byte) (wf : st.wf = true) (clean : ∀ x ∈ atomsOf a data.length, st.poison.contains x = false) :
    readBytes (st.writeMem a data.length data).mem a data.length = data := by
  rw [Store.writeMem_clean _ _ _ _ le_rfl clean]
  exact readBytes_writeBytes data st.mem a ((Store.wf_iff st).mp wf).1

/-! ### Queues -/

/-- From b to c only row dies changed. -/
def DiesOnly (b c : Block) : Prop := c = { b with dies := c.dies }

namespace DiesOnly

theorem refl (b : Block) : DiesOnly b b := rfl

theorem trans {b c d : Block} (first : DiesOnly b c) (second : DiesOnly c d) : DiesOnly b d := by
  unfold DiesOnly
  rw [second, first]

theorem foldl {α : Type} {f : Block → α → Block} (step : ∀ b a, DiesOnly b (f b a)) (as : List α) (b : Block) : DiesOnly b (as.foldl f b) := by
  induction as generalizing b with
  | nil => exact refl b
  | cons a as ih => exact (step b a).trans (ih _)

theorem onDie (b : Block) (q : Nat) (f : RowDie → RowDie) : DiesOnly b (b.onDie q f) := rfl

theorem request (b : Block) (ch : Nat) (rt : Bool) (q : Req) : DiesOnly b (b.request ch rt q) := b.request_eq ch rt q

theorem requestAtoms (b : Block) (rt : Bool) (q : Req) (atoms : List Nat) : DiesOnly b (b.requestAtoms rt q atoms) :=
  foldl (fun b (x : Nat × Nat × Nat) => request b x.1 rt { q with row := x.2.1, atoms := x.2.2 }) _ b

theorem drainOne (b : Block) (s : Nat) : DiesOnly b (b.drainOne s).1 := by
  unfold Block.drainOne
  split
  · exact refl b
  · dsimp only
    split
    · exact (onDie b s _).trans (requestAtoms _ _ _ _)
    · split
      · exact refl b
      · exact (((onDie b s _).trans (requestAtoms _ _ _ _)).trans (requestAtoms _ _ _ _)).trans (onDie _ s _)

theorem drainFor (b : Block) (s n fuel : Nat) : DiesOnly b (b.drainFor s n fuel) := by
  induction fuel generalizing b with
  | zero => exact refl b
  | succ fuel ih =>
    unfold Block.drainFor
    split
    · exact refl b
    · have one := drainOne b s
      split
      · rename_i drained
        rw [drained] at one
        exact one.trans (ih _)
      · exact refl b

theorem wcbAccept (b : Block) (stack pa n cls : Nat) (remote : Bool) : DiesOnly b (b.wcbAccept stack pa n cls remote) :=
  (drainFor b stack n _).trans (onDie _ stack _)

end DiesOnly

/-- Tags pass to the caches of the granule's stack. -/
theorem Block.passTags_eq (b : Block) (ch row : Nat) (zero : Bool) :
    b.passTags ch row zero = { b with hubs := (b.passTags ch row zero).hubs, dies := (b.passTags ch row zero).dies } := by
  unfold Block.passTags
  dsimp only
  unfold Block.onGroupSlice
  split <;> rfl

/-- A write within one granule of a channel that stands is stored, and changes hubs and row dies alone. -/
theorem Block.wrMem_one (b : Block) (hub p : Nat) (data : List Byte) (source cls : Nat) {ch row : Nat} (some_ : 0 < data.length)
    (one : p % 256 + data.length ≤ 256) (placed : b.locate p = some (ch, row)) (live : (b.chan ch).lost = false) :
    b.wrMem hub p data source cls = { b with hubs := (b.wrMem hub p data source cls).hubs, dies := (b.wrMem hub p data source cls).dies, wr := b.wr ++ [.mem p data] } := by
  have piece : pieces p data.length = [(p, 0, data.length)] := by
    unfold pieces granulesOf
    rw [if_neg some_.ne', show (p + data.length - 1) / 256 - p / 256 + 1 = 1 by omega]
    simp only [List.range_one, List.map_cons, List.map_nil]
    rw [show Nat.max ((p / 256 + 0) * 256) p = p from Nat.max_eq_right (by omega),
      show Nat.min ((p / 256 + 0) * 256 + 256) (p + data.length) = p + data.length from Nat.min_eq_right (by omega), Nat.sub_self, Nat.add_sub_cancel_left]
  unfold Block.wrMem
  rw [piece, List.foldl_cons, List.foldl_nil]
  dsimp only
  rw [placed]
  dsimp only
  rw [live, if_neg Bool.false_ne_true, List.drop_zero, List.take_length, Block.passTags_eq, DiesOnly.wcbAccept (b.push (.mem p data))]
  rfl

/-- With nothing found wrong, the atoms of a read change nothing. -/
theorem outsideAtoms_clean (st : Store) (b : Block) (hub pa n first : Nat) : outsideAtoms st b hub pa n first [] = b := by
  have each : ∀ (l : List (Nat × Nat)), l.foldl (fun b (x : Nat × Nat) => if b.lostAt (64 * x.1) then b else Block.atomRead st b hub x.1 (List.filter (·.atom == x.2) [])) b = b := by
    intro l
    induction l with
    | nil => rfl
    | cons x l ih =>
      rw [List.foldl_cons]
      refine Eq.trans (congrArg (fun c => l.foldl _ c) ?_) ih
      split
      · rfl
      · unfold Block.atomRead
        split <;> rfl
  exact each _

/-- Where a channel lies and whether it is lost do not depend on requests. -/
theorem Block.lostAt_touch {P : Wr → Prop} {b c : Block} (touch : Touch P b c) (pa : Nat) : c.lostAt pa = b.lostAt pa := by
  unfold Block.lostAt
  rw [show c.locate pa = b.locate pa from touch.part (·.locate pa)]
  split
  · exact touch.lost _
  · rfl

theorem outsideRead_clean (st : Store) (b : Block) (pa n : Nat) (clean : ∀ a ∈ atomsOf pa n, poisonedIn st b (64 * a) 64 = false ∧ b.lostAt (64 * a) = false) :
    outsideRead st b pa n = (rdMem st b pa n, []) := by
  have none_ : ((atomsOf pa n).filter fun a => poisonedIn st b (64 * a) 64 || b.lostAt (64 * a)) = [] :=
    List.filter_eq_nil_iff.mpr fun a mem => by
      obtain ⟨poison, lost⟩ := clean a mem
      simp [poison, lost]
  unfold outsideRead
  rw [none_]
  dsimp only
  refine Prod.ext ?_ rfl
  refine Eq.trans (List.map_congr_left fun x _ => show _ = x.1 from rfl) ?_
  exact List.zipIdx_map_fst ..

/-- Settles O32. -/
theorem hostWindowWritesAndReads : Obligations.HostWindowWritesAndReads := by
  unfold Obligations.HostWindowWritesAndReads
  intro port p s low up inside
  have here : aperture (Config.hpwBase + p) = .window p := by
    unfold aperture
    rw [if_pos ⟨Nat.le_add_right _ _, inside⟩, Nat.add_sub_cancel_left]
  have goes : ¬(3 < port || !s.start.hubUp port) = true := by
    rw [show s.start.hubUp port = true from up]
    simp only [Bool.not_true, Bool.or_false, decide_eq_true_eq]
    omega
  refine ⟨fun data posted ch row inv takes placed live clean unlost => ?_, fun n takes opens clean => ?_⟩
  · obtain ⟨some_, one⟩ : 0 < data.length ∧ p % 256 + data.length ≤ 256 := by
      simp only [Block.hostAccess, Bool.and_eq_true, decide_eq_true_eq] at takes
      exact takes.1
    have written := s.start.wrMem_one port p data 2 1 some_ one placed live
    have touch := Touch.wrMem s.start port p data 2 1
    have effect : hostWindowWrite port (Config.hpwBase + p) data posted s.start =
        if posted then s.start.wrMem port p data 2 else (s.start.wrMem port p data 2).send (.fabDone port) := by
      unfold hostWindowWrite
      rw [if_neg goes, here]
      dsimp only
      rw [show s.start.hostAccess p data.length = true from takes]
      have lost : (s.start.wrMem port p data 2).lostIn p data.length = false := by
        unfold Block.lostIn
        rw [show (s.start.wrMem port p data 2).lostAt = s.start.lostAt from funext (Block.lostAt_touch touch)]
        exact unlost
      rw [if_neg (by decide), lost]
      rfl
    generalize s.start.wrMem port p data 2 = c at written effect
    have store : s.store.apply [.mem p data] = s.store.writeMem p data.length data := rfl
    have reads := s.store.writeMem_reads p data inv clean
    have outside := fun a => Store.writeMem_outside data.length s.store p a data inv
    have silent : ∀ c' : Block, c'.wr = c.wr → ∀ k a d, Wr.intr k a d ∉ c'.wr := fun c' same k a d mem => by
      rw [same, written] at mem
      exact absurd (List.mem_singleton.mp mem) (by simp)
    have after : c.wr = [.mem p data] := by rw [written]; rfl
    cases posted with
    | true =>
      refine Runs.of_settle (s := s) rfl c effect (silent c rfl) ?_
      unfold settle
      rw [after, store, written]
      exact ⟨reads, Store.writeMem_host _ _ _ _, outside, (List.append_nil _).symm, rfl, rfl⟩
    | false =>
      refine Runs.of_settle (s := s) rfl (c.send (.fabDone port)) effect (silent _ rfl) ?_
      unfold settle
      rw [show (c.send (.fabDone port)).wr = [.mem p data] from after, store, written]
      exact ⟨reads, Store.writeMem_host _ _ _ _, outside, rfl, rfl, rfl⟩
  · have effect : hostWindowRead port (Config.hpwBase + p) n [] s.store s.start = (s.start.outsideReq p n).send (.fabData port (readBytes s.store.mem p n) []) := by
      unfold hostWindowRead
      rw [if_neg goes, here]
      dsimp only
      have touch : Touch (fun _ => False) s.start (s.start.outsideReq p n) := Touch.requestAtoms _ _ _ _
      have read := outsideRead_clean s.store (s.start.outsideReq p n) p n fun a mem => by
        rw [Block.lostAt_touch touch, show s.start.outsideReq p n = { s.start with dies := (s.start.outsideReq p n).dies } from DiesOnly.requestAtoms _ _ _ _]
        exact clean a mem
      rw [show s.start.hostAccess p n = true from takes, show s.start.outsideOpen p n = true from opens, if_neg (by decide), if_neg (by decide), outsideAtoms_clean, read,
        show s.start.outsideReq p n = { s.start with dies := (s.start.outsideReq p n).dies } from DiesOnly.requestAtoms _ _ _ _]
      rfl
    rw [show s.start.outsideReq p n = { s.start with dies := (s.start.outsideReq p n).dies } from DiesOnly.requestAtoms _ _ _ _] at effect
    exact Runs.of_effect (s := s) rfl _ effect rfl ⟨rfl, rfl, rfl, rfl⟩

end Sys2Proof.Machine
end

section
/-!
SUPPORT. Translating what a slot needs: pages are held and walks start, and nothing is written or sent (R309, R311, R315, R316).
-/
namespace Sys2Proof.Machine

/-- A slot but for the pages that it holds. -/
def Work.unheld (w : Work) : Work := { w with slotPages := [], recPages := [], pages := [] }

/-- A hub but for its translation caches and walks. -/
def Hub.untranslated (x : Hub) : Hub := { x with xlat := {} }

/-- A row die but for its channels. -/
def RowDie.unchanneled (d : RowDie) : RowDie := { d with chans := [] }

/-- A block but for what translation touches. -/
def Block.untranslated (b : Block) : Block :=
  { b with eng := { b.eng with nextUse := 0 }, hubs := b.hubs.mapVal fun _ => Hub.untranslated, dies := b.dies.mapVal fun _ => RowDie.unchanneled
           works := b.works.mapVal fun _ => Work.unheld }

/-- From b to c only translations were touched, pages held and walks started. -/
structure Translates (b c : Block) : Prop where
  same : c.untranslated = b.untranslated
  chans : ChansKept b c

namespace Translates

variable {b c d : Block}

theorem refl (b : Block) : Translates b b := ⟨rfl, ChansKept.refl b⟩

theorem trans (first : Translates b c) (second : Translates c d) : Translates b d := ⟨second.same.trans first.same, first.chans.trans second.chans⟩

/-- A part of the block that translation leaves. -/
theorem part (kept : Translates b c) {α : Type} (p : Block → α) (keeps : ∀ d : Block, p d.untranslated = p d := by exact fun _ => rfl) : p c = p b := by
  rw [← keeps c, ← keeps b, kept.same]

theorem hubPart (kept : Translates b c) (g : Nat) {α : Type} (p : Hub → α) (keeps : ∀ x : Hub, p x.untranslated = p x := by exact fun _ => rfl) :
    p (c.hub g) = p (b.hub g) := by
  have same := congrArg (fun d : Block => p (d.hubs.getD g {})) kept.same
  simp only [Block.untranslated, Tbl.getD_mapVal_apply _ Hub.untranslated g {} rfl, keeps] at same
  exact same

theorem diePart (kept : Translates b c) (q : Nat) {α : Type} (p : RowDie → α) (keeps : ∀ x : RowDie, p x.unchanneled = p x := by exact fun _ => rfl) :
    p (c.die q) = p (b.die q) := by
  have same := congrArg (fun d : Block => p (d.dies.getD q {})) kept.same
  simp only [Block.untranslated, Tbl.getD_mapVal_apply _ RowDie.unchanneled q {} rfl, keeps] at same
  exact same

theorem hubs (kept : Translates b c) (h : Nat) : (c.hubs.get? h).map Hub.untranslated = (b.hubs.get? h).map Hub.untranslated := by
  have same := congrArg (fun d : Block => d.hubs.get? h) kept.same
  simpa only [Block.untranslated, Tbl.get?_mapVal] using same

theorem works (kept : Translates b c) (k : Nat) : (c.works.get? k).map Work.unheld = (b.works.get? k).map Work.unheld := by
  have same := congrArg (fun d : Block => d.works.get? k) kept.same
  simpa only [Block.untranslated, Tbl.get?_mapVal] using same

/-- A slot that stands still stands, but for the pages that it holds. -/
theorem work (kept : Translates b c) {rid p : Nat} {w : Work} (found : b.work? rid p = some w) : ∃ w', c.work? rid p = some w' ∧ w'.unheld = w.unheld := by
  have same := kept.works (workKey rid p)
  rw [show b.works.get? (workKey rid p) = some w from found] at same
  exact Option.map_eq_some_iff.mp same

theorem of_eq (same : c.untranslated = b.untranslated) (dies : c.dies = b.dies) : Translates b c := ⟨same, ChansKept.of_dies dies⟩

theorem onHub (b : Block) (h : Nat) (f : Hub → Hub) (keeps : ∀ x, (f x).untranslated = x.untranslated) : Translates b (b.onHub h f) := by
  refine of_eq ?_ rfl
  simp only [Block.untranslated, Block.onHub, Tbl.mapVal_modify b.hubs h f Hub.untranslated keeps]

theorem onXlat (b : Block) (h : Nat) (f : Xlat → Xlat) : Translates b (b.onXlat h f) := onHub b h _ fun _ => rfl

theorem untranslated_onDie (b : Block) (q : Nat) (f : RowDie → RowDie) (keeps : ∀ x, (f x).unchanneled = x.unchanneled) :
    (b.onDie q f).untranslated = b.untranslated := by
  simp only [Block.untranslated, Block.onDie, Tbl.mapVal_modify b.dies q f RowDie.unchanneled keeps]

theorem request (b : Block) (ch : Nat) (rt : Bool) (q : Req) : Translates b (b.request ch rt q) := by
  refine ⟨?_, ChansKept.request b ch rt q⟩
  unfold Block.request
  split
  · rfl
  · exact untranslated_onDie b _ _ fun _ => rfl

theorem onWork (b : Block) (r p : Nat) (f : Work → Work) (keeps : ∀ x, (f x).unheld = x.unheld) : Translates b (b.onWork r p f) := by
  refine of_eq ?_ rfl
  simp only [Block.untranslated, Block.onWork, Tbl.mapVal_modify b.works (workKey r p) f Work.unheld keeps]

theorem requestAtoms (b : Block) (rt : Bool) (q : Req) (atoms : List Nat) : Translates b (b.requestAtoms rt q atoms) := by
  unfold Block.requestAtoms
  generalize pageRuns _ = runs
  induction runs generalizing b with
  | nil => exact refl b
  | cons x xs ih => exact (request b x.1 rt { q with row := x.2.1, atoms := x.2.2 }).trans (ih _)

theorem cached (b : Block) (h job : Nat) (n : Need) : Translates b (b.cached h job n).2 := by
  unfold Block.cached
  split
  · exact refl b
  · dsimp only
    split
    · exact refl b
    · split
      · exact onXlat b h fun x => x.touch _ _
      · exact onXlat b h fun x => x.dropWay _ _

theorem issueWalk (b : Block) (h id : Nat) : Translates b (b.issueWalk h id) := by
  unfold Block.issueWalk
  split
  · exact refl b
  · dsimp only
    split
    · exact refl b
    · exact (onXlat b h _).trans (requestAtoms _ _ _ _)

theorem startWalk (b : Block) (h : Nat) (who : Who) (job : Nat) (n : Need) (rt : Bool) : Translates b (b.startWalk h who job n rt) := by
  unfold Block.startWalk
  split
  · exact refl b
  · split
    · exact refl b
    · exact (onXlat b h _).trans (issueWalk _ _ _)

theorem useOf (b : Block) (pg : Page) : Translates b (b.useOf pg).2 := of_eq rfl rfl

theorem holdRec (b : Block) (rid p : Nat) (pg : Page) : Translates b (b.holdRec rid p pg) := (useOf b pg).trans (onWork _ _ _ _ fun _ => rfl)

theorem holdPage (b : Block) (rid p : Nat) (pg : Page) : Translates b (b.holdPage rid p pg) := (useOf b pg).trans (onWork _ _ _ _ fun _ => rfl)

/-- Steps one after another, each with an answer. -/
theorem foldlOk {α : Type} {f : Block × Bool → α → Block × Bool} (step : ∀ x a, Translates x.1 (f x a).1) (as : List α) (x : Block × Bool) :
    Translates x.1 (as.foldl f x).1 := by
  induction as generalizing x with
  | nil => exact refl x.1
  | cons a as ih => exact (step x a).trans (ih (f x a))

theorem ensureRec (b : Block) (rid p : Nat) : Translates b (b.ensureRec rid p).1 := by
  unfold Block.ensureRec
  split
  · rename_i r w _ _
    split
    · exact refl b
    · refine foldlOk (fun x n => ?_) _ (b, true)
      have looked := cached x.1 (ringHub rid) r.job n
      dsimp only
      split
      · rename_i hit
        rw [hit] at looked
        exact looked.trans (holdRec _ _ _ _)
      · rename_i missed
        rw [missed] at looked
        exact looked.trans (startWalk _ _ _ _ _ _)
  · exact refl b

theorem recsHeld (b : Block) (rid p : Nat) : Translates b (b.recsHeld rid p).1 := by
  unfold Block.recsHeld
  refine foldlOk (fun x w => ?_) _ (b, true)
  exact ensureRec x.1 rid w.p

end Translates

/-! ### The end of a slot (R204 to R207) -/

/-- A slot whose work has ended with a status. -/
def Work.closed (w : Work) (status pos : Nat) (counters : List Nat) : Work :=
  { w with phase := .visible, status := if w.late && w.opcode != 0x30 then LATE else if w.winStatus = 0 then status else w.winStatus, position := pos
           counters := counters }

theorem Block.freePages_eq (b : Block) (rid lead : Nat) : b.freePages rid lead = { b with works := (b.freePages rid lead).works } := by
  unfold Block.freePages
  split <;> rfl

theorem Block.freePages_works (b : Block) (rid lead k : Nat) : ((b.freePages rid lead).works.get? k).map Work.unheld = (b.works.get? k).map Work.unheld := by
  unfold Block.freePages
  split
  · rfl
  · rw [Block.onGroup, Tbl.get?_mapVal, Option.map_map]
    refine congrArg (Option.map · _) (funext fun w => ?_)
    dsimp only [Function.comp_apply]
    split <;> rfl

/-- A slot's end changes slots, what hubs do for it, and its requests alone. -/
theorem Block.endSlot_eq (b : Block) (rid p status pos : Nat) (counters : List Nat) :
    b.endSlot rid p status pos counters = { b with hubs := (b.endSlot rid p status pos counters).hubs, dies := (b.endSlot rid p status pos counters).dies
                                                   works := (b.endSlot rid p status pos counters).works } := by
  unfold Block.endSlot Block.closeSlot
  dsimp only
  rw [Block.freePages_eq]
  rfl

/-- The slot's work has ended, and every other slot is as it was but for the pages that it holds. -/
theorem Block.endSlot_works (b : Block) (rid p status pos : Nat) (counters : List Nat) (k : Nat) :
    ((b.endSlot rid p status pos counters).works.get? k).map Work.unheld =
      if k = workKey rid p then (b.works.get? k).map fun w => (w.closed status pos counters).unheld else (b.works.get? k).map Work.unheld := by
  have same : (b.endSlot rid p status pos counters).works = ((b.onWork rid p (·.closed status pos counters)).freePages rid
      (match b.work? rid p with | some w => w.lead | none => p)).works := rfl
  rw [same, Block.freePages_works, Block.onWork]
  split
  · rename_i here
    rw [here, Tbl.get?_modify_same, Option.map_map]
    rfl
  · rename_i other
    rw [Tbl.get?_modify_other _ _ _ _ other]

/-- A slot that neither expiry nor a window has ended ends with the status given. -/
theorem Block.endSlot_ended (b : Block) (rid p status pos : Nat) (counters : List Nat) {w : Work} (found : b.work? rid p = some w) (early : w.late = false)
    (unrefused : w.winStatus = 0) : ∃ w', (b.endSlot rid p status pos counters).work? rid p = some w' ∧ w'.unheld = { w.unheld with phase := .visible, status := status, position := pos, counters := counters } := by
  have ends := b.endSlot_works rid p status pos counters (workKey rid p)
  rw [if_pos rfl, show b.works.get? (workKey rid p) = some w from found] at ends
  obtain ⟨w', found', is⟩ := Option.map_eq_some_iff.mp ends
  refine ⟨w', found', is.trans ?_⟩
  simp only [Work.closed, Work.unheld, early, unrefused, Bool.false_and, Bool.false_eq_true, if_false, if_true]

/-- What a hub keeps when a slot ends, other than tasks and walks. -/
theorem Block.endSlot_hub (b : Block) (rid p status pos : Nat) (counters : List Nat) (g : Nat) {α : Type} (f : Hub → α)
    (keeps : ∀ (x : Hub) xl ready, f { x with xlat := xl, sched := { x.sched with ready := ready } } = f x := by exact fun _ _ _ => rfl) :
    f ((b.endSlot rid p status pos counters).hub g) = f (b.hub g) := by
  have same : (b.endSlot rid p status pos counters).hubs = ((((b.onWork rid p (·.closed status pos counters)).freePages rid
      (match b.work? rid p with | some w => w.lead | none => p)).dropWalks (ringHub rid) fun w => decide (w.who = .unit rid p)).dropTasks rid p).hubs := rfl
  rw [Block.freePages_eq] at same
  generalize ((b.onWork rid p (·.closed status pos counters)).freePages rid (match b.work? rid p with | some w => w.lead | none => p)).works = ws at same
  have tasks : ∀ c : Block, f ((c.dropTasks rid p).hub g) = f (c.hub g) := fun c => by
    have is : (c.dropTasks rid p).hubs = c.hubs.mapVal fun _ x => { x with sched := { x.sched with ready := x.sched.ready.filter fun t => !(t.ring == rid && t.p == p) } } := rfl
    exact Tbl.getD_mapVal_part _ is f g {} fun _ x => keeps x x.xlat _
  have walks : ∀ c : Block, f ((c.dropWalks (ringHub rid) fun w => decide (w.who = .unit rid p)).hub g) = f (c.hub g) := fun c =>
    c.hub_onHub_part (ringHub rid) g _ f fun x => keeps x _ x.sched.ready
  refine (congrArg (fun t : Tbl Hub => f (t.getD g {})) same).trans ?_
  exact (tasks _).trans (walks _)

end Sys2Proof.Machine
end

section
/-! O41: Solstice barriers. -/
namespace Sys2Proof.Machine
open Sys2Proof.Spec

/-! ### Instances at the leader (R217 to R219) -/

theorem Barrier.is_iff (x : Barrier) (job solid epoch : Nat) : x.is job solid epoch = true ↔ x.job = job ∧ x.solid = solid ∧ x.epoch = epoch := by
  simp only [Barrier.is, Bool.and_eq_true, beq_iff_eq, and_assoc]

theorem Block.barrier_is (b : Block) (job solid epoch : Nat) : (b.barrier job solid epoch).is job solid epoch = true := by
  unfold Block.barrier
  cases found : b.eng.barriers.find? (·.is job solid epoch) with
  | none => exact (Barrier.is_iff _ _ _ _).mpr ⟨rfl, rfl, rfl⟩
  | some x => exact List.find?_some (p := fun y : Barrier => y.is job solid epoch) found

/-- The barrier put is the one that stands. -/
theorem Block.find_putBarrier (b : Block) {x : Barrier} {job solid epoch : Nat} (is : x.is job solid epoch = true) :
    (b.putBarrier x).eng.barriers.find? (·.is job solid epoch) = some x := by
  obtain ⟨rfl, rfl, rfl⟩ := (Barrier.is_iff _ _ _ _).mp is
  show (b.eng.barriers.filter (!·.is x.job x.solid x.epoch) ++ [x]).find? _ = _
  rw [List.find?_append, List.find?_eq_none.mpr fun y mem => ?_]
  · rw [Option.none_or, List.find?_singleton, is]
    rfl
  · rw [List.mem_filter] at mem
    simpa using mem.2

theorem Block.barrier_putBarrier (b : Block) {x : Barrier} {job solid epoch : Nat} (is : x.is job solid epoch = true) :
    (b.putBarrier x).barrier job solid epoch = x := by
  rw [Block.barrier, b.find_putBarrier is]
  rfl

/-- Nothing is released while the barrier of the present epoch is not complete. -/
theorem Block.tryRelease_still (b : Block) (job solid fuel : Nat) (open_ : ∀ x ∈ b.eng.barriers, x.is job solid ((b.jobs.getD job {}).epochOf solid) = true →
    (x.opened && x.sent && x.windows.all x.remote.contains) = false) : b.tryRelease job solid fuel = b := by
  cases fuel with
  | zero => rfl
  | succ fuel =>
    unfold Block.tryRelease
    dsimp only
    split
    · rfl
    · rename_i x found
      rw [if_neg (Bool.eq_false_iff.mp (open_ x (List.mem_of_find?_eq_some found) (List.find?_some (p := fun y : Barrier => y.is job solid ((b.jobs.getD job {}).epochOf solid)) found)))]

/-- A barrier just put that has not been sent releases nothing, nor does the one of the epoch before that is not complete. -/
theorem Block.tryRelease_put (b : Block) {x : Barrier} {job solid epoch : Nat} (is : x.is job solid epoch = true) (unsent : x.sent = false)
    (now : epoch = (b.jobs.getD job {}).epochOf solid ∨ ∀ y ∈ b.eng.barriers, y.is job solid ((b.jobs.getD job {}).epochOf solid) = true →
      (y.opened && y.sent && y.windows.all y.remote.contains) = false) (fuel : Nat) : (b.putBarrier x).tryRelease job solid fuel = b.putBarrier x := by
  obtain ⟨xjob, xsolid, xepoch⟩ := (Barrier.is_iff _ _ _ _).mp is
  refine Block.tryRelease_still _ job solid fuel fun y mem isY => ?_
  obtain old | new := List.mem_append.mp (show y ∈ b.eng.barriers.filter (!·.is x.job x.solid x.epoch) ++ [x] from mem)
  · obtain ⟨old, other⟩ := List.mem_filter.mp old
    obtain here | before := now
    · rw [xjob, xsolid, xepoch, here, show y.is job solid ((b.jobs.getD job {}).epochOf solid) = true from isY] at other
      exact absurd other (by decide)
    · exact before y old isY
  · rw [List.mem_singleton.mp new, unsent]
    simp

/-- From b to c only arrivals and releases were sent and noted. -/
def Notes (b c : Block) : Prop := c = { b with outbox := c.outbox, eng := { b.eng with unacked := c.eng.unacked, nextUse := c.eng.nextUse } }

theorem Notes.trans {b c d : Block} (first : Notes b c) (second : Notes c d) : Notes b d := by
  unfold Notes
  rw [second, first]

theorem Notes.foldl {α : Type} {f : Block → α → Block} (step : ∀ b a, Notes b (f b a)) (as : List α) (b : Block) : Notes b (as.foldl f b) := by
  induction as generalizing b with
  | nil => rfl
  | cons a as ih => exact (step b a).trans (ih _)

/-- Once the local count is complete, the arrivals are sent and the barrier is marked. -/
theorem Block.sendArrivals_complete (b : Block) (x : Barrier) (unsent : x.sent = false) (full : x.nrings ≤ x.rings.length) (opened : x.opened = true) :
    ∃ c, Notes b c ∧ b.sendArrivals x = c.putBarrier { x with sent := true } := by
  unfold Block.sendArrivals
  rw [unsent, opened, if_neg (by simp; omega)]
  refine ⟨_, ?_, rfl⟩
  refine Notes.foldl (fun b w => ?_) _ _
  rfl

theorem Block.sendArrivals_waits (b : Block) (x : Barrier) (short : x.rings.length < x.nrings) : b.sendArrivals x = b := by
  unfold Block.sendArrivals
  rw [if_pos (by simp [short])]

/-- From b to c slots ended. -/
def SlotsEnd (b c : Block) : Prop := c = { b with hubs := c.hubs, dies := c.dies, works := c.works }

/-- A slot that neither expiry nor a window has ended. -/
def Block.unended (b : Block) (rid p : Nat) : Prop := ∃ w, b.work? rid p = some w ∧ w.late = false ∧ w.winStatus = 0

/-- A slot of a released barrier ends. -/
def Block.releaseSlot (counters : List Nat) (b : Block) (x : Nat × Nat) : Block :=
  match b.work? x.1 x.2 with
  | some w => b.endSlot x.1 x.2 (if w.late then LATE else OK) 0 counters
  | none => b

theorem Block.releaseSlot_eq (counters : List Nat) (b : Block) (x : Nat × Nat) : SlotsEnd b (b.releaseSlot counters x) := by
  unfold Block.releaseSlot
  split
  · exact b.endSlot_eq _ _ _ _ _
  · rfl

theorem Block.releaseSlot_unended (counters : List Nat) (b : Block) (x : Nat × Nat) {rid p : Nat} (stands : b.unended rid p) :
    (b.releaseSlot counters x).unended rid p := by
  obtain ⟨w, found, early, unrefused⟩ := stands
  unfold Block.releaseSlot
  split
  · rename_i v _
    generalize (if v.late then LATE else OK) = status
    have works := b.endSlot_works x.1 x.2 status 0 counters (workKey rid p)
    rw [show b.works.get? (workKey rid p) = some w from found] at works
    split at works
    · obtain ⟨w', found', is⟩ := Option.map_eq_some_iff.mp works
      exact ⟨w', found', (congrArg Work.late is).trans early, (congrArg Work.winStatus is).trans unrefused⟩
    · obtain ⟨w', found', is⟩ := Option.map_eq_some_iff.mp works
      exact ⟨w', found', (congrArg Work.late is).trans early, (congrArg Work.winStatus is).trans unrefused⟩
  · exact ⟨w, found, early, unrefused⟩

theorem SlotsEnd.trans {b c d : Block} (first : SlotsEnd b c) (second : SlotsEnd c d) : SlotsEnd b d := by
  unfold SlotsEnd
  rw [second, first]

/-- The slots of a released barrier end one after another; the last of them with OK. -/
theorem Block.releaseSlots_last (counters : List Nat) (rings : List (Nat × Nat)) (b : Block) {rid p : Nat} (stands : b.unended rid p) :
    SlotsEnd b ((rings ++ [(rid, p)]).foldl (Block.releaseSlot counters) b) ∧
      ∃ w, ((rings ++ [(rid, p)]).foldl (Block.releaseSlot counters) b).work? rid p = some w ∧ Ended w OK := by
  rw [List.foldl_append, List.foldl_cons, List.foldl_nil]
  have before : SlotsEnd b (rings.foldl (Block.releaseSlot counters) b) ∧ (rings.foldl (Block.releaseSlot counters) b).unended rid p := by
    induction rings generalizing b with
    | nil => exact ⟨rfl, stands⟩
    | cons x xs ih =>
      obtain ⟨rest, later⟩ := ih (b.releaseSlot counters x) (b.releaseSlot_unended counters x stands)
      exact ⟨(b.releaseSlot_eq counters x).trans rest, later⟩
  generalize rings.foldl (Block.releaseSlot counters) b = c at before
  obtain ⟨ends, w, found, early, unrefused⟩ := before
  obtain ⟨w', found', is⟩ := c.endSlot_ended rid p OK 0 counters found early unrefused
  have last : c.releaseSlot counters (rid, p) = c.endSlot rid p OK 0 counters := by
    unfold Block.releaseSlot
    rw [show c.work? rid p = some w from found]
    dsimp only
    rw [early]
    rfl
  refine ⟨ends.trans (c.releaseSlot_eq counters (rid, p)), w', by rw [last]; exact found', ?_⟩
  exact ⟨congrArg Work.phase is, congrArg Work.status is⟩

/-- The barrier goes, and its number passes to the next epoch (R218). -/
def Block.passEpoch (b : Block) (x : Barrier) : Block :=
  (b.onEng fun e => { e with barriers := e.barriers.filter (!·.is x.job x.solid x.epoch) }).onJob x.job fun j =>
    { j with epochs := j.epochs.put x.solid (x.epoch + 1), nfCount := if x.clear then 0 else j.nfCount }

theorem Block.releaseBarrier_slots (b : Block) (x : Barrier) :
    ∃ c, Notes (b.passEpoch x) c ∧ b.releaseBarrier x = x.rings.foldl (Block.releaseSlot [x.rings.length, x.windows.length]) c := by
  refine ⟨_, ?_, rfl⟩
  refine Notes.foldl (fun b h => ?_) _ _
  rfl

/-- The release of a barrier whose last ring has just arrived: it is gone, its number is at the next epoch, and the slot has ended. -/
theorem Block.releaseBarrier_ends (b : Block) (x : Barrier) {rings : List (Nat × Nat)} {rid p : Nat} {j : Job} (last : x.rings = rings ++ [(rid, p)])
    (stands : b.unended rid p) (job : b.jobs.get? x.job = some j) :
    (b.releaseBarrier x).wr = b.wr ∧ (b.releaseBarrier x).eng.barriers = b.eng.barriers.filter (!·.is x.job x.solid x.epoch) ∧
      (∃ j', (b.releaseBarrier x).jobs.get? x.job = some j' ∧ j'.epochOf x.solid = x.epoch + 1) ∧
      ∃ w, (b.releaseBarrier x).work? rid p = some w ∧ Ended w OK := by
  obtain ⟨c, noted, is⟩ := b.releaseBarrier_slots x
  have stands' : c.unended rid p := by
    obtain ⟨w, found, rest⟩ := stands
    refine ⟨w, ?_, rest⟩
    rw [noted]
    exact found
  obtain ⟨ends, ended⟩ := Block.releaseSlots_last [x.rings.length, x.windows.length] rings c stands'
  rw [← last, ← is] at ends ended
  refine ⟨?_, ?_, ⟨{ j with epochs := j.epochs.put x.solid (x.epoch + 1), nfCount := if x.clear then 0 else j.nfCount }, ?_, ?_⟩, ended⟩
  · refine (congrArg Block.wr ends).trans ?_
    rw [noted]
    rfl
  · refine (congrArg (·.eng.barriers) ends).trans ?_
    rw [noted]
    rfl
  · refine (congrArg (·.jobs.get? x.job) ends).trans ?_
    rw [noted]
    exact (Tbl.get?_modify_same b.jobs x.job _).trans (by rw [job]; rfl)
  · exact Tbl.getD_put_same _ _ _ _

/-! ### Arrivals (R217, R219) -/

/-- A barrier as one more ring's arrival leaves it. -/
def Barrier.joined (i : Barrier) (rid : Nat) (w : Work) (ws : List Nat) : Barrier :=
  { i with rings := i.rings ++ [(rid, w.p)], windows := ws, nrings := solRings w.x, opened := true, clear := i.clear || solClear w.x }

/-- The arrival of a ring whose earlier slots have retired: its slot waits, and the barrier that it opens or joins is sent or released where it is complete. -/
theorem solsticeArrival_joins {b c : Block} {rid : Nat} {w : Work} {ws : List Nat} (head : ((b.ringWorks rid).filter fun w => w.opcode == 0x30 && w.phase == .active).head? = some w)
    (data : w.data = .solstice ws false) (first : ∀ v ∈ b.ringWorks rid, w.p ≤ v.p) (leads : b.eng.passing = false) (whole : ws.length = solEng w.x)
    (held : b.recsHeld rid w.p = (c, true)) (epoch : solEpoch w.x = (c.jobs.getD w.job {}).epochOf (solId w.x) ∨ solEpoch w.x = (c.jobs.getD w.job {}).epochOf (solId w.x) + 1)
    (same : (c.barrier w.job (solId w.x) (solEpoch w.x)).opened = true → (c.barrier w.job (solId w.x) (solEpoch w.x)).nrings = solRings w.x ∧
      (c.barrier w.job (solId w.x) (solEpoch w.x)).windows = ws) (new : ¬(rid, w.p) ∈ (c.barrier w.job (solId w.x) (solEpoch w.x)).rings) :
    solsticeArrival rid b = (((c.onWork rid w.p fun w => { w with data := .solstice ws true }).putBarrier
      ((c.barrier w.job (solId w.x) (solEpoch w.x)).joined rid w ws)).sendArrivals ((c.barrier w.job (solId w.x) (solEpoch w.x)).joined rid w ws)).tryRelease w.job (solId w.x) 2 := by
  unfold solsticeArrival
  rw [head]
  dsimp only
  rw [data]
  dsimp only
  have earliest : ((b.ringWorks rid).any fun v => decide (v.p < w.p)) = false :=
    List.any_eq_false.mpr fun v mem => by simpa using first v mem
  rw [earliest, leads, if_neg (by simp [whole]), held]
  dsimp only
  have fits : (!(solEpoch w.x == (c.jobs.getD w.job {}).epochOf (solId w.x) || solEpoch w.x == (c.jobs.getD w.job {}).epochOf (solId w.x) + 1) ||
      ((c.barrier w.job (solId w.x) (solEpoch w.x)).opened && ((c.barrier w.job (solId w.x) (solEpoch w.x)).nrings != solRings w.x ||
        (c.barrier w.job (solId w.x) (solEpoch w.x)).windows != ws))) = false := by
    rw [Bool.or_eq_false_iff]
    refine ⟨?_, ?_⟩
    · simp only [Bool.not_eq_false', Bool.or_eq_true, beq_iff_eq]
      exact epoch
    cases opened : (c.barrier w.job (solId w.x) (solEpoch w.x)).opened with
    | false => rfl
    | true =>
      obtain ⟨rings, windows⟩ := same opened
      simp [rings, windows]
  rw [if_neg (Bool.eq_false_iff.mp fits), show (c.barrier w.job (solId w.x) (solEpoch w.x)).rings.contains (rid, w.p) = false from
    Bool.eq_false_iff.mpr fun mem => new (List.contains_iff_mem.mp mem)]
  rfl

/-- What the leader does with an arrival that it has acknowledged (R219). -/
def Block.remoteCounted (b : Block) (win job solid epoch : Nat) : Block :=
  match b.jobs.get? job with
  | none => b.solEvent job solid win 0 epoch
  | some j =>
    if !(epoch == j.epochOf solid || epoch == j.epochOf solid + 1) then b.solEvent job solid win 0 epoch
    else (b.putBarrier { b.barrier job solid epoch with remote := addN (b.barrier job solid epoch).remote win }).tryRelease job solid 2

/-- An arrival through a window of the job slot is taken off those that wait, and acknowledged. -/
theorem remoteArrival_acked {b : Block} {win job : Nat} (solid epoch : Nat) (leads : b.eng.passing = false) (window : b.windowOf job win = true) :
    ∃ l, remoteArrival win job solid epoch b = ((b.onEng fun e => { e with arrivals := l }).send (.arrivalAck win solid epoch)).remoteCounted win job solid epoch := by
  have acked : remoteArrival win job solid epoch b = ((match b.eng.arrivals.findIdx? (fun a : Arrival => a.win == some win && a.job == job && a.sol == some (solid, epoch)) with
      | some i => b.onEng fun e => { e with arrivals := e.arrivals.eraseIdx i }
      | none => b).send (.arrivalAck win solid epoch)).remoteCounted win job solid epoch := by
    unfold remoteArrival
    rw [leads, window, if_neg (by decide)]
    rfl
  rw [acked]
  split
  · rename_i i _
    exact ⟨b.eng.arrivals.eraseIdx i, rfl⟩
  · exact ⟨b.eng.arrivals, rfl⟩

/-- Settles O41. -/
theorem barriersArriveReleaseAndResend : Obligations.BarriersArriveReleaseAndResend := by
  unfold Obligations.BarriersArriveReleaseAndResend
  refine ⟨?_, ?_, fun i s => ⟨fun u found => ?_, Runs.of_effect (s := s) rfl _ rfl rfl ⟨rfl, rfl⟩⟩⟩
  · intro rid s w j ws head found data first leads whole held job solid epoch cur i same new unsent
    obtain ⟨⟨inRing, -⟩, -⟩ := And.intro (And.intro (List.mem_of_mem_head? head) trivial) trivial
    obtain ⟨opcode, active⟩ : w.opcode = 0x30 ∧ w.phase = .active := by simpa using (List.mem_filter.mp inRing).2
    cases got : s.start.recsHeld rid w.p with
    | mk c ok =>
    have ready : ok = true := by rw [got] at held; exact held
    subst ready
    have kept : Translates s.start c := by
      have := Translates.recsHeld s.start rid w.p
      rwa [got] at this
    obtain ⟨w1, found1, is1⟩ := kept.work (show s.start.work? rid w.p = some w from found)
    have jobs : c.jobs = s.blk.jobs := kept.part (·.jobs)
    have barriers : c.eng.barriers = s.blk.eng.barriers := kept.part (·.eng.barriers)
    have jobIs : s.blk.jobs.getD w.job {} = j := by rw [Tbl.getD, job]; rfl
    have barrier : c.barrier w.job solid epoch = i := by
      unfold Block.barrier
      rw [barriers]
      rfl
    have curIs : (c.jobs.getD w.job {}).epochOf (solId w.x) = cur := by rw [jobs, jobIs]
    have joins : epoch = cur ∨ epoch = cur + 1 → solsticeArrival rid s.start = _ := fun at_ =>
      solsticeArrival_joins head data first leads whole got (by rw [curIs]; exact at_) (by rw [show c.barrier w.job (solId w.x) (solEpoch w.x) = i from barrier]; exact same)
        (by rw [show c.barrier w.job (solId w.x) (solEpoch w.x) = i from barrier]; exact new)
    rw [show c.barrier w.job (solId w.x) (solEpoch w.x) = i from barrier] at joins
    have isI : (i.joined rid w ws).is w.job solid epoch = true := s.blk.barrier_is w.job solid epoch
    have size : (i.joined rid w ws).rings.length = i.rings.length + 1 := List.length_append
    have stands : (c.onWork rid w.p fun w => { w with data := .solstice ws true }).work? rid w.p = some { w1 with data := .solstice ws true } :=
      (Tbl.get?_modify_same c.works _ _).trans (by rw [show c.works.get? (workKey rid w.p) = some w1 from found1]; rfl)
    generalize waiting : (c.onWork rid w.p fun w => { w with data := .solstice ws true }) = d at joins stands
    have jobsD : d.jobs = s.blk.jobs := by rw [← waiting]; exact jobs
    have barriersD : d.eng.barriers = s.blk.eng.barriers := by rw [← waiting]; exact barriers
    have wrD : d.wr = [] := by rw [← waiting]; exact kept.part (·.wr)
    have outD : d.outbox = s.blk.outbox := by rw [← waiting]; exact kept.part (·.outbox)
    have curD : (d.jobs.getD w.job {}).epochOf solid = cur := by rw [jobsD, jobIs]
    refine ⟨fun short at_ => ?_, fun full arrived now unreleased early unrefused => ?_⟩
    · have effect : solsticeArrival rid s.start = d.putBarrier (i.joined rid w ws) := by
        rw [joins (at_.imp_right And.left), Block.sendArrivals_waits _ _ (by rw [size]; exact short)]
        refine d.tryRelease_put isI unsent ?_ 2
        rw [curD, barriersD]
        exact at_.imp_right And.right
      exact Runs.of_effect (s := s) rfl _ effect wrD ⟨rfl, jobsD, outD, ⟨_, stands, (congrArg Work.phase is1).trans active, rfl⟩, d.barrier_putBarrier isI⟩
    · obtain ⟨xjob, xsolid, xepoch⟩ := (Barrier.is_iff _ _ _ _).mp isI
      obtain ⟨e, noted, sends⟩ := (d.putBarrier (i.joined rid w ws)).sendArrivals_complete (i.joined rid w ws) unsent (by rw [size]; exact full) rfl
      have barriersE : e.eng.barriers = s.blk.eng.barriers.filter (!·.is w.job solid cur) ++ [i.joined rid w ws] := by
        rw [noted]
        show d.eng.barriers.filter _ ++ _ = _
        rw [barriersD, xjob, xsolid, xepoch, now]
      have jobsE : e.jobs = s.blk.jobs := by rw [noted]; exact jobsD
      have wrE : e.wr = [] := by rw [noted]; exact wrD
      have standsE : (e.putBarrier { i.joined rid w ws with sent := true }).unended rid w.p := by
        refine ⟨{ w1 with data := .solstice ws true }, ?_, (congrArg Work.late is1).trans early, (congrArg Work.winStatus is1).trans unrefused⟩
        show e.work? rid w.p = some { w1 with data := .solstice ws true }
        rw [noted]
        exact stands
      have jobE : (e.putBarrier { i.joined rid w ws with sent := true }).jobs.get? (i.joined rid w ws).job = some j := by
        show e.jobs.get? _ = _
        rw [jobsE, xjob]
        exact job
      obtain ⟨wrR, barriersR, ⟨j', jobR, next⟩, ended⟩ := (e.putBarrier { i.joined rid w ws with sent := true }).releaseBarrier_ends { i.joined rid w ws with sent := true } rfl standsE jobE
      have released : ((e.putBarrier { i.joined rid w ws with sent := true }).tryRelease w.job solid 2) =
          ((e.putBarrier { i.joined rid w ws with sent := true }).releaseBarrier { i.joined rid w ws with sent := true }).tryRelease w.job solid 1 := by
        rw [Block.tryRelease]
        dsimp only
        have epochE : ((e.putBarrier { i.joined rid w ws with sent := true }).jobs.getD w.job {}).epochOf solid = epoch := by
          rw [show (e.putBarrier { i.joined rid w ws with sent := true }).jobs = s.blk.jobs from jobsE, jobIs]
          exact now.symm
        rw [epochE, e.find_putBarrier (x := { i.joined rid w ws with sent := true }) isI]
        dsimp only
        rw [if_pos]
        simp only [Barrier.joined, Bool.and_true, Bool.true_and, List.all_eq_true]
        exact fun v mem => List.contains_iff_mem.mpr (arrived v mem)
      generalize (e.putBarrier { i.joined rid w ws with sent := true }).releaseBarrier { i.joined rid w ws with sent := true } = r at wrR barriersR jobR ended released
      have left : ∀ y ∈ r.eng.barriers, y ∈ s.blk.eng.barriers ∧ y.is w.job solid cur = false := by
        intro y mem
        rw [barriersR] at mem
        obtain ⟨mem, other⟩ := List.mem_filter.mp mem
        have gone : y.is w.job solid cur = false := by
          rw [← now, ← xjob, ← xsolid, ← xepoch]
          simpa using other
        refine ⟨?_, gone⟩
        have old : y ∈ e.eng.barriers := by
          obtain ⟨old, -⟩ | new := (List.mem_append.mp mem).imp_left List.mem_filter.mp
          · exact old
          · rw [List.mem_singleton.mp new] at gone
            exact absurd ((now ▸ isI : (i.joined rid w ws).is w.job solid cur = true).symm.trans gone) (by decide)
        rw [barriersE] at old
        obtain ⟨old, -⟩ | new := (List.mem_append.mp old).imp_left List.mem_filter.mp
        · exact old
        · rw [List.mem_singleton.mp new] at gone
          exact absurd ((now ▸ isI : (i.joined rid w ws).is w.job solid cur = true).symm.trans gone) (by decide)
      have passed : j'.epochOf solid = cur + 1 := by
        rw [← now, ← xsolid, ← xepoch]
        exact next
      rw [show ({ i.joined rid w ws with sent := true } : Barrier).job = w.job from xjob] at jobR
      have jobNow : (r.jobs.getD w.job {}).epochOf solid = cur + 1 := by
        rw [Tbl.getD, jobR]
        exact passed
      have effect : solsticeArrival rid s.start = r := by
        rw [joins (.inl now), sends, released]
        refine r.tryRelease_still _ _ _ fun y mem is => ?_
        rw [jobNow] at is
        exact unreleased y (left y mem).1 is
      exact Runs.of_effect (s := s) rfl _ effect (wrR.trans wrE) ⟨rfl, ended, fun y mem => (left y mem).2, j', jobR, passed⟩
  · intro win job solid epoch s j leads window found i
    have jobIs : s.blk.jobs.getD job {} = j := by rw [Tbl.getD, found]; rfl
    obtain ⟨l, acked⟩ := remoteArrival_acked (b := s.start) solid epoch leads window
    generalize sent : (s.start.onEng fun e => { e with arrivals := l }).send (.arrivalAck win solid epoch) = c at acked
    have jobsC : c.jobs = s.blk.jobs := by rw [← sent]; rfl
    have barriersC : c.eng.barriers = s.blk.eng.barriers := by rw [← sent]; rfl
    have outC : c.outbox = s.blk.outbox ++ [.arrivalAck win solid epoch] := by rw [← sent]; rfl
    have wrC : c.wr = [] := by rw [← sent]; rfl
    have barrier : c.barrier job solid epoch = i := by
      unfold Block.barrier
      rw [barriersC]
      rfl
    refine ⟨fun at_ unsent => ?_, fun before after quiet => ?_⟩
    · have isI : ({ i with remote := addN i.remote win } : Barrier).is job solid epoch = true := s.blk.barrier_is job solid epoch
      have near : (!(epoch == j.epochOf solid || epoch == j.epochOf solid + 1)) = false := by
        simp only [Bool.not_eq_false', Bool.or_eq_true, beq_iff_eq]
        exact at_.imp_right And.left
      have effect : remoteArrival win job solid epoch s.start = c.putBarrier { i with remote := addN i.remote win } := by
        rw [acked, Block.remoteCounted, jobsC, found]
        dsimp only
        rw [near, if_neg Bool.false_ne_true, barrier]
        refine c.tryRelease_put isI unsent ?_ 2
        rw [jobsC, jobIs, barriersC]
        exact at_.imp_right And.right
      exact Runs.of_effect (s := s) rfl _ effect wrC ⟨rfl, outC, c.barrier_putBarrier isI, jobsC⟩
    · have far : (!(epoch == j.epochOf solid || epoch == j.epochOf solid + 1)) = true := by simp [before, after]
      have effect : remoteArrival win job solid epoch s.start = c.solEvent job solid win 0 epoch := by
        rw [acked, Block.remoteCounted, jobsC, found]
        dsimp only
        rw [far, if_pos rfl]
      have told : Told c (c.solEvent job solid win 0 epoch) := Told.event c _ _ _ _ (by rw [← sent]; exact quiet)
      exact Runs.of_effect (s := s) rfl _ effect ((told.part (·.wr)).trans wrC)
        ⟨rfl, (told.part (·.outbox)).trans outC, (told.engPart (·.barriers)).trans barriersC, (told.part (·.jobs)).trans jobsC⟩
  · cases win : u.win with
    | some w =>
      have effect : arrivalResend i s.start = s.start.sendArrival w u.job u.solid u.epoch := by
        unfold arrivalResend
        rw [show s.start.eng.unacked[i]? = some u from found]
        dsimp only
        rw [win]
      exact Runs.of_effect (s := s) rfl _ effect rfl ⟨rfl, rfl⟩
    | none =>
      have effect : arrivalResend i s.start = s.start.send (.release u.hub u.job u.solid u.epoch) := by
        unfold arrivalResend
        rw [show s.start.eng.unacked[i]? = some u from found]
        dsimp only
        rw [win]
      exact Runs.of_effect (s := s) rfl _ effect rfl ⟨rfl, rfl⟩

end Sys2Proof.Machine
end

section
/-! O42: completion, expiry and SIGNAL slots. -/
namespace Sys2Proof.Machine
open Sys2Proof.Spec

/-! ### What the writes of a ring leave of slots and rings (R204 to R207, R348) -/

/-- A slot but for its pages, its accesses and whether its record has been written. -/
def Work.outcome (w : Work) : Work :=
  { w with recorded := false, pages := [], slotPages := [], recPages := [], hostWhat := 0, hostAffected := false, hostHeld := false, hostMute := false, outstanding := 0
           stoppedSince := none }

/-- HEAD and DONE of a ring, and the slots written beyond DONE. -/
def Ring.counts (r : Ring) : Nat × Nat × List Nat := (r.head, r.done, r.written)

/-- Tables, the outcomes of slots and the counts of rings are the same. -/
structure Outcomes (b c : Block) : Prop where
  tables : c.tables = b.tables
  works : c.works.mapVal (fun _ => Work.outcome) = b.works.mapVal fun _ => Work.outcome
  rings : ∀ q, (c.rings.get? q).map Ring.counts = (b.rings.get? q).map Ring.counts

namespace Outcomes

variable {b c d : Block}

theorem refl (b : Block) : Outcomes b b := ⟨rfl, rfl, fun _ => rfl⟩

theorem trans (first : Outcomes b c) (second : Outcomes c d) : Outcomes b d :=
  ⟨second.tables.trans first.tables, second.works.trans first.works, fun q => (second.rings q).trans (first.rings q)⟩

theorem foldl {α : Type} {f : Block → α → Block} (step : ∀ b a, Outcomes b (f b a)) (as : List α) (b : Block) : Outcomes b (as.foldl f b) := by
  induction as generalizing b with
  | nil => exact refl b
  | cons a as ih => exact (step b a).trans (ih (f b a))

theorem of_same (tables : c.tables = b.tables) (works : c.works = b.works) (rings : c.rings = b.rings) : Outcomes b c :=
  ⟨tables, by rw [works], fun q => by rw [rings]⟩

theorem of_core (core : c.core = b.core) : Outcomes b c := by
  refine ⟨congrArg (·.tables) core, ?_, fun q => ?_⟩
  · have same := congrArg (fun d : Block => d.works.mapVal fun _ => Work.outcome) core
    simp only [Block.core, Tbl.mapVal_mapVal] at same
    exact same
  · have same := congrArg (fun d : Block => (d.rings.get? q).map Ring.counts) core
    simp only [Block.core, Tbl.get?_mapVal, Option.map_map] at same
    exact same

theorem of_touch {P : Wr → Prop} (touch : Touch P b c) : Outcomes b c := of_core touch.core

theorem onWork (b : Block) (r p : Nat) (f : Work → Work) (keeps : ∀ x, (f x).outcome = x.outcome) : Outcomes b (b.onWork r p f) :=
  ⟨rfl, Tbl.mapVal_modify b.works _ f _ keeps, fun _ => rfl⟩

theorem onRing (b : Block) (r : Nat) (f : Ring → Ring) (keeps : ∀ x, (f x).counts = x.counts) : Outcomes b (b.onRing r f) := by
  refine ⟨rfl, rfl, fun q => ?_⟩
  obtain rfl | other := eq_or_ne q r
  · rw [Block.onRing, Tbl.get?_modify_same, Option.map_map]
    exact congrArg (Option.map · _) (funext keeps)
  · rw [Block.onRing, Tbl.get?_modify_other _ _ _ _ other]

theorem of_translates (kept : Translates b c) : Outcomes b c := by
  refine ⟨kept.part (·.tables), ?_, fun q => congrArg (fun t : Tbl Ring => (t.get? q).map Ring.counts) (kept.part (·.rings))⟩
  have same := congrArg (fun d : Block => d.works.mapVal fun _ => Work.outcome) kept.same
  simp only [Block.untranslated, Tbl.mapVal_mapVal] at same
  exact same

theorem hostLose (b : Block) (rid what : Nat) : Outcomes b (b.hostLose rid what) := by
  unfold Block.hostLose
  split
  · exact refl b
  · rename_i r found
    split
    · exact onRing b rid _ fun _ => rfl
    · dsimp only
      refine Outcomes.trans ?_ (of_touch (Touch.raise (P := fun _ => True) _ _ _))
      refine Outcomes.trans ?_ (of_touch (Touch.haltFields (P := fun _ => True) _ _))
      refine (onRing b rid (fun q => { q with hostLost := some (q.done, q.head - 1, _), halt := setReason q.halt haltHOSTLOST }) fun _ => rfl).trans ⟨rfl, ?_, fun _ => rfl⟩
      simp only [Tbl.mapVal_mapVal]
      refine congrArg (Tbl.mapVal b.works) (funext fun _ => funext fun w => ?_)
      split <;> rfl

theorem wrHost (b : Block) (port ha : Nat) (data : List Byte) : Outcomes b (b.wrHost port ha data) := by
  unfold Block.wrHost
  split <;> exact of_same rfl rfl rfl

theorem pageWriteRaw (b : Block) (rid p : Nat) (pg : Page) (off : Nat) (data : List Byte) (what : Nat) : Outcomes b (b.pageWriteRaw rid p pg off data what) := by
  unfold Block.pageWriteRaw
  dsimp only
  split
  · exact of_touch (Touch.wrMem b _ _ _ _ _)
  · split
    · split
      · exact (hostLose b _ _).trans (onWork _ _ _ _ fun _ => rfl)
      · exact (wrHost b _ _ _).trans (onWork _ _ _ _ fun _ => rfl)
    · exact (of_touch (Touch.sendWin (P := fun _ => True) b _ _ _ _ _)).trans (onWork _ _ _ _ fun _ => rfl)

theorem statusWrite (b : Block) (rid : Nat) : Outcomes b (b.statusWrite rid) := by
  have shown : Outcomes b (b.haltFields rid) := of_touch (Touch.haltFields (P := fun _ => True) b rid)
  unfold Block.statusWrite
  dsimp only
  split
  · exact shown
  · rename_i r found
    split
    · exact shown
    · have translated := shown.trans (of_translates (Translates.cached (b.haltFields rid) (ringHub rid) r.job { va := r.cbase, write := true }))
      split
      · rename_i hit
        rw [hit] at translated
        split
        · split
          · exact translated.trans (hostLose _ _ _)
          · exact translated
        · exact translated.trans (pageWriteRaw _ _ _ _ _ _ _)
      · rename_i missed
        rw [missed] at translated
        exact translated.trans (of_translates (Translates.startWalk _ _ _ _ _ _))

theorem hostLostWritten {before b : Block} (rid : Nat) (kept : Outcomes d b) : Outcomes d (Block.hostLostWritten before b rid) := by
  unfold Block.hostLostWritten
  dsimp only
  split
  · exact kept.trans (statusWrite _ _)
  · exact kept

theorem pageWrite (b : Block) (rid p : Nat) (pg : Page) (off : Nat) (data : List Byte) (what : Nat) : Outcomes b (b.pageWrite rid p pg off data what) :=
  hostLostWritten rid (pageWriteRaw b rid p pg off data what)

theorem vaWrite (b : Block) (rid p : Nat) (pages : List Page) (va : Nat) (data : List Byte) (what : Nat) : Outcomes b (b.vaWrite rid p pages va data what) := by
  refine foldl (fun b v => ?_) _ b
  split
  · exact refl b
  · exact pageWrite _ _ _ _ _ _ _

theorem haltRing (b : Block) (rid reason : Nat) : Outcomes b (b.haltRing rid reason) := (onRing b rid (fun r => { r with halt := setReason r.halt reason }) fun _ => rfl).trans (statusWrite _ _)

theorem errorRing (b : Block) (rid : Nat) (e : ErrOf) (status : Nat) : Outcomes b (b.errorRing rid e status) := by
  unfold Block.errorRing
  dsimp only
  refine Outcomes.trans (onRing b rid _ fun r => ?_) (statusWrite _ _)
  exact (apply_ite Ring.counts _ _ _).trans (ite_self _)

theorem latch (b : Block) (h sem c : Nat) : Outcomes b (b.latch h sem c).1 := by
  unfold Block.latch
  split
  · exact of_same rfl rfl rfl
  · rename_i rid r _
    split
    · exact haltRing _ _ _
    · dsimp only
      refine Outcomes.trans ?_ (statusWrite _ _)
      exact (of_same rfl rfl rfl : Outcomes b (b.semAdd h sem c)).trans (onRing _ rid (fun r => { r with tail := r.tail + c, fills := r.fills ++ [(r.tail, b.age h)] }) fun _ => rfl)

/-- A slot's outcome is the same. -/
theorem work (kept : Outcomes b c) (k : Nat) : (c.works.get? k).map Work.outcome = (b.works.get? k).map Work.outcome := by
  have same := congrArg (fun t : Tbl Work => t.get? k) kept.works
  simpa only [Tbl.get?_mapVal] using same

theorem work_some (kept : Outcomes b c) {rid p : Nat} {w : Work} (found : b.work? rid p = some w) : ∃ w', c.work? rid p = some w' ∧ w'.outcome = w.outcome := by
  have same := kept.work (workKey rid p)
  rw [show b.works.get? (workKey rid p) = some w from found] at same
  exact Option.map_eq_some_iff.mp same

theorem ring_some (kept : Outcomes b c) {rid : Nat} {r : Ring} (found : b.rings.get? rid = some r) : ∃ q, c.rings.get? rid = some q ∧ q.counts = r.counts := by
  have same := kept.rings rid
  rw [found] at same
  exact Option.map_eq_some_iff.mp same

theorem wf (kept : Outcomes b c) (sound : Tbl.wf b.works = true) : Tbl.wf c.works = true := by
  have same := congrArg Tbl.wf kept.works
  simp only [Tbl.wf, Tbl.wfFrom_mapVal] at same
  exact same.trans sound

end Outcomes

/-! ### DONE (R192, R206) -/

theorem advanceDone_le (done : Nat) (written : List Nat) (fuel : Nat) : done ≤ (advanceDone done written fuel).1 := by
  induction fuel generalizing done written with
  | zero => exact le_rfl
  | succ fuel ih =>
    unfold advanceDone
    split
    · exact (Nat.le_succ _).trans (ih _ _)
    · exact le_rfl

theorem advanceDone_lt {done : Nat} {written : List Nat} (fuel : Nat) (has : written.contains done = true) : done < (advanceDone done written (fuel + 1)).1 := by
  unfold advanceDone
  rw [if_pos has]
  exact advanceDone_le _ _ _

/-- A ring in which DONE is d, and the slots written beyond it are ws. -/
def Ring.doneAt (d : Nat) (ws : List Nat) (r : Ring) : Ring := { r with done := d, written := ws }

/-- The record of a slot counts in DONE: by itself where it stands there, never back. -/
theorem Block.countDone_counts (b : Block) {rid : Nat} (p : Nat) {r : Ring} (found : b.rings.get? rid = some r) :
    ∃ d ws, Outcomes (b.onRing rid (Ring.doneAt d ws)) (b.countDone rid p) ∧ r.done ≤ d ∧ (r.done = p → r.written.contains p = false → p < d) := by
  have same : Outcomes (b.onRing rid (Ring.doneAt r.done r.written)) b := by
    refine ⟨rfl, rfl, fun q => ?_⟩
    obtain rfl | other := eq_or_ne q rid
    · rw [Block.onRing, Tbl.get?_modify_same, found]
      rfl
    · rw [Block.onRing, Tbl.get?_modify_other _ _ _ _ other]
  unfold Block.countDone
  rw [found]
  dsimp only
  split
  · rename_i counted
    refine ⟨r.done, r.written, same, le_rfl, fun here new => ?_⟩
    rw [new, here] at counted
    simp at counted
  · have grows := advanceDone_le r.done (r.written ++ [p]) ((r.written ++ [p]).length + 1)
    refine ⟨_, (advanceDone r.done (r.written ++ [p]) ((r.written ++ [p]).length + 1)).2, ?_, grows, fun here _ => ?_⟩
    · split
      · exact Outcomes.refl _
      · split
        · exact Outcomes.latch _ _ _ _
        · exact Outcomes.refl _
    · have := advanceDone_lt (done := r.done) (written := r.written ++ [p]) (r.written ++ [p]).length (by simp [here])
      omega

/-- What the writes of a completion leave: tables, outcomes, HEAD; DONE only rises, and past the slot where it stood there. -/
theorem Block.writeCompletion_counts (b : Block) {rid p : Nat} {r : Ring} {w : Work} (found : b.rings.get? rid = some r) (work : b.work? rid p = some w) :
    (b.writeCompletion rid p).tables = b.tables ∧ (b.writeCompletion rid p).works.mapVal (fun _ => Work.outcome) = b.works.mapVal (fun _ => Work.outcome) ∧
      ∃ q, (b.writeCompletion rid p).rings.get? rid = some q ∧ q.head = r.head ∧ r.done ≤ q.done ∧ (r.done = p → r.written.contains p = false → p < q.done) := by
  unfold Block.writeCompletion
  rw [found, work]
  dsimp only
  generalize recorded : Block.onWork _ _ _ _ = c
  have before : Outcomes b c := by
    rw [← recorded]
    refine Outcomes.trans ?_ (Outcomes.onWork _ _ _ _ fun _ => rfl)
    refine Outcomes.trans ?_ (Outcomes.of_touch (Touch.sample (P := fun _ => True) _ _ _ _))
    have first := Outcomes.vaWrite b rid noSlot w.recPages (r.recVa p) (w.recordBytes (b.age (ringHub rid) - w.startAge)) whatREC
    split
    · exact first.trans (Outcomes.vaWrite _ _ _ _ _ _ _)
    · exact first
  obtain ⟨rc, foundC, same⟩ := before.ring_some found
  obtain ⟨d, ws, counted, low, past⟩ := c.countDone_counts p foundC
  have head : rc.head = r.head := congrArg Prod.fst same
  have done : rc.done = r.done := congrArg (·.2.1) same
  have written : rc.written = r.written := congrArg (·.2.2) same
  have after : Outcomes (c.onRing rid (Ring.doneAt d ws)) (if haltingStatus w.status then ((c.countDone rid p).statusWrite rid).errorRing rid (.slot p) w.status else (c.countDone rid p).statusWrite rid) := by
    split
    · exact (counted.trans (Outcomes.statusWrite _ _)).trans (Outcomes.errorRing _ _ _ _)
    · exact counted.trans (Outcomes.statusWrite _ _)
  generalize (if haltingStatus w.status then ((c.countDone rid p).statusWrite rid).errorRing rid (.slot p) w.status else (c.countDone rid p).statusWrite rid) = e at after
  have foundD : (c.onRing rid (Ring.doneAt d ws)).rings.get? rid = some (rc.doneAt d ws) := (Tbl.get?_modify_same _ _ _).trans (by rw [foundC]; rfl)
  obtain ⟨q, foundQ, is⟩ := after.ring_some foundD
  have doneQ : q.done = d := congrArg (·.2.1) is
  refine ⟨after.tables.trans before.tables, after.works.trans before.works, q, foundQ, (congrArg Prod.fst is).trans head, ?_, fun here new => ?_⟩
  · rw [doneQ, ← done]
    exact low
  · rw [doneQ]
    exact past (done.trans here) (written ▸ new)

/-! ### Ends of slots -/

theorem Outcomes.retireWork (b : Block) {rid p : Nat} (sound : Tbl.wf b.works = true) : (b.retireWork rid p).work? rid p = none ∧ (b.retireWork rid p).tables = b.tables ∧
    (b.retireWork rid p).rings = b.rings := by
  have gone : (b.works.del (workKey rid p)).get? (workKey rid p) = none := Tbl.get?_del_same b.works 0 _ sound
  unfold Block.retireWork
  dsimp only
  split
  · exact ⟨gone, rfl, rfl⟩
  · refine ⟨?_, rfl, rfl⟩
    unfold Block.work?
    dsimp only
    rw [Tbl.get?_mapVal, show (b.delWork rid p).works = b.works.del (workKey rid p) from rfl, gone]
    rfl

/-- Of the slots with an outcome, those that ended late. -/
theorem Block.lateRecord_kept (b : Block) (rid p : Nat) : (b.lateRecord rid p).tables = b.tables ∧
    (b.lateRecord rid p).works.mapVal (fun _ => Work.outcome) = b.works.mapVal fun _ => Work.outcome := by
  have ensured := Outcomes.of_translates (Translates.ensureRec b rid p)
  unfold Block.lateRecord
  generalize b.ensureRec rid p = x at ensured
  obtain ⟨c, ready⟩ := x
  dsimp only at ensured ⊢
  split
  · exact ⟨ensured.tables, ensured.works⟩
  · rename_i w work
    split
    · exact ⟨ensured.tables, ensured.works⟩
    · cases found : c.rings.get? rid with
      | none =>
        have still : c.writeCompletion rid p = c := by
          unfold Block.writeCompletion
          rw [found]
        rw [still]
        exact ⟨ensured.tables, ensured.works⟩
      | some r =>
        obtain ⟨tables, works, -⟩ := c.writeCompletion_counts found work
        exact ⟨tables.trans ensured.tables, works.trans ensured.works⟩

/-- An expiry granted while the slot is at work ends it with LATE. -/
theorem Block.lateEnds_late (b : Block) {rid p : Nat} {w : Work} (deadline : Bool) (counters : List Nat) (work : b.work? rid p = some w) (active : w.phase = .active)
    (unsolved : w.opcode ≠ 0x30) : (b.lateEnds rid p deadline counters).tables = b.tables ∧
      ∃ w', (b.lateEnds rid p deadline counters).work? rid p = some w' ∧ Ended w' LATE ∧ w'.late = true ∧ w'.deadline = deadline := by
  have marked : (b.markLate rid p deadline counters).work? rid p =
      some { w with late := true, lateAge := b.age (ringHub rid), deadline := deadline, status := LATE, position := 0, counters := counters } :=
    (Tbl.get?_modify_same b.works _ _).trans (by rw [show b.works.get? (workKey rid p) = some w from work]; rfl)
  have tables : (b.markLate rid p deadline counters).tables = b.tables := rfl
  unfold Block.lateEnds
  generalize b.markLate rid p deadline counters = c at marked tables
  dsimp only
  rw [marked]
  dsimp only
  rw [active, if_neg (by decide)]
  have ends := c.endSlot_works rid p LATE 0 counters (workKey rid p)
  rw [if_pos rfl, show c.works.get? (workKey rid p) = _ from marked] at ends
  obtain ⟨v, foundV, is⟩ := Option.map_eq_some_iff.mp ends
  have same := c.endSlot_eq rid p LATE 0 counters
  generalize c.endSlot rid p LATE 0 counters = d at foundV same
  obtain ⟨keptTables, keptWorks⟩ := d.lateRecord_kept rid p
  refine ⟨keptTables.trans ((congrArg Block.tables same).trans tables), ?_⟩
  have outcome := congrArg (fun t : Tbl Work => t.get? (workKey rid p)) keptWorks
  simp only [Tbl.get?_mapVal, foundV] at outcome
  obtain ⟨w', found', isW⟩ := Option.map_eq_some_iff.mp outcome
  refine ⟨w', found', ⟨(congrArg Work.phase isW).trans (congrArg Work.phase is), (congrArg Work.status isW).trans ((congrArg Work.status is).trans ?_)⟩,
    (congrArg Work.late isW).trans (congrArg Work.late is), (congrArg Work.deadline isW).trans (congrArg Work.deadline is)⟩
  show (if (true && w.opcode != 0x30) then LATE else _) = LATE
  rw [if_pos (by simpa using unsolved)]

/-- A slot's earlier slots have their records. -/
def Block.earlierRecorded (b : Block) (rid p : Nat) : Prop := ∀ v ∈ b.ringWorks rid, v.p < p → v.recorded = true

theorem Block.earlierRecorded_any {b : Block} {rid p : Nat} (earlier : b.earlierRecorded rid p) :
    ((b.ringWorks rid).any fun v => decide (v.p < p) && !v.recorded) = false :=
  List.any_eq_false.mpr fun v mem => by
    by_cases before : v.p < p
    · simp [earlier v mem before]
    · simp [before]

/-- A SIGNAL slot to a semaphore of its own hub that is neither a ring's nor a region's adds to it, and ends. -/
theorem signalFire_local {b c : Block} {rid p : Nat} {w : Work} (work : b.work? rid p = some w) (opcode : w.opcode = 0x31) (active : w.phase = .active)
    (earlier : b.earlierRecorded rid p) (held : b.recsHeld rid p = (c, true)) (here : sigRemote w.x = false) (free : c.freeOrDone (ringHub rid) (sigSem w.x) = false)
    (plain : c.arrivalSem (ringHub rid) (sigSem w.x) = false) (fill : c.fillRing (ringHub rid) (sigSem w.x) = none) :
    signalFire rid p b = (c.semAdd (ringHub rid) (sigSem w.x) (sigCount w.x)).endSlot rid p OK 0 [] := by
  have latched : c.signal (ringHub rid) (sigSem w.x) (sigCount w.x) w.job = (c.semAdd (ringHub rid) (sigSem w.x) (sigCount w.x), true) := by
    unfold Block.signal
    rw [plain, if_neg Bool.false_ne_true, Block.latch_free fill]
  unfold signalFire
  rw [work]
  dsimp only
  rw [opcode, active, Block.earlierRecorded_any earlier, if_neg (by decide), held]
  dsimp only
  rw [here, if_neg Bool.false_ne_true, free, if_neg Bool.false_ne_true, latched]

/-- A SIGNAL slot through a window of its job slot is sent, and waits for its answer. -/
theorem signalFire_remote {b c : Block} {rid p : Nat} {w : Work} {e : BitVec 256} (work : b.work? rid p = some w) (opcode : w.opcode = 0x31) (active : w.phase = .active)
    (earlier : b.earlierRecorded rid p) (held : b.recsHeld rid p = (c, true)) (there : sigRemote w.x = true) (window : c.eng.windows.get? (sigWin w.x) = some e)
    (ours : jobOf e 20 = w.job) : ∃ d n, c.sendWin rid p (sigWin w.x) false
        (.winSignal rid p (sigWin w.x) (c.winHead (ringHub rid) (sigWin w.x) 0) (sigHub w.x) (sigSem w.x) (sigCount w.x)) = (d, n) ∧
      signalFire rid p b = (d.onWork rid p fun w => { w with outstanding := w.outstanding + n }).endSlot rid p OK 0 [] := by
  refine ⟨_, _, rfl, ?_⟩
  unfold signalFire
  rw [work]
  dsimp only
  rw [opcode, active, Block.earlierRecorded_any earlier, if_neg (by decide), held]
  dsimp only
  rw [there, if_pos rfl, window]
  dsimp only
  rw [if_neg (not_not.mpr ours)]
  rfl

/-- A slot whose work has ended, and whose record and flag pages are held, is written and retires. -/
theorem slotComplete_ready {b : Block} {rid p : Nat} {r : Ring} {w : Work} (found : b.rings.get? rid = some r) (work : b.work? rid p = some w) (visible : w.phase = .visible)
    (answered : w.outstanding = 0) (heard : w.hostMute = false) (unrecorded : w.recorded = false) (unaffected : w.hostAffected = false)
    (unbarred : b.recBarred rid p = false) (held : w.recNeeds r = []) (link : w.hostRec = true ∨ w.hostHeld = true → b.eng.host = .up) :
    slotComplete rid p b = ((if w.late then b.sample 0x0B rid (b.age (ringHub rid) - w.lateAge) else b).writeCompletion rid p).retireWork rid p := by
  have unfaulted : w.recFault = false := by
    unfold Block.recBarred at unbarred
    rw [found, work] at unbarred
    exact (Bool.or_eq_false_iff.mp unbarred).1
  have ensured : b.ensureRec rid p = (b, true) := by
    unfold Block.ensureRec
    rw [found, work]
    dsimp only
    rw [unbarred, if_neg Bool.false_ne_true, held]
    rfl
  have up : w.hostRec = true ∨ w.hostHeld = true → b.hostUp = true ∧ b.hostLostNow = false := fun some_ => by
    unfold Block.hostUp Block.hostLostNow
    rw [link some_]
    exact ⟨rfl, rfl⟩
  have notLost : (w.hostRec && b.hostLostNow) = false := by
    cases here : w.hostRec with
    | false => rfl
    | true => exact (up (.inl here)).2
  have open_ : ((w.hostRec || w.hostHeld) && !b.hostUp) = false := by
    cases here : (w.hostRec || w.hostHeld) with
    | false => rfl
    | true => rw [(up ((Bool.or_eq_true _ _).mp here)).1]; rfl
  unfold slotComplete
  rw [work]
  dsimp only
  rw [visible, answered, heard, unrecorded, unfaulted, unaffected, if_neg (by decide), if_neg Bool.false_ne_true, if_neg Bool.false_ne_true, if_neg Bool.false_ne_true, ensured]
  dsimp only
  rw [work]
  dsimp only
  rw [if_neg (by decide), notLost, open_, if_neg Bool.false_ne_true, if_neg Bool.false_ne_true]

/-- Settles O42. -/
theorem slotsCompleteExpireAndSignal : Obligations.SlotsCompleteExpireAndSignal := by
  unfold Obligations.SlotsCompleteExpireAndSignal
  refine ⟨?_, ?_, ?_⟩
  · intro rid p s r w alive found work ring place low unrecorded unaffected link visible answered heard unbarred held new done sound
    have effect : slotComplete rid p s.start = ((if w.late then s.start.sample 0x0B rid (s.start.age (ringHub rid) - w.lateAge) else s.start).writeCompletion rid p).retireWork rid p :=
      slotComplete_ready found work visible answered heard unrecorded unaffected unbarred held link
    have sampled : Outcomes s.start (if w.late then s.start.sample 0x0B rid (s.start.age (ringHub rid) - w.lateAge) else s.start) := by
      split
      · exact Outcomes.of_same rfl rfl rfl
      · exact Outcomes.refl _
    have same : (if w.late then s.start.sample 0x0B rid (s.start.age (ringHub rid) - w.lateAge) else s.start).works = s.blk.works ∧
        (if w.late then s.start.sample 0x0B rid (s.start.age (ringHub rid) - w.lateAge) else s.start).rings = s.blk.rings := by
      split <;> exact ⟨rfl, rfl⟩
    generalize (if w.late then s.start.sample 0x0B rid (s.start.age (ringHub rid) - w.lateAge) else s.start) = b at effect sampled same
    obtain ⟨works, rings⟩ := same
    obtain ⟨tablesC, worksC, q, foundQ, head, low', past⟩ := b.writeCompletion_counts (rid := rid) (p := p) (r := r) (w := w) (by rw [rings]; exact found)
      ((congrArg (fun t : Tbl Work => t.get? (workKey rid p)) works).trans work)
    have soundC : Tbl.wf (b.writeCompletion rid p).works = true := by
      have wfs := congrArg Tbl.wf worksC
      simp only [Tbl.wf, Tbl.wfFrom_mapVal] at wfs
      exact wfs.trans (by rw [works]; exact sound)
    obtain ⟨gone, tablesR, ringsR⟩ := Outcomes.retireWork (rid := rid) (p := p) _ soundC
    rw [← effect] at gone tablesR ringsR
    refine Runs.of_core (s := s) _ rfl fun t core => ?_
    replace core : t.blk.core = (slotComplete rid p s.start).core := core.trans (congrArg Block.core (if_neg (by rw [show s.start.fatal = false from alive]; decide)))
    obtain ⟨q', foundQ', isQ⟩ := Block.ring_of_core core (by rw [ringsR]; exact foundQ)
    refine ⟨?_, (congrArg Block.tables core).trans (tablesR.trans (tablesC.trans sampled.tables)), q', foundQ', (Ring.of_core isQ (·.head)).trans head, ?_, fun here => ?_⟩
    · have worksT := congrArg (fun d : Block => d.works.get? (workKey rid p)) core
      simp only [Block.core, Tbl.get?_mapVal] at worksT
      rw [show (slotComplete rid p s.start).works.get? (workKey rid p) = none from gone] at worksT
      exact Option.map_eq_none_iff.mp worksT
    · rw [show q'.done = q.done from Ring.of_core isQ (·.done)]
      exact low'
    · rw [show q'.done = q.done from Ring.of_core isQ (·.done)]
      exact past here new
  · intro rid p s r w l alive found work ring place low unrecorded unaffected data active early notSol notSig late
    have unlatched : s.start.latched w = false := by
      unfold Block.latched
      rw [active]
      rfl
    have ends : ∀ (i : Instr) (e b : Block) (deadline : Bool) (counters : List Nat), exec i s = .next (settle s (e.interrupts 16)) → e = b.lateEnds rid p deadline counters →
        b.works = s.blk.works → b.tables = s.blk.tables → Runs i s (late deadline) := by
      intro i e b deadline counters arm effect works tables
      obtain ⟨tablesL, w', foundL, ⟨phase, status⟩, isLate, isDeadline⟩ := b.lateEnds_late (rid := rid) (p := p) (w := w) deadline counters
        ((congrArg (fun t : Tbl Work => t.get? (workKey rid p)) works).trans work) active notSol
      rw [← effect] at tablesL foundL
      refine Runs.of_core e arm fun t core => ⟨(congrArg Block.tables core).trans (tablesL.trans tables), ?_⟩
      have worksT := congrArg (fun d : Block => d.works.get? (workKey rid p)) core
      simp only [Block.core, Tbl.get?_mapVal] at worksT
      rw [show e.works.get? (workKey rid p) = some w' from foundL] at worksT
      obtain ⟨v, foundV, is⟩ := Option.map_eq_some_iff.mp worksT
      exact ⟨v, foundV, ⟨(congrArg Work.phase is).trans phase, (congrArg Work.status is).trans status⟩, (congrArg Work.late is).trans isLate, (congrArg Work.deadline is).trans isDeadline⟩
    have living : ¬s.start.fatal = true := by
      rw [show s.start.fatal = false from alive]
      decide
    refine ⟨fun set running due => ?_, fun rt set due => ?_⟩
    · refine ends _ _ s.start false (w.counters.map sat32) rfl ((if_neg living).trans ?_) rfl rfl
      show slotTimeout rid p s.start = _
      unfold slotTimeout
      rw [show s.start.rings.get? rid = some r from found, show s.start.work? rid p = some w from work]
      dsimp only
      rw [early, unrecorded, unlatched, running, if_neg (by simp), if_neg]
      · unfold Block.expire
        rw [data, ring, place]
      · simp only [Bool.or_eq_true, decide_eq_true_eq, Bool.false_eq_true, Option.isSome_none, or_false, false_or, not_or]
        exact ⟨⟨notSig, set⟩, Nat.not_lt.mpr due⟩
    · generalize since : s.start.age (ringHub rid) - w.startAge = elapsed
      refine ends _ _ ((s.start.sample 0x0C rid elapsed).event (ringHub rid) 0x04 (some w.job) (pack [(0, 10, rid), (16, 32, w.sseq), (48, 32, elapsed)])) true
        (w.counters.map sat32) rfl ((if_neg living).trans ?_) ?_ ?_
      · show slotDeadline rid p s.start = _
        unfold slotDeadline
        rw [show s.start.rings.get? rid = some r from found, show s.start.work? rid p = some w from work]
        dsimp only
        rw [early, unrecorded, unaffected, unlatched, if_neg (by simp), if_neg, if_neg notSol, since]
        simp only [Bool.or_eq_true, decide_eq_true_eq, Bool.false_eq_true, or_false, false_or, not_or, rt, Bool.not_true]
        exact ⟨⟨set, notSig⟩, Nat.not_lt.mpr due⟩
      · exact (Shelved.event (s.start.sample 0x0C rid elapsed) _ _ _ _).works
      · exact (Shelved.event (s.start.sample 0x0C rid elapsed) _ _ _ _).tables
  · intro rid p s w alive work opcode active early unrefused earlier held
    have living : ¬s.start.fatal = true := by
      rw [show s.start.fatal = false from alive]
      decide
    cases got : s.start.recsHeld rid p with
    | mk c ok =>
    have ready : ok = true := by rw [got] at held; exact held
    subst ready
    have kept : Translates s.start c := by
      have := Translates.recsHeld s.start rid p
      rwa [got] at this
    obtain ⟨w1, found1, is1⟩ := kept.work (show s.start.work? rid p = some w from work)
    refine ⟨fun here free plain fill there => ?_, fun e remote window ours => ?_⟩
    · have effect := signalFire_local (b := s.start) (c := c) work opcode active earlier got here ((kept.part (·.freeOrDone (ringHub rid) (sigSem w.x))).trans free)
        ((kept.part (·.arrivalSem (ringHub rid) (sigSem w.x))).trans plain) ((kept.part (·.fillRing (ringHub rid) (sigSem w.x))).trans fill)
      have same := (c.semAdd (ringHub rid) (sigSem w.x) (sigCount w.x)).endSlot_eq rid p OK 0 []
      obtain ⟨w', foundW, is⟩ := (c.semAdd (ringHub rid) (sigSem w.x) (sigCount w.x)).endSlot_ended rid p OK 0 [] (w := w1) found1 ((congrArg Work.late is1).trans early)
        ((congrArg Work.winStatus is1).trans unrefused)
      have sem := (c.semAdd (ringHub rid) (sigSem w.x) (sigCount w.x)).endSlot_hub rid p OK 0 [] (ringHub rid) fun x => x.sems.getD (sigSem w.x) 0
      refine Runs.of_effect (s := s) rfl _ ((if_neg living).trans effect) ?_ ⟨rfl, ⟨w', foundW, congrArg Work.phase is, congrArg Work.status is⟩, ?_, ?_⟩
      · rw [same]
        exact kept.part (·.wr)
      · refine sem.trans ?_
        have hubThere : ∃ y, c.hubs.get? (ringHub rid) = some y := by
          have hubs := kept.hubs (ringHub rid)
          obtain ⟨y, at_⟩ := Option.ne_none_iff_exists'.mp there
          rw [show s.start.hubs.get? (ringHub rid) = some y from at_] at hubs
          obtain ⟨y', at', -⟩ := Option.map_eq_some_iff.mp hubs
          exact ⟨y', at'⟩
        refine (c.sem_semAdd (ringHub rid) (sigSem w.x) (sigCount w.x) hubThere).trans ?_
        exact congrArg (· + _) (kept.hubPart (ringHub rid) fun x => x.sems.getD (sigSem w.x) 0)
      · rw [same]
        exact kept.part (·.rings)
    · obtain ⟨d, n, sent, effect⟩ := signalFire_remote (b := s.start) (c := c) work opcode active earlier got remote
        ((congrArg (fun t : Tbl (BitVec 256) => t.get? (sigWin w.x)) (kept.part (·.eng.windows))).trans window) ours
      have some_ : n ≠ 0 := by
        rw [show n = _ from (congrArg Prod.snd sent).symm]
        unfold Block.sendWin
        dsimp only
        split <;> decide
      have worksD : d.works = c.works := by rw [show d = _ from (congrArg Prod.fst sent).symm]; rfl
      have ringsD : d.rings = s.blk.rings := by rw [show d = _ from (congrArg Prod.fst sent).symm]; exact kept.part (·.rings)
      have wrD : d.wr = [] := by rw [show d = _ from (congrArg Prod.fst sent).symm]; exact kept.part (·.wr)
      have outD : d.outbox = s.blk.outbox ++ [.winSignal rid p (sigWin w.x) (s.blk.winHead (ringHub rid) (sigWin w.x) 0) (sigHub w.x) (sigSem w.x) (sigCount w.x)] := by
        rw [show d = _ from (congrArg Prod.fst sent).symm, show c.winHead (ringHub rid) (sigWin w.x) 0 = s.blk.winHead (ringHub rid) (sigWin w.x) 0 from kept.part (·.winHead (ringHub rid) (sigWin w.x) 0)]
        show c.outbox ++ _ = _
        rw [show c.outbox = s.blk.outbox from kept.part (·.outbox)]
      have waits : (d.onWork rid p fun w => { w with outstanding := w.outstanding + n }).work? rid p = some { w1 with outstanding := w1.outstanding + n } := by
        refine (Tbl.get?_modify_same d.works _ _).trans ?_
        rw [worksD, show c.works.get? (workKey rid p) = some w1 from found1]
        rfl
      have same := (d.onWork rid p fun w => { w with outstanding := w.outstanding + n }).endSlot_eq rid p OK 0 []
      obtain ⟨w', foundW, is⟩ := (d.onWork rid p fun w => { w with outstanding := w.outstanding + n }).endSlot_ended rid p OK 0 [] waits ((congrArg Work.late is1).trans early)
        ((congrArg Work.winStatus is1).trans unrefused)
      refine Runs.of_effect (s := s) rfl _ ((if_neg living).trans effect) ?_ ⟨rfl, ?_, ?_, w', foundW, ⟨congrArg Work.phase is, congrArg Work.status is⟩, ?_⟩
      · rw [same]
        exact wrD
      · rw [same]
        exact ringsD
      · rw [same]
        exact outD
      · rw [show w'.outstanding = w1.outstanding + n from congrArg Work.outstanding is]
        have before := congrArg Work.outstanding is1
        have same : w1.outstanding = w.outstanding := before
        omega

end Sys2Proof.Machine
end

section
/-! O43: the gate of an update batch. -/
namespace Sys2Proof.Machine
open Sys2Proof.Spec

/-! ### Answers of the row dies (R111, R118, R273) -/

/-- What a row die answers a batch now. -/
def Block.gateAnswer (b : Block) (o : UOp) (digest stack : Nat) : Gate :=
  let g := if b.tableHeld o.table then .wait
    else gateOf ((b.die stack).replay.getD o.table {}) o.bseq digest (b.eng.relayout.isSome || b.startHeld o.table o.bseq)
  if g == .start && (b.hub (stack / 3)).admitting then .wait else g

theorem gateOf_held (rp : Replay) (bseq digest : Nat) : gateOf rp bseq digest true ≠ .start ∧ gateOf rp bseq digest true ≠ .resume := by
  unfold gateOf
  repeat' split
  all_goals simp_all

/-- A held batch neither starts nor resumes. -/
theorem Block.gateAnswer_held (b : Block) (o : UOp) (digest stack : Nat) (held : b.tableHeld o.table = true ∨ b.eng.relayout ≠ none ∨ b.startHeld o.table o.bseq = true) :
    b.gateAnswer o digest stack ≠ .start ∧ b.gateAnswer o digest stack ≠ .resume := by
  have first : (if b.tableHeld o.table then Gate.wait else gateOf ((b.die stack).replay.getD o.table {}) o.bseq digest (b.eng.relayout.isSome || b.startHeld o.table o.bseq)) ≠ .start ∧
      (if b.tableHeld o.table then Gate.wait else gateOf ((b.die stack).replay.getD o.table {}) o.bseq digest (b.eng.relayout.isSome || b.startHeld o.table o.bseq)) ≠ .resume := by
    split
    · decide
    · rename_i free
      have stands : (b.eng.relayout.isSome || b.startHeld o.table o.bseq) = true := by
        rw [Bool.or_eq_true, Option.isSome_iff_ne_none]
        exact held.resolve_left free
      rw [stands]
      exact gateOf_held _ _ _
  unfold Block.gateAnswer
  dsimp only
  revert first
  generalize (if b.tableHeld o.table then Gate.wait else _) = g
  intro first
  split
  · decide
  · exact first

/-- With nothing that holds the batch, the answer is that of Table 4-7. -/
theorem Block.gateAnswer_open (b : Block) (o : UOp) (digest stack : Nat) (free : b.tableHeld o.table = false) (still : b.eng.relayout = none)
    (open_ : b.startHeld o.table o.bseq = false) (whole : (b.hub (stack / 3)).admitting = false) :
    b.gateAnswer o digest stack = gateOf ((b.die stack).replay.getD o.table {}) o.bseq digest false := by
  unfold Block.gateAnswer
  rw [free, still, open_, whole]
  simp

/-- An update with other gates. -/
def Update.Reasked (u u' : Update) : Prop := u' = { u with gates := u'.gates, asked := u'.asked, skip := u'.skip }

/-- An update to which a row die has answered. -/
def Update.answered (u : Update) (stack : Nat) (g : Gate) (skip : Bool) : Update :=
  { u with gates := u.gates.put stack g, asked := true, skip := if u.asked then u.skip else skip }

/-- From b to c the row dies in qs have answered the batch of slot p. -/
structure Asks (rid p : Nat) (qs : List Nat) (b c : Block) (w : Work) (u u' : Update) : Prop where
  eq : c = { b with works := c.works }
  work : c.work? rid p = some { w with data := .update u' }
  same : u.Reasked u'
  gates : ∀ q, u'.gates.get? q = if q ∈ qs then some (b.gateAnswer (uop w.x) u.digest q) else u.gates.get? q

theorem Block.askGate_asks {b : Block} {rid p : Nat} {w : Work} {u : Update} (found : b.work? rid p = some w) (data : w.data = .update u) (q : Nat) :
    ∃ u', Asks rid p [q] b (b.askGate rid p q) w u u' := by
  have asked : b.askGate rid p q = b.onWork rid p fun w' =>
      { w' with data := .update (u.answered q (b.gateAnswer (uop w.x) u.digest q) ((uop w.x).skipnf && (b.jobs.getD w.job {}).nfCount != 0)) } := by
    unfold Block.askGate
    rw [found]
    dsimp only
    rw [data]
    rfl
  rw [asked]
  refine ⟨u.answered q (b.gateAnswer (uop w.x) u.digest q) ((uop w.x).skipnf && (b.jobs.getD w.job {}).nfCount != 0), rfl, (Tbl.get?_modify_same b.works _ _).trans (by rw [show b.works.get? (workKey rid p) = some w from found]; rfl), rfl, fun r => ?_⟩
  obtain rfl | other := eq_or_ne r q
  · rw [if_pos (List.mem_singleton.mpr rfl)]
    exact Tbl.get?_put_same _ _ _
  · rw [if_neg (List.mem_singleton.not.mpr other)]
    exact Tbl.get?_put_other _ _ _ _ other

theorem Block.askGates_asks (rid p : Nat) (qs : List Nat) {b : Block} {w : Work} {u : Update} (found : b.work? rid p = some w) (data : w.data = .update u) :
    ∃ u', Asks rid p qs b (qs.foldl (fun b q => b.askGate rid p q) b) w u u' := by
  induction qs generalizing b w u with
  | nil =>
    refine ⟨u, rfl, ?_, rfl, fun q => (if_neg List.not_mem_nil).symm⟩
    rw [← data]
    exact found
  | cons q qs ih =>
    obtain ⟨u1, eq1, work1, same1, gates1⟩ := Block.askGate_asks found data q
    obtain ⟨u2, eq2, work2, same2, gates2⟩ := ih work1 rfl
    rw [List.foldl_cons]
    refine ⟨u2, ?_, work2, ?_, fun r => ?_⟩
    · rw [eq2, eq1]
    · unfold Update.Reasked
      rw [same2, same1]
    · have answer : (b.askGate rid p q).gateAnswer (uop w.x) u1.digest r = b.gateAnswer (uop w.x) u.digest r := by
        rw [eq1, same1]
        rfl
      rw [gates2 r]
      show (if r ∈ qs then some ((b.askGate rid p q).gateAnswer (uop w.x) u1.digest r) else _) = _
      rw [answer, gates1 r]
      by_cases later : r ∈ qs
      · rw [if_pos later, if_pos (List.mem_cons_of_mem _ later)]
      · rw [if_neg later]
        by_cases here : r = q
        · rw [if_pos (List.mem_singleton.mpr here), if_pos (List.mem_cons.mpr (.inl here))]
        · rw [if_neg (List.mem_singleton.not.mpr here), if_neg fun mem => (List.mem_cons.mp mem).elim here later]

/-! ### Shares that start (R111, R112, R115) -/

/-- From b to c tasks, records and shares were made: no slot changed, and shares of the table stay. -/
structure Launch (table : Nat) (b c : Block) : Prop where
  firm : Firm b c
  wr : b.Quiet → c.wr = b.wr
  works : c.works = b.works
  shares : ∀ q, (b.die q).shares.has table = true → (c.die q).shares.has table = true

namespace Launch

variable {table : Nat} {b c d : Block}

theorem refl (b : Block) : Launch table b b := ⟨Firm.refl b, fun _ => rfl, rfl, fun _ => id⟩

theorem trans (first : Launch table b c) (second : Launch table c d) : Launch table b d :=
  ⟨first.firm.trans second.firm, fun still => (second.wr (first.firm.quiet still)).trans (first.wr still), second.works.trans first.works,
    fun q there => second.shares q (first.shares q there)⟩

theorem foldl {α : Type} {f : Block → α → Block} (step : ∀ b a, Launch table b (f b a)) (as : List α) (b : Block) : Launch table b (as.foldl f b) := by
  induction as generalizing b with
  | nil => exact refl b
  | cons a as ih => exact (step b a).trans (ih (f b a))

theorem event (b : Block) (hub kind : Nat) (job : Option Nat) (payload : Nat) : Launch table b (b.event hub kind job payload) :=
  ⟨Firm.event b _ _ _ _, fun still => (Told.event b _ _ _ _ still).part (·.wr), (Shelved.event b _ _ _ _).works,
    fun q there => ((Touch.event (P := fun _ => True) b hub kind job payload).die q (·.shares.has table)).trans there⟩

theorem onSched (b : Block) (h : Nat) (f : Sched → Sched) : Launch table b (b.onSched h f) := ⟨Firm.onSched b h f, fun _ => rfl, rfl, fun _ => id⟩

theorem onDie (b : Block) (s : Nat) (f : RowDie → RowDie) (keeps : ∀ x, (f x).frame = x.frame)
    (shares : ∀ x : RowDie, x.shares.has table = true → (f x).shares.has table = true) : Launch table b (b.onDie s f) := by
  refine ⟨Firm.onDie b s f keeps, fun _ => rfl, rfl, fun q there => ?_⟩
  obtain rfl | other := eq_or_ne q s
  · obtain none_ | ⟨x, found⟩ := (b.dies.get? q).eq_none_or_eq_some
    · rw [Block.onDie, Tbl.modify_of_none _ _ _ none_]
      exact there
    · rw [b.die_onDie_same q f x found]
      rw [b.die_of_get q x found] at there
      exact shares x there
  · rw [b.die_onDie_other s q f other]
    exact there

theorem addTask (b : Block) (h rid p : Nat) (kind : TaskKind) (stack : Option Nat) (ops : Nat) (row : Option Nat) (after : List (Nat × Nat)) (single : Bool) :
    Launch table b (b.addTask h rid p kind stack ops row after single) := by
  unfold Block.addTask
  split
  · exact refl b
  · exact onSched b h _

theorem applyTasks (b : Block) (stack : Nat) (td : TD) (sh : Share) : Launch table b (b.applyTasks stack td sh) := by
  unfold Block.applyTasks
  dsimp only
  split
  · split
    · exact refl b
    · exact foldl (fun b l => (addTask b _ _ _ _ _ _ _ _ _).trans (addTask _ _ _ _ _ _ _ _ _ _)) _ b
  · exact refl b

/-- The share of a row die that starts or resumes stands at it. -/
theorem startShare (b : Block) (rid p : Nat) (w : Work) (u : Update) (o : UOp) (td : TD) (params : List Word) (resume : Bool) (stack : Nat) :
    Launch o.table b (b.startShare rid p w u o td params resume stack) ∧
      (b.dies.get? stack ≠ none → ((b.startShare rid p w u o td params resume stack).die stack).shares.has o.table = true) := by
  generalize is : b.startShare rid p w u o td params resume stack = x
  unfold Block.startShare at is
  extract_lets rp runs added cur pend rows slots masters runs' nf hub rec_ share b1 b2 termsOf b3 at is
  have put : Launch o.table b b1 := onDie b stack _ (fun _ => rfl) fun x => Tbl.has_put _ _ _ _
  have charged : Launch o.table b1 b2 := ⟨Firm.of_same rfl rfl rfl rfl, fun _ => rfl, rfl, fun _ => id⟩
  have tasks : Launch o.table b2 b3 := foldl (fun b r => addTask _ _ _ _ _ _ _ _ _ _) runs' b2
  have last : Launch o.table b3 x := by
    rw [← is]
    split
    · exact applyTasks _ _ _ _
    · exact refl _
  have rest := (charged.trans tasks).trans last
  refine ⟨put.trans rest, fun there => rest.shares stack ?_⟩
  obtain ⟨d, found⟩ := Option.ne_none_iff_exists'.mp there
  rw [show b1.die stack = _ from b.die_onDie_same stack _ d found]
  show ((d.shares.put o.table share).get? o.table).isSome = true
  rw [Tbl.get?_put_same]
  rfl

theorem startShares (rid p : Nat) (w : Work) (u : Update) (o : UOp) (td : TD) (params : List Word) (go : List (Nat × Bool)) (b : Block) :
    Launch o.table b (go.foldl (fun b x => b.startShare rid p w u o td params x.2 x.1) b) ∧
      ∀ x ∈ go, b.dies.get? x.1 ≠ none → ((go.foldl (fun b x => b.startShare rid p w u o td params x.2 x.1) b).die x.1).shares.has o.table = true := by
  induction go generalizing b with
  | nil => exact ⟨refl b, fun x mem => absurd mem List.not_mem_nil⟩
  | cons y ys ih =>
    obtain ⟨one, has⟩ := startShare b rid p w u o td params y.2 y.1
    obtain ⟨rest, all⟩ := ih (b.startShare rid p w u o td params y.2 y.1)
    refine ⟨one.trans rest, fun x mem there => ?_⟩
    obtain rfl | later := List.mem_cons.mp mem
    · exact rest.shares x.1 (has there)
    · exact all x later (one.firm.dieThere there)

theorem findLost (b : Block) (job table bseq : Nat) (apply : Bool) {t : Nat} : Launch t b (b.findLost job table bseq apply).1 := by
  have each : ∀ (ds : List (Nat × RowDie)) (x : Block × Nat), Launch t x.1 (ds.foldl (fun (x : Block × Nat) (y : Nat × RowDie) =>
      let mine := y.2.lostAccs.filter fun k => k.1 / 2 ^ 40 == table && (apply || k.2 == 1)
      let b := mine.foldl (fun b k => b.event (b.homeHub y.1) 0x02 (some job) (pack [(0, 20, table), (20, 40, k.1 % 2 ^ 40), (60, 2, k.2), (64, 64, bseq)])) x.1
      (b.onDie y.1 fun d => { d with lostAccs := d.lostAccs.keep fun k _ => !(mine.any fun z => z.1 == k) }, x.2 + mine.length)) x).1 := by
    intro ds
    induction ds with
    | nil => exact fun x => refl x.1
    | cons y ys ih =>
      intro x
      refine Launch.trans ?_ (ih _)
      exact (foldl (fun b k => event b _ _ _ _) _ x.1).trans (onDie _ _ _ (fun _ => rfl) fun _ => id)
  exact each b.dies (b, 0)

end Launch

/-- The shares of a batch start, and its slot waits for them. -/
def Block.beginShares (b : Block) (rid p : Nat) (w : Work) (u : Update) (o : UOp) (td : TD) (go : List (Nat × Bool)) (params : List Word) : Block :=
  let b := go.foldl (fun b (s, resume) => b.startShare rid p w u o td params resume s) b
  let (b, n) := if o.apply || go.any (·.2) then b.findLost w.job o.table o.bseq o.apply else (b, 0)
  b.onWork rid p fun w => { w with data := .update { u with
    started := true, open_ := go.map (·.1), runs := [], accLost := n != 0
    counters := [0, 0, 0, 0, u.padded, u.notHere, 0, 0, 0, 0, 0, 0, n] } }

theorem Block.beginShares_starts (b : Block) (rid p : Nat) (w : Work) (u : Update) (o : UOp) (td : TD) (go : List (Nat × Bool)) (params : List Word) :
    ∃ d u', b.beginShares rid p w u o td go params = d.onWork rid p (fun w => { w with data := .update u' }) ∧ Launch o.table b d ∧
      (∀ x ∈ go, b.dies.get? x.1 ≠ none → (d.die x.1).shares.has o.table = true) ∧ u'.started = true ∧ u'.open_ = go.map (·.1) := by
  obtain ⟨launch, has⟩ := Launch.startShares rid p w u o td params go b
  unfold Block.beginShares
  dsimp only
  generalize go.foldl _ b = c at launch has ⊢
  have lost : Launch o.table c (if o.apply || go.any (·.2) then c.findLost w.job o.table o.bseq o.apply else (c, 0)).1 := by
    split
    · exact Launch.findLost c _ _ _ _
    · exact Launch.refl c
  exact ⟨_, _, rfl, launch.trans lost, fun x mem there => lost.shares x.1 (has x mem there), rfl, rfl⟩

/-- A batch whose pages are held, whose rows are whole and for whose sums there is room begins. -/
theorem startBatch_begins {st : Store} {b c : Block} {rid p : Nat} (w : Work) {u : Update} {o : UOp} {td : TD} {go : List (Nat × Bool)}
    (ensured : b.ensure rid p (rowsNeeds td o (b.batchRows o (u.runs.vals.flatMap fun rs => rs.map (·.lrow)))) = (c, true))
    (whole : ∀ l ∈ b.batchRows o (u.runs.vals.flatMap fun rs => rs.map (·.lrow)), (c.rowVia rid p td l).2 = OK) (room : c.accFull u o td.width (go.map (·.1)) = false)
    (params : o.params = 0 ∨ ∃ bs, readVa st c rid p o.params 64 = (c, .got bs)) :
    ∃ ps, startBatch st b rid p w u o td go = c.beginShares rid p w u o td go ps := by
  have fits : ((b.batchRows o (u.runs.vals.flatMap fun rs => rs.map (·.lrow))).map fun l => (c.rowVia rid p td l).2).find? (· ≠ OK) = none :=
    List.find?_eq_none.mpr fun s mem => by
      obtain ⟨l, there, rfl⟩ := List.mem_map.mp mem
      simpa using whole l there
  unfold startBatch
  dsimp only
  rw [ensured]
  dsimp only
  rw [fits]
  dsimp only
  rw [room, if_neg Bool.false_ne_true]
  by_cases none_ : o.params = 0
  · rw [if_pos none_]
    exact ⟨_, rfl⟩
  · obtain ⟨bs, read⟩ := params.resolve_left none_
    rw [if_neg none_]
    unfold withBytes
    rw [read]
    exact ⟨_, rfl⟩

theorem Translates.dieThere {b c : Block} (kept : Translates b c) {q : Nat} (there : b.dies.get? q ≠ none) : c.dies.get? q ≠ none := by
  have same := congrArg (fun d : Block => (d.dies.get? q).isSome) kept.same
  simp only [Block.untranslated, Tbl.get?_mapVal, Option.isSome_map] at same
  rw [← Option.isSome_iff_ne_none] at there ⊢
  rwa [same]

theorem Translates.ensure (b : Block) (rid p : Nat) (needs : List Need) : Translates b (b.ensure rid p needs).1 := by
  unfold Block.ensure
  split
  · rename_i r w _ _
    refine Translates.trans ?_ (Translates.foldlOk (fun x n => ?_) needs (if w.tile = 0 then b.recsHeld rid w.lead else (b, true)))
    · split
      · exact Translates.recsHeld b rid w.lead
      · exact Translates.refl b
    · have looked := Translates.cached x.1 (ringHub rid) r.job n
      dsimp only
      split
      · exact Translates.refl _
      · split
        · rename_i hit
          rw [hit] at looked
          exact looked.trans (Translates.holdPage _ _ _ _)
        · rename_i missed
          rw [missed] at looked
          exact looked.trans (Translates.startWalk _ _ _ _ _ _)
  · exact Translates.refl b

/-! ### The decision (R113) -/

/-- The row dies that would go, asked anew. -/
def Block.askAnew (b : Block) (rid p : Nat) : Block := (((b.answers rid p).filter (·.2.goes)).map (·.1)).foldl (fun b q => b.askGate rid p q) b

/-- With every row die's answer known, the batch is decided on the answers as they stand once those that would go have been asked anew. -/
theorem gateDecision_asked {st : Store} {b : Block} {rid p : Nat} {w : Work} {u : Update} (found : b.work? rid p = some w) (data : w.data = .update u)
    (active : w.phase = .active) (distributed : u.distributed = true) (unstarted : u.started = false) :
    ∃ u', Asks rid p (((b.answers rid p).filter (·.2.goes)).map (·.1)) b (b.askAnew rid p) w u u' ∧ ∀ c gs, c = b.askAnew rid p → gs = c.answers rid p → gs.length = c.upDies.length →
      gateDecision rid p st b = if gs.any (·.2 == .mismatch) then c.endSlot rid p REPLAY_MISMATCH 0 []
        else if gs.any (·.2 == .wait) || u'.runs.any (fun (s, rs) => !rs.isEmpty && !c.dieUp s) then c
        else if ((gs.filter (·.2.goes)).map fun (s, g) => (s, g == Gate.resume)).isEmpty then c.endSlot rid p REPLAYED 0 []
        else startBatch st c rid p { w with data := .update u' } u' (uop w.x) (tdOf (c.tables.getD (uop w.x).table {}).desc) ((gs.filter (·.2.goes)).map fun (s, g) => (s, g == Gate.resume)) := by
  obtain ⟨u', asks⟩ : ∃ u', Asks rid p _ b (b.askAnew rid p) w u u' := b.askGates_asks rid p (((b.answers rid p).filter (·.2.goes)).map (·.1)) found data
  refine ⟨u', asks, fun c gs asked answered all => ?_⟩
  have folded : ((b.answers rid p).filter (·.2.goes)).foldl (fun b (x : Nat × Gate) => b.askGate rid p x.1) b = c :=
    (List.foldl_map ..).symm.trans asked.symm
  generalize is : gateDecision rid p st b = x
  unfold gateDecision at is
  extract_lets waits b' gs' go at is
  have waiting : waits = true := by
    simp [waits, found, active, data, distributed, unstarted]
  have first : b' = c := (if_pos waiting).trans folded
  have told : gs' = gs := (congrArg (·.answers rid p) first).trans answered.symm
  have goes : go = (gs.filter (·.2.goes)).map fun (s, g) => (s, g == Gate.resume) :=
    congrArg (fun gs : List (Nat × Gate) => (gs.filter (·.2.goes)).map fun (s, g) => (s, g == Gate.resume)) told
  rw [first, told, goes] at is
  have work := asks.work
  rw [show _ = c from asked.symm] at work
  have same := asks.same
  have stays : (w.phase != .active || !u'.distributed || u'.started || gs.length != c.upDies.length) = false := by
    rw [active, show u'.distributed = u.distributed by rw [same], show u'.started = u.started by rw [same], distributed, unstarted, all]
    simp
  rw [work] at is
  dsimp only at is
  rw [if_neg (by rw [stays]; decide)] at is
  exact is.symm

/-- The row dies in service and what they have answered. -/
theorem Block.answers_of {b : Block} {rid p : Nat} {w : Work} {u : Update} (found : b.work? rid p = some w) (data : w.data = .update u) :
    b.answers rid p = b.upDies.filterMap fun q => (u.gates.get? q).map fun g => (q, g) := by
  unfold Block.answers
  rw [found, Option.map_some, data]

/-- An answer listed is one that the batch holds, of a row die in service. -/
theorem mem_answers {l : List Nat} {t : Tbl Gate} {x : Nat × Gate} : x ∈ (l.filterMap fun q => (t.get? q).map fun g => (q, g)) ↔ x.1 ∈ l ∧ t.get? x.1 = some x.2 := by
  rw [List.mem_filterMap]
  constructor
  · rintro ⟨q, mem, is⟩
    obtain ⟨g, found, rfl⟩ := Option.map_eq_some_iff.mp is
    exact ⟨mem, found⟩
  · rintro ⟨mem, found⟩
    exact ⟨x.1, mem, by rw [found]; rfl⟩

/-- All have answered when there are as many answers as row dies in service. -/
theorem answers_all {l : List Nat} {t : Tbl Gate} : (l.filterMap fun q => (t.get? q).map fun g => (q, g)).length = l.length ↔ ∀ q ∈ l, (t.get? q).isSome := by
  rw [List.filterMap_length_eq_length]
  simp only [Option.isSome_map]

/-- The row dies that go, with whether they resume. -/
theorem goers_eq (gs : List (Nat × Gate)) :
    (gs.filterMap fun (q, g) => if g == Gate.start then some (q, false) else if g == Gate.resume then some (q, true) else none) =
      (gs.filter (·.2.goes)).map fun (s, g) => (s, g == Gate.resume) := by
  induction gs with
  | nil => rfl
  | cons x xs ih =>
    obtain ⟨q, g⟩ := x
    cases g with
    | start => exact congrArg ((q, false) :: ·) ih
    | resume => exact congrArg ((q, true) :: ·) ih
    | wait => exact ih
    | stale => exact ih
    | replay => exact ih
    | mismatch => exact ih

namespace Asks

variable {rid p : Nat} {b c : Block} {w : Work} {u u' : Update}

theorem upDies {qs : List Nat} (asks : Asks rid p qs b c w u u') : c.upDies = b.upDies := by
  rw [asks.eq]
  rfl

/-- Each row die has an answer afterwards too. -/
theorem all {qs : List Nat} (asks : Asks rid p qs b c w u u') (known : ∀ q ∈ b.upDies, (u.gates.get? q).isSome) :
    (c.answers rid p).length = c.upDies.length := by
  rw [Block.answers_of asks.work rfl, answers_all, asks.upDies]
  intro q mem
  rw [asks.gates q]
  split
  · rfl
  · exact known q mem

/-- An answer with which the batch does not go is not asked for anew. -/
theorem answer_kept {gs : List (Nat × Gate)} (asks : Asks rid p ((gs.filter (·.2.goes)).map (·.1)) b c w u u')
    (answered : gs = b.upDies.filterMap fun q => (u.gates.get? q).map fun g => (q, g)) {x : Nat × Gate} (mem : x ∈ gs) (stays : x.2.goes = false) :
    x ∈ c.answers rid p := by
  rw [answered, mem_answers] at mem
  obtain ⟨up, found⟩ := mem
  rw [Block.answers_of asks.work rfl, mem_answers, asks.upDies, asks.gates, if_neg]
  · exact ⟨up, found⟩
  · rw [List.mem_map]
    rintro ⟨y, there, same⟩
    obtain ⟨listed, goes⟩ := List.mem_filter.mp there
    rw [answered, mem_answers, same, found] at listed
    rw [Option.some.inj listed.2, goes] at stays
    cases stays

/-- Answers that stand now as they were leave the list of answers. -/
theorem answers_kept {gs : List (Nat × Gate)} (asks : Asks rid p ((gs.filter (·.2.goes)).map (·.1)) b c w u u')
    (answered : gs = b.upDies.filterMap fun q => (u.gates.get? q).map fun g => (q, g)) (stand : ∀ x ∈ gs, x.2.goes = true → b.gateAnswer (uop w.x) u.digest x.1 = x.2) :
    c.answers rid p = gs := by
  rw [Block.answers_of asks.work rfl, answered, asks.upDies]
  refine List.filterMap_congr fun q up => ?_
  rw [asks.gates q]
  split
  · rename_i asked
    obtain ⟨x, there, rfl⟩ := List.mem_map.mp asked
    obtain ⟨listed, goes⟩ := List.mem_filter.mp there
    rw [stand x listed goes]
    rw [answered, mem_answers] at listed
    rw [listed.2]
  · rfl

end Asks

/-- No run of a row die out of service stands open. -/
theorem runs_reach {b : Block} {runs : Tbl (List Run)} (reach : ∀ x ∈ runs, x.2 = [] ∨ b.dieUp x.1 = true) :
    (runs.any fun (s, rs) => !rs.isEmpty && !b.dieUp s) = false := by
  rw [List.any_eq_false]
  intro x mem
  obtain none_ | up := reach x mem
  · simp [none_]
  · simp [up]

/-- Settles O43: the row dies that would go are asked anew, and the batch is decided on the answers as they stand then. -/
theorem batchGatesAnswerAndDecide : Obligations.BatchGatesAnswerAndDecide := by
  unfold Obligations.BatchGatesAnswerAndDecide
  intro rid p s w u alive found data active distributed unstarted o td open_ table47
  have living : ¬s.start.fatal = true := by
    rw [show s.start.fatal = false from alive]
    decide
  refine ⟨fun q up still => ?_, fun early unrefused gs answered count => ?_⟩
  · obtain ⟨u', asks⟩ := Block.askGate_asks (b := s.start) found data q
    have effect : gateRequest rid p q s.start = s.start.askGate rid p q := by
      unfold gateRequest
      rw [show s.start.work? rid p = some w from found]
      dsimp only
      rw [data]
      dsimp only
      rw [if_neg]
      rw [active, distributed, unstarted, show s.start.dieUp q = true from up, show (s.start.tables.getD (uop w.x).table {}).reshard = false from still]
      decide
    refine Runs.of_effect (s := s) rfl _ ((if_neg living).trans effect) ?_ ⟨rfl, ?_, ?_, _, u', s.start.gateAnswer o u.digest q, asks.work, rfl, active, ?_, ?_, ?_⟩
    · rw [asks.eq]
      rfl
    · show (s.start.askGate rid p q).dies = _
      rw [asks.eq]
      rfl
    · show (s.start.askGate rid p q).rings = _
      rw [asks.eq]
      rfl
    · exact (asks.gates q).trans (if_pos (List.mem_singleton.mpr rfl))
    · rintro ⟨free, calm, unheld, whole⟩
      exact Block.gateAnswer_open _ _ _ _ free calm unheld whole
    · exact Block.gateAnswer_held s.start o u.digest q
  · have known := answers_all.mp ((congrArg List.length answered).symm.trans count)
    obtain ⟨u', asks, decided⟩ := gateDecision_asked (st := s.store) (b := s.start) found data active distributed unstarted
    rw [Block.answers_of (b := s.start) found data, show s.start.upDies = s.blk.upDies from rfl, ← answered] at asks
    replace decided := decided _ _ rfl rfl (asks.all known)
    generalize is : s.start.askAnew rid p = c at asks decided
    have reach : (∀ x ∈ u.runs, x.2 = [] ∨ s.blk.dieUp x.1 = true) → (u'.runs.any fun (s, rs) => !rs.isEmpty && !c.dieUp s) = false := by
      intro reach
      rw [show u'.runs = u.runs by rw [asks.same], asks.eq]
      exact runs_reach reach
    have ends : ∀ status, gateDecision rid p s.store s.start = c.endSlot rid p status 0 [] →
        Runs (.gateDecision rid p) s fun t => t.store = s.store ∧ ∃ w', t.blk.work? rid p = some w' ∧ Ended w' status := by
      intro status effect
      obtain ⟨w', foundW, is⟩ := c.endSlot_ended rid p status 0 [] asks.work early unrefused
      refine Runs.of_effect (s := s) rfl _ ((if_neg living).trans effect) ?_ ⟨rfl, w', foundW, congrArg Work.phase is, congrArg Work.status is⟩
      rw [Block.endSlot_eq, asks.eq]
      rfl
    refine ⟨?_, fun done reached => ?_, ?_⟩
    · rintro ⟨q, mem⟩
      refine ends _ (decided.trans (if_pos ?_))
      rw [List.any_eq_true]
      exact ⟨_, asks.answer_kept answered mem rfl, rfl⟩
    · have kept := asks.answers_kept answered fun x mem goes => by
        obtain stale | replay := done x mem
        · rw [stale] at goes
          cases goes
        · rw [replay] at goes
          cases goes
      have none_ : ∀ g : Gate, g ≠ .stale → g ≠ .replay → ¬ (gs.any (·.2 == g)) = true := by
        intro g notStale notReplay has
        obtain ⟨x, mem, same⟩ := List.any_eq_true.mp has
        obtain stale | replay := done x mem
        · exact notStale ((eq_of_beq same).symm.trans stale)
        · exact notReplay ((eq_of_beq same).symm.trans replay)
      have idle : gs.filter (·.2.goes) = [] := by
        rw [List.filter_eq_nil_iff]
        intro x mem
        obtain stale | replay := done x mem
        · rw [stale]
          decide
        · rw [replay]
          decide
      rw [kept, if_neg (none_ .mismatch (by decide) (by decide)), reach reached, Bool.or_false, if_neg (none_ .wait (by decide) (by decide)), idle] at decided
      exact ends _ decided
    · intro b go rows some_ settled reached still stand ensured whole room params
      have kept := asks.answers_kept answered fun x mem goes => by
        obtain ⟨⟨free, calm, unheld, hub⟩, same⟩ := stand x mem goes
        exact (Block.gateAnswer_open _ _ _ _ free calm unheld hub).trans same
      have none_ : ∀ g : Gate, g = .wait ∨ g = .mismatch → ¬ (gs.any (·.2 == g)) = true := by
        intro g bad has
        obtain ⟨x, mem, same⟩ := List.any_eq_true.mp has
        obtain ⟨notWait, notMismatch⟩ := settled x mem
        rw [eq_of_beq same] at notWait notMismatch
        exact bad.elim notWait notMismatch
      have goers : go = (gs.filter (·.2.goes)).map fun (s, g) => (s, g == Gate.resume) := goers_eq gs
      rw [kept, if_neg (none_ .mismatch (.inr rfl)), reach reached, Bool.or_false, if_neg (none_ .wait (.inl rfl)), ← goers,
        if_neg (by rwa [List.isEmpty_iff])] at decided
      have asked : go.foldl (fun b x => b.askGate rid p x.1) s.start = c := by
        have whom : go.map (·.1) = (gs.filter (·.2.goes)).map (·.1) := by
          rw [goers, List.map_map]
          rfl
        rw [← is, Block.askAnew, Block.answers_of (b := s.start) found data, show s.start.upDies = s.blk.upDies from rfl, ← answered, ← whom]
        exact List.foldl_map.symm
      rw [asked] at ensured
      have runs : u'.runs = u.runs := by rw [asks.same]
      have listed : c.batchRows o (u'.runs.vals.flatMap fun rs => rs.map (·.lrow)) = rows := by
        rw [runs, asks.eq]
        rfl
      have fits : b.accFull u' o td.width (go.map (·.1)) = b.accFull u o td.width (go.map (·.1)) := by
        rw [asks.same]
        rfl
      have tables : c.tables = s.blk.tables := by
        rw [asks.eq]
        rfl
      obtain ⟨ps, begun⟩ := startBatch_begins (st := s.store) (b := c) (c := b) { w with data := .update u' } (o := o) (td := td) (u := u') (go := go)
        (by rw [listed]; exact ensured) (by rw [listed]; exact whole) (fits.trans room) params
      have translated : Translates c b := by
        have done := Translates.ensure c rid p (rowsNeeds td o rows)
        rwa [ensured] at done
      obtain ⟨d, u2, eq, launch, has, started, opened⟩ := b.beginShares_starts rid p { w with data := .update u' } u' o td go ps
      have quiet : b.Quiet := fun g => (translated.hubPart g (·.regs.msiAddr)).trans (by rw [asks.eq]; exact still g)
      have effect : gateDecision rid p s.store s.start = d.onWork rid p fun w => { w with data := .update u2 } := by
        rw [decided, tables]
        exact begun.trans eq
      obtain ⟨wb, foundB, isB⟩ := translated.work asks.work
      have foundD : d.work? rid p = some wb := by
        rw [Block.work?, launch.works]
        exact foundB
      refine Runs.of_effect (s := s) rfl _ ((if_neg living).trans effect) ?_ ⟨rfl, fun x mem there => has x mem ?_, { wb with data := .update u2 }, u2, ?_, ?_, rfl, started, opened⟩
      · show d.wr = []
        rw [launch.wr quiet, translated.part (·.wr), asks.eq]
        rfl
      · refine translated.dieThere ?_
        rw [asks.eq]
        exact there
      · exact (Tbl.get?_modify_same d.works _ _).trans (by rw [show d.works.get? (workKey rid p) = some wb from foundD]; rfl)
      · exact (congrArg Work.phase isB).trans active

end Sys2Proof.Machine
end

section
/-!
SUPPORT. The loss of a hub's functions (R33, R124, R236, R298, R410).
-/
namespace Sys2Proof.Machine
open Sys2Proof.Spec

/-- Of a hub: whether its functions and its ring stop are in service, and where its interrupts go. -/
def Hub.footing (x : Hub) : Hub := { inService := x.inService, ringStop := x.ringStop, regs := { msiAddr := x.regs.msiAddr } }

/-- Of a row die: whether it is in service. -/
def RowDie.footing (d : RowDie) : RowDie := { st := d.st, failed := d.failed }

/-- From b to c the same hubs and row dies are in service under the same leader, no ring was made, and with no interrupt address no interrupt write. -/
structure Footed (b c : Block) : Prop where
  leader : c.eng.leader = b.eng.leader
  passing : c.eng.passing = b.eng.passing
  hubs : c.hubs.mapVal (fun _ => Hub.footing) = b.hubs.mapVal fun _ => Hub.footing
  dies : c.dies.mapVal (fun _ => RowDie.footing) = b.dies.mapVal fun _ => RowDie.footing
  rings : b.rings.wf = true → c.rings.wf = true ∧ ∀ r, b.rings.get? r = none → c.rings.get? r = none
  silent : b.Quiet → Silent b → Silent c

namespace Footed

variable {b c d : Block}

theorem refl (b : Block) : Footed b b := ⟨rfl, rfl, rfl, rfl, fun wf => ⟨wf, fun _ => id⟩, fun _ => id⟩

theorem hub (footed : Footed b c) (g : Nat) {α : Type} (p : Hub → α) (keeps : ∀ x : Hub, p x.footing = p x := by exact fun _ => rfl) : p (c.hub g) = p (b.hub g) := by
  have same := congrArg (fun t => Tbl.getD t g {}) footed.hubs
  rw [Tbl.getD_mapVal_apply c.hubs _ g {} rfl, Tbl.getD_mapVal_apply b.hubs _ g {} rfl] at same
  rw [← keeps (c.hub g), ← keeps (b.hub g), Block.hub, Block.hub, same]

theorem die (footed : Footed b c) (q : Nat) {α : Type} (p : RowDie → α) (keeps : ∀ x : RowDie, p x.footing = p x := by exact fun _ => rfl) :
    p (c.die q) = p (b.die q) := by
  have same := congrArg (fun t => Tbl.getD t q {}) footed.dies
  rw [Tbl.getD_mapVal_apply c.dies _ q {} rfl, Tbl.getD_mapVal_apply b.dies _ q {} rfl] at same
  rw [← keeps (c.die q), ← keeps (b.die q), Block.die, Block.die, same]

theorem dieThere (footed : Footed b c) {q : Nat} (there : b.dies.get? q ≠ none) : c.dies.get? q ≠ none := by
  have same := congrArg (fun t => (Tbl.get? t q).isSome) footed.dies
  simp only [Tbl.get?_mapVal, Option.isSome_map] at same
  rw [← Option.isSome_iff_ne_none] at there ⊢
  exact same.trans there

theorem hubUp (footed : Footed b c) (g : Nat) : c.hubUp g = b.hubUp g := footed.hub g (·.inService)

theorem upHubs (footed : Footed b c) : c.upHubs = b.upHubs := by
  rw [Block.upHubs, funext footed.hubUp, Block.upHubs]

theorem addr (footed : Footed b c) : AddrKept b c := by
  intro g
  have same := congrArg (fun t => (Tbl.get? t g).map fun x : Hub => x.regs.msiAddr) footed.hubs
  simp only [Tbl.get?_mapVal, Option.map_map] at same
  exact same

theorem quiet (footed : Footed b c) (still : b.Quiet) : c.Quiet := footed.addr.quiet still

theorem trans (first : Footed b c) (second : Footed c d) : Footed b d :=
  ⟨second.leader.trans first.leader, second.passing.trans first.passing, second.hubs.trans first.hubs, second.dies.trans first.dies,
    fun wf => by
      obtain ⟨wfC, noneC⟩ := first.rings wf
      obtain ⟨wfD, noneD⟩ := second.rings wfC
      exact ⟨wfD, fun r none_ => noneD r (noneC r none_)⟩, fun still silent => second.silent (first.quiet still) (first.silent still silent)⟩

theorem foldl {α : Type} {f : Block → α → Block} (step : ∀ b a, Footed b (f b a)) (as : List α) (b : Block) : Footed b (as.foldl f b) := by
  induction as generalizing b with
  | nil => exact refl b
  | cons a as ih => exact (step b a).trans (ih (f b a))

theorem of_firm (firm : Firm b c) (rings : b.rings.wf = true → c.rings.wf = true ∧ ∀ r, b.rings.get? r = none → c.rings.get? r = none) : Footed b c := by
  refine ⟨firm.engPart (·.leader), firm.engPart (·.passing), ?_, ?_, rings, firm.silent⟩
  · have same := congrArg (fun t => Tbl.mapVal t fun _ => Hub.footing) firm.hubs
    simp only [Tbl.mapVal_mapVal] at same
    exact same
  · have same := congrArg (fun t => Tbl.mapVal t fun _ => RowDie.footing) firm.dies
    simp only [Tbl.mapVal_mapVal] at same
    exact same

/-- Firmware work that leaves the rings. -/
theorem of_same (firm : Firm b c) (rings : c.rings = b.rings) : Footed b c := of_firm firm fun wf => by
  rw [rings]
  exact ⟨wf, fun _ => id⟩

theorem event (b : Block) (hub kind : Nat) (job : Option Nat) (payload : Nat) : Footed b (b.event hub kind job payload) :=
  of_same (Firm.event b _ _ _ _) (Shelved.event b _ _ _ _).rings

theorem onHub (b : Block) (h : Nat) (f : Hub → Hub) (keeps : ∀ x, (f x).footing = x.footing) : Footed b (b.onHub h f) :=
  ⟨rfl, rfl, Tbl.mapVal_modify b.hubs h f _ keeps, rfl, fun wf => ⟨wf, fun _ => id⟩, fun _ => id⟩

theorem onEng (b : Block) (f : Eng → Eng) (leader : (f b.eng).leader = b.eng.leader) (passing : (f b.eng).passing = b.eng.passing) : Footed b (b.onEng f) :=
  ⟨leader, passing, rfl, rfl, fun wf => ⟨wf, fun _ => id⟩, fun _ => id⟩

theorem mapDies (b : Block) (f : Nat → RowDie → RowDie) (keeps : ∀ q x, (f q x).footing = x.footing) : Footed b { b with dies := b.dies.mapVal f } := by
  refine ⟨rfl, rfl, rfl, ?_, fun wf => ⟨wf, fun _ => id⟩, fun _ => id⟩
  simp only [Tbl.mapVal, List.map_map]
  exact List.map_congr_left fun e _ => congrArg (Prod.mk e.1) (keeps e.1 e.2)

theorem mapHubs (b : Block) (f : Nat → Hub → Hub) (keeps : ∀ q x, (f q x).footing = x.footing) : Footed b { b with hubs := b.hubs.mapVal f } := by
  refine ⟨rfl, rfl, ?_, rfl, fun wf => ⟨wf, fun _ => id⟩, fun _ => id⟩
  simp only [Tbl.mapVal, List.map_map]
  exact List.map_congr_left fun e _ => congrArg (Prod.mk e.1) (keeps e.1 e.2)

theorem closeSlot (b : Block) (rid p status pos : Nat) (counters : List Nat) : Footed b (b.closeSlot rid p status pos counters) := by
  refine of_same (Firm.closeSlot b _ _ _ _ _) ?_
  unfold Block.closeSlot
  dsimp only
  rw [Block.freePages_eq]
  rfl

theorem dropTasks (b : Block) (rid p : Nat) : Footed b (b.dropTasks rid p) := of_same (Firm.dropTasks b _ _) rfl

theorem endSlot (b : Block) (rid p status pos : Nat) (counters : List Nat) : Footed b (b.endSlot rid p status pos counters) :=
  (closeSlot b _ _ _ _ _).trans (dropTasks _ _ _)

theorem endHubLost (b : Block) (w : Work) : Footed b (b.endHubLost w) := by
  unfold Block.endHubLost
  split
  · split
    · exact closeSlot b _ _ _ _ _
    · exact endSlot b _ _ _ _ _
  · exact endSlot b _ _ _ _ _

theorem stopShares (b : Block) (h : Nat) : Footed b (b.stopShares h) := mapDies b _ fun _ _ => rfl

theorem dropFence (b : Block) (t : Nat) : Footed b (b.dropFence t) := by
  unfold Block.dropFence
  split
  · exact refl b
  · exact onEng b _ rfl rfl

theorem loseExchanges (b : Block) (h : Nat) : Footed b (b.loseExchanges h) := by
  unfold Block.loseExchanges
  exact foldl (fun b (f : Fence) => dropFence b f.table) _ b

theorem of_touch (touch : Touch Wr.plain b c) : Footed b c := by
  refine of_firm (Firm.of_touch touch) fun wf => ⟨?_, SharesEnd.of_touch touch⟩
  have same := congrArg (fun d : Block => d.rings.wf) touch.core
  simp only [Block.core, Tbl.wf, Tbl.wfFrom_mapVal] at same
  exact same.trans wf

theorem raiseAll (b : Block) (cause : Nat) : Footed b (b.raiseAll cause) := of_touch (Touch.foldl _ (fun b h _ => Touch.raise b h cause) b)

theorem orphanMsgs (b : Block) (h : Nat) : Footed b (b.orphanMsgs h) := onEng b _ rfl rfl

/-- Intervals that begin again. -/
theorem rebase (before b : Block) : Footed b (Block.rebase before b) := by
  unfold Block.rebase
  extract_lets c now d
  have dies : Footed b c := mapDies b _ fun q x => by
    split
    · rfl
    · rfl
  have ages : Footed c d := by
    unfold d
    split
    · exact refl c
    · exact onEng c _ rfl rfl
  refine (dies.trans ages).trans ?_
  split
  · split
    · exact refl d
    · exact onEng d _ rfl rfl
  · exact refl d

theorem adopt (b : Block) (taker : Nat) (from_ : List (Nat × Nat)) : Footed b (b.adopt taker from_) := onHub b taker _ fun _ => rfl

theorem hubLostEvent (b : Block) (h budget : Nat) (ringStop planned : Bool) : Footed b (b.hubLostEvent h budget ringStop planned) := event b _ _ _ _

theorem dropEntry (b : Block) (h table : Nat) : Footed b (b.dropEntry h table) := 
  of_same (Firm.dropEntry b h table) (Shelved.event (b.onTable table fun t => { t with marked := true }) _ _ _ _).rings

theorem publish (b : Block) : Footed b b.publish := by
  unfold Block.publish
  dsimp only
  refine (onEng b _ rfl rfl).trans (foldl (fun b h => ?_) _ _)
  exact onHub b h _ fun _ => rfl

theorem askGate (b : Block) (rid p q : Nat) : Footed b (b.askGate rid p q) := by
  unfold Block.askGate
  split
  · exact refl b
  · split
    · exact of_same (Firm.onWork b _ _ _) rfl
    · exact refl b

theorem reask (b : Block) (table : Nat) : Footed b (b.reask table) := by
  unfold Block.reask
  refine foldl (fun b w => ?_) _ b
  split
  · split
    · exact foldl (fun b q => askGate b _ _ q) _ b
    · exact refl b
  · exact refl b

theorem loseRing (b : Block) (rid : Nat) (r : Ring) : Footed b (b.loseRing rid r) := by
  unfold Block.loseRing
  extract_lets c d
  have works : Footed b c := foldl (fun b (w : Work) => (dropTasks b rid w.p).trans (of_same (c := (b.dropTasks rid w.p).delWork rid w.p) (Firm.of_same rfl rfl rfl rfl) rfl)) _ b
  have gone : Footed c d := of_firm (Firm.of_same rfl rfl rfl rfl) fun wf => ⟨Tbl.wf_del _ _ wf, fun k none_ => by
    obtain rfl | other := eq_or_ne k rid
    · exact Tbl.get?_del_same _ 0 k wf
    · exact (Tbl.get?_del_other _ 0 rid k wf other).trans none_⟩
  exact (works.trans gone).trans (event d _ _ _ _)

theorem loseRing_gone (b : Block) (rid : Nat) (r : Ring) (wf : b.rings.wf = true) : (b.loseRing rid r).rings.get? rid = none := by
  unfold Block.loseRing
  extract_lets c d
  have works : Footed b c := foldl (fun b (w : Work) => (dropTasks b rid w.p).trans (of_same (c := (b.dropTasks rid w.p).delWork rid w.p) (Firm.of_same rfl rfl rfl rfl) rfl)) _ b
  rw [(Shelved.event d _ _ _ _).rings]
  exact Tbl.get?_del_same _ 0 rid (works.rings wf).1

theorem loseRings (b : Block) (rs : List (Nat × Ring)) : Footed b (rs.foldl (fun b (x : Nat × Ring) => b.loseRing x.1 x.2) b) :=
  foldl (fun b (x : Nat × Ring) => loseRing b x.1 x.2) rs b

/-- The rings lost do not stand again. -/
theorem loseRings_gone (b : Block) (rs : List (Nat × Ring)) (wf : b.rings.wf = true) :
    ∀ x ∈ rs, (rs.foldl (fun b (x : Nat × Ring) => b.loseRing x.1 x.2) b).rings.get? x.1 = none := by
  induction rs generalizing b with
  | nil => exact fun x mem => absurd mem List.not_mem_nil
  | cons y ys ih =>
    have one := loseRing b y.1 y.2
    obtain ⟨wf', -⟩ := one.rings wf
    have rest := loseRings (b.loseRing y.1 y.2) ys
    intro x mem
    obtain rfl | later := List.mem_cons.mp mem
    · exact (rest.rings wf').2 x.1 (loseRing_gone b x.1 x.2 wf)
    · exact ih (b.loseRing y.1 y.2) wf' x later

end Footed

/-- From b to c the functions of hub h were lost, and its ring stop where `stop` is set; row dies, other hubs and who leads otherwise stand. -/
structure Bereft (h : Nat) (stop : Bool) (b c : Block) : Prop where
  gone : c.hubUp h = false
  ringStop : (c.hub h).ringStop = ((b.hub h).ringStop && !stop)
  others : ∀ g, g ≠ h → (c.hub g).footing = (b.hub g).footing
  stays : b.eng.leader ≠ h → c.eng.leader = b.eng.leader
  passes : ∀ n, n < 4 → b.eng.leader = h → n ≠ h → b.hubUp n = true → (∀ g, g < n → g ≠ h → b.hubUp g = false) → c.eng.leader = n ∧ c.eng.passing = true
  there : ∀ q, b.dies.get? q ≠ none → c.dies.get? q ≠ none
  addr : AddrKept b c
  silent : b.Quiet → Silent b → Silent c

theorem Bereft.after {h : Nat} {stop : Bool} {b c d : Block} (first : Footed b c) (lost : Bereft h stop c d) : Bereft h stop b d := by
  refine ⟨lost.gone, lost.ringStop.trans (by rw [first.hub h (·.ringStop)]), fun g other => (lost.others g other).trans (first.hub g Hub.footing), fun other => ?_,
    fun n low lead other up least => ?_, fun q there => lost.there q (first.dieThere there), first.addr.trans lost.addr, fun still silent => lost.silent (first.quiet still) (first.silent still silent)⟩
  · rw [lost.stays (by rwa [first.leader]), first.leader]
  · exact lost.passes n low (first.leader.trans lead) other ((first.hubUp n).trans up) fun g less other => (first.hubUp g).trans (least g less other)

/-- What remains to be done once the hub is out of service and leads no more. -/
theorem Bereft.then {h : Nat} {stop : Bool} {b c d : Block} (lost : Bereft h stop b c) (next : Footed c d) : Bereft h stop b d := by
  refine ⟨(next.hubUp h).trans lost.gone, (next.hub h (·.ringStop)).trans lost.ringStop, fun g other => (next.hub g Hub.footing).trans (lost.others g other),
    fun other => next.leader.trans (lost.stays other), fun n low lead other up least => ?_, fun q there => next.dieThere (lost.there q there), lost.addr.trans next.addr,
    fun still silent => next.silent (lost.addr.quiet still) (lost.silent still silent)⟩
  obtain ⟨leads, passing⟩ := lost.passes n low lead other up least
  exact ⟨next.leader.trans leads, next.passing.trans passing⟩

/-- The lowest hub in service. -/
theorem Block.lowest_hub {b : Block} {n : Nat} (low : n < 4) (up : b.hubUp n = true) (least : ∀ g, g < n → b.hubUp g = false) : b.upHubs.head? = some n := by
  have found : (List.range 4).find? b.hubUp = some n :=
    List.find?_range_eq_some.mpr ⟨up, List.mem_range.mpr low, fun g less => by simp [least g less]⟩
  rw [Block.upHubs, List.head?_filter, found]

/-- The hub is taken out of service and leads no more (R31, R33). -/
theorem Bereft.leave (b : Block) (h : Nat) (stop : Bool) (up : b.hubUp h = true) : Bereft h stop b ((b.onHub h (·.gone stop)).passLead h) := by
  obtain ⟨x, found⟩ := Block.there_of_hubUp up
  have same := b.hub_onHub_same h (·.gone stop) x found
  have other := fun g (other : g ≠ h) => b.hub_onHub_other h g (·.gone stop) other
  have reach : AddrKept b (b.onHub h (·.gone stop)) := AddrKept.of_modify h _ rfl fun _ => rfl
  generalize leaves : b.onHub h (·.gone stop) = c at same other reach
  have eng : c.eng = b.eng := by rw [← leaves]; rfl
  have dies : c.dies = b.dies := by rw [← leaves]; rfl
  have quietly : b.Quiet → Silent b → Silent c := fun _ silent => by rw [← leaves]; exact silent
  have here : c.hub h = (b.hub h).gone stop := by rw [same, b.hub_of_get h x found]
  have out : c.hubUp h = false := by rw [Block.hubUp, here]; rfl
  have stays : ∀ {g}, g ≠ h → c.hubUp g = b.hubUp g := fun ne => congrArg Hub.inService (other _ ne)
  unfold Block.passLead
  split
  · rename_i none_
    refine ⟨out, by rw [here]; rfl, fun g ne => by rw [other g ne], fun _ => by rw [eng], fun n low _ ne upN least => ?_, fun q there => by rwa [dies], reach, quietly⟩
    rw [Block.lowest_hub low ((stays ne).trans upN) fun g less => if is : g = h then is ▸ out else (stays is).trans (least g less is)] at none_
    cases none_
  · rename_i n first
    split
    · rename_i follows
      rw [eng] at follows
      exact ⟨out, by rw [here]; rfl, fun g ne => by rw [other g ne], fun _ => by rw [eng], fun _ _ leads => absurd leads follows, fun q there => by rwa [dies], reach, quietly⟩
    · rename_i leads
      rw [Decidable.not_not, eng] at leads
      have told := Footed.raiseAll (c.onEng fun e => { e with leader := n, passing := true }) intLEADER
      refine ⟨(told.hubUp h).trans out, (told.hub h (·.ringStop)).trans (by rw [show (c.onEng _).hub h = _ from here]; rfl),
        fun g ne => (told.hub g Hub.footing).trans (congrArg Hub.footing (other g ne)), fun follows => absurd leads follows, fun m low _ ne upM least => ?_,
        fun q there => told.dieThere (show c.dies.get? q ≠ none by rwa [dies]), fun g => (told.addr g).trans (reach g), fun still silent => told.silent (reach.quiet still) (quietly still silent)⟩
      rw [Block.lowest_hub low ((stays ne).trans upM) fun g less => if is : g = h then is ▸ out else (stays is).trans (least g less is)] at first
      exact ⟨told.leader.trans (Option.some.inj first).symm, told.passing⟩

theorem Block.passLead_rings (b : Block) (h : Nat) (wf : b.rings.wf = true) :
    (b.passLead h).rings.wf = true ∧ ∀ r, b.rings.get? r = none → (b.passLead h).rings.get? r = none := by
  unfold Block.passLead
  split
  · exact ⟨wf, fun _ => id⟩
  · split
    · exact ⟨wf, fun _ => id⟩
    · rename_i n _ _
      exact (Footed.raiseAll (b.onEng fun e => { e with leader := n, passing := true }) intLEADER).rings wf

theorem Tbl.mem_of_get {α : Type} {t : Tbl α} {k : Nat} {v : α} (found : t.get? k = some v) : (k, v) ∈ t := by
  induction t with
  | nil => cases found
  | cons e t ih =>
    obtain ⟨q, x⟩ := e
    rw [Tbl.get?] at found
    split at found
    · rename_i here
      cases here
      cases found
      exact List.mem_cons_self
    · split at found
      · cases found
      · exact List.mem_cons_of_mem _ (ih found)

/-- The functions of a hub are lost: its rings are gone, and the lowest hub left leads where it led. -/
theorem Block.loseHub_bereft (b : Block) (h : Nat) (stop planned : Bool) (up : b.hubUp h = true) :
    Bereft h stop b (b.loseHub h stop planned) ∧ (b.rings.wf = true → ∀ r, ringHub r = h → (b.loseHub h stop planned).rings.get? r = none) := by
  generalize is : b.loseHub h stop planned = c
  unfold Block.loseHub at is
  extract_lets x from_ need fed rings tables b1 b2 b3 b4 b5 b6 b7 b8 at is
  have ended : Footed b b2 := (Footed.foldl Footed.endHubLost need b).trans ((Footed.stopShares _ h).trans (Footed.loseExchanges _ h))
  have left : Bereft h stop b b5 := ((Bereft.leave b2 h stop ((ended.hubUp h).trans up)).after ended).then ((Footed.orphanMsgs _ h).trans (Footed.rebase _ _))
  have tables5 : b.rings.wf = true → b5.rings.wf = true ∧ ∀ r, b.rings.get? r = none → b5.rings.get? r = none := fun wf => by
    obtain ⟨wf2, none2⟩ := ended.rings wf
    obtain ⟨wf3, none3⟩ := b4.passLead_rings h wf2
    obtain ⟨wf5, none5⟩ := ((Footed.orphanMsgs (b4.passLead h) h).trans (Footed.rebase b3 _)).rings wf3
    exact ⟨wf5, fun r none_ => none5 r (none3 r (none2 r none_))⟩
  split at is
  · have fatal : Footed b5 c := by
      rw [← is]
      refine ⟨rfl, rfl, ?_, rfl, fun _ => ⟨rfl, fun _ _ => rfl⟩, fun _ => id⟩
      exact (Footed.mapHubs b5 (fun _ x => { x with regs := { x.regs with fw := .fatal } }) fun _ _ => rfl).hubs
    exact ⟨left.then fatal, fun _ r _ => by rw [← is]; rfl⟩
  · have told : Footed b5 b7 := (Footed.adopt _ _ _).trans (Footed.hubLostEvent _ _ _ _ _)
    have lost : Footed b7 b8 := Footed.loseRings b7 rings
    have rest : Footed b8 c := by
      rw [← is]
      exact ((Footed.foldl (fun b t => Footed.dropEntry b b.eng.leader t) tables b8).trans (Footed.publish _)).trans (Footed.foldl Footed.reask fed _)
    refine ⟨left.then ((told.trans lost).trans rest), fun wf r mine => ?_⟩
    obtain ⟨wf5, none5⟩ := tables5 wf
    have wf7 := (told.rings wf5).1
    refine (rest.rings (lost.rings wf7).1).2 r ?_
    obtain none_ | ⟨ring, found⟩ := (b.rings.get? r).eq_none_or_eq_some
    · exact ((told.trans lost).rings wf5).2 r (none5 r none_)
    · exact Footed.loseRings_gone b7 rings wf7 (r, ring) (List.mem_filter.mpr ⟨Tbl.mem_of_get found, beq_iff_eq.mpr mine⟩)

end Sys2Proof.Machine
end

section
/-! O55: hubs heard and lost, leadership passed on, and clusters that fail. -/
namespace Sys2Proof.Machine
open Sys2Proof.Spec

/-! ### The loss of a hub, of its die and of its last steward core -/

/-- A hub lost in a block is gone in the state that the command leaves. -/
theorem Bereft.hubGone {s t : State} {h : Nat} {stop : Bool} {e : Block} (lost : Bereft h stop s.start e) (rings : ∀ r, ringHub r = h → e.rings.get? r = none)
    (core : t.blk.core = e.core) : HubGone s t h ∧ (t.blk.hub h).ringStop = ((s.blk.hub h).ringStop && !stop) := by
  have up : ∀ g, t.blk.hubUp g = e.hubUp g := fun g => (congrArg Hub.inService (Block.hub_of_core core g) :)
  refine ⟨⟨(up h).trans lost.gone, fun g other => (up g).trans (congrArg Hub.inService (lost.others g other) :), fun r mine => ?_, fun other => ?_, fun n low leads other upN least => ?_⟩, ?_⟩
  · have same := congrArg (fun d : Block => d.rings.get? r) core
    simp only [Block.core, Tbl.get?_mapVal, rings r mine] at same
    exact Option.map_eq_none_iff.mp same
  · exact (Block.part_of_core core (·.eng.leader)).trans (lost.stays other)
  · obtain ⟨leader, passing⟩ := lost.passes n low leads other upN least
    exact ⟨(Block.part_of_core core (·.eng.leader)).trans leader, (Block.part_of_core core (·.eng.passing)).trans passing⟩
  · exact (congrArg Hub.ringStop (Block.hub_of_core core h) :).trans lost.ringStop

/-- A row die out of service, and lost. -/
def Block.dieDead (b : Block) (q : Nat) : Prop := (b.die q).st = 0 ∧ (b.die q).failed = true

/-- From b to c row dies were lost, those of qs among them; hubs and who leads stand, and no ring was made. -/
structure Topples (qs : List Nat) (b c : Block) : Prop where
  hubs : ∀ g, (c.hub g).footing = (b.hub g).footing
  leader : c.eng.leader = b.eng.leader
  passing : c.eng.passing = b.eng.passing
  rings : ∀ r, b.rings.get? r = none → c.rings.get? r = none
  there : ∀ q, b.dies.get? q ≠ none → c.dies.get? q ≠ none
  stays : ∀ q, b.dies.get? q ≠ none → b.dieDead q → c.dieDead q
  lost : ∀ q ∈ qs, b.dies.get? q ≠ none → c.dieDead q
  addr : AddrKept b c
  silent : b.Quiet → Silent b → Silent c

/-- A stack that stands or not leaves service with its hub's die. -/
theorem Topples.one (b : Block) (q : Nat) : Topples [q] b (b.loseStackOf q) := by
  have listed : ∀ {p : Nat}, p ∈ [q] → p = q := List.mem_singleton.mp
  unfold Block.loseStackOf
  split
  · have firm := Firm.loseStack b q 6
    have die : ∀ p, b.dies.get? p ≠ none → p = q → (b.loseStack q 6).dieDead p := fun p there is => by
      subst is
      rw [Block.loseStack_eq]
      obtain ⟨failed, st⟩ := b.loseStackOn_die p 6 (List.range 64) there
      refine ⟨?_, failed⟩
      rw [st, if_neg (by decide)]
    refine ⟨fun g => firm.hub g Hub.footing, firm.engPart (·.leader), firm.engPart (·.passing), fun r none_ => b.loseStackOn_rings q 6 _ none_,
      fun p there => firm.dieThere (b.there_onDie q _ there), fun p there dead => ?_, fun p mem there => die p there (listed mem), firm.addr, firm.silent⟩
    obtain is | other := eq_or_ne p q
    · exact die p there is
    · have st := firm.die p (·.st)
      have failed := firm.die p (·.failed)
      rw [b.die_onDie_other q p _ other] at st failed
      exact ⟨st.trans dead.1, failed.trans dead.2⟩
  · have die : ∀ p, b.dies.get? p ≠ none → p = q → (b.onDie q fun d => { d with st := 0, failed := true }).dieDead p := fun p there is => by
      subst is
      obtain ⟨d, found⟩ := Option.ne_none_iff_exists'.mp there
      rw [Block.dieDead, b.die_onDie_same p _ d found]
      exact ⟨rfl, rfl⟩
    refine ⟨fun _ => rfl, rfl, rfl, fun _ => id, fun p there => b.there_onDie q _ there, fun p there dead => ?_, fun p mem there => die p there (listed mem), fun _ => rfl, fun _ => id⟩
    obtain is | other := eq_or_ne p q
    · exact die p there is
    · rwa [Block.dieDead, b.die_onDie_other q p _ other]

theorem Topples.all (qs : List Nat) (b : Block) : Topples qs b (qs.foldl Block.loseStackOf b) := by
  induction qs generalizing b with
  | nil => exact ⟨fun _ => rfl, rfl, rfl, fun _ => id, fun _ => id, fun _ _ => id, fun q mem => absurd mem List.not_mem_nil, fun _ => rfl, fun _ => id⟩
  | cons q qs ih =>
    have one := Topples.one b q
    have rest := ih (b.loseStackOf q)
    refine ⟨fun g => (rest.hubs g).trans (one.hubs g), rest.leader.trans one.leader, rest.passing.trans one.passing, fun r none_ => rest.rings r (one.rings r none_),
      fun p there => rest.there p (one.there p there), fun p there dead => rest.stays p (one.there p there) (one.stays p there dead), fun p mem there => ?_, one.addr.trans rest.addr,
      fun still silent => rest.silent (one.addr.quiet still) (one.silent still silent)⟩
    obtain rfl | later := List.mem_cons.mp mem
    · exact rest.stays p (one.there p there) (one.lost p (List.mem_singleton.mpr rfl) there)
    · exact rest.lost p later (one.there p there)

/-- The hub's stacks go after its functions. -/
theorem Bereft.topple {h : Nat} {stop : Bool} {b c d : Block} {qs : List Nat} (lost : Bereft h stop b c) (falls : Topples qs c d) : Bereft h stop b d := by
  refine ⟨(congrArg Hub.inService (falls.hubs h) :).trans lost.gone, (congrArg Hub.ringStop (falls.hubs h) :).trans lost.ringStop,
    fun g other => (falls.hubs g).trans (lost.others g other), fun other => falls.leader.trans (lost.stays other), fun n low leads other up least => ?_,
    fun q there => falls.there q (lost.there q there), lost.addr.trans falls.addr, fun still silent => falls.silent (lost.addr.quiet still) (lost.silent still silent)⟩
  obtain ⟨leader, passing⟩ := lost.passes n low leads other up least
  exact ⟨falls.leader.trans leader, falls.passing.trans passing⟩

theorem hubLosses (h : Nat) (s : State) (up : s.blk.hubUp h = true) (wf : s.blk.rings.wf = true) :
    let x := s.blk.hub h
    (∀ alive, Runs (.hubHeartbeat h alive) s fun t => OnlyHub s t h ∧ t.blk.hub h = { x with missed := if alive then 0 else x.missed + 10 })
    ∧ (100000 ≤ x.missed → Runs (.hubLoss h) s fun t => HubGone s t h ∧ (t.blk.hub h).ringStop = x.ringStop)
    ∧ (x.missed < 100000 → Runs (.hubLoss h) s fun t => t.store = s.store ∧ t.blk = s.start)
    ∧ (h < 4 → x.ringStop = true → Runs (.hubDieLoss h) s fun t => HubGone s t h ∧ (t.blk.hub h).ringStop = false ∧
        ∀ q, q / 3 = h → s.blk.dies.get? q ≠ none → (t.blk.die q).st = 0 ∧ (t.blk.die q).failed = true)
    ∧ (x.stewards ≤ 1 → Runs (.stewardCoreFailure h) s fun t => HubGone s t h)
    ∧ (1 < x.stewards → Runs (.stewardCoreFailure h) s fun t => t.store = s.store ∧ t.blk.hubUp h = true ∧ (t.blk.hub h).stewards + 1 = x.stewards ∧
        t.blk.eng = { s.blk.eng with almGen := s.blk.eng.almGen + 1 } ∧ t.blk.rings = s.blk.rings ∧ t.blk.works = s.blk.works) := by
  intro x
  have upS : s.start.hubUp h = true := up
  obtain ⟨y, found⟩ := Block.there_of_hubUp upS
  have isX : y = x := (s.start.hub_of_get h y found).symm
  subst isX
  refine ⟨fun alive => ?_, fun due => ?_, fun early => ?_, fun low stands => ?_, fun last => ?_, fun more => ?_⟩
  · have effect : hubHeartbeat h alive s.start = s.start.onHub h fun x => { x with missed := if alive then 0 else x.missed + 10 } := by
      rw [hubHeartbeat, upS]
      rfl
    exact Runs.of_effect (s := s) rfl _ effect rfl ⟨⟨rfl, rfl, fun g other => Block.hub_onHub_other _ _ _ _ other⟩, s.start.hub_onHub_same h _ _ found⟩
  · obtain ⟨lost, rings⟩ := s.start.loseHub_bereft h false false upS
    have effect : hubLoss h s.start = s.start.loseHub h false false := by
      have late : ¬ (s.start.hub h).missed < 100000 := Nat.not_lt.mpr due
      rw [hubLoss, upS, if_neg]
      simpa using late
    refine Runs.of_core (hubLoss h s.start) rfl fun t core => ?_
    rw [effect] at core
    obtain ⟨gone, stop⟩ := lost.hubGone (rings wf) core
    exact ⟨gone, stop.trans (Bool.and_true _)⟩
  · have effect : hubLoss h s.start = s.start := by
      have soon : (s.start.hub h).missed < 100000 := early
      rw [hubLoss, upS, if_pos]
      simpa using soon
    exact Runs.of_effect (s := s) rfl _ effect rfl ⟨rfl, rfl⟩
  · obtain ⟨lost, rings⟩ := s.start.loseHub_bereft h true false upS
    have toppled := Topples.all [3 * h, 3 * h + 1, 3 * h + 2] (s.start.loseHub h true false)
    generalize is : s.start.loseHub h true false = b at lost rings toppled
    have effect : hubDieLoss h s.start = ([3 * h, 3 * h + 1, 3 * h + 2].foldl Block.loseStackOf b).publish := by
      rw [hubDieLoss, if_neg, upS, if_pos rfl, is]
      rw [show (s.start.hub h).ringStop = true from stands]
      simpa using low
    have fallen := lost.topple toppled
    have listed : ∀ q, q / 3 = h → q ∈ [3 * h, 3 * h + 1, 3 * h + 2] := fun q mine => by
      simp only [List.mem_cons, List.not_mem_nil, or_false]
      omega
    generalize [3 * h, 3 * h + 1, 3 * h + 2] = qs at toppled effect fallen listed
    generalize qs.foldl Block.loseStackOf b = c at fallen toppled effect
    refine Runs.of_core (hubDieLoss h s.start) rfl fun t core => ?_
    rw [effect] at core
    have told := Footed.publish c
    obtain ⟨gone, stop⟩ := (fallen.then told).hubGone (fun r mine => by rw [Block.publish_only]; exact toppled.rings r (rings wf r mine)) core
    refine ⟨gone, stop.trans (Bool.and_false _), fun q mine there => ?_⟩
    have dead := toppled.lost q (listed q mine) (lost.there q there)
    have same := Block.die_of_core core q
    exact ⟨(congrArg RowDie.st same :).trans ((told.die q (·.st)).trans dead.1), (congrArg RowDie.failed same :).trans ((told.die q (·.failed)).trans dead.2)⟩
  · have fewer := Footed.onHub s.start h (fun x => { x with stewards := x.stewards - 1 }) fun _ => rfl
    have here := s.start.hub_onHub_same h (fun x => { x with stewards := x.stewards - 1 }) _ found
    generalize is : s.start.onHub h (fun x => { x with stewards := x.stewards - 1 }) = b at fewer here
    obtain ⟨lost, rings⟩ := b.loseHub_bereft h false false ((fewer.hubUp h).trans upS)
    have effect : stewardCoreFailure h s.start = b.loseHub h false false := by
      rw [stewardCoreFailure, upS]
      dsimp only
      rw [is, here, if_neg (by decide), if_pos]
      exact Nat.sub_eq_zero_of_le last
    refine Runs.of_core (stewardCoreFailure h s.start) rfl fun t core => ?_
    rw [effect] at core
    exact ((lost.after fewer).hubGone (rings (fewer.rings wf).1) core).1
  · have here := s.start.hub_onHub_same h (fun x => { x with stewards := x.stewards - 1 }) _ found
    generalize is : s.start.onHub h (fun x => { x with stewards := x.stewards - 1 }) = b at here
    have effect : stewardCoreFailure h s.start = b.publish := by
      rw [stewardCoreFailure, upS]
      dsimp only
      rw [is, here, if_neg (by decide), if_neg]
      exact Nat.sub_ne_zero_of_lt more
    refine Runs.of_effect (s := s) rfl _ effect ?_ ⟨rfl, ?_, ?_, ?_, ?_, ?_⟩
    · rw [Block.publish_only, ← is]
      rfl
    · refine (b.publish_hub h (·.inService)).trans ?_
      rw [here]
      exact (congrArg Hub.inService (s.start.hub_of_get h _ found) :).symm.trans upS
    · show (b.publish.hub h).stewards + 1 = _
      rw [b.publish_hub h (·.stewards), here]
      exact Nat.sub_add_cancel (Nat.le_of_lt more)
    · show b.publish.eng = _
      rw [Block.publish_only, ← is]
      rfl
    · show b.publish.rings = _
      rw [Block.publish_only, ← is]
      rfl
    · show b.publish.works = _
      rw [Block.publish_only, ← is]
      rfl

/-! ### The new leader takes over (R32, R365, R409) -/

/-- The answer to the message of a leader record, if it was received again. -/
def Block.answerAgain (b : Block) (r : LeaderRec) : Block :=
  match b.againOf r with
  | none => b
  | some m => (b.onEng fun e => { e with pend := e.pend.filter fun p => !p.same r.hub r.key }).reply m r.len 2 r.status r.detail b.eng.leader r.body

theorem Block.readRecords_eq (b : Block) :
    b.readRecords = (b.eng.leaderRecs.filter fun r => r.copies.any b.dieOn).foldl Block.answerAgain
      (b.onEng fun e => { e with leaderRecs := e.leaderRecs.filter fun r => r.copies.any b.dieOn }) := rfl

/-- From b to c messages were answered: only hubs, pending messages and leader records changed. -/
structure Answers (b c : Block) : Prop where
  eq : c = { b with hubs := c.hubs, eng := c.eng }
  eng : c.eng = { b.eng with pend := c.eng.pend, leaderRecs := c.eng.leaderRecs }
  quiet : b.Quiet → c.Quiet

namespace Answers

theorem trans {b c d : Block} (first : Answers b c) (second : Answers c d) : Answers b d := by
  refine ⟨second.eq.trans ?_, second.eng.trans ?_, fun still => second.quiet (first.quiet still)⟩
  · rw [first.eq]
  · rw [first.eng]

theorem foldl {α : Type} {f : Block → α → Block} (step : ∀ b : Block, b.Quiet → ∀ a, Answers b (f b a)) (as : List α) (b : Block) (still : b.Quiet) :
    Answers b (as.foldl f b) := by
  induction as generalizing b with
  | nil => exact ⟨rfl, rfl, id⟩
  | cons a as ih =>
    have first := step b still a
    exact first.trans (ih _ (first.quiet still))

theorem reply (b : Block) (still : b.Quiet) (m : Msg) (len rstate status detail ans body : Nat) : Answers b (b.reply m len rstate status detail ans body) := by
  have only := b.reply_quiet m len rstate status detail ans body (still m.hub)
  refine ⟨?_, ?_, fun still g => ?_⟩
  · rw [only]
  · rw [only]
  · exact (congrArg (·.regs.msiAddr) (b.reply_hub m len rstate status detail ans body g) :).trans (still g)

/-- A record of a message received again is answered with what it holds. -/
theorem again (b : Block) (still : b.Quiet) (r : LeaderRec) : Answers b (b.answerAgain r) := by
  unfold Block.answerAgain
  split
  · exact ⟨rfl, rfl, id⟩
  · have cut : Answers b (b.onEng fun e => { e with pend := e.pend.filter fun p => !p.same r.hub r.key }) := ⟨rfl, rfl, id⟩
    exact cut.trans (reply _ (cut.quiet still) _ _ _ _ _ _ _)

/-- The records that a stack still holds are read and answered. -/
theorem read (b : Block) (still : b.Quiet) : Answers b b.readRecords := by
  rw [Block.readRecords_eq]
  have cut : Answers b (b.onEng fun e => { e with leaderRecs := e.leaderRecs.filter fun r => r.copies.any b.dieOn }) := ⟨rfl, rfl, id⟩
  exact cut.trans (foldl (fun b still r => again b still r) _ _ still)

end Answers

/-- Reports of events when none is held: each takes the next number, and none is held. -/
theorem Block.reports_numbered (rs : List (BitVec 256)) (b : Block) (still : b.Quiet) (logs : b.eng.passing = false) (none_ : b.eng.heldEvents = []) :
    (rs.foldl Block.report b).eng.eseq = b.eng.eseq + rs.length ∧ (rs.foldl Block.report b).eng.heldEvents = [] := by
  induction rs generalizing b with
  | nil => exact ⟨rfl, none_⟩
  | cons r rs ih =>
    have told := Told.report b r still
    have record : (b.report r).eng = (b.logRecord r).eng := b.report_eng r still
    rw [Block.logRecord, Block.onEng_eng, logs, if_neg Bool.false_ne_true] at record
    obtain ⟨numbers, held⟩ := ih (b.report r) (told.quiet still) ((told.engPart (·.passing)).trans logs) (by rw [record]; exact none_)
    refine ⟨numbers.trans ?_, held⟩
    rw [record, List.length_cons]
    show b.eng.eseq + 1 + rs.length = _
    omega

/-- A field of the first 16 bytes of a reply of any length. -/
theorem longReply_header_bits (old m_ body len lo n : Nat) (inside : lo + n ≤ 128) (long : 16 ≤ len) :
    bits (BitVec.ofNat 2048 (setBits old 0 (8 * len) (m_ ||| (body >>> 128) <<< 128))).toNat lo n = bits m_ lo n := by
  rw [BitVec.toNat_ofNat, bits_mod _ _ _ _ (by omega), bits_setBits_inside _ _ _ _ _ _ (Nat.zero_le _) (by omega), bits_or, Nat.sub_zero, bits_high _ _ _ _ inside]
  simp

/-- A DONE reply of any length has its header in its first 16 bytes. -/
theorem doneReply_of_longReply (b : Block) (m : Msg) (t : State) (len status detail ans body : Nat) (x : Hub) (found : b.hubs.get? m.hub = some x)
    (written : t.blk.pair m.hub m.key = (b.reply m len 2 status detail ans body).pair m.hub m.key) (long : 16 ≤ len) (fits : status < 2 ^ 16) :
    DoneReply t m status := by
  rw [Block.reply_pair b m len 2 status detail ans body x found] at written
  have field : ∀ lo n, lo + n ≤ 128 → bits (t.blk.pair m.hub m.key).rep.toNat lo n = bits (replyHeader m (len / 8) 2 status detail ans) lo n := fun lo n inside => by
    rw [written]
    exact longReply_header_bits _ _ body len lo n inside long
  refine ⟨?_, ?_, ?_, ?_, ?_⟩
  · rw [written]
    rfl
  · rw [field _ _ (by omega), replyHeader_rstate]
    rfl
  · rw [field _ _ (by omega), replyHeader_status, Nat.mod_eq_of_lt fits]
  · rw [field _ _ (by omega), replyHeader_code, Nat.mod_eq_of_lt m.code_lt]
  · rw [field _ _ (by omega), replyHeader_tag, Nat.mod_eq_of_lt m.tag_lt]

/-- Whether a message is received again depends on its pair. -/
theorem Block.againOf_of_pair {b c : Block} (r : LeaderRec) (same : c.pair r.hub r.key = b.pair r.hub r.key) : c.againOf r = b.againOf r := by
  unfold Block.againOf
  rw [same]

/-- The only record, of a message received again, is answered with its result. -/
theorem Block.readRecords_replies (b : Block) {r : LeaderRec} {m : Msg} {t : State} (only : b.eng.leaderRecs = [r]) (copied : r.copies.any b.dieOn = true)
    (again : b.againOf r = some m) (fits : r.status < 2 ^ 16) (long : 16 ≤ r.len) (is : t.blk = b.readRecords) : DoneReply t m r.status := by
  have kept : ([r].filter fun r => r.copies.any b.dieOn) = [r] := List.filter_eq_self.mpr fun x mem => by
    rw [List.mem_singleton.mp mem]
    exact copied
  rw [Block.readRecords_eq, only, kept, List.foldl_cons, List.foldl_nil] at is
  generalize cut : (b.onEng fun e => { e with leaderRecs := e.leaderRecs.filter fun r => r.copies.any b.dieOn }) = c at is
  replace again : c.againOf r = some m := by
    rw [← again, ← cut]
    exact Block.againOf_of_pair r rfl
  have named : m.hub = r.hub ∧ m.key = r.key ∧ c.pair r.hub r.key ≠ {} := by
    unfold Block.againOf at again
    dsimp only at again
    split at again
    · rename_i shows
      cases again
      refine ⟨rfl, rfl, fun none_ => ?_⟩
      rw [none_] at shows
      exact absurd shows Bool.false_ne_true
    · cases again
  obtain ⟨hub, key, some_⟩ := named
  obtain ⟨x, found⟩ : ∃ x, c.hubs.get? m.hub = some x := by
    obtain none_ | found := (c.hubs.get? m.hub).eq_none_or_eq_some
    · rw [hub] at none_
      have blank : c.hub r.hub = {} := congrArg (·.getD {}) none_
      exact absurd (by rw [Block.pair, blank]; rfl) some_
    · exact found
  unfold Block.answerAgain at is
  rw [again] at is
  exact doneReply_of_longReply (c.onEng fun e => { e with pend := e.pend.filter fun p => !p.same r.hub r.key }) m t r.len r.status r.detail c.eng.leader r.body x found
    (congrArg (·.pair m.hub m.key) is) long fits

theorem leaderTakesOver (s : State) (alive : s.blk.fatal = false) (standing : s.blk.fw s.blk.eng.leader ≠ .handover) (passing : s.blk.eng.passing = true)
    (unfenced : s.blk.eng.twin.fences = []) (still : Quiet s) :
    Runs .leaderTakeover s fun t => t.store = s.store ∧ t.blk.rings = s.blk.rings ∧ t.blk.works = s.blk.works ∧ t.blk.tables = s.blk.tables ∧ t.blk.dies = s.blk.dies ∧
        t.blk.eng.passing = false ∧ t.blk.eng.heldEvents = [] ∧ t.blk.eng.eseq = s.blk.eng.eseq + s.blk.eng.heldEvents.length ∧
        t.blk.eng.leader = s.blk.eng.leader ∧
        ∀ r m, s.blk.eng.leaderRecs = [r] → r.copies.any s.blk.dieOn = true → s.blk.againOf r = some m → r.status < 2 ^ 16 → 16 ≤ r.len → DoneReply t m r.status := by
  have told := s.start.endPassing_told still
  obtain ⟨numbers, held⟩ := Block.reports_numbered s.blk.eng.heldEvents (s.start.onEng fun e => { e with passing := false, heldEvents := [] }) still rfl rfl
  have effect : leaderTakeover s.start = s.start.endPassing.readRecords := by
    have answers := Answers.read s.start.endPassing (told.quiet still)
    rw [leaderTakeover, show s.start.eng.passing = true from passing]
    dsimp only
    rw [if_neg (by decide), show s.start.endPassing.readRecords.eng.twin.fences = [] by rw [answers.eng]; exact (told.engPart (·.twin.fences)).trans unfenced]
    rfl
  rw [show (s.blk.eng.heldEvents.foldl Block.report _) = s.start.endPassing from rfl] at numbers held
  have answers := Answers.read s.start.endPassing (told.quiet still)
  refine Runs.of_effect (s := s) rfl _ ((firmware_acts (b := s.start) alive standing).trans effect) ?_
    ⟨rfl, ?_, ?_, ?_, ?_, ?_, ?_, ?_, ?_, fun r m only copied again fits long => ?_⟩
  · rw [answers.eq]
    exact told.part (·.wr)
  · exact (congrArg Block.rings answers.eq).trans (told.part (·.rings))
  · exact (congrArg Block.works answers.eq).trans (told.part (·.works))
  · exact (congrArg Block.tables answers.eq).trans (told.part (·.tables))
  · exact (congrArg Block.dies answers.eq).trans (told.part (·.dies))
  · exact (congrArg Eng.passing answers.eng).trans (told.engPart (·.passing))
  · exact (congrArg Eng.heldEvents answers.eng).trans held
  · exact (congrArg Eng.eseq answers.eng).trans numbers
  · exact (congrArg Eng.leader answers.eng).trans (told.engPart (·.leader))
  · exact Block.readRecords_replies _ ((told.engPart (·.leaderRecs)).trans only) (by rw [show s.start.endPassing.dieOn = s.blk.dieOn from told.part (·.dieOn)]; exact copied)
      (by rw [← again]; exact Block.againOf_of_pair r (told.hubPart r.hub (·.pairs.getD r.key {}))) fits long rfl

/-! ### Clusters (R19, R28, R164) -/

theorem clusterDie_of_low {c : Nat} (low : c < 768) : clusterDie c = some (c / 64) := if_pos low

theorem clusterDie_of_high {c : Nat} (high : 768 ≤ c) : clusterDie c = none := if_neg (Nat.not_lt.mpr high)

theorem Block.clusterUp_of_low (b : Block) {c : Nat} (low : c < 768) : b.clusterUp c = (b.dieUp (c / 64) && !(b.die (c / 64)).deadClusters.testBit (c % 64)) := by
  unfold Block.clusterUp
  rw [clusterDie_of_low low]

theorem Block.clusterUp_of_high (b : Block) {c : Nat} (high : 768 ≤ c) :
    b.clusterUp c = (b.hubUp ((c - 768) / 64) && !(b.hub ((c - 768) / 64)).deadClusters.testBit (c % 64)) := by
  unfold Block.clusterUp
  rw [clusterDie_of_high high]

theorem Block.clusterHub_of_high (b : Block) {c : Nat} (high : 768 ≤ c) : b.clusterHub c = (c - 768) / 64 := if_neg (Nat.not_lt.mpr high)

theorem Block.lostChans_of {b c : Block} (layout : c.eng.layout = b.eng.layout) (dies : c.dies = b.dies) : c.lostChans = b.lostChans := by
  unfold Block.lostChans Block.chan Block.die
  rw [layout, dies]

/-- A failing cluster's tasks leave it. -/
theorem Block.freeCluster_idle (b : Block) (c : Nat) : ∀ k ∈ ((b.freeCluster c).hub (b.clusterHub c)).sched.running, k.cluster ≠ c := by
  unfold Block.freeCluster Block.onSched
  intro k mem
  obtain none_ | ⟨x, found⟩ := (b.hubs.get? (b.clusterHub c)).eq_none_or_eq_some
  · rw [Block.onHub, Tbl.modify_of_none _ _ _ none_, Block.hub, Tbl.getD, none_] at mem
    cases mem
  · rw [b.hub_onHub_same _ _ x found] at mem
    simpa using (List.mem_filter.mp mem).2

/-- A part of a hub that a failing cluster's tasks leave. -/
theorem Block.freeCluster_hub (b : Block) (c g : Nat) {α : Type} (p : Hub → α) (keeps : ∀ (x : Hub) y, p { x with sched := y } = p x := by exact fun _ _ => rfl) :
    p ((b.freeCluster c).hub g) = p (b.hub g) := b.hub_onHub_part _ g _ p fun x => keeps x _

/-- With no interrupt address the event of a failed cluster leaves its tasks away and everything else. -/
theorem Block.clusterEvent_told (b : Block) (c action spares : Nat) (still : b.Quiet) : Told (b.freeCluster c) ((b.freeCluster c).clusterEvent c action spares) :=
  Told.event _ _ _ _ _ fun g => (b.freeCluster_hub c g (·.regs.msiAddr)).trans (still g)

theorem testBit_or_two_pow (x k : Nat) : (x ||| 2 ^ k).testBit k = true := by
  rw [Nat.testBit_or, Nat.testBit_two_pow_self, Bool.or_true]

/-- A row die with n spare clusters left. -/
def RowDie.spared (n : Nat) (d : RowDie) : RowDie := { d with spares := n }

/-- A row die with cluster c removed. -/
def RowDie.without (c : Nat) (d : RowDie) : RowDie := { d with clusters := d.clusters - 1, deadClusters := d.deadClusters ||| 2 ^ (c % 64) }

/-- A hub with n spare clusters left. -/
def Hub.spared (n : Nat) (x : Hub) : Hub := { x with spares := n }

/-- A hub with cluster c removed. -/
def Hub.without (c : Nat) (x : Hub) : Hub := { x with clusters := x.clusters - 1, deadClusters := x.deadClusters ||| 2 ^ (c % 64) }

/-- Settles O55. -/
theorem hubAndClusterLosses : Obligations.HubAndClusterLosses := by
  unfold Obligations.HubAndClusterLosses
  refine ⟨fun h s up _ wf => hubLosses h s up wf, fun s alive standing passing unfenced still => leaderTakesOver s alive standing passing unfenced still, ?_⟩
  intro c s small up still q x idle
  have stands : ¬ (decide (1024 ≤ c) || !s.start.clusterUp c) = true := by
    rw [show s.start.clusterUp c = true from up]
    simpa using small
  refine ⟨fun low spare => ?_, fun low none_ calm unarmed => ?_, fun high spare => ?_, fun high none_ => ?_⟩
  · have upDie := (s.blk.clusterUp_of_low low).symm.trans up
    obtain ⟨y, found⟩ := Option.ne_none_iff_exists'.mp (Block.there_of_dieUp (b := s.start) (Bool.and_eq_true_iff.mp upDie).1)
    have isY : s.blk.die (c / 64) = y := s.start.die_of_get _ y found
    have here := s.start.die_onDie_same (c / 64) (RowDie.spared (q.spares - 1)) y found
    have effect : clusterFailure c s.start = ((s.start.onDie (c / 64) (RowDie.spared (q.spares - 1))).freeCluster c).clusterEvent c 0 (q.spares - 1) := by
      unfold clusterFailure
      rw [if_neg stands, clusterDie_of_low low]
      exact if_pos spare
    generalize is : s.start.onDie (c / 64) (RowDie.spared (q.spares - 1)) = b at here effect
    have told := b.clusterEvent_told c 0 (q.spares - 1) (by rw [← is]; exact still)
    have idles := b.freeCluster_idle c
    rw [show b.clusterHub c = s.blk.clusterHub c by rw [← is]; rfl, ← told.hubPart (s.blk.clusterHub c) (·.sched)] at idles
    have die := (told.part (·.die (c / 64))).trans here
    generalize (b.freeCluster c).clusterEvent c 0 (q.spares - 1) = e at effect told idles die
    refine Runs.of_effect (s := s) rfl _ effect ?_ ⟨idles, rfl, ?_, ?_, ?_, ?_⟩
    · rw [told.part (·.wr), ← is]
      rfl
    · show e.clusterUp c = true
      rw [Block.clusterUp_of_low _ low, Block.dieUp, die]
      rw [← isY]
      exact upDie
    · show (e.die (c / 64)).spares + 1 = _
      rw [die]
      exact Nat.sub_add_cancel (Nat.pos_of_ne_zero spare)
    · show (e.die (c / 64)).clusters = _
      rw [die, ← isY]
      rfl
    · refine (told.engPart (·.almGen)).trans ?_
      rw [← is]
      rfl
  · have upDie := (s.blk.clusterUp_of_low low).symm.trans up
    obtain ⟨y, found⟩ := Option.ne_none_iff_exists'.mp (Block.there_of_dieUp (b := s.start) (Bool.and_eq_true_iff.mp upDie).1)
    have isY : s.blk.die (c / 64) = y := s.start.die_of_get _ y found
    have here := s.start.die_onDie_same (c / 64) (RowDie.without c) y found
    have effect : clusterFailure c s.start = ((((s.start.onDie (c / 64) (RowDie.without c)).freeCluster c).clusterEvent c 1 0).postPlan 3 [c]).publish := by
      unfold clusterFailure
      rw [if_neg stands, clusterDie_of_low low]
      exact if_neg fun has => has none_
    generalize is : s.start.onDie (c / 64) (RowDie.without c) = b at here effect
    have told := b.clusterEvent_told c 1 0 (by rw [← is]; exact still)
    have quiet : (b.freeCluster c).Quiet := fun g => (b.freeCluster_hub c g (·.regs.msiAddr)).trans (by rw [← is]; exact still g)
    have idles := b.freeCluster_idle c
    rw [show b.clusterHub c = s.blk.clusterHub c by rw [← is]; rfl, ← told.hubPart (s.blk.clusterHub c) (·.sched)] at idles
    have die := (told.part (·.die (c / 64))).trans here
    have eng : b.eng = s.blk.eng := by rw [← is]; rfl
    generalize (b.freeCluster c).clusterEvent c 1 0 = e at effect told idles die
    obtain ⟨f, plans, posted⟩ := e.postPlan_told 3 [c] ((told.engPart (·.dump.armed)).trans (by rw [show (b.freeCluster c).eng = _ from eng]; exact unarmed)) (told.quiet quiet)
    have plan := e.postPlan_posts 3 [c] ((told.engPart (·.relayout)).trans (by rw [show (b.freeCluster c).eng = _ from eng]; exact calm))
    generalize e.postPlan 3 [c] = p at effect posted plan
    have dies : p.publish.die (c / 64) = y.without c := by
      rw [Block.publish_only]
      exact (posted.part (·.die (c / 64))).trans die
    refine Runs.of_effect (s := s) rfl _ effect ?_ ⟨fun k mem => ?_, ?_, ?_, ?_, fun sound => ?_⟩
    · rw [Block.publish_only]
      refine (posted.part (·.wr)).trans ((told.part (·.wr)).trans ?_)
      rw [← is]
      rfl
    · refine idles k ?_
      have same := (p.publish_hub (s.blk.clusterHub c) (·.sched)).trans (posted.hubPart (s.blk.clusterHub c) (·.sched))
      rw [show (p.publish.hub (s.blk.clusterHub c)).sched = (e.hub (s.blk.clusterHub c)).sched from same] at mem
      exact mem
    · show p.publish.clusterUp c = false
      rw [Block.clusterUp_of_low _ low, Block.dieUp, dies]
      refine Bool.and_eq_false_iff.mpr (.inr ?_)
      rw [RowDie.without, testBit_or_two_pow]
      rfl
    · show (p.publish.die (c / 64)).clusters = _
      rw [dies, ← isY]
      rfl
    · show p.publish.eng.almGen = _
      rw [Block.publish_only]
      show p.eng.almGen + 1 = _
      rw [posted.engPart (·.almGen)]
      exact congrArg (· + 1) ((congrArg Eng.almGen (plans e.eng)).trans ((told.engPart (·.almGen)).trans (congrArg Eng.almGen eng)))
    · have layout : e.eng.layout = s.blk.eng.layout := (told.engPart (·.layout)).trans (congrArg Eng.layout eng)
      have planned : p.publish.eng.layout = e.eng.layout := by
        rw [Block.publish_only]
        exact (posted.engPart (·.layout)).trans (congrArg Eng.layout (plans e.eng) :)
      have lost : p.publish.lostChans = e.lostChans := by
        refine Block.lostChans_of planned ?_
        rw [Block.publish_only]
        exact posted.part (·.dies)
      obtain ⟨q, is, out, posted⟩ := plan (by rw [layout, ← lost]; exact sound)
      refine ⟨q, by rw [Block.publish_only]; exact is, ?_, posted⟩
      rw [out]
      exact e.planWithout_names [c] List.mem_cons_self
  · have upHub := (s.blk.clusterUp_of_high high).symm.trans up
    obtain ⟨y, found⟩ := Block.there_of_hubUp (b := s.start) (Bool.and_eq_true_iff.mp upHub).1
    have isY : s.blk.hub ((c - 768) / 64) = y := s.start.hub_of_get _ y found
    have here := s.start.hub_onHub_same ((c - 768) / 64) (Hub.spared (x.spares - 1)) y found
    have effect : clusterFailure c s.start = ((s.start.onHub ((c - 768) / 64) (Hub.spared (x.spares - 1))).freeCluster c).clusterEvent c 0 (x.spares - 1) := by
      unfold clusterFailure
      rw [if_neg stands, clusterDie_of_high high]
      exact if_pos spare
    have quiet : (s.start.onHub ((c - 768) / 64) (Hub.spared (x.spares - 1))).Quiet := fun g => (s.start.hub_onHub_part _ g _ (·.regs.msiAddr)).trans (still g)
    generalize is : s.start.onHub ((c - 768) / 64) (Hub.spared (x.spares - 1)) = b at here effect quiet
    have told := b.clusterEvent_told c 0 (x.spares - 1) quiet
    have idles := b.freeCluster_idle c
    rw [b.clusterHub_of_high high, ← s.blk.clusterHub_of_high high, ← told.hubPart (s.blk.clusterHub c) (·.sched)] at idles
    have hub := fun {α : Type} (p : Hub → α) (keeps : ∀ x : Hub, p x.unraised = p x) (sched : ∀ (x : Hub) y, p { x with sched := y } = p x) =>
      (told.hubPart ((c - 768) / 64) p keeps).trans ((b.freeCluster_hub c ((c - 768) / 64) p sched).trans (congrArg p here))
    generalize (b.freeCluster c).clusterEvent c 0 (x.spares - 1) = e at effect told idles hub
    refine Runs.of_effect (s := s) rfl _ effect ?_ ⟨idles, rfl, ?_, ?_, ?_⟩
    · rw [told.part (·.wr), ← is]
      rfl
    · show e.clusterUp c = true
      rw [Block.clusterUp_of_high _ high, Block.hubUp, hub (·.inService) (fun _ => rfl) fun _ _ => rfl, hub (·.deadClusters) (fun _ => rfl) fun _ _ => rfl]
      rw [← isY]
      exact upHub
    · show (e.hub ((c - 768) / 64)).spares + 1 = _
      rw [hub (·.spares) (fun _ => rfl) fun _ _ => rfl]
      exact Nat.sub_add_cancel (Nat.pos_of_ne_zero spare)
    · show (e.hub ((c - 768) / 64)).clusters = _
      rw [hub (·.clusters) (fun _ => rfl) fun _ _ => rfl, ← isY]
      rfl
  · have upHub := (s.blk.clusterUp_of_high high).symm.trans up
    obtain ⟨y, found⟩ := Block.there_of_hubUp (b := s.start) (Bool.and_eq_true_iff.mp upHub).1
    have isY : s.blk.hub ((c - 768) / 64) = y := s.start.hub_of_get _ y found
    have here := s.start.hub_onHub_same ((c - 768) / 64) (Hub.without c) y found
    have effect : clusterFailure c s.start = (((s.start.onHub ((c - 768) / 64) (Hub.without c)).freeCluster c).clusterEvent c 1 0).publish := by
      unfold clusterFailure
      rw [if_neg stands, clusterDie_of_high high]
      exact if_neg fun has => has none_
    have quiet : (s.start.onHub ((c - 768) / 64) (Hub.without c)).Quiet := fun g => (s.start.hub_onHub_part _ g _ (·.regs.msiAddr)).trans (still g)
    generalize is : s.start.onHub ((c - 768) / 64) (Hub.without c) = b at here effect quiet
    have told := b.clusterEvent_told c 1 0 quiet
    have idles := b.freeCluster_idle c
    rw [b.clusterHub_of_high high, ← s.blk.clusterHub_of_high high, ← told.hubPart (s.blk.clusterHub c) (·.sched)] at idles
    have hub := fun {α : Type} (p : Hub → α) (keeps : ∀ x : Hub, p x.unraised = p x) (sched : ∀ (x : Hub) y, p { x with sched := y } = p x) =>
      (told.hubPart ((c - 768) / 64) p keeps).trans ((b.freeCluster_hub c ((c - 768) / 64) p sched).trans (congrArg p here))
    generalize (b.freeCluster c).clusterEvent c 1 0 = e at effect told idles hub
    refine Runs.of_effect (s := s) rfl _ effect ?_ ⟨fun k mem => ?_, rfl, ?_, ?_, ?_⟩
    · rw [Block.publish_only]
      refine (told.part (·.wr)).trans ?_
      rw [← is]
      rfl
    · refine idles k ?_
      rw [show (e.publish.hub (s.blk.clusterHub c)).sched = _ from e.publish_hub (s.blk.clusterHub c) (·.sched)] at mem
      exact mem
    · show e.publish.clusterUp c = false
      rw [Block.clusterUp_of_high _ high, Block.hubUp, e.publish_hub _ (·.deadClusters), hub (·.deadClusters) (fun _ => rfl) fun _ _ => rfl]
      refine Bool.and_eq_false_iff.mpr (.inr ?_)
      rw [Hub.without, testBit_or_two_pow]
      rfl
    · show (e.publish.hub ((c - 768) / 64)).clusters = _
      rw [e.publish_hub _ (·.clusters), hub (·.clusters) (fun _ => rfl) fun _ _ => rfl, ← isY]
      rfl
    · show e.publish.eng.almGen = _
      rw [Block.publish_only]
      refine congrArg (· + 1) ((told.engPart (·.almGen)).trans ?_)
      rw [← is]
      rfl

end Sys2Proof.Machine
end

section
/-! O28: STACK_SERVICE, HUB_SERVICE and the DONE reply of a released stack. -/
namespace Sys2Proof.Machine
open Sys2Proof.Spec

/-- An accepted message whose card's part goes on, and with which what was found on admission is kept. -/
theorem runs_admitted {c : Card} {h k : Nat} {mb : Mbox} {s : State} {i : Instr} {P : State → Prop} (act : Store → Block → Msg → Ans) (aux : List Nat)
    (arm : exec i s = run (admitAt c act aux h mb k) s) (acc : Accepted c h mb k s) {b : Block} {p : PendMsg}
    (answer : act s.store (takenAt s h mb k) (msgAt s h mb k) = { b := b, pend := some p }) (kept : AddrKept (takenAt s h mb k) b) (silent : Silent b)
    (holds : ∀ t ps, Awaited s { b := b, pend := some p } { p with hub := h, key := pairKey mb k, code := c.code, copy := (msgAt s h mb k).x } (msgAt s h mb k) t →
      P { t with blk := t.blk.onEng fun e => { e with pend := ps } }) : Runs i s P := by
  obtain ⟨ans, write⟩ := Ans.write_awaited ({ b := b, pend := some p } : Ans) c (msgAt s h mb k) p rfl
  obtain ⟨y, found⟩ := kept.there (takenAt_found s h k mb acc.1.1)
  have wrote := (messageAt_accepted c act h k mb s acc).trans ((congrArg (fun a : Ans => a.write c (msgAt s h mb k) false) answer).trans write)
  generalize reply : Block.reply _ (msgAt s h mb k) 16 1 PENDING 0 ans 0 = d at wrote
  have pair := Block.reply_pair (b.onEng fun e => { e with pend := e.pend ++ [{ p with hub := (msgAt s h mb k).hub, key := (msgAt s h mb k).key, code := c.code, copy := (msgAt s h mb k).x }] })
    (msgAt s h mb k) 16 1 PENDING 0 ans 0 y found
  have hubs := fun g => Block.reply_hub (b.onEng fun e => { e with pend := e.pend ++ [{ p with hub := (msgAt s h mb k).hub, key := (msgAt s h mb k).key, code := c.code, copy := (msgAt s h mb k).x }] })
    (msgAt s h mb k) 16 1 PENDING 0 ans 0 g
  have awaited : Awaited s { b := b, pend := some p } { p with hub := h, key := pairKey mb k, code := c.code, copy := (msgAt s h mb k).x } (msgAt s h mb k) (settle s d) := by
    subst reply
    exact ⟨congrArg Pair.st pair, rfl, rfl, hubs⟩
  have wr : d.wr = b.wr := by
    rw [← reply]
    rfl
  have effect : ∃ ps, admitAt c act aux h mb k s.store s.start = d.onEng fun e => { e with pend := ps } := by
    unfold admitAt
    dsimp only
    rw [wrote]
    split
    · exact ⟨_, rfl⟩
    · exact ⟨d.eng.pend, rfl⟩
  obtain ⟨ps, is⟩ := effect
  exact Runs.of_settle arm _ is (fun k a x => by rw [show (d.onEng _).wr = b.wr from wr]; exact silent k a x) (holds _ ps awaited)

/-- A row die on its way out of service, or in (Table 15-6). -/
def RowDie.atState (n : Nat) (d : RowDie) : RowDie := { d with st := n }

theorem Block.die_atState (b : Block) (q n : Nat) (there : b.dies.get? q ≠ none) : (b.onDie q (RowDie.atState n)).die q = { b.die q with st := n } := by
  obtain ⟨d, found⟩ := Option.ne_none_iff_exists'.mp there
  rw [b.die_onDie_same q _ d found, b.die_of_get q d found]
  rfl

theorem msgStackRelease_releases (st : Store) (b : Block) (m : Msg) (low : m.at 17 1 < 12) (on : (b.die (m.at 17 1)).st ≠ 0)
    (unused : ∀ c ∈ b.eng.layout.ord ++ b.eng.layout.priv, c / 64 ≠ m.at 17 1) :
    msgStackRelease st b m = { b := b.onDie (m.at 17 1) (RowDie.atState 2), pend := some { obj := .stack (m.at 17 1) } } := by
  have none_ : ((b.eng.layout.ord ++ b.eng.layout.priv).any fun c => c / 64 == m.at 17 1) = false :=
    List.any_eq_false.mpr fun c mem => by simpa using unused c mem
  unfold msgStackRelease
  dsimp only
  rw [if_neg (Nat.not_le.mpr low), none_, if_neg (by simpa using on)]
  rfl

theorem msgStackAdmit_admits (trained trep : Nat) (st : Store) (b : Block) (m : Msg) (low : m.at 17 1 < 12) (off : (b.die (m.at 17 1)).st = 0)
    (stop : (b.hub (m.at 17 1 / 3)).ringStop = true) :
    msgStackAdmit trained trep st b m =
      { b := (b.onDie (m.at 17 1) (RowDie.atState 3)).publish, pend := some { obj := .stack (m.at 17 1), aux := [trained, trep] } } := by
  unfold msgStackAdmit
  dsimp only
  rw [if_neg (Nat.not_le.mpr low), if_neg (by simp [off, stop])]
  rfl

theorem msgHubRelease_releases (st : Store) (b : Block) (m : Msg) (low : m.at 17 1 < 4) (up : b.hubUp (m.at 17 1) = true) (more : 2 ≤ b.upHubs.length)
    (idle : b.ringsOf (m.at 17 1) = []) (other : m.at 17 1 ≠ m.hub) :
    msgHubRelease st b m = { b := b.loseHub (m.at 17 1) false true, pend := some { obj := .hub (m.at 17 1) } } := by
  unfold msgHubRelease
  dsimp only
  rw [if_neg (Nat.not_le.mpr low), if_neg]
  simp [up, idle, other]
  omega

theorem msgHubAdmit_admits (starts : Bool) (st : Store) (b : Block) (m : Msg) (low : m.at 17 1 < 4) (down : b.hubUp (m.at 17 1) = false)
    (stop : (b.hub (m.at 17 1)).ringStop = true) (budget : (b.hub (m.at 17 1)).rebudgeted = true) :
    msgHubAdmit starts st b m = { b := b.onHub (m.at 17 1) (fun x => { x with admitting := true }), pend := some { obj := .hub (m.at 17 1), aux := [b2n starts] } } := by
  unfold msgHubAdmit
  dsimp only
  rw [if_neg (Nat.not_le.mpr low), if_neg (by simp [down, stop]), if_neg (by simp [budget])]

/-- A card of another code does not take the message. -/
theorem Card.not_takes {c d : Card} {x : BitVec 2048} (takes : d.takes x = true) (other : c.code ≠ d.code) : c.takes x = false := by
  unfold Card.takes at takes ⊢
  dsimp only at takes ⊢
  rw [Bool.and_eq_true, beq_iff_eq] at takes
  rw [takes.1, beq_eq_false_iff_ne.mpr other.symm, Bool.false_and]

/-- A list of rows of other codes has none for the message. -/
theorem find_row_none {rows : List MsgRow} {d : Card} {x : BitVec 2048} (takes : d.takes x = true) (others : (rows.all fun r => r.card.code != d.code) = true) :
    (rows.find? fun r => r.card.takes x) = none :=
  List.find?_eq_none.mpr fun r mem => by
    rw [Card.not_takes takes (by simpa using List.all_eq_true.mp others r mem)]
    exact Bool.false_ne_true

/-- What firmware does with a pending STACK_SERVICE RELEASE. -/
def stackReleaseRow : MsgRow := { card := cardStackService 0, act := msgStackRelease, fin := some finStackRelease }

theorem PendMsg.row_stackRelease {p : PendMsg} (takes : (cardStackService 0).takes (BitVec.ofNat 2048 p.copy) = true) : p.row = some stackReleaseRow := by
  unfold PendMsg.row
  rw [List.find?_append, List.find?_append, find_row_none (rows := rowsJobs) takes (by decide), find_row_none (rows := rowsMemory) takes (by decide)]
  have service : rowsService p = (rowsService p).take 7 ++ stackReleaseRow :: (rowsService p).drop 8 := rfl
  rw [service, List.find?_append, find_row_none takes (by rfl), List.find?_cons_of_pos (a := stackReleaseRow) takes]
  rfl

/-- A released stack whose row die holds no share and no operation powers off. -/
theorem finStackRelease_ends (st : Store) (b : Block) (m : Msg) (pm : PendMsg) (unshared : (b.die (m.at 17 1)).shares = []) (idle : (b.die (m.at 17 1)).board = []) :
    finStackRelease st b m pm = some (.ok ((b.onDie (m.at 17 1) RowDie.off).publish)) := by
  unfold finStackRelease
  dsimp only
  rw [unshared, idle, if_neg]
  simp

/-- The result of a pending message is written as a DONE reply. -/
theorem Ans.write_ended (a : Ans) (c : Card) (m : Msg) (ends : a.pend = none) :
    ∃ (b : Block) (ans : Nat), a.write c m true = b.reply m c.rep 2 a.status a.detail ans a.body ∧ b.unmailed = a.b.unmailed ∧ b.hubs = a.b.hubs ∧
      b.wr = a.b.wr := by
  unfold Ans.write
  rw [ends]
  dsimp only
  split <;> exact ⟨_, _, rfl, rfl, rfl, rfl⟩

/-! ### The messages -/

/-- A message begins what a later command ends: its pair waits (Table 13-3). -/
def Waits (s : State) (h k : Nat) (mb : Mbox) (t : State) : Prop := (t.blk.pair (msgAt s h mb k).hub (msgAt s h mb k).key).st = .pending

section
variable (h k : Nat) (mb : Mbox) (s : State) (q : Nat)

theorem takenAt_die (o : Nat) : (takenAt s h mb k).die o = s.blk.die o := rfl

/-- A part of a hub that no mailbox holds. -/
theorem takenAt_hubPart {α : Type} (p : Hub → α) (keeps : ∀ x : Hub, p x.unmailed = p x) : p ((takenAt s h mb k).hub q) = p (s.blk.hub q) :=
  Hub.of_unmailed p (takenAt_hub s h k q mb) keeps

theorem stackServiceRelease_waits (isQ : (msgAt s h mb k).at 17 1 = q) (acc : Accepted (cardStackService 0) h mb k s) (low : q < 12) (on : (s.blk.die q).st ≠ 0)
    (there : s.blk.dies.get? q ≠ none) (unused : ∀ c ∈ s.blk.eng.layout.ord ++ s.blk.eng.layout.priv, c / 64 ≠ q) :
    Runs (.stackServiceRelease h mb k) s fun t => Waits s h k mb t ∧ t.store = s.store ∧ t.blk.die q = { s.blk.die q with st := 2 } ∧
      ∀ o, o ≠ q → t.blk.die o = s.blk.die o := by
  subst isQ
  have answer := msgStackRelease_releases s.store (takenAt s h mb k) (msgAt s h mb k) low on unused
  refine runs_pending_kept msgStackRelease rfl acc answer (.of_hubs rfl) (.of_wr rfl) fun t ans => ⟨ans.pending, ans.store, ?_, fun o ne => ?_⟩
  · exact (ans.part (·.die _)).trans (Block.die_atState _ _ 2 there)
  · exact (ans.part (·.die o)).trans (Block.die_onDie_other _ _ _ _ ne)

theorem stackServiceAdmit_waits (trained trep : Nat) (isQ : (msgAt s h mb k).at 17 1 = q) (acc : Accepted (cardStackService 1) h mb k s) (low : q < 12)
    (off : (s.blk.die q).st = 0) (there : s.blk.dies.get? q ≠ none) (stop : (s.blk.hub (q / 3)).ringStop = true) :
    Runs (.stackServiceAdmit h mb k trained trep) s fun t => Waits s h k mb t ∧ t.store = s.store ∧ t.blk.die q = { s.blk.die q with st := 3 } ∧
      t.blk.eng.almGen = s.blk.eng.almGen + 1 ∧ ∀ o, o ≠ q → t.blk.die o = s.blk.die o := by
  subst isQ
  generalize isQ : (msgAt s h mb k).at 17 1 = q at *
  have answer := msgStackAdmit_admits trained trep s.store (takenAt s h mb k) (msgAt s h mb k) (isQ ▸ low) (isQ ▸ off)
    ((takenAt_hubPart h k mb s _ (·.ringStop) fun _ => rfl).trans (isQ ▸ stop))
  rw [isQ] at answer
  have only := Block.publish_only ((takenAt s h mb k).onDie q (RowDie.atState 3))
  have told := Footed.publish ((takenAt s h mb k).onDie q (RowDie.atState 3))
  refine runs_admitted (msgStackAdmit trained trep) [trained, trep] rfl acc answer told.addr (.of_wr (congrArg (·.wr) only)) fun t ps ans =>
    ⟨ans.pending, ans.store.trans (congrArg s.store.apply (congrArg (·.wr) only)), ?_, ?_, fun o ne => ?_⟩
  · exact (ans.part (·.die q)).trans ((congrArg (·.die q) only).trans (Block.die_atState _ q 3 there))
  · exact (ans.part (·.eng.almGen)).trans (congrArg (·.eng.almGen) only)
  · exact (ans.part (·.die o)).trans ((congrArg (·.die o) only).trans (Block.die_onDie_other _ _ _ _ ne))

theorem hubServiceRelease_waits (isQ : (msgAt s h mb k).at 17 1 = q) (acc : Accepted (cardHubService 0) h mb k s) (low : q < 4) (up : s.blk.hubUp q = true)
    (more : 2 ≤ s.blk.upHubs.length) (idle : s.blk.ringsOf q = []) (other : q ≠ h) :
    Runs (.hubServiceRelease h mb k) s fun t => Waits s h k mb t ∧ (t.blk.hub q).inService = false ∧ (t.blk.hub q).ringStop = (s.blk.hub q).ringStop ∧
      ∀ g, g ≠ q → t.blk.hubUp g = s.blk.hubUp g := by
  have upT : (takenAt s h mb k).hubUp q = true := by rwa [takenAt_hubUp]
  have moreT : 2 ≤ (takenAt s h mb k).upHubs.length := by rwa [Block.upHubs, takenAt_hubUp]
  have answer := msgHubRelease_releases s.store (takenAt s h mb k) (msgAt s h mb k) (isQ ▸ low) (isQ ▸ upT) moreT (isQ ▸ idle) (isQ ▸ other)
  rw [isQ] at answer
  obtain ⟨lost, -⟩ := (takenAt s h mb k).loseHub_bereft q false true upT
  have quiet := takenAt_quiet acc
  generalize (takenAt s h mb k).loseHub q false true = c at answer lost
  have others : ∀ g, g ≠ q → (c.hub g).inService = s.blk.hubUp g := fun g ne => by
    have same : (c.hub g).footing.inService = ((takenAt s h mb k).hub g).footing.inService := by rw [lost.others g ne]
    exact same.trans (takenAt_hubPart h k mb s g (·.inService) fun _ => rfl)
  have stop : (c.hub q).ringStop = (s.blk.hub q).ringStop := by
    rw [lost.ringStop, Bool.not_false, Bool.and_true]
    exact takenAt_hubPart h k mb s q (·.ringStop) fun _ => rfl
  refine runs_pending_kept msgHubRelease rfl acc answer lost.addr (lost.silent quiet (.of_wr rfl)) fun t ans =>
    ⟨ans.pending, (ans.hubPart q (·.inService)).trans lost.gone, (ans.hubPart q (·.ringStop)).trans stop, fun g ne => ?_⟩
  exact (ans.hubPart g (·.inService)).trans (others g ne)

theorem hubServiceAdmit_waits (starts : Bool) (isQ : (msgAt s h mb k).at 17 1 = q) (acc : Accepted (cardHubService 1) h mb k s) (low : q < 4)
    (down : s.blk.hubUp q = false) (stop : (s.blk.hub q).ringStop = true) (budget : (s.blk.hub q).rebudgeted = true) (there : s.blk.hubs.get? q ≠ none) :
    Runs (.hubServiceAdmit h mb k starts) s fun t => Waits s h k mb t ∧ t.store = s.store ∧ (t.blk.hub q).admitting = true ∧ t.blk.hubUp q = false := by
  have downT : (takenAt s h mb k).hubUp q = false := by rwa [takenAt_hubUp]
  have stopT := (takenAt_hubPart h k mb s q (·.ringStop) fun _ => rfl).trans stop
  have budgetT := (takenAt_hubPart h k mb s q (·.rebudgeted) fun _ => rfl).trans budget
  have answer := msgHubAdmit_admits starts s.store (takenAt s h mb k) (msgAt s h mb k) (isQ ▸ low) (isQ ▸ downT) (isQ ▸ stopT) (isQ ▸ budgetT)
  rw [isQ] at answer
  obtain ⟨x, found⟩ := Option.ne_none_iff_exists'.mp there
  obtain ⟨y, foundT, -⟩ := takenAt_get s h k q mb x found
  refine runs_admitted (msgHubAdmit starts) [b2n starts] rfl acc answer (.of_modify q _ rfl fun _ => rfl) (.of_wr rfl) fun t ps ans =>
    ⟨ans.pending, ans.store, ?_, ?_⟩
  · refine (ans.hubPart q (·.admitting)).trans ?_
    rw [Block.hub_onHub_same _ q _ y foundT]
  · refine (ans.hubPart q (·.inService)).trans ?_
    refine (Block.hub_onHub_part _ q q _ (·.inService)).trans ?_
    exact (congrFun (takenAt_hubUp s h k mb) q).trans down

end

theorem doneReply_releases (h k : Nat) (mb : Mbox) (s : State) (p : PendMsg) (only : s.blk.eng.pend = [p]) (hub : p.hub = h) (key : p.key = pairKey mb k)
    (stands : p.behind = false) (m : Msg) (isM : m = { hub := h, key := pairKey mb k, x := p.copy })
    (takes : (cardStackService 0).takes (BitVec.ofNat 2048 p.copy) = true) (may : s.blk.mayReply p true = true) (low : h < 4) (still : Quiet s)
    (there : s.blk.dies.get? (m.at 17 1) ≠ none) (unshared : (s.blk.die (m.at 17 1)).shares = []) (idle : (s.blk.die (m.at 17 1)).board = []) :
    Runs (.doneReply h mb k) s fun t => DoneReply t m OK ∧ t.blk.eng.pend = [] ∧ t.blk.die (m.at 17 1) = (s.blk.die (m.at 17 1)).off ∧
      ∀ o, o ≠ m.at 17 1 → t.blk.die o = s.blk.die o := by
  have up : s.start.hubUp h = true := by
    unfold Block.mayReply at may
    rw [hub, show (h == 4) = false by simp; omega, Bool.false_or] at may
    simp only [Bool.and_eq_true] at may
    exact may.1.1.2
  have effect : doneReply h mb k s.store s.start =
      ((Ans.ok (((s.start.onEng fun e => { e with pend := [] }).onDie (m.at 17 1) RowDie.off).publish)).write (cardStackService 0) m true).onEng
        fun e => { e with leaderRecs := e.leaderRecs.filter fun x => decide (x.hub < 4) } := by
    have same : p.same h (pairKey mb k) = true := by rw [PendMsg.same, hub, key, beq_self_eq_true, beq_self_eq_true]; rfl
    have fin := finStackRelease_ends s.store (s.start.onEng fun e => { e with pend := [] }) m p unshared idle
    have split : splitAtFirst (fun p : PendMsg => p.same h (pairKey mb k)) s.start.eng.pend = some ([], p, []) := by
      rw [show s.start.eng.pend = [p] from only, splitAtFirst, if_pos same]
    unfold doneReply
    rw [split]
    dsimp only
    rw [PendMsg.row_stackRelease takes]
    dsimp only
    rw [show s.start.mayReply p stackReleaseRow.card.wide = true from may, stands, hub, key]
    rw [if_neg (by decide), if_neg Bool.false_ne_true]
    dsimp only [stackReleaseRow]
    rw [show ([] ++ [] : List PendMsg) = [] from rfl, ← isM, fin]
  have told := Footed.publish ((s.start.onEng fun e => { e with pend := [] }).onDie (m.at 17 1) RowDie.off)
  have published := Block.publish_only ((s.start.onEng fun e => { e with pend := [] }).onDie (m.at 17 1) RowDie.off)
  have dies : ∀ o, (((s.start.onEng fun e => { e with pend := [] }).onDie (m.at 17 1) RowDie.off).publish).die o = (s.start.onDie (m.at 17 1) RowDie.off).die o :=
    fun o => congrArg (·.die o) published
  have wr := congrArg (·.wr) published
  have pend := congrArg (·.eng.pend) published
  generalize ((s.start.onEng fun e => { e with pend := [] }).onDie (m.at 17 1) RowDie.off).publish = c at effect told dies wr pend
  obtain ⟨b, ans, write, rest, hubs, sameWr⟩ := (Ans.ok c).write_ended (cardStackService 0) m rfl
  rw [write] at effect
  obtain ⟨y, found⟩ := Block.there_of_hubUp ((told.hubUp h).trans up)
  have foundB : b.hubs.get? m.hub = some y := by rw [hubs, isM]; exact found
  have quiet : (b.hub m.hub).regs.msiAddr = 0 := by
    rw [Block.hub, hubs]
    exact told.quiet still m.hub
  have only := b.reply_quiet m (cardStackService 0).rep 2 (Ans.ok c).status (Ans.ok c).detail ans (Ans.ok c).body quiet
  have die : ∀ o, b.die o = (s.start.onDie (m.at 17 1) RowDie.off).die o := fun o => (Block.of_unmailed (·.die o) rest fun _ => rfl).trans (dies o)
  refine Runs.of_effect (s := s) rfl _ effect ?_ ⟨(doneReply_of_reply b m _ _ OK 0 ans 0 y foundB rfl (by decide) (by decide) (by decide)).1, ?_, ?_, fun o other => ?_⟩
  · exact (congrArg (·.wr) only).trans (sameWr.trans wr)
  · exact (congrArg (·.eng.pend) only).trans ((Block.of_unmailed (·.eng.pend) rest fun _ => rfl).trans pend)
  · refine (congrArg (·.die (m.at 17 1)) only).trans ((die _).trans ?_)
    obtain ⟨d, foundD⟩ := Option.ne_none_iff_exists'.mp there
    rw [s.start.die_onDie_same _ _ d foundD, s.blk.die_of_get _ d foundD]
  · exact (congrArg (·.die o) only).trans ((die o).trans (s.start.die_onDie_other _ _ _ other))

/-- Settles O28. -/
theorem serviceMessagesActAndAreAnswered : Obligations.ServiceMessagesActAndAreAnswered := by
  unfold Obligations.ServiceMessagesActAndAreAnswered
  refine ⟨fun h k trained trep starts mb s => ⟨fun acc low on there unused => ?_, fun acc low off there stop => ?_, fun acc low up more idle other => ?_,
    fun acc low down stop budget there => ?_⟩, ?_⟩
  · exact stackServiceRelease_waits h k mb s _ rfl acc low on there unused
  · exact stackServiceAdmit_waits h k mb s _ trained trep rfl acc low off there stop
  · exact hubServiceRelease_waits h k mb s _ rfl acc low up more idle other
  · exact hubServiceAdmit_waits h k mb s _ starts rfl acc low down stop budget there
  · intro h k mb s p only hub key stands m takes _ may low still there unshared idle
    exact doneReply_releases h k mb s p only hub key stands m rfl takes may low still there unshared idle

end Sys2Proof.Machine
end

section
/-!
SUPPORT. SCOREBOARD_RETIRE while a row of the twin waits (R67, R135, R403).

The statement does not ask that no row of the twin waits. SCOREBOARD_RETIRE takes such rows up again: at the receiver of a resynchronisation the
row is committed in the same unit, and its slot's bytes change.
-/
namespace Sys2Proof.WaitingRow
open Sys2Proof.Machine Sys2Proof.Spec Sys2Proof.Refute

/-- Mirrored table 5 of job 1: 64 rows of 16 elements from 0x10000000 on, row and master in FP32. -/
def mirrored : BitVec 512 :=
  BitVec.ofNat 512 (pack [(0, 8, 0x20), (8, 8, 0x01), (22, 1, 1), (24, 8, 0x01), (32, 12, 15), (56, 6, 1), (64, 20, 5), (128, 48, 64), (256, 41, 64), (320, 56, 0x10000000)])

/-- What the twin sends for row 3. -/
def sentRow : TwinRow := { row := { table := 5, lrow := 3, bseq := 0, slot := List.replicate 256 0xAB, master := [], accum := [] } }

/-- The receiver of a resynchronisation of table 5, for which row 3 of the twin waits; job 1's page table is one leaf of 1 GiB. -/
def receiver : State :=
  { engine with
    store := { mem := writeBytes (writeBytes [] 0 (toBytes 8 0x100001)) 0x100000 (toBytes 8 0x73) }
    blk := { engine.blk with
      jobs := [(1, {})], tables := [(5, { desc := mirrored })]
      eng := { engine.blk.eng with twin := { state := .resync, receiver := true, resyncs := [{ table := 5 }], rowsIn := [sentRow] } } } }

/-- And a finished entry of table 6 on the scoreboard of stack 0. -/
def finished : State := { receiver with blk := receiver.blk.onDie 0 fun d => { d with board := [{ table := 6 }] } }

theorem finished_meets : (finished.blk.hubs.vals.all fun x => x.regs.msiAddr == 0) = true ∧ (finished.blk.die 0).board = [{ table := 6 }] := by decide +kernel

/-- The bytes of row 3 have changed. -/
theorem retire_stores : passes (.scoreboardRetire 0 0) finished (fun t => readByte t.store.mem 0x10000340 == readByte finished.store.mem 0x10000340) = false := by
  decide +kernel

/-- Refutes O47: retiring an entry of the scoreboard commits a row of the twin that waits, and memory changes. -/
theorem not_sharesRetireAndRowsAreRederived : ¬Obligations.SharesRetireAndRowsAreRederived := by
  unfold Obligations.SharesRetireAndRowsAreRederived
  intro h
  obtain ⟨rows, -⟩ := h
  obtain ⟨-, retires, -⟩ := rows 0 finished
  obtain ⟨quiet, board⟩ := finished_meets
  have ran := retires 0 { table := 6 } (quiet_of_all _ quiet) (by rw [board]; rfl) rfl (fun x among => by simp at among)
  refine not_runs (fun t => readByte t.store.mem 0x10000340 == readByte finished.store.mem 0x10000340) ?_ retire_stores ran
  rintro t ⟨same, -⟩
  rw [same]
  exact beq_self_eq_true _

end Sys2Proof.WaitingRow
end

section
/-!
SUPPORT. MASTER_WRITE_ACK while an accumulator of the twin waits (R116, R403).

The statement does not ask that no row of the twin waits. MASTER_WRITE_ACK takes such rows up again: where one brings the accumulator of the row
that is acknowledged, the row has an accumulator after the command, though its batch consumed it.
-/
namespace Sys2Proof.WaitingAccumulator
open Sys2Proof.Machine Sys2Proof.Spec Sys2Proof.Refute Sys2Proof.WaitingRow

/-- The twin's pending accumulator of row 3. -/
def sentAcc : TwinRow := { row := { table := 5, lrow := 3, bseq := 0, slot := [], master := [], accum := [1] } }

/-- The receiver, with a share of table 5 on stack 0 whose row 3 waits for the acknowledgement of its record. -/
def acknowledged : State :=
  { receiver with blk := (receiver.blk.onEng fun e => { e with twin := { e.twin with rowsIn := [sentAcc] } }).onDie 0 fun d =>
      { d with shares := [(5, {})], journals := [{ table := 5, lrow := 3 }] } }

theorem acknowledged_meets : (acknowledged.blk.hubs.vals.all fun x => x.regs.msiAddr == 0) = true ∧ (acknowledged.blk.die 0).shares = [(5, {})] ∧
    (acknowledged.blk.die 0).journals = [{ table := 5, lrow := 3 }] ∧ Tbl.wf (acknowledged.blk.die 0).accs = true ∧
    (tdOf (acknowledged.blk.tables.getD 5 {}).desc).table = 5 ∧ acknowledged.blk.hostUp = true ∧
    acknowledged.blk.rowBlocked (acknowledged.blk.rowRef (tdOf (acknowledged.blk.tables.getD 5 {}).desc) 3 []).1 = false ∧
    acknowledged.blk.masterMute [] = false := by decide +kernel

/-- Row 3 has an accumulator. -/
theorem ack_brings_accumulator : passes (.masterWriteAck 0 5) acknowledged (fun t => ((t.blk.die 0).accs.get? (accKey 5 3)).isNone) = false := by
  decide +kernel

/-- Refutes O45: the acknowledgement of a row's record takes up an accumulator of that row which the twin has sent. -/
theorem not_rowsAreApplied : ¬Obligations.RowsAreApplied := by
  unfold Obligations.RowsAreApplied
  intro h
  obtain ⟨quiet, shares, journals, wf, names, up, free, mute⟩ := acknowledged_meets
  obtain ⟨-, acks⟩ := h 0 5 acknowledged {} (quiet_of_all _ quiet) (by rw [shares]; rfl) wf names
  refine not_runs (fun t => ((t.blk.die 0).accs.get? (accKey 5 3)).isNone) ?_ ack_brings_accumulator
    (acks { table := 5, lrow := 3 } (by rw [journals]; rfl) up free mute)
  rintro t ⟨⟨consumed, -⟩, -⟩
  exact Option.isNone_iff_eq_none.mpr consumed

end Sys2Proof.WaitingAccumulator
end

section
/-! O44: runs are added to accumulators, or logged and replayed. -/
namespace Sys2Proof.Machine
open Sys2Proof.Spec

/-! ### A row die's record while hubs and the engine's record change -/

/-- b is s but for hubs, the engine's record and row dies, and row die `stack` stands as d. -/
structure AtDie (stack : Nat) (s : Block) (d : RowDie) (b : Block) : Prop where
  rest : b = { s with hubs := b.hubs, eng := b.eng, dies := b.dies }
  quiet : b.Quiet
  here : b.dies.get? stack = some d

namespace AtDie

variable {stack : Nat} {s b : Block} {d : RowDie}

theorem die (stands : AtDie stack s d b) : b.die stack = d := b.die_of_get stack d stands.here

theorem part (stands : AtDie stack s d b) {α : Type} (p : Block → α)
    (keeps : ∀ (c : Block) hubs eng dies, p { c with hubs := hubs, eng := eng, dies := dies } = p c := by exact fun _ _ _ _ => rfl) : p b = p s :=
  (congrArg p stands.rest).trans (keeps s _ _ _)

theorem onDie (stands : AtDie stack s d b) (f : RowDie → RowDie) : AtDie stack s (f d) (b.onDie stack f) := by
  refine ⟨?_, stands.quiet, ?_⟩
  · conv_lhs => rw [stands.rest]
    rfl
  · show (b.dies.modify stack f).get? stack = _
    rw [Tbl.get?_modify_same, stands.here]
    rfl

theorem onShare (stands : AtDie stack s d b) (table : Nat) (f : Share → Share) :
    AtDie stack s { d with shares := d.shares.modify table f } (b.onShare stack table f) :=
  stands.onDie fun d => { d with shares := d.shares.modify table f }

theorem event (stands : AtDie stack s d b) (hub kind : Nat) (job : Option Nat) (payload : Nat) : AtDie stack s d (b.event hub kind job payload) := by
  have told := Told.event b hub kind job payload stands.quiet
  have dies : (b.event hub kind job payload).dies = b.dies := told.part (·.dies)
  refine ⟨?_, told.quiet stands.quiet, (congrArg (Tbl.get? · stack) dies).trans stands.here⟩
  rw [dies]
  exact told.eq.trans (congrArg (fun x : Block => { x with hubs := (b.event hub kind job payload).hubs, eng := (b.event hub kind job payload).eng }) stands.rest)

theorem onSched (stands : AtDie stack s d b) (h : Nat) (f : Sched → Sched) : AtDie stack s d (b.onSched h f) := by
  refine ⟨?_, fun g => (b.hub_onHub_part h g _ (·.regs.msiAddr)).trans (stands.quiet g), stands.here⟩
  conv_lhs => rw [stands.rest]
  rfl

theorem addTask (stands : AtDie stack s d b) (h rid p : Nat) (kind : TaskKind) (place : Option Nat) (ops : Nat) (row : Option Nat) (after : List (Nat × Nat))
    (single : Bool) : AtDie stack s d (b.addTask h rid p kind place ops row after single) := by
  unfold Block.addTask
  split
  · exact stands
  · exact stands.onSched h _

theorem foldl {α : Type} {f : Block → α → Block} (step : ∀ b, AtDie stack s d b → ∀ a, AtDie stack s d (f b a)) (as : List α) (stands : AtDie stack s d b) :
    AtDie stack s d (as.foldl f b) := by
  induction as generalizing b with
  | nil => exact stands
  | cons a as ih => exact ih (step b stands a)

theorem applyTasks (stands : AtDie stack s d b) (td : TD) (sh : Share) : AtDie stack s d (b.applyTasks stack td sh) := by
  unfold Block.applyTasks
  dsimp only
  split
  · split
    · exact stands
    · exact foldl (fun b stands l => (stands.addTask _ _ _ _ _ _ _ _ _).addTask _ _ _ _ _ _ _ _ _) _ stands
  · exact stands

end AtDie

/-! ### What a run leaves of the row die (R105, R117) -/

/-- From d to e the table's share keeps its runs, and scoreboard and log stay. -/
structure Counted (table : Nat) (d e : RowDie) : Prop where
  board : e.board = d.board
  log : e.log = d.log
  share : ∀ sh, d.shares.get? table = some sh → ∃ q, e.shares.get? table = some q ∧ q.runs = sh.runs

namespace Counted

variable {table : Nat} {d e f : RowDie}

theorem refl (d : RowDie) : Counted table d d := ⟨rfl, rfl, fun sh found => ⟨sh, found, rfl⟩⟩

theorem trans (first : Counted table d e) (second : Counted table e f) : Counted table d f := by
  refine ⟨second.board.trans first.board, second.log.trans first.log, fun sh found => ?_⟩
  obtain ⟨q, there, runs⟩ := first.share sh found
  obtain ⟨q', there', runs'⟩ := second.share q there
  exact ⟨q', there', runs'.trans runs⟩

theorem onShare (d : RowDie) (f : Share → Share) (keeps : ∀ sh, (f sh).runs = sh.runs) : Counted table d { d with shares := d.shares.modify table f } :=
  ⟨rfl, rfl, fun sh found => ⟨f sh, by rw [Tbl.get?_modify_same, found]; rfl, keeps sh⟩⟩

end Counted

theorem AtDie.accLost {stack : Nat} {s b : Block} {d : RowDie} (stands : AtDie stack s d b) (job table lrow cause bseq : Nat) :
    ∃ e, AtDie stack s e (b.accLost stack job table lrow cause bseq) ∧ Counted table d e ∧ e.accs = d.accs :=
  ⟨_, (stands.event _ _ _ _).onShare table _, Counted.onShare d _ fun _ => rfl, rfl⟩

theorem AtDie.moveCursor {stack : Nat} {s b : Block} {d : RowDie} (stands : AtDie stack s d b) (table : Nat) :
    ∃ e, AtDie stack s e (b.moveCursor stack table) ∧ Counted table d e ∧ e.accs = d.accs :=
  ⟨_, stands.onDie _, ⟨rfl, rfl, fun sh found => ⟨sh, found, rfl⟩⟩, rfl⟩

/-- The accumulator is kept, the long-sum mark aside (R142). -/
theorem AtDie.keepAcc {stack : Nat} {s b : Block} {d : RowDie} (stands : AtDie stack s d b) (td : TD) (lrow n : Nat) (a : Acc) :
    ∃ e long, AtDie stack s e (b.keepAcc stack td lrow n a) ∧ Counted td.table d e ∧ e.accs.get? (accKey td.table lrow) = some { a with long := long } := by
  unfold Block.keepAcc
  extract_lets long b1 b2 b3 apply
  have put : AtDie stack s { d with accs := d.accs.put (accKey td.table lrow) { a with long := a.long || long } } b1 :=
    stands.onDie fun d => { d with accs := d.accs.put (accKey td.table lrow) { a with long := a.long || long } }
  have counted : Counted td.table d { d with accs := d.accs.put (accKey td.table lrow) { a with long := a.long || long } } :=
    ⟨rfl, rfl, fun sh found => ⟨sh, found, rfl⟩⟩
  have rows := put.onShare td.table fun sh => (sh.count cCONTRIBS n).count cROWS 1
  have told : ∃ e, AtDie stack s e b3 ∧ Counted td.table d e ∧ e.accs = d.accs.put (accKey td.table lrow) { a with long := a.long || long } := by
    show ∃ e, AtDie stack s e (if long then _ else b2) ∧ _
    split
    · exact ⟨_, (rows.event _ _ _ _).onShare td.table _,
        (counted.trans (Counted.onShare _ (fun sh => (sh.count cCONTRIBS n).count cROWS 1) fun _ => rfl)).trans (Counted.onShare _ (·.count cLONGSUM 1) fun _ => rfl), rfl⟩
    · exact ⟨_, rows, counted.trans (Counted.onShare _ (fun sh => (sh.count cCONTRIBS n).count cROWS 1) fun _ => rfl), rfl⟩
  obtain ⟨e, at3, counted3, accs⟩ := told
  have kept : e.accs.get? (accKey td.table lrow) = some { a with long := a.long || long } := by rw [accs, Tbl.get?_put_same]
  split
  · exact ⟨e, _, at3, counted3, kept⟩
  · obtain ⟨e', at4, counted4, same⟩ := at3.moveCursor td.table
    exact ⟨e', _, at4, counted3.trans counted4, (congrArg (Tbl.get? · _) same).trans kept⟩

/-! ### RUN_ADD (R105, R117) -/

/-- A share's next run has been taken: the share goes on to the rest, scoreboard, log and accumulators stand. -/
theorem AtDie.takeRun {stack : Nat} {s b : Block} {d : RowDie} (stands : AtDie stack s d b) (table : Nat) (sh : Share) (found : d.shares.get? table = some sh)
    (f : Share → Share) (g : InProg → InProg) :
    ∃ e, AtDie stack s e ((b.onShare stack table f).onInProg stack table g) ∧ e.shares.get? table = some (f sh) ∧ e.board = d.board ∧ e.log = d.log ∧ e.accs = d.accs :=
  ⟨_, (stands.onShare table f).onDie _, by show (d.shares.modify table f).get? table = _; rw [Tbl.get?_modify_same, found]; rfl, rfl, rfl, rfl⟩

/-- A run goes to the overflow log. -/
def Block.logRun (b : Block) (stack : Nat) (e : LogEntry) : Block :=
  ((b.onDie stack fun d => { d with log := d.log ++ [e], accs := d.accs.del (accKey e.table e.lrow) }).onShare stack e.table (·.count cSPILLED 1)).enter stack
    { table := e.table, lrow := e.lrow, finished := false }

/-- A run is added to the accumulator `a`, in one operation of the scoreboard. -/
def Block.addRun (b : Block) (stack : Nat) (td : TD) (table : Nat) (rn : Run) (a : Acc) : Block :=
  (b.keepAcc stack td rn.lrow rn.contribs.length (accRun table (td.globalRow rn.lrow) a none rn.contribs)).enter stack { table := table, lrow := rn.lrow }

/-- The share's applications become tasks once its last run is added. -/
def Block.endRuns (b : Block) (stack table : Nat) (td : TD) (sh : Share) (rest : List Run) : Block :=
  if rest.isEmpty && !(b.die stack).log.any (·.table == table) then b.applyTasks stack td sh else b

/-- The accumulator that a run is added to (R105). -/
def RowDie.baseAcc (d : RowDie) (table width : Nat) (sh : Share) (rn : Run) (err : ReadErr) : Acc :=
  match d.accs.get? (accKey table rn.lrow) with
  | some a => if sh.addMode && !err.accLost then a else newAcc sh.job sh.bseq width
  | none => newAcc sh.job sh.bseq width

/-- A run finds no room in the write-combining buffer, or its lines' sets are full (R117, R291). -/
def Block.spills (b : Block) (stack table : Nat) (td : TD) (sh : Share) (rn : Run) : Bool :=
  !(((b.die stack).accs.get? (accKey table rn.lrow)).isSome || decide ((b.die stack).wcbUsed + accBytes td.width ≤ Config.wcbBytes)) ||
    b.rowBlocked (b.rowRef td rn.lrow (sh.slots.getD rn.lrow [])).1

/-- RUN_ADD with a run that nothing stalls and that the log has room for: the share goes on, and the run is logged or added. -/
theorem runAdd_eq (stack table : Nat) (err : ReadErr) (b : Block) (d : RowDie) (sh : Share) (rn : Run) (rest : List Run) (stands : AtDie stack b d b)
    (shares : d.shares.get? table = some sh) (runs : sh.runs = rn :: rest) (free : b.rowTask sh.ring sh.p rn.lrow = false)
    (flows : b.stalls stack table rn.lrow [] = false) (td : TD) (isTd : tdOf (b.tables.getD table {}).desc = td) (base : Acc)
    (isBase : d.baseAcc table td.width sh rn err = base) :
    let e : LogEntry := { table := table, lrow := rn.lrow, bseq := sh.bseq, acc := base, remain := rn.contribs }
    (b.spills stack table td sh rn = true → (d.log.map (·.bytes)).sum + e.bytes ≤ logBytes) →
    ∃ t x, AtDie stack b x t ∧ (∃ q, x.shares.get? table = some q ∧ q.runs = rest) ∧ x.log = d.log ∧
      runAdd stack table err b = (if b.spills stack table td sh rn then t.logRun stack e else t.addRun stack td table rn base).endRuns stack table td sh rest := by
  intro e room
  unfold runAdd
  rw [isTd]
  rw [stands.die]
  extract_lets d'
  rw [shares]
  dsimp -zeta only
  rw [runs]
  dsimp -zeta only
  rw [free, flows, Bool.or_false, if_neg (by decide)]
  extract_lets key pend lost a rm spill e' b1 b2 b3 b4
  have isAcc : a = base := by
    rw [← isBase]
    show (match pend with | some a => _ | none => _) = RowDie.baseAcc d table td.width sh rn err
    unfold RowDie.baseAcc
    show _ = match pend with | some a => _ | none => _
    cases is : pend with
    | none => rfl
    | some a =>
      have isLost : lost = (sh.addMode && err.accLost) := by
        show (sh.addMode && pend.isSome && err.accLost) = _
        rw [is, Option.isSome_some, Bool.and_true]
      dsimp only
      rw [isLost]
      cases sh.addMode <;> cases err.accLost <;> rfl
  have isEntry : e' = e := congrArg (fun a => ({ table := table, lrow := rn.lrow, bseq := sh.bseq, acc := a, remain := rn.contribs } : LogEntry)) isAcc
  have isSpill : b.spills stack table td sh rn = spill := by
    unfold Block.spills
    rw [stands.die]
  obtain ⟨d1, at1, counted, -⟩ : ∃ x, AtDie stack b x b1 ∧ Counted table d x ∧ x.accs = d.accs := by
    show ∃ x, AtDie stack b x (if lost then _ else b) ∧ _
    split
    · exact stands.accLost _ _ _ _ _
    · exact ⟨d, stands, Counted.refl d, rfl⟩
  obtain ⟨q, there, -⟩ := counted.share sh shares
  obtain ⟨x, at3, left, -, log, -⟩ := at1.takeRun table q there (fun sh => { sh.count cREPLACED (b2n (!sh.addMode && pend.isSome)) with runs := rest })
    fun i => { i with added := i.added ++ [rn.lrow] }
  refine ⟨b3, x, at3, ⟨_, left, rfl⟩, log.trans counted.log, ?_⟩
  rw [isSpill] at room ⊢
  have fits : (spill && decide (logBytes < (d'.log.map (·.bytes)).sum + e'.bytes)) = false := by
    rw [isEntry]
    cases is : spill with
    | false => rfl
    | true => exact decide_eq_false (Nat.not_lt.mpr (room is))
  rw [fits, if_neg (by decide)]
  show Block.endRuns (if spill then b3.logRun stack e' else b3.addRun stack td table rn a) stack table td sh rest = _
  rw [isEntry, isAcc]

theorem AtDie.endRuns {stack : Nat} {s b : Block} {d : RowDie} (stands : AtDie stack s d b) (table : Nat) (td : TD) (sh : Share) (rest : List Run) :
    AtDie stack s d (b.endRuns stack table td sh rest) := by
  unfold Block.endRuns
  split
  · exact stands.applyTasks td sh
  · exact stands

theorem AtDie.logRun {stack : Nat} {s b : Block} {d : RowDie} (stands : AtDie stack s d b) (e : LogEntry) (q : Share) (found : d.shares.get? e.table = some q) :
    ∃ x, AtDie stack s x (b.logRun stack e) ∧ x.log = d.log ++ [e] ∧ ∃ q', x.shares.get? e.table = some q' ∧ q'.runs = q.runs := by
  have logged := stands.onDie fun d => { d with log := d.log ++ [e], accs := d.accs.del (accKey e.table e.lrow) }
  have spilled := logged.onShare e.table (·.count cSPILLED 1)
  have entered := spilled.onDie fun d => { d with board := d.board ++ [{ table := e.table, lrow := e.lrow, finished := false }] }
  refine ⟨_, entered, rfl, q.count cSPILLED 1, ?_, rfl⟩
  show (d.shares.modify e.table (·.count cSPILLED 1)).get? e.table = _
  rw [Tbl.get?_modify_same, found]
  rfl

theorem AtDie.addRun {stack : Nat} {s b : Block} {d : RowDie} (stands : AtDie stack s d b) (td : TD) (rn : Run) (a : Acc) (q : Share)
    (found : d.shares.get? td.table = some q) :
    ∃ x, AtDie stack s x (b.addRun stack td td.table rn a) ∧ x.log = d.log ∧ ({ table := td.table, lrow := rn.lrow } : SbEntry) ∈ x.board ∧
      (∃ q', x.shares.get? td.table = some q' ∧ q'.runs = q.runs) ∧
      ∃ long, x.accs.get? (accKey td.table rn.lrow) = some { accRun td.table (td.globalRow rn.lrow) a none rn.contribs with long := long } := by
  obtain ⟨x, long, kept, counted, acc⟩ := stands.keepAcc td rn.lrow rn.contribs.length (accRun td.table (td.globalRow rn.lrow) a none rn.contribs)
  have entered := kept.onDie fun d => { d with board := d.board ++ [{ table := td.table, lrow := rn.lrow }] }
  exact ⟨_, entered, counted.log, List.mem_append_right _ (List.mem_singleton.mpr rfl), counted.share q found, long, acc⟩

/-! ### OVERFLOW_REPLAY (R117) -/

theorem overflowReplay_adds (stack : Nat) (b : Block) (d : RowDie) (e : LogEntry) (es : List LogEntry) (stands : AtDie stack b d b) (log : d.log = e :: es)
    (names : (tdOf (b.tables.getD e.table {}).desc).table = e.table) :
    ∃ x, AtDie stack b x (overflowReplay stack [] b) ∧ x.log = es ∧ ∃ long, x.accs.get? (accKey e.table e.lrow) =
      some { accRun e.table ((tdOf (b.tables.getD e.table {}).desc).globalRow e.lrow) e.acc e.spill e.remain with long := long } := by
  unfold overflowReplay
  rw [stands.die, log]
  dsimp -zeta only
  extract_lets td feeds b1 b2 b3
  have at1 : AtDie stack b { d with log := es } b1 := stands.onDie fun d => { d with log := es }
  obtain ⟨x, long, at2, counted, acc⟩ := at1.keepAcc td e.lrow e.remain.length (accRun e.table (td.globalRow e.lrow) e.acc e.spill e.remain)
  have at3 : AtDie stack b { x with board := x.board.map fun y => if y.table == e.table && y.lrow == e.lrow && !y.finished then { y with finished := true, holds := [] } else y } b3 :=
    at2.onDie fun d => { d with board := d.board.map fun y => if y.table == e.table && y.lrow == e.lrow && !y.finished then { y with finished := true, holds := [] } else y }
  rw [show td.table = e.table from names] at acc
  split
  · exact ⟨_, at3, counted.log, long, acc⟩
  · split
    · exact ⟨_, at3.applyTasks td _, counted.log, long, acc⟩
    · exact ⟨_, at3, counted.log, long, acc⟩

/-! ### The commands -/

theorem atDie_start (stack : Nat) (s : State) (d : RowDie) (still : Quiet s) (here : s.blk.dies.get? stack = some d) : AtDie stack s.start d s.start :=
  ⟨rfl, still, here⟩

/-- A live command that leaves the block as it was but for a row die's record. -/
theorem runs_atDie {i : Instr} {s : State} {f : Store → Block → Block} {P : State → Prop} {stack : Nat} {d : RowDie} (arm : exec i s = live f s)
    (living : s.blk.fatal = false) (stands : AtDie stack s.start d (f s.store s.start))
    (holds : ∀ t : State, t.store = s.store → t.blk.works = s.blk.works → t.blk.tables = s.blk.tables → t.blk.die stack = d → P t) : Runs i s P := by
  have awake : ¬s.start.fatal = true := fun dead => Bool.noConfusion (living.symm.trans dead)
  refine Runs.of_effect (s := s) arm (f s.store s.start) (if_neg awake) ?_ (holds _ rfl ?_ ?_ stands.die)
  · exact stands.part (·.wr)
  · exact stands.part (·.works)
  · exact stands.part (·.tables)

/-- Settles O44: a run is added or logged, and a logged one goes on where its sum stood. -/
theorem runsAreAddedToAccumulators : Obligations.RunsAreAddedToAccumulators := by
  unfold Obligations.RunsAreAddedToAccumulators
  refine ⟨?_, ?_⟩
  · intro stack table err s sh rn rest living still shares runs free flows _ td pend base blocked room ahead
    obtain ⟨d, here⟩ : ∃ d, s.blk.dies.get? stack = some d := by
      obtain none_ | found := (s.blk.dies.get? stack).eq_none_or_eq_some
      · rw [Block.die, Tbl.getD, none_] at shares
        cases shares
      · exact found
    have stands := atDie_start stack s d still here
    have isDie : s.blk.die stack = d := stands.die
    rw [isDie] at shares
    have eq := runAdd_eq stack table err s.start d sh rn rest stands shares runs free flows td rfl base (by rw [← isDie]; rfl)
    have isSpill : s.start.spills stack table td sh rn = (!room || blocked) := rfl
    refine ⟨fun names hasRoom unblocked => ?_, ?_⟩
    · have adds : s.start.spills stack table td sh rn = false := by rw [isSpill, hasRoom, unblocked]; rfl
      obtain ⟨t, x, at_, ⟨q, share, left⟩, log, ran⟩ := eq fun spills => Bool.noConfusion (adds.symm.trans spills)
      rw [adds, if_neg (by decide)] at ran
      obtain ⟨y, added, log', entered, ⟨q', share', left'⟩, long, acc⟩ := at_.addRun td rn base q (names ▸ share)
      rw [names] at added entered share' acc
      refine runs_atDie (f := fun _ b => runAdd stack table err b) rfl living (d := y) (ran ▸ added.endRuns table td sh rest) fun t store works tables die => ?_
      rw [die]
      exact ⟨⟨store, works, tables, q', (congrArg (·.shares.get? table) die).trans share', left'.trans left⟩, (log'.trans log).trans (congrArg (·.log) isDie.symm), entered, _, acc, rfl⟩
    · intro e spills fits
      have logs : s.start.spills stack table td sh rn = true := by
        rw [isSpill]
        obtain full | held := spills
        · rw [full]; rfl
        · rw [held, Bool.or_true]
      obtain ⟨t, x, at_, ⟨q, share, left⟩, log, ran⟩ := eq fun _ => by rw [← isDie]; exact fits
      rw [logs, if_pos rfl] at ran
      obtain ⟨y, logged, log', q', share', left'⟩ := at_.logRun e q share
      refine runs_atDie (f := fun _ b => runAdd stack table err b) rfl living (d := y) (ran ▸ logged.endRuns table td sh rest) fun t store works tables die => ?_
      rw [die]
      exact ⟨⟨store, works, tables, q', (congrArg (·.shares.get? table) die).trans share', left'.trans left⟩, log'.trans (by rw [log, isDie])⟩
  · intro stack s e es living still log td names
    obtain ⟨d, here⟩ : ∃ d, s.blk.dies.get? stack = some d := by
      obtain none_ | found := (s.blk.dies.get? stack).eq_none_or_eq_some
      · rw [Block.die, Tbl.getD, none_] at log
        cases log
      · exact found
    have stands := atDie_start stack s d still here
    rw [show s.blk.die stack = d from stands.die] at log
    obtain ⟨x, replayed, left, long, acc⟩ := overflowReplay_adds stack s.start d e es stands log names
    refine runs_atDie (f := fun _ b => overflowReplay stack [] b) rfl living (d := x) replayed fun t store works tables die => ?_
    rw [die]
    exact ⟨store, works, left, _, acc, rfl⟩

end Sys2Proof.Machine
end

section
/-!
SUPPORT. What the commands of a ring's hub leave of its translation cache: they drop entries and bring none (R308, R311).
-/
namespace Sys2Proof.Machine
open Sys2Proof.Spec

/-- The translation cache holds an entry. -/
def Xlat.holds (x : Xlat) (e : XEntry) : Prop := ∃ cs ∈ x.sets.vals, e ∈ cs.ways.vals

theorem Tbl.mem_vals_put {α : Type} (t : Tbl α) (k : Nat) (w : α) {v : α} (mem : v ∈ (t.put k w).vals) : v ∈ t.vals ∨ v = w := by
  induction t with
  | nil => exact .inr (List.mem_singleton.mp mem)
  | cons x t ih =>
    obtain ⟨q, u⟩ := x
    simp only [Tbl.put] at mem
    split at mem
    · exact (List.mem_cons.mp mem).symm
    · split at mem
      · exact (List.mem_cons.mp mem).symm.imp_left (List.mem_cons_of_mem _)
      · obtain rfl | rest := List.mem_cons.mp mem
        · exact .inl List.mem_cons_self
        · exact (ih rest).imp_left (List.mem_cons_of_mem _)

theorem Tbl.mem_vals_modify {α : Type} (t : Tbl α) (k : Nat) (f : α → α) {v : α} (mem : v ∈ (t.modify k f).vals) : v ∈ t.vals ∨ ∃ u ∈ t.vals, v = f u := by
  unfold Tbl.modify at mem
  split at mem
  · exact .inl mem
  · rename_i u found
    exact (Tbl.mem_vals_put t k (f u) mem).imp_right fun is => ⟨u, Tbl.mem_vals_of_get found, is⟩

theorem Tbl.mem_vals_del {α : Type} (t : Tbl α) (k : Nat) {v : α} (mem : v ∈ (t.del k).vals) : v ∈ t.vals := by
  induction t with
  | nil => cases mem
  | cons x t ih =>
    obtain ⟨q, u⟩ := x
    simp only [Tbl.del] at mem
    split at mem
    · exact mem
    · split at mem
      · exact List.mem_cons_of_mem _ mem
      · obtain rfl | rest := List.mem_cons.mp mem
        · exact List.mem_cons_self
        · exact List.mem_cons_of_mem _ (ih rest)

theorem Xlat.holds_touch {x : Xlat} {s w : Nat} {e : XEntry} (held : (x.touch s w).holds e) : x.holds e := by
  obtain ⟨cs, mem, entry⟩ := held
  obtain same | ⟨old, there, rfl⟩ := Tbl.mem_vals_modify x.sets s _ mem
  · exact ⟨cs, same, entry⟩
  · exact ⟨old, there, entry⟩

theorem Xlat.holds_dropWay {x : Xlat} {s w : Nat} {e : XEntry} (held : (x.dropWay s w).holds e) : x.holds e := by
  obtain ⟨cs, mem, entry⟩ := held
  obtain same | ⟨old, there, rfl⟩ := Tbl.mem_vals_modify x.sets s _ mem
  · exact ⟨cs, same, entry⟩
  · exact ⟨old, there, Tbl.mem_vals_del _ _ entry⟩

/-- What a look into the cache finds, the cache holds, and it covers the address. -/
theorem Xlat.find_holds {x : Xlat} {job va s w : Nat} {e : XEntry} (found : x.find job va = some (s, w, e)) : x.holds e ∧ e.covers job va = true := by
  obtain ⟨⟨q, cs⟩, set, way⟩ := List.exists_of_findSome?_eq_some found
  obtain ⟨⟨v, e'⟩, mem, is⟩ := List.exists_of_findSome?_eq_some way
  dsimp only at is
  split at is
  · rename_i covers
    obtain rfl : e' = e := by
      injection is with is
      exact (Prod.mk.inj (Prod.mk.inj is).2).2
    exact ⟨⟨cs, List.mem_map.mpr ⟨_, set, rfl⟩, List.mem_map.mpr ⟨_, mem, rfl⟩⟩, covers⟩
  · cases is

/-- From b to c the translation caches took in no entry. -/
def Forgets (b c : Block) : Prop := ∀ g e, (c.hub g).xlat.holds e → (b.hub g).xlat.holds e

namespace Forgets

variable {b c d : Block}

theorem refl (b : Block) : Forgets b b := fun _ _ => id

theorem trans (first : Forgets b c) (second : Forgets c d) : Forgets b d := fun g e held => first g e (second g e held)

theorem foldl {α : Type} {f : Block → α → Block} (step : ∀ b a, Forgets b (f b a)) (as : List α) (b : Block) : Forgets b (as.foldl f b) := by
  induction as generalizing b with
  | nil => exact refl b
  | cons a as ih => exact (step b a).trans (ih (f b a))

theorem of_hubs (same : c.hubs = b.hubs) : Forgets b c := fun g e held => by
  rw [Block.hub, same] at held
  exact held

/-- A hub's change that brings its cache nothing. -/
theorem onHub (b : Block) (h : Nat) (f : Hub → Hub) (keeps : ∀ x e, (f x).xlat.holds e → x.xlat.holds e) : Forgets b (b.onHub h f) := by
  intro g e held
  obtain rfl | other := eq_or_ne g h
  · obtain none_ | ⟨x, found⟩ := (b.hubs.get? g).eq_none_or_eq_some
    · rw [Block.onHub, Tbl.modify_of_none _ _ _ none_] at held
      exact held
    · rw [b.hub_onHub_same g f x found] at held
      rw [b.hub_of_get g x found]
      exact keeps x e held
  · rw [b.hub_onHub_other h g f other] at held
    exact held

/-- A change of hubs that leaves their caches. -/
theorem onHub_xlat (b : Block) (h : Nat) (f : Hub → Hub) (keeps : ∀ x, (f x).xlat = x.xlat := by exact fun _ => rfl) : Forgets b (b.onHub h f) :=
  onHub b h f fun x e held => by rwa [keeps x] at held

theorem onXlat_sets (b : Block) (h : Nat) (f : Xlat → Xlat) (keeps : ∀ x, (f x).sets = x.sets := by exact fun _ => rfl) : Forgets b (b.onXlat h f) :=
  onHub b h _ fun x e held => by
    obtain ⟨cs, mem, entry⟩ := held
    rw [show ({ x with xlat := f x.xlat } : Hub).xlat.sets = (f x.xlat).sets from rfl, keeps] at mem
    exact ⟨cs, mem, entry⟩

theorem msiWrite (b : Block) (h : Nat) : Forgets b (b.msiWrite h) := by
  refine of_hubs ?_
  unfold Block.msiWrite
  dsimp only
  split
  · rfl
  · split
    · split <;> rfl
    · split <;> rfl

theorem raise (b : Block) (h cause : Nat) : Forgets b (b.raise h cause) := by
  have marked : Forgets b (b.onRegs h fun r => { r with intStatus := r.intStatus ||| BitVec.ofNat 64 (2 ^ cause) }) := onHub_xlat b h _
  unfold Block.raise
  dsimp only
  split
  · exact marked.trans (msiWrite _ h)
  · exact marked

theorem event (b : Block) (hub kind : Nat) (job : Option Nat) (payload : Nat) : Forgets b (b.event hub kind job payload) := by
  have logged : ∀ r, Forgets b (b.logRecord r) := fun _ => of_hubs rfl
  unfold Block.event Block.report
  split
  · exact logged _
  · exact (logged _).trans (foldl (fun b h => raise b h intEVENT) _ _)

theorem request (b : Block) (ch : Nat) (rt : Bool) (q : Req) : Forgets b (b.request ch rt q) := by
  refine of_hubs ?_
  unfold Block.request
  split <;> rfl

theorem requestAtoms (b : Block) (rt : Bool) (q : Req) (atoms : List Nat) : Forgets b (b.requestAtoms rt q atoms) := by
  unfold Block.requestAtoms
  generalize pageRuns _ = runs
  induction runs generalizing b with
  | nil => exact refl b
  | cons x xs ih => exact (request b x.1 rt { q with row := x.2.1, atoms := x.2.2 }).trans (ih _)

theorem onWork (b : Block) (r p : Nat) (f : Work → Work) : Forgets b (b.onWork r p f) := of_hubs rfl

theorem drainOne (b : Block) (s : Nat) : Forgets b (b.drainOne s).1 := by
  unfold Block.drainOne
  split
  · exact refl b
  · rename_i e es _
    have taken : Forgets b (b.onDie s fun d => { d with wcb := es }) := of_hubs rfl
    dsimp only
    split
    · exact taken.trans (requestAtoms _ _ _ _)
    · split
      · exact refl b
      · exact ((taken.trans (requestAtoms _ _ _ _)).trans (requestAtoms _ _ _ _)).trans (of_hubs rfl)

theorem drainFor (b : Block) (s n fuel : Nat) : Forgets b (b.drainFor s n fuel) := by
  induction fuel generalizing b with
  | zero => exact refl b
  | succ fuel ih =>
    unfold Block.drainFor
    split
    · exact refl b
    · have one : Forgets b (b.drainOne s).1 := drainOne b s
      split
      · rename_i drained
        rw [drained] at one
        exact one.trans (ih _)
      · exact refl b

theorem wcbAccept (b : Block) (stack pa n cls : Nat) (remote : Bool) : Forgets b (b.wcbAccept stack pa n cls remote) :=
  (drainFor b stack n _).trans (of_hubs rfl)

theorem passTags (b : Block) (ch row : Nat) (zero : Bool) : Forgets b (b.passTags ch row zero) := by
  have slice : ∀ (b : Block) s f, Forgets b (b.onGroupSlice s f) := by
    intro b s f
    unfold Block.onGroupSlice
    split
    · exact onHub_xlat b _ _
    · exact refl b
  exact (slice b (ch / 64) _).trans (of_hubs rfl)

theorem wrMem (b : Block) (hub pa : Nat) (data : List Byte) (source cls : Nat) : Forgets b (b.wrMem hub pa data source cls) := by
  refine foldl (fun b x => ?_) _ b
  obtain ⟨a, off, n⟩ := x
  dsimp only
  split
  · exact refl b
  · split
    · exact (of_hubs rfl : Forgets b (b.sample 0x10 _ 0)).trans (event _ _ _ _ _)
    · exact ((of_hubs rfl : Forgets b (b.push _)).trans (wcbAccept _ _ _ _ _ _)).trans (passTags _ _ _ _)

theorem wrHost (b : Block) (port ha : Nat) (data : List Byte) : Forgets b (b.wrHost port ha data) := by
  refine of_hubs ?_
  unfold Block.wrHost
  split <;> rfl

theorem sendWin (b : Block) (ring p win : Nat) (read : Bool) (o : Out) : Forgets b (b.sendWin ring p win read o).1 := of_hubs rfl

theorem cached (b : Block) (h job : Nat) (n : Need) : Forgets b (b.cached h job n).2 := by
  unfold Block.cached
  split
  · exact refl b
  · dsimp only
    split
    · exact refl b
    · split
      · exact onHub b h _ fun _ _ => Xlat.holds_touch
      · exact onHub b h _ fun _ _ => Xlat.holds_dropWay

theorem issueWalk (b : Block) (h id : Nat) : Forgets b (b.issueWalk h id) := by
  unfold Block.issueWalk
  split
  · exact refl b
  · dsimp only
    split
    · exact refl b
    · exact (onXlat_sets b h _).trans (requestAtoms _ _ _ _)

theorem startWalk (b : Block) (h : Nat) (who : Who) (job : Nat) (n : Need) (rt : Bool) : Forgets b (b.startWalk h who job n rt) := by
  unfold Block.startWalk
  split
  · exact refl b
  · split
    · exact refl b
    · exact (onXlat_sets b h _).trans (issueWalk _ _ _)

theorem hostLose (b : Block) (rid what : Nat) : Forgets b (b.hostLose rid what) := by
  unfold Block.hostLose
  split
  · exact refl b
  · split
    · exact of_hubs rfl
    · exact Forgets.trans (of_hubs rfl) (raise _ _ _)

theorem pageWriteRaw (b : Block) (rid p : Nat) (pg : Page) (off : Nat) (data : List Byte) (what : Nat) : Forgets b (b.pageWriteRaw rid p pg off data what) := by
  unfold Block.pageWriteRaw
  dsimp only
  split
  · exact wrMem b _ _ _ _ _
  · split
    · split
      · exact (hostLose b _ _).trans (onWork _ _ _ _)
      · exact (wrHost b _ _ _).trans (onWork _ _ _ _)
    · exact (sendWin b rid p _ _ _).trans (onWork _ _ _ _)

theorem statusWrite (b : Block) (rid : Nat) : Forgets b (b.statusWrite rid) := by
  have shown : Forgets b (b.haltFields rid) := of_hubs rfl
  unfold Block.statusWrite
  dsimp only
  split
  · exact shown
  · rename_i r _
    split
    · exact shown
    · have looked := shown.trans (cached (b.haltFields rid) (ringHub rid) r.job { va := r.cbase, write := true })
      split
      · rename_i hit
        rw [hit] at looked
        split
        · split
          · exact looked.trans (hostLose _ _ _)
          · exact looked
        · exact looked.trans (pageWriteRaw _ _ _ _ _ _ _)
      · rename_i missed
        rw [missed] at looked
        exact looked.trans (startWalk _ _ _ _ _ _)

end Forgets

end Sys2Proof.Machine
end

section
/-!
SUPPORT. What picking up a slot leaves: jobs, programs and the engine's charter, and of stack memory everything but the status blocks of the
hub's rings (R197, R202, R224).
-/
namespace Sys2Proof.Machine
open Sys2Proof.Spec

/-- The engine's record but for orders, uses, events and monitors. -/
def Eng.charter (e : Eng) : Eng := { e with order := 0, winOut := [], nextUse := 0, events := [], eseq := 0, heldEvents := [], monitors := [] }

/-- A ring's job slot and the address of its status block. -/
def Ring.station (r : Ring) : Nat × Nat := (r.job, r.cbase)

/-- A write to a host, or to the status block of a ring of hub h, through an entry that the hub's cache holds. -/
def BlockWr (b : Block) (h : Nat) (w : Wr) : Prop :=
  (∃ a data, w = .host a data) ∨ ∃ q r e, b.rings.get? q = some r ∧ ringHub q = h ∧ (b.hub h).xlat.holds e ∧ e.covers r.job r.cbase = true ∧
    Wr.inside ((e.page r.cbase).addr + r.cbase % 65536) 64 w

/-- From b to c nothing has changed but what the pickup of a slot of hub h may change. -/
structure Picking (h : Nat) (b c : Block) : Prop where
  jobs : c.jobs = b.jobs
  progs : c.progs = b.progs
  eng : c.eng.charter = b.eng.charter
  rings : ∀ q, (c.rings.get? q).map Ring.station = (b.rings.get? q).map Ring.station
  forgets : Forgets b c
  quiet : b.Quiet → c.Quiet
  wr : b.Quiet → ∃ ws, c.wr = b.wr ++ ws ∧ ∀ w ∈ ws, BlockWr b h w

theorem Tbl.get?_modify_map {α β : Type} (t : Tbl α) (k : Nat) (f : α → α) (g : α → β) (keeps : ∀ x, g (f x) = g x) (q : Nat) :
    ((t.modify k f).get? q).map g = (t.get? q).map g := by
  obtain rfl | other := eq_or_ne q k
  · rw [Tbl.get?_modify_same, Option.map_map]
    exact congrArg (Option.map · _) (funext keeps)
  · rw [Tbl.get?_modify_other _ _ _ _ other]

/-- A status block's write takes its page from the cache. -/
theorem StatusWr.block {b : Block} {rid : Nat} {w : Wr} (write : StatusWr b rid w) : BlockWr b (ringHub rid) w := by
  obtain host | ⟨r, pg, found, hit, inside⟩ := write
  · exact .inl host
  · refine .inr ?_
    unfold Block.cached at hit
    split at hit
    · cases hit
    · rename_i s v e entry
      dsimp only at hit
      obtain ⟨held, covers⟩ := Xlat.find_holds entry
      split at hit
      · cases hit
      · split at hit
        · injection hit with hit
          subst hit
          exact ⟨rid, r, e, found, rfl, held, covers, inside⟩
        · cases hit

namespace Picking

variable {h : Nat} {b c d : Block}

theorem refl (b : Block) : Picking h b b :=
  ⟨rfl, rfl, rfl, fun _ => rfl, Forgets.refl b, id, fun _ => ⟨[], (List.append_nil _).symm, fun _ mem => absurd mem List.not_mem_nil⟩⟩

/-- A write to a status block as the later block shows it is one as the earlier block does. -/
theorem blockWr (kept : Picking h b c) {w : Wr} (write : BlockWr c h w) : BlockWr b h w := by
  obtain host | ⟨q, r, e, found, hub, held, covers, inside⟩ := write
  · exact .inl host
  · have same := kept.rings q
    rw [found] at same
    obtain ⟨r0, found0, is⟩ := Option.map_eq_some_iff.mp same.symm
    have job : r0.job = r.job := congrArg Prod.fst is
    have base : r0.cbase = r.cbase := congrArg Prod.snd is
    exact .inr ⟨q, r0, e, found0, hub, kept.forgets h e held, by rw [job, base]; exact covers, by rw [base]; exact inside⟩

theorem trans (first : Picking h b c) (second : Picking h c d) : Picking h b d := by
  refine ⟨second.jobs.trans first.jobs, second.progs.trans first.progs, second.eng.trans first.eng, fun q => (second.rings q).trans (first.rings q),
    first.forgets.trans second.forgets, fun still => second.quiet (first.quiet still), fun still => ?_⟩
  obtain ⟨ws, one, oneAll⟩ := first.wr still
  obtain ⟨vs, two, twoAll⟩ := second.wr (first.quiet still)
  refine ⟨ws ++ vs, by rw [two, one, List.append_assoc], fun w mem => ?_⟩
  exact (List.mem_append.mp mem).elim (oneAll w) fun later => first.blockWr (twoAll w later)

theorem foldl {α : Type} {f : Block → α → Block} (step : ∀ b a, Picking h b (f b a)) (as : List α) (b : Block) : Picking h b (as.foldl f b) := by
  induction as generalizing b with
  | nil => exact refl b
  | cons a as ih => exact (step b a).trans (ih (f b a))

/-- What engine-wide fields a pickup leaves. -/
theorem engPart (kept : Picking h b c) {α : Type} (p : Eng → α) (keeps : ∀ e : Eng, p e.charter = p e := by exact fun _ => rfl) : p c.eng = p b.eng := by
  rw [← keeps c.eng, ← keeps b.eng, kept.eng]

theorem of_touch {P : Wr → Prop} (touch : Touch P b c) (forgets : Forgets b c) (writes : ∀ w, P w → BlockWr b h w) : Picking h b c := by
  refine ⟨touch.part (·.jobs), touch.part (·.progs), ?_, fun q => ?_, forgets, touch.quiet, fun still => ?_⟩
  · exact congrArg (fun d : Block => { d.eng with order := 0 }) touch.core
  · have same := congrArg (Option.map Ring.station) (touch.ring q)
    rwa [Option.map_map, Option.map_map, show Ring.station ∘ Ring.core = Ring.station from rfl] at same
  · obtain ⟨ws, made, all⟩ := touch.wr still
    exact ⟨ws, made, fun w mem => writes w (all w mem)⟩

/-- A change that makes no write, and leaves rings' stations and the hubs' addresses. -/
theorem of_silent (jobs : c.jobs = b.jobs) (progs : c.progs = b.progs) (eng : c.eng.charter = b.eng.charter)
    (rings : ∀ q, (c.rings.get? q).map Ring.station = (b.rings.get? q).map Ring.station) (forgets : Forgets b c)
    (addr : ∀ g, (c.hub g).regs.msiAddr = (b.hub g).regs.msiAddr) (wr : c.wr = b.wr) : Picking h b c :=
  ⟨jobs, progs, eng, rings, forgets, fun still g => (addr g).trans (still g),
    fun _ => ⟨[], by rw [wr, List.append_nil], fun _ mem => absurd mem List.not_mem_nil⟩⟩

theorem of_translates (kept : Translates b c) (forgets : Forgets b c) : Picking h b c :=
  of_silent (kept.part (·.jobs)) (kept.part (·.progs)) (kept.part (fun d => d.eng.charter)) (fun q => congrArg (fun t : Tbl Ring => (t.get? q).map Ring.station) (kept.part (·.rings)))
    forgets (fun g => kept.hubPart g (·.regs.msiAddr)) (kept.part (·.wr))

theorem onWork (b : Block) (r p : Nat) (f : Work → Work) : Picking h b (b.onWork r p f) :=
  of_silent rfl rfl rfl (fun _ => rfl) (Forgets.of_hubs rfl) (fun _ => rfl) rfl

theorem putWork (b : Block) (w : Work) : Picking h b (b.putWork w) :=
  of_silent rfl rfl rfl (fun _ => rfl) (Forgets.of_hubs rfl) (fun _ => rfl) rfl

theorem onTable (b : Block) (t : Nat) (f : TableSt → TableSt) : Picking h b (b.onTable t f) :=
  of_silent rfl rfl rfl (fun _ => rfl) (Forgets.of_hubs rfl) (fun _ => rfl) rfl

theorem onRing (b : Block) (r : Nat) (f : Ring → Ring) (keeps : ∀ x, (f x).station = x.station) : Picking h b (b.onRing r f) :=
  of_silent rfl rfl rfl (fun q => Tbl.get?_modify_map b.rings r f Ring.station keeps q) (Forgets.of_hubs rfl) (fun _ => rfl) rfl

theorem onEng (b : Block) (f : Eng → Eng) (keeps : (f b.eng).charter = b.eng.charter) : Picking h b (b.onEng f) :=
  of_silent rfl rfl keeps (fun _ => rfl) (Forgets.of_hubs rfl) (fun _ => rfl) rfl

theorem sample (b : Block) (mon inst v : Nat) : Picking h b (b.sample mon inst v) := onEng b _ rfl

theorem onHub (b : Block) (g : Nat) (f : Hub → Hub) (xlat : ∀ x, (f x).xlat = x.xlat) (addr : ∀ x, (f x).regs.msiAddr = x.regs.msiAddr) : Picking h b (b.onHub g f) :=
  of_silent rfl rfl rfl (fun _ => rfl) (Forgets.onHub_xlat b g f xlat) (fun q => b.hub_onHub_part g q f (·.regs.msiAddr) addr) rfl

theorem raise (b : Block) (g cause : Nat) : Picking h b (b.raise g cause) :=
  of_touch (Touch.raise (P := fun _ => False) b g cause) (Forgets.raise b g cause) fun _ no => no.elim

theorem sendWin (b : Block) (ring p win : Nat) (read : Bool) (o : Out) : Picking h b (b.sendWin ring p win read o).1 :=
  of_touch (Touch.sendWin (P := fun _ => False) b ring p win read o) (Forgets.sendWin b _ _ _ _ _) fun _ no => no.elim

theorem cached (b : Block) (g job : Nat) (n : Need) : Picking h b (b.cached g job n).2 := of_translates (Translates.cached b g job n) (Forgets.cached b g job n)

theorem startWalk (b : Block) (g : Nat) (who : Who) (job : Nat) (n : Need) (rt : Bool) : Picking h b (b.startWalk g who job n rt) :=
  of_translates (Translates.startWalk b g who job n rt) (Forgets.startWalk b g who job n rt)

theorem statusWrite (b : Block) (rid : Nat) : Picking (ringHub rid) b (b.statusWrite rid) :=
  of_touch (Touch.statusWrite b rid) (Forgets.statusWrite b rid) fun _ => StatusWr.block

theorem statusWriteAt (b : Block) (rid : Nat) (here : ringHub rid = h) : Picking h b (b.statusWrite rid) := here ▸ statusWrite b rid

/-- A ring becomes host-lost. -/
theorem hostLose (b : Block) (rid what : Nat) : Picking h b (b.hostLose rid what) := by
  unfold Block.hostLose
  split
  · exact refl b
  · split
    · exact onRing b rid _ fun _ => rfl
    · dsimp only
      refine Picking.trans ?_ (raise _ _ _)
      refine Picking.trans ?_ (onRing _ _ _ fun _ => rfl)
      exact (onRing b rid (fun q => { q with hostLost := some (q.done, q.head - 1, _), halt := setReason q.halt haltHOSTLOST }) fun _ => rfl).trans
        (of_silent rfl rfl rfl (fun _ => rfl) (Forgets.of_hubs rfl) (fun _ => rfl) rfl)

theorem hostNeeded (b : Block) (rid p what : Nat) (here : ringHub rid = h) : Picking h b (b.hostNeeded rid p what) := by
  have lost : Picking h b ((b.hostLose rid what).onWork rid p fun x => { x with hostWhat := x.hostWhat ||| what }) := (hostLose b rid what).trans (onWork _ _ _ _)
  unfold Block.hostNeeded Block.hostLostWritten
  dsimp only
  split
  · exact lost.trans (statusWriteAt _ _ here)
  · exact lost

theorem haltRing (b : Block) (rid reason : Nat) (here : ringHub rid = h) : Picking h b (b.haltRing rid reason) :=
  (onRing b rid (fun r => { r with halt := setReason r.halt reason }) fun _ => rfl).trans (statusWriteAt _ _ here)

theorem errorRing (b : Block) (rid : Nat) (e : ErrOf) (status : Nat) (here : ringHub rid = h) : Picking h b (b.errorRing rid e status) := by
  unfold Block.errorRing
  dsimp only
  refine Picking.trans (onRing b rid _ fun r => ?_) (statusWriteAt _ _ here)
  exact (apply_ite Ring.station _ _ _).trans (ite_self _)

theorem latch (b : Block) (sem c : Nat) : Picking h b (b.latch h sem c).1 := by
  have added : Picking h b (b.semAdd h sem c) := onHub b h _ (fun _ => rfl) fun _ => rfl
  unfold Block.latch
  split
  · exact added
  · rename_i rid r found
    have here : ringHub rid = h := by
      have mem := List.mem_of_find?_eq_some found
      exact beq_iff_eq.mp (List.mem_filter.mp mem).2
    split
    · exact haltRing _ _ _ here
    · dsimp only
      exact (added.trans (onRing _ rid (fun r => { r with tail := r.tail + c, fills := r.fills ++ [(r.tail, b.age h)] }) fun _ => rfl)).trans (statusWriteAt _ _ here)

end Picking

end Sys2Proof.Machine
end

section
/-!
SUPPORT. Picking up a slot: reading it, taking it, and the end of one that fails a check (R198 to R203, R316).
-/
namespace Sys2Proof.Machine
open Sys2Proof.Spec

/-- What serving ring rid changes besides slots' outcomes and the rings' counts. -/
structure Serves (rid : Nat) (b c : Block) : Prop where
  picking : Picking (ringHub rid) b c
  outcomes : Outcomes b c

namespace Serves

variable {rid : Nat} {b c d : Block}

theorem refl (b : Block) : Serves rid b b := ⟨Picking.refl b, Outcomes.refl b⟩

theorem trans (first : Serves rid b c) (second : Serves rid c d) : Serves rid b d :=
  ⟨first.picking.trans second.picking, first.outcomes.trans second.outcomes⟩

theorem of_translates (kept : Translates b c) (forgets : Forgets b c) : Serves rid b c := ⟨.of_translates kept forgets, .of_translates kept⟩

theorem cached (b : Block) (g job : Nat) (n : Need) : Serves rid b (b.cached g job n).2 := of_translates (Translates.cached b g job n) (Forgets.cached b g job n)

theorem startWalk (b : Block) (g : Nat) (who : Who) (job : Nat) (n : Need) (rt : Bool) : Serves rid b (b.startWalk g who job n rt) :=
  of_translates (Translates.startWalk b g who job n rt) (Forgets.startWalk b g who job n rt)

theorem statusWrite (b : Block) : Serves rid b (b.statusWrite rid) := ⟨.statusWrite b rid, .statusWrite b rid⟩

theorem hostNeeded (b : Block) (p what : Nat) : Serves rid b (b.hostNeeded rid p what) :=
  ⟨.hostNeeded b rid p what rfl, .hostLostWritten rid ((Outcomes.hostLose b rid what).trans (Outcomes.onWork _ _ _ _ fun _ => rfl))⟩

theorem errorRing (b : Block) (e : ErrOf) (status : Nat) : Serves rid b (b.errorRing rid e status) := ⟨.errorRing b rid e status rfl, .errorRing b rid e status⟩

theorem onRing (b : Block) (r : Nat) (f : Ring → Ring) (station : ∀ x, (f x).station = x.station) (counts : ∀ x, (f x).counts = x.counts) :
    Serves rid b (b.onRing r f) := ⟨.onRing b r f station, .onRing b r f counts⟩

theorem onWork (b : Block) (r p : Nat) (f : Work → Work) (keeps : ∀ x, (f x).outcome = x.outcome) : Serves rid b (b.onWork r p f) :=
  ⟨.onWork b r p f, .onWork b r p f keeps⟩

theorem sample (b : Block) (mon inst v : Nat) : Serves rid b (b.sample mon inst v) := ⟨.sample b mon inst v, .of_same rfl rfl rfl⟩

theorem latch (b : Block) (sem c : Nat) : Serves rid b (b.latch (ringHub rid) sem c).1 := ⟨.latch b sem c, .latch b _ sem c⟩

theorem sendWin (b : Block) (ring p win : Nat) (read : Bool) (o : Out) : Serves rid b (b.sendWin ring p win read o).1 :=
  ⟨.sendWin b ring p win read o, .of_touch (Touch.sendWin (P := fun _ => True) b ring p win read o)⟩

/-- The uses of pages are numbered. -/
theorem useOf (b : Block) (pg : Page) : Serves rid b (b.useOf pg).2 := ⟨.of_silent rfl rfl rfl (fun _ => rfl) (Forgets.of_hubs rfl) (fun _ => rfl) rfl, .of_same rfl rfl rfl⟩

end Serves

theorem Forgets.holdRec (b : Block) (rid p : Nat) (pg : Page) : Forgets b (b.holdRec rid p pg) := Forgets.of_hubs rfl

/-- Steps one after another, each with an answer. -/
theorem Forgets.foldlOk {α : Type} {f : Block × Bool → α → Block × Bool} (step : ∀ x a, Forgets x.1 (f x a).1) (as : List α) (x : Block × Bool) :
    Forgets x.1 (as.foldl f x).1 := by
  induction as generalizing x with
  | nil => exact Forgets.refl x.1
  | cons a as ih => exact (step x a).trans (ih (f x a))

theorem Forgets.ensureRec (b : Block) (rid p : Nat) : Forgets b (b.ensureRec rid p).1 := by
  unfold Block.ensureRec
  split
  · rename_i r w _ _
    split
    · exact Forgets.refl b
    · refine Forgets.foldlOk (fun x n => ?_) _ (b, true)
      have looked := Forgets.cached x.1 (ringHub rid) r.job n
      dsimp only
      split
      · rename_i hit
        rw [hit] at looked
        exact looked.trans (Forgets.holdRec _ _ _ _)
      · rename_i missed
        rw [missed] at looked
        exact looked.trans (Forgets.startWalk _ _ _ _ _ _)
  · exact Forgets.refl b

theorem Serves.ensureRec {rid : Nat} (b : Block) (p : Nat) : Serves rid b (b.ensureRec rid p).1 :=
  Serves.of_translates (Translates.ensureRec b rid p) (Forgets.ensureRec b rid p)

/-! ### Reading the slot (R316) -/

theorem slotFetch_serves (st : Store) (b : Block) (rid : Nat) (r : Ring) (p : Nat) : Serves rid b (slotFetch st b rid r p).1 := by
  unfold slotFetch
  dsimp only
  have looked := Serves.cached (rid := rid) b (ringHub rid) r.job { va := r.slotVa p, read := true }
  split
  · rename_i c missed
    replace looked : Serves rid b c := by rwa [missed] at looked
    exact looked.trans (Serves.startWalk c _ _ _ _ _)
  · rename_i pg c hit
    replace looked : Serves rid b c := by rwa [hit] at looked
    have failed : ∀ s, Serves rid b (c.errorRing rid .head s) := fun s => looked.trans (Serves.errorRing c _ s)
    split
    · split
      · exact looked
      · exact failed _
    · split
      · split
        · split
          · exact failed _
          · exact looked
        · exact looked
        · exact looked.trans (Serves.hostNeeded c _ _)
      · split
        · exact failed _
        · split
          · exact failed _
          · split
            · exact looked
            · split
              · exact looked
              · exact (looked.trans (Serves.sendWin c _ _ _ _ _)).trans (Serves.onRing _ _ _ (fun _ => rfl) fun _ => rfl)

/-- A slot that is read leaves the rings as they are. -/
theorem slotFetch_rings {st : Store} {b c : Block} {rid p x : Nat} {r : Ring} (read : slotFetch st b rid r p = (c, some x)) : c.rings = b.rings := by
  unfold slotFetch at read
  dsimp only at read
  have rings := b.cached_rings (ringHub rid) r.job { va := r.slotVa p, read := true }
  have same : ∀ {d : Block} {y : Nat}, (d, some y) = (c, some x) → d = c := fun is => (Prod.mk.inj is).1
  have never : ∀ {d : Block}, (d, (none : Option Nat)) ≠ (c, some x) := fun is => nomatch (Prod.mk.inj is).2
  split at read
  · exact absurd read never
  · rename_i pg d hit
    replace rings : d.rings = b.rings := by rwa [hit] at rings
    split at read
    · split at read
      · rw [← same read, rings]
      · exact absurd read never
    · split at read
      · split at read
        · split at read
          · exact absurd read never
          · rw [← same read, rings]
        · exact absurd read never
        · exact absurd read never
      · split at read
        · exact absurd read never
        · split at read
          · exact absurd read never
          · split at read
            · rw [← same read, rings]
            · split at read
              · exact absurd read never
              · exact absurd read never

/-! ### Taking a slot (R202) -/

/-- A slot as it is taken. -/
structure Work.Fresh (rid p x : Nat) (stale : Bool) (w : Work) : Prop where
  ring : w.ring = rid
  p : w.p = p
  slot : w.slot = BitVec.ofNat 2048 x
  phase : w.phase = .active
  late : w.late = false
  winStatus : w.winStatus = 0
  data : w.data = .none
  noFlag : w.noFlag = (stale || flagBad x)

/-- A part of a slot that belongs to its outcome. -/
theorem Work.of_outcome {v w : Work} (same : v.outcome = w.outcome) {α : Type} (f : Work → α) (keeps : ∀ x : Work, f x.outcome = f x := by exact fun _ => rfl) :
    f v = f w := by
  rw [← keeps v, ← keeps w, same]

theorem Work.Fresh.of_outcome {rid p x : Nat} {stale : Bool} {v w : Work} (same : v.outcome = w.outcome) (fresh : w.Fresh rid p x stale) : v.Fresh rid p x stale :=
  ⟨(Work.of_outcome same (·.ring)).trans fresh.ring, (Work.of_outcome same (·.p)).trans fresh.p, (Work.of_outcome same (·.slot)).trans fresh.slot,
    (Work.of_outcome same (·.phase)).trans fresh.phase, (Work.of_outcome same (·.late)).trans fresh.late, (Work.of_outcome same (·.winStatus)).trans fresh.winStatus,
    (Work.of_outcome same (·.data)).trans fresh.data, (Work.of_outcome same (·.noFlag)).trans fresh.noFlag⟩

theorem workKey_inj {rid p q : Nat} (other : q ≠ p) : workKey rid q ≠ workKey rid p := fun same => other (Nat.add_left_cancel same)

/-- What a slot taken leaves: the slot stands as it was read, the other slots of its ring have their outcomes, and HEAD is past it, but for a slot
picked up again. -/
structure Taken (b c : Block) (rid p x : Nat) (stale : Bool) (r : Ring) : Prop where
  picking : Picking (ringHub rid) b c
  tables : c.tables = b.tables
  here : ∃ w, c.work? rid p = some w ∧ w.Fresh rid p x stale
  others : ∀ q, q ≠ p → (c.work? rid q).map Work.outcome = (b.work? rid q).map Work.outcome
  ring : ∃ q, c.rings.get? rid = some q ∧ r.head ≤ q.head ∧ (r.retry.head? ≠ some p → q.head = r.head + 1)

theorem Taken.serves {b c d : Block} {rid p x : Nat} {stale : Bool} {r : Ring} (taken : Taken b c rid p x stale r) (serves : Serves rid c d) :
    Taken b d rid p x stale r := by
  obtain ⟨w, found, fresh⟩ := taken.here
  obtain ⟨w', found', same⟩ := serves.outcomes.work_some found
  obtain ⟨q, ring, low, past⟩ := taken.ring
  obtain ⟨q', ring', counts⟩ := serves.outcomes.ring_some ring
  have head : q'.head = q.head := congrArg Prod.fst counts
  exact ⟨taken.picking.trans serves.picking, serves.outcomes.tables.trans taken.tables, ⟨w', found', fresh.of_outcome same⟩,
    fun k other => (serves.outcomes.work _).trans (taken.others k other), q', ring', by rwa [head], fun new => head.trans (past new)⟩

/-- A slot that stands in flight, its page's use numbered, is taken once the ring has moved on. -/
theorem taken_of_put {b d : Block} {rid p x : Nat} {stale : Bool} {r : Ring} {w : Work} (put : Picking (ringHub rid) b d) (tables : d.tables = b.tables)
    (here : d.work? rid p = some w) (fresh : w.Fresh rid p x stale) (others : ∀ q, q ≠ p → (d.work? rid q).map Work.outcome = (b.work? rid q).map Work.outcome)
    (ring : d.rings.get? rid = some r) :
    Taken b (if r.retry.head? == some p then d.onRing rid fun r => { r.reread with retry := r.retry.drop 1, staleSince := none }
      else (((d.sample 0x04 rid (r.tail - r.head)).onRing rid fun r =>
        { r.reread with head := r.head + 1, eligible := none, staleSince := none, fills := fillsFrom (r.head + 1) r.fills }).latch (ringHub rid) r.freeSem 1).1)
      rid p x stale r := by
  split
  · rename_i retried
    exact ⟨put.trans (Picking.onRing d rid _ fun _ => rfl), tables, ⟨w, here, fresh⟩, others,
      { r.reread with retry := r.retry.drop 1, staleSince := none }, by rw [Block.onRing, Tbl.get?_modify_same, ring]; rfl, le_rfl,
      fun new => absurd (beq_iff_eq.mp retried) new⟩
  · have moved : Taken b ((d.sample 0x04 rid (r.tail - r.head)).onRing rid fun r =>
        { r.reread with head := r.head + 1, eligible := none, staleSince := none, fills := fillsFrom (r.head + 1) r.fills }) rid p x stale r :=
      ⟨(put.trans (Picking.sample d 0x04 rid (r.tail - r.head))).trans (Picking.onRing _ rid _ fun _ => rfl), tables, ⟨w, here, fresh⟩, others, _,
        by rw [Block.onRing, Tbl.get?_modify_same]; exact congrArg (Option.map _) ring, Nat.le_succ _, fun _ => rfl⟩
    exact moved.serves (Serves.latch _ _ _)

theorem takeSlot_taken (b : Block) (rid p x : Nat) (group : Option Nat) (stale : Bool) (r : Ring) (found : b.rings.get? rid = some r) :
    Taken b (b.takeSlot rid p x group stale) rid p x stale r := by
  have put : ∀ (c : Block) (w : Work), Serves rid b c → c.rings = b.rings → w.Fresh rid p x stale →
      Taken b (if r.retry.head? == some p then ((c.putWork w).onEng fun e => { e with order := e.order + 1 }).onRing rid fun r =>
          { r.reread with retry := r.retry.drop 1, staleSince := none }
        else (((((c.putWork w).onEng fun e => { e with order := e.order + 1 }).sample 0x04 rid (r.tail - r.head)).onRing rid fun r =>
          { r.reread with head := r.head + 1, eligible := none, staleSince := none, fills := fillsFrom (r.head + 1) r.fills }).latch (ringHub rid) r.freeSem 1).1)
        rid p x stale r := by
    intro c w held rings fresh
    have key : workKey w.ring w.p = workKey rid p := by rw [fresh.ring, fresh.p]
    refine taken_of_put ((held.picking.trans (Picking.putWork c w)).trans (Picking.onEng _ _ rfl)) held.outcomes.tables ?_ fresh (fun q other => ?_)
      ((congrArg (Tbl.get? · rid) rings).trans found)
    · show (c.works.put (workKey w.ring w.p) w).get? (workKey rid p) = some w
      rw [key, Tbl.get?_put_same]
    · show ((c.works.put (workKey w.ring w.p) w).get? (workKey rid q)).map Work.outcome = _
      rw [key, Tbl.get?_put_other _ _ _ _ (workKey_inj other)]
      exact held.outcomes.work _
  have looked := Serves.cached (rid := rid) b (ringHub rid) r.job { va := r.slotVa p, read := true }
  have rings := b.cached_rings (ringHub rid) r.job { va := r.slotVa p, read := true }
  unfold Block.takeSlot
  rw [found]
  dsimp only
  generalize b.cached (ringHub rid) r.job { va := r.slotVa p, read := true } = hit at looked rings ⊢
  obtain ⟨pg, c⟩ := hit
  cases pg with
  | none => exact put c _ looked rings ⟨rfl, rfl, rfl, rfl, rfl, rfl, rfl, rfl⟩
  | some pg => exact put (c.useOf pg).2 _ (looked.trans (Serves.useOf c pg)) rings ⟨rfl, rfl, rfl, rfl, rfl, rfl, rfl, rfl⟩

end Sys2Proof.Machine
end

section
/-! O38: stale slots and looking ahead. -/
namespace Sys2Proof.Machine
open Sys2Proof.Spec

/-! ### A slot that stands in flight -/

/-- The slot stands in a block with the bytes copied, and the ring has gone past it, but for one picked up again. -/
def Standing (b : Block) (rid p x : Nat) (r : Ring) (P : Work → Prop) : Prop :=
  ∃ w q, b.work? rid p = some w ∧ w.ring = rid ∧ w.p = p ∧ w.slot = BitVec.ofNat 2048 x ∧ P w ∧ b.rings.get? rid = some q ∧ (r.retry = [] → p < q.head)

namespace Standing

variable {b c : Block} {rid p x : Nat} {r : Ring} {P Q : Work → Prop}

theorem mono (stands : Standing b rid p x r P) (weaker : ∀ w, P w → Q w) : Standing b rid p x r Q := by
  obtain ⟨w, q, found, ring, place, slot, holds, there, past⟩ := stands
  exact ⟨w, q, found, ring, place, slot, weaker w holds, there, past⟩

/-- What keeps outcomes and counts keeps a slot standing. -/
theorem outcomes (stands : Standing b rid p x r P) (kept : Outcomes b c) (alike : ∀ v w : Work, v.outcome = w.outcome → P w → P v) : Standing c rid p x r P := by
  obtain ⟨w, q, found, ring, place, slot, holds, there, past⟩ := stands
  obtain ⟨v, foundV, same⟩ := kept.work_some found
  obtain ⟨q', thereV, counts⟩ := kept.ring_some there
  have head : q'.head = q.head := congrArg Prod.fst counts
  exact ⟨v, q', foundV, (Work.of_outcome same (·.ring)).trans ring, (Work.of_outcome same (·.p)).trans place, (Work.of_outcome same (·.slot)).trans slot,
    alike v w same holds, thereV, fun fresh => by rw [head]; exact past fresh⟩

/-- A change of the slot itself. -/
theorem onWork (stands : Standing b rid p x r P) (f : Work → Work) (place : ∀ w, (f w).ring = w.ring ∧ (f w).p = w.p ∧ (f w).slot = w.slot)
    (holds : ∀ w, w.slot = BitVec.ofNat 2048 x → P w → Q (f w)) : Standing (b.onWork rid p f) rid p x r Q := by
  obtain ⟨w, q, found, ring, at_, slot, holdsP, there, past⟩ := stands
  obtain ⟨ringF, placeF, slotF⟩ := place w
  refine ⟨f w, q, ?_, ringF.trans ring, placeF.trans at_, slotF.trans slot, holds w slot holdsP, there, past⟩
  rw [Block.work?, Block.onWork, Tbl.get?_modify_same, show b.works.get? (workKey rid p) = some w from found]
  rfl

/-- A slot that nothing has ended yet ends with the status given. -/
theorem endSlot (stands : Standing b rid p x r P) (status pos : Nat) (counters : List Nat) (early : ∀ w, P w → w.late = false) (unrefused : ∀ w, P w → w.winStatus = 0)
    (holds : ∀ v w : Work, P w → v.unheld = { w.unheld with phase := .visible, status := status, position := pos, counters := counters } → Q v) :
    Standing (b.endSlot rid p status pos counters) rid p x r Q := by
  obtain ⟨w, q, found, ring, place, slot, holdsP, there, past⟩ := stands
  obtain ⟨v, foundV, is⟩ := b.endSlot_ended rid p status pos counters found (early w holdsP) (unrefused w holdsP)
  exact ⟨v, q, foundV, (congrArg Work.ring is).trans ring, (congrArg Work.p is).trans place, (congrArg Work.slot is).trans slot, holds v w holdsP is,
    (congrArg (fun d : Block => d.rings.get? rid) (b.endSlot_eq rid p status pos counters)).trans there, past⟩

theorem inFlight {t : State} (stands : Standing t.blk rid p x r P) : InFlight t rid p x r P := stands

end Standing

/-- The slot that a ring picks up next stands once it is taken. -/
theorem Taken.standing {b c : Block} {rid x : Nat} {stale : Bool} {r : Ring} (taken : Taken b c rid r.nextSlot x stale r) :
    Standing c rid r.nextSlot x r (·.Fresh rid r.nextSlot x stale) := by
  obtain ⟨w, found, fresh⟩ := taken.here
  obtain ⟨q, there, -, past⟩ := taken.ring
  refine ⟨w, q, found, fresh.ring, fresh.p, fresh.slot, fresh, there, fun none_ => ?_⟩
  have next : r.nextSlot = r.head := by rw [Ring.nextSlot, none_]; rfl
  rw [past (by rw [none_]; exact nofun), next]
  exact Nat.lt_succ_self _

/-- A fresh slot that a check ends. -/
theorem Standing.failed {b : Block} {rid p x : Nat} {r : Ring} {stale : Bool} (stands : Standing b rid p x r (·.Fresh rid p x stale)) (status : Nat) :
    Standing (b.endSlot rid p status 0 []) rid p x r fun w => Ended w status ∧ w.noFlag = (stale || flagBad x) :=
  stands.endSlot status 0 [] (fun _ fresh => fresh.late) (fun _ fresh => fresh.winStatus) fun _ _ fresh is =>
    ⟨⟨congrArg Work.phase is, congrArg Work.status is⟩, (congrArg Work.noFlag is).trans fresh.noFlag⟩

theorem ended_alike {status : Nat} (v w : Work) (same : v.outcome = w.outcome) (ended : Ended w status) : Ended v status :=
  ⟨(Work.of_outcome same (·.phase)).trans ended.1, (Work.of_outcome same (·.status)).trans ended.2⟩

/-! ### SLOT_STALE (R200) -/

theorem slotStale_ends {s : State} {rid x a : Nat} {r : Ring} {b : Block} (found : s.blk.rings.get? rid = some r) (may : s.blk.mayPick rid r = true)
    (read : slotFetch s.store s.start rid r r.nextSlot = (b, some x)) (differs : bits x 32 32 ≠ r.nextSlot % 2 ^ 32) (since : r.staleSince = some a)
    (due : a + 200 ≤ s.blk.age (ringHub rid)) :
    slotStale rid s.store s.start = ((((b.takeSlot rid r.nextSlot x none true).statusWrite rid).endSlot rid r.nextSlot SLOT_STALE 0 []).ensureRec rid r.nextSlot).1 := by
  unfold slotStale
  rw [show s.start.rings.get? rid = some r from found]
  dsimp only
  rw [show s.start.mayPick rid r = true from may, if_neg (by decide), read]
  dsimp only
  rw [if_neg differs, since]
  dsimp only
  rw [if_neg (show ¬s.start.age (ringHub rid) < a + 200 from Nat.not_lt.mpr due)]

/-! ### SLOT_LOOKAHEAD (R211, R310) -/

/-- Numbers of walks lie below the next one. -/
def Xlat.numbered (x : Xlat) : Prop := ∀ w ∈ x.walks, w.1 < x.nextWalk

theorem Tbl.put_beyond {α : Type} (t : Tbl α) (k : Nat) (v : α) (beyond : ∀ e ∈ t, e.1 < k) : t.put k v = t ++ [(k, v)] := by
  induction t with
  | nil => rfl
  | cons e t ih =>
    obtain ⟨q, u⟩ := e
    have low : q < k := beyond (q, u) List.mem_cons_self
    rw [Tbl.put, if_neg (by omega), if_neg (by omega), ih fun e mem => beyond e (List.mem_cons_of_mem _ mem)]
    rfl

/-- From x to y the cache stands, walks are numbered, and every access that a walk ran for still has one. -/
structure Xlat.Walks (x y : Xlat) : Prop where
  sets : y.sets = x.sets
  numbered : x.numbered → y.numbered
  walking : ∀ who v, x.numbered → x.walking who v = true → y.walking who v = true

namespace Xlat.Walks

theorem refl (x : Xlat) : x.Walks x := ⟨rfl, id, fun _ _ _ => id⟩

theorem trans {x y z : Xlat} (first : x.Walks y) (second : y.Walks z) : x.Walks z :=
  ⟨second.sets.trans first.sets, fun low => second.numbered (first.numbered low), fun who v low runs => second.walking who v (first.numbered low) (first.walking who v low runs)⟩

end Xlat.Walks

/-- A walk that starts has its access's page, and takes nothing from the others. -/
theorem Xlat.walks_begun (x : Xlat) (w : Walk) : x.Walks { x with walks := x.walks.put x.nextWalk w, nextWalk := x.nextWalk + 1 } ∧
    (x.numbered → { x with walks := x.walks.put x.nextWalk w, nextWalk := x.nextWalk + 1 : Xlat }.walking w.who (w.need.va / 65536) = true) := by
  refine ⟨⟨rfl, fun low e mem => ?_, fun who v low runs => ?_⟩, fun low => ?_⟩
  · dsimp only at mem ⊢
    rw [Tbl.put_beyond _ _ _ low] at mem
    obtain old | new := List.mem_append.mp mem
    · exact Nat.lt_succ_of_lt (low e old)
    · rw [List.mem_singleton.mp new]
      exact Nat.lt_succ_self _
  · unfold Xlat.walking at runs ⊢
    dsimp only
    rw [Tbl.put_beyond _ _ _ low, Tbl.vals, List.map_append, List.any_append, Bool.or_eq_true]
    exact .inl runs
  · unfold Xlat.walking
    dsimp only
    rw [Tbl.put_beyond _ _ _ low, Tbl.vals, List.map_append, List.any_append, Bool.or_eq_true]
    exact .inr (by simp)

/-- A walk whose read is asked for runs on. -/
theorem Xlat.walks_asked (x : Xlat) (id : Nat) : x.Walks { x with walks := x.walks.modify id fun w => { w with asked := true } } := by
  have same := Tbl.mapVal_modify x.walks id (fun w : Walk => { w with asked := true }) (fun w : Walk => { w with asked := false }) fun _ => rfl
  have keys : ∀ t : Tbl Walk, (t.mapVal fun _ w => { w with asked := false }).map (·.1) = t.map (·.1) := fun t => by
    rw [Tbl.mapVal, List.map_map]
    rfl
  have runs : ∀ (t : Tbl Walk) who v, t.vals.any (fun w => decide (w.who = who) && w.need.va / 65536 == v) =
      (t.mapVal fun _ w => { w with asked := false }).vals.any fun w => decide (w.who = who) && w.need.va / 65536 == v := fun t who v => by
    rw [Tbl.vals, Tbl.vals, Tbl.mapVal, List.map_map, List.any_map, List.any_map]
    rfl
  refine ⟨rfl, fun low e mem => ?_, fun who v _ running => ?_⟩
  · have there : e.1 ∈ x.walks.map (·.1) := by
      rw [← keys, ← same, keys]
      exact List.mem_map_of_mem mem
    obtain ⟨e0, mem0, is⟩ := List.mem_map.mp there
    rw [← is]
    exact low e0 mem0
  · unfold Xlat.walking at running ⊢
    rw [runs] at running ⊢
    dsimp only
    rw [same]
    exact running

/-- At hub h walks go on and the cache stands; nothing else changes but requests at channels. -/
structure Walking (h : Nat) (b c : Block) : Prop where
  translates : Translates b c
  rings : c.rings = b.rings
  works : c.works = b.works
  hub : ∀ x, b.hubs.get? h = some x → ∃ y, c.hubs.get? h = some y ∧ x.xlat.Walks y.xlat

namespace Walking

variable {h : Nat} {b c d : Block}

theorem refl (b : Block) : Walking h b b := ⟨.refl b, rfl, rfl, fun x found => ⟨x, found, .refl _⟩⟩

theorem trans (first : Walking h b c) (second : Walking h c d) : Walking h b d := by
  refine ⟨first.translates.trans second.translates, second.rings.trans first.rings, second.works.trans first.works, fun x found => ?_⟩
  obtain ⟨y, foundY, one⟩ := first.hub x found
  obtain ⟨z, foundZ, two⟩ := second.hub y foundY
  exact ⟨z, foundZ, one.trans two⟩

theorem onXlat (b : Block) (f : Xlat → Xlat) (walks : ∀ x : Xlat, x.Walks (f x)) : Walking h b (b.onXlat h f) := by
  refine ⟨.onXlat b h f, rfl, rfl, fun x found => ⟨{ x with xlat := f x.xlat }, ?_, walks _⟩⟩
  rw [Block.onXlat, Block.onHub, Tbl.get?_modify_same, found]
  rfl

theorem requestAtoms (b : Block) (rt : Bool) (q : Req) (atoms : List Nat) : Walking h b (b.requestAtoms rt q atoms) := by
  have same : (b.requestAtoms rt q atoms).rings = b.rings ∧ (b.requestAtoms rt q atoms).works = b.works ∧ (b.requestAtoms rt q atoms).hubs = b.hubs := by
    unfold Block.requestAtoms
    generalize pageRuns _ = runs
    induction runs generalizing b with
    | nil => exact ⟨rfl, rfl, rfl⟩
    | cons x xs ih =>
      obtain ⟨rings, works, hubs⟩ := ih (b.request x.1 rt { q with row := x.2.1, atoms := x.2.2 })
      have one : (b.request x.1 rt { q with row := x.2.1, atoms := x.2.2 }).rings = b.rings ∧ (b.request x.1 rt { q with row := x.2.1, atoms := x.2.2 }).works = b.works ∧
          (b.request x.1 rt { q with row := x.2.1, atoms := x.2.2 }).hubs = b.hubs := by
        unfold Block.request
        split <;> exact ⟨rfl, rfl, rfl⟩
      exact ⟨rings.trans one.1, works.trans one.2.1, hubs.trans one.2.2⟩
  obtain ⟨rings, works, hubs⟩ := same
  exact ⟨.requestAtoms b rt q atoms, rings, works, fun x found => ⟨x, by rw [hubs]; exact found, .refl _⟩⟩

theorem issueWalk (b : Block) (id : Nat) : Walking h b (b.issueWalk h id) := by
  unfold Block.issueWalk
  split
  · exact refl b
  · dsimp only
    split
    · exact refl b
    · exact (onXlat b _ fun x => x.walks_asked id).trans (requestAtoms _ _ _ _)

/-- A walk that is to start runs afterwards. -/
theorem startWalk (b : Block) (who : Who) (job : Nat) (n : Need) (rt : Bool) : Walking h b (b.startWalk h who job n rt) ∧
    (b.jobs.get? job ≠ none → ∀ x, b.hubs.get? h = some x → x.xlat.numbered → ∃ y, (b.startWalk h who job n rt).hubs.get? h = some y ∧
      y.xlat.walking who (n.va / 65536) = true) := by
  unfold Block.startWalk
  split
  · rename_i closed
    exact ⟨refl b, fun open_ => absurd closed open_⟩
  · rename_i j _
    split
    · rename_i runs
      refine ⟨refl b, fun _ x found _ => ⟨x, found, ?_⟩⟩
      rwa [b.hub_of_get h x found] at runs
    · dsimp only
      have begun := fun x : Xlat => x.walks_begun { who := who, job := job, need := n, level := 0, table := j.root, rt := rt }
      have first : Walking h b _ := onXlat b _ fun x => (begun x).1
      refine ⟨first.trans (issueWalk _ _), fun _ x found low => ?_⟩
      have there : (b.onXlat h fun x => { x with walks := x.walks.put x.nextWalk { who := who, job := job, need := n, level := 0, table := j.root, rt := rt }
                                                 nextWalk := x.nextWalk + 1 }).hubs.get? h = some { x with xlat := { x.xlat with
            walks := x.xlat.walks.put x.xlat.nextWalk { who := who, job := job, need := n, level := 0, table := j.root, rt := rt }, nextWalk := x.xlat.nextWalk + 1 } } := by
        rw [Block.onXlat, Block.onHub, Tbl.get?_modify_same, found]
        rfl
      obtain ⟨y, foundY, walks⟩ := (issueWalk (h := h) _ (b.hub h).xlat.nextWalk).hub _ there
      exact ⟨y, foundY, walks.walking _ _ ((begun x.xlat).1.numbered low) ((begun x.xlat).2 low)⟩

/-- Prefetch walks start for what the cache lacks. -/
theorem walkAhead (b : Block) (job : Nat) (needs : List Need) (open_ : b.jobs.get? job ≠ none) (x : Hub) (found : b.hubs.get? h = some x) (low : x.xlat.numbered) :
    Walking h b (b.walkAhead h job needs) ∧ ∃ y, (b.walkAhead h job needs).hubs.get? h = some y ∧
      ∀ n ∈ needs, (x.xlat.find job n.va).isNone = true → y.xlat.walking .ahead (n.va / 65536) = true := by
  unfold Block.walkAhead
  induction needs generalizing b x with
  | nil => exact ⟨refl b, x, found, fun n none_ => absurd none_ List.not_mem_nil⟩
  | cons n ns ih =>
    rw [List.foldl_cons, b.hub_of_get h x found]
    by_cases held : (x.xlat.find job n.va).isSome = true
    · rw [if_pos held]
      obtain ⟨walks, y, foundY, runs⟩ := ih b open_ x found low
      refine ⟨walks, y, foundY, fun m mem lacks => ?_⟩
      obtain rfl | later := List.mem_cons.mp mem
      · rw [Option.isNone_iff_eq_none] at lacks
        rw [lacks] at held
        cases held
      · exact runs m later lacks
    · rw [if_neg held]
      obtain ⟨first, starts⟩ := startWalk (h := h) b .ahead job n false
      obtain ⟨z, foundZ, running⟩ := starts open_ x found low
      obtain ⟨z', foundZ', same⟩ := first.hub x found
      obtain rfl : z' = z := Option.some.inj (foundZ'.symm.trans foundZ)
      obtain ⟨walks, y, foundY, runs⟩ := ih (b.startWalk h .ahead job n false) (by rw [first.translates.part (·.jobs)]; exact open_) z' foundZ (same.numbered low)
      refine ⟨first.trans walks, y, foundY, fun m mem lacks => ?_⟩
      obtain ⟨y', foundY', later⟩ := walks.hub z' foundZ
      obtain rfl : y' = y := Option.some.inj (foundY'.symm.trans foundY)
      obtain rfl | rest := List.mem_cons.mp mem
      · exact later.walking _ _ (same.numbered low) running
      · refine runs m rest ?_
        rw [Xlat.find, same.sets]
        exact lacks

end Walking

theorem slotLookahead_walks {s : State} {rid k : Nat} {r : Ring} (found : s.blk.rings.get? rid = some r) (one : 1 ≤ k) (deep : k ≤ r.lookahead)
    (there : r.head + k < r.tail) (stays : r.destroying = false)
    (lacks : (pagesOf (r.slotVa (r.head + k)) 256).any (fun v => ((s.blk.hub (ringHub rid)).xlat.find r.job v).isNone) = true) :
    slotLookahead rid k s.store s.start = s.start.walkAhead (ringHub rid) r.job (needsOf (r.slotVa (r.head + k)) 256 { read := true }) := by
  unfold slotLookahead
  rw [show s.start.rings.get? rid = some r from found]
  dsimp only
  have goes : ¬(k = 0 ∨ r.lookahead < k ∨ r.tail ≤ r.head + k ∨ r.destroying = true) := by
    rw [stays]
    simp only [Bool.false_eq_true, or_false]
    omega
  rw [if_neg (by simpa [or_assoc] using goes), if_pos]
  rw [needsOf, List.any_map]
  exact lacks

/-- Settles O38. -/
theorem staleSlotsEndAndLookaheadWalks : Obligations.StaleSlotsEndAndLookaheadWalks := by
  unfold Obligations.StaleSlotsEndAndLookaheadWalks
  refine fun rid s r found => ⟨fun x b a may read differs since due => ?_, fun k one deep there stays open_ hub low => ?_⟩
  · have effect := slotStale_ends found may read differs since due
    have rings : b.rings.get? rid = some r := (congrArg (Tbl.get? · rid) (slotFetch_rings read)).trans found
    have taken := (takeSlot_taken b rid r.nextSlot x none true r rings).serves (Serves.statusWrite _)
    have ended := taken.standing.failed SLOT_STALE
    have recs := (Serves.ensureRec (rid := rid) (((b.takeSlot rid r.nextSlot x none true).statusWrite rid).endSlot rid r.nextSlot SLOT_STALE 0 []) r.nextSlot).outcomes
    refine Runs.of_core (s := s) _ rfl fun t core => ?_
    rw [effect] at core
    refine (ended.outcomes (recs.trans (Outcomes.of_core core)) fun v w same holds => ?_).mono fun w holds => ⟨holds.1, holds.2.trans rfl⟩
    exact ⟨ended_alike v w same holds.1, (Work.of_outcome same (·.noFlag)).trans holds.2⟩
  · intro uncached pages lacks
    obtain ⟨x, foundX⟩ := Option.ne_none_iff_exists'.mp hub
    have isX : s.blk.hub (ringHub rid) = x := s.blk.hub_of_get _ x foundX
    rw [isX] at low
    obtain ⟨walks, y, foundY, runs⟩ := Walking.walkAhead (h := ringHub rid) s.start r.job (needsOf (r.slotVa (r.head + k)) 256 { read := true }) open_ x foundX low
    have effect := slotLookahead_walks found one deep there stays lacks
    refine Runs.of_effect (s := s) rfl _ effect (walks.translates.part (·.wr)) ⟨rfl, walks.rings, walks.works, fun v mem lacksV => ?_⟩
    have isY : Block.hub (s.start.walkAhead (ringHub rid) r.job (needsOf (r.slotVa (r.head + k)) 256 { read := true })) (ringHub rid) = y := Block.hub_of_get _ _ y foundY
    refine (congrArg (fun z : Hub => z.xlat.walking .ahead (v / 65536)) isY).trans ?_
    refine runs { va := v, read := true } (List.mem_map.mpr ⟨v, mem, rfl⟩) ?_
    rw [← isX]
    exact lacksV

end Sys2Proof.Machine
end

section
/-! O35: lookup, prefetch and row maintenance slots are picked up. -/
namespace Sys2Proof.Machine
open Sys2Proof.Spec

/-! ### A pickup (R200, R202, R203) -/

theorem Taken.after {a b c : Block} {rid p x : Nat} {stale : Bool} {r : Ring} (serves : Serves rid a b) (taken : Taken b c rid p x stale r) : Taken a c rid p x stale r :=
  ⟨serves.picking.trans taken.picking, taken.tables.trans serves.outcomes.tables, taken.here,
    fun q other => (taken.others q other).trans (serves.outcomes.work _), taken.ring⟩

theorem slotFetch_reads {st : Store} {b c : Block} {rid p : Nat} {r : Ring} {o : Option Nat} (read : slotFetch st b rid r p = (c, o)) : Serves rid b c := by
  have serves := slotFetch_serves st b rid r p
  rwa [read] at serves

/-- What a ring picks up it reads as its next slot. -/
theorem picks_read {s : State} {rid p x : Nat} {r : Ring} (picks : Picks s rid p x r) :
    ∃ b, tryPick s.store s.start rid = (b, some (p, x)) ∧ p = r.nextSlot ∧ slotFetch s.store s.start rid r p = (b, some x) := by
  obtain ⟨found, picked⟩ := picks
  generalize is : tryPick s.store s.start rid = y at picked
  obtain ⟨b, o⟩ := y
  dsimp only at picked
  subst picked
  refine ⟨b, rfl, ?_⟩
  unfold tryPick at is
  rw [show s.start.rings.get? rid = some r from found] at is
  dsimp only at is
  have never : ∀ {c : Block}, (c, (none : Option (Nat × Nat))) ≠ (b, some (p, x)) := fun is => nomatch (Prod.mk.inj is).2
  split at is
  · exact absurd is never
  · generalize read : slotFetch s.store s.start rid r r.nextSlot = y at is
    obtain ⟨c, o⟩ := y
    cases o with
    | none => exact absurd is never
    | some y =>
      dsimp only at is
      split at is
      · exact absurd is never
      · split at is
        · exact absurd is never
        · obtain ⟨rfl, same⟩ := Prod.mk.inj is
          obtain ⟨rfl, rfl⟩ := Prod.mk.inj (Option.some.inj same)
          exact ⟨rfl, read⟩

/-- A pickup of the command's own slot takes it, starts it, and translates its record and flag. -/
theorem pickup_takes {s : State} {rid p x : Nat} {r : Ring} (picks : Picks s rid p x r) (mine : Nat → Bool) (start : Store → Block → Ring → Nat → Nat → Block)
    (own : mine x = true) : ∃ c, Taken s.start c rid p x false r ∧ p = r.nextSlot ∧ pickup mine start rid s.store s.start = ((start s.store c r p x).ensureRec rid p).1 := by
  obtain ⟨b, picked, next, read⟩ := picks_read picks
  obtain ⟨found, -⟩ := picks
  have rings : b.rings.get? rid = some r := (congrArg (Tbl.get? · rid) (slotFetch_rings read)).trans found
  have serves : Serves rid s.start b := slotFetch_reads read
  refine ⟨(b.takeSlot rid p x none false).statusWrite rid, ((takeSlot_taken b rid p x none false r rings).serves (Serves.statusWrite _)).after serves, next, ?_⟩
  unfold pickup
  rw [picked]
  dsimp only
  rw [rings]
  dsimp only
  rw [own, if_neg (by decide)]

/-- What is said of a slot's start holds of the command that picks it up. -/
theorem runs_pickup {i : Instr} {s : State} {rid p x : Nat} {r : Ring} {P : State → Prop} (mine : Nat → Bool) (start : Store → Block → Ring → Nat → Nat → Block)
    {f : Store → Block → Block} (arm : exec i s = run f s) (effect : f s.store s.start = pickup mine start rid s.store s.start) (picks : Picks s rid p x r)
    (own : mine x = true)
    (holds : ∀ (c : Block) (t : State), Taken s.start c rid p x false r → p = r.nextSlot → Outcomes (start s.store c r p x) t.blk →
      t.blk.jobs = (start s.store c r p x).jobs → t.blk.progs = (start s.store c r p x).progs → P t) : Runs i s P := by
  obtain ⟨c, taken, next, is⟩ := pickup_takes picks mine start own
  have recs := Serves.ensureRec (rid := rid) (start s.store c r p x) p
  refine Runs.of_core (s := s) _ arm fun t core => ?_
  rw [effect, is] at core
  exact holds c t taken next (recs.outcomes.trans (Outcomes.of_core core)) ((congrArg Block.jobs core).trans recs.picking.jobs)
    ((congrArg Block.progs core).trans recs.picking.progs)

/-- A slot stands from the start on, as a claim about its outcome shows it. -/
theorem Checked.of_outcome {status : Nat} {P : Work → Prop} (alike : ∀ v w : Work, v.outcome = w.outcome → P w → P v) (v w : Work) (same : v.outcome = w.outcome)
    (checked : Checked status P w) : Checked status P v :=
  ⟨fun fails => ended_alike v w same (checked.1 fails), fun passes => alike v w same (checked.2 passes)⟩

/-- A slot that fails its checks ends; one that passes starts. -/
theorem standing_checked {b d : Block} {rid p x status : Nat} {r : Ring} {P : Work → Prop} (stands : Standing b rid p x r (·.Fresh rid p x false))
    (starts : status = OK → Standing d rid p x r P) :
    Standing (if status ≠ OK then b.endSlot rid p status 0 [] else d) rid p x r (Checked status P) := by
  split
  · rename_i fails
    exact (stands.failed status).mono fun w ended => ⟨fun _ => ended.1, fun passes => absurd passes fails⟩
  · rename_i passes
    exact (starts (not_not.mp passes)).mono fun w holds => ⟨fun fails => absurd fails passes, fun _ => holds⟩

/-- What a check at pickup reads of the engine is what stood before. -/
structure Taken.Reads (b c : Block) : Prop where
  minor : c.eng.minor = b.eng.minor
  feat : c.feat = b.feat
  tables : c.tables = b.tables
  use : c.tableUse = b.tableUse
  twin : c.eng.twin = b.eng.twin
  progs : c.progs = b.progs
  jobs : c.jobs = b.jobs

theorem Taken.reads {b c : Block} {rid p x : Nat} {stale : Bool} {r : Ring} (taken : Taken b c rid p x stale r) : Taken.Reads b c := by
  refine ⟨taken.picking.engPart (·.minor), ?_, taken.tables, ?_, taken.picking.engPart (·.twin), taken.picking.progs, taken.picking.jobs⟩
  · exact funext fun f => congrArg (fun n : Nat => n.testBit f) (taken.picking.engPart (·.features))
  · funext job t
    simp only [Block.tableUse, Block.tableOf, taken.tables]

theorem Forgets.mapHubs (b : Block) (f : Nat → Hub → Hub) (keeps : ∀ g x, (f g x).xlat = x.xlat) : Forgets b { b with hubs := b.hubs.mapVal f } := by
  intro g e held
  rw [Block.hub, Tbl.getD, Tbl.get?_mapVal] at held
  rw [Block.hub, Tbl.getD]
  cases found : b.hubs.get? g with
  | none => rwa [found] at held
  | some x =>
    rw [found] at held
    exact (congrArg (fun y : Xlat => y.holds e) (keeps g x)) ▸ held

/-- A slot's end brings the caches nothing. -/
theorem Forgets.endSlot (b : Block) (rid p status pos : Nat) (counters : List Nat) : Forgets b (b.endSlot rid p status pos counters) := by
  unfold Block.endSlot Block.closeSlot Block.dropTasks
  dsimp only
  refine Forgets.trans ?_ (Forgets.trans (Forgets.onXlat_sets _ _ _) (Forgets.trans (Forgets.mapHubs _ _ ?_) (Forgets.of_hubs rfl)))
  · refine Forgets.of_hubs ?_
    rw [Block.freePages_eq]
    rfl
  · exact fun _ _ => rfl

theorem Picking.endSlot {h : Nat} (b : Block) (rid p status pos : Nat) (counters : List Nat) : Picking h b (b.endSlot rid p status pos counters) := by
  have same := b.endSlot_eq rid p status pos counters
  refine .of_silent ?_ ?_ ?_ (fun q => ?_) (Forgets.endSlot b rid p status pos counters)
    (fun g => b.endSlot_hub rid p status pos counters g (·.regs.msiAddr)) ?_
  · exact congrArg (·.jobs) same
  · exact congrArg (·.progs) same
  · exact congrArg (·.eng.charter) same
  · exact (congrArg (fun d : Block => (d.rings.get? q).map Ring.station) same :)
  · exact congrArg (·.wr) same

/-! ### Lookups (R209) -/

theorem Taken.Reads.lookupStatus {b c : Block} (reads : Taken.Reads b c) (r : Ring) (x : Nat) : c.lookupStatus r x = b.lookupStatus r x := by
  unfold Block.lookupStatus Block.lookupCheck
  rw [reads.minor, reads.use, reads.feat]

/-- A lookup slot that has started on its table's descriptor. -/
def Work.LooksUp (desc : BitVec 512) (w : Work) : Prop := w.phase = .active ∧ ∃ l, w.data = .lookup l ∧ l.desc = desc

theorem Work.LooksUp.alike {desc : BitVec 512} (v w : Work) (same : v.outcome = w.outcome) (looks : w.LooksUp desc) : v.LooksUp desc := by
  obtain ⟨active, l, data, is⟩ := looks
  exact ⟨(Work.of_outcome same (·.phase)).trans active, l, (Work.of_outcome same (·.data)).trans data, is⟩

/-- From b to c other slots of the ring than p were taken. -/
structure Grouping (rid p : Nat) (b c : Block) : Prop where
  picking : Picking (ringHub rid) b c
  tables : c.tables = b.tables
  work : (c.work? rid p).map Work.outcome = (b.work? rid p).map Work.outcome
  ring : ∀ r, b.rings.get? rid = some r → ∃ q, c.rings.get? rid = some q ∧ r.head ≤ q.head

namespace Grouping

variable {rid p : Nat} {b c d : Block}

theorem refl (b : Block) : Grouping rid p b b := ⟨.refl b, rfl, rfl, fun r found => ⟨r, found, le_rfl⟩⟩

theorem trans (first : Grouping rid p b c) (second : Grouping rid p c d) : Grouping rid p b d := by
  refine ⟨first.picking.trans second.picking, second.tables.trans first.tables, second.work.trans first.work, fun r found => ?_⟩
  obtain ⟨q, foundQ, low⟩ := first.ring r found
  obtain ⟨q', foundQ', low'⟩ := second.ring q foundQ
  exact ⟨q', foundQ', low.trans low'⟩

theorem of_serves (serves : Serves rid b c) : Grouping rid p b c := by
  refine ⟨serves.picking, serves.outcomes.tables, serves.outcomes.work _, fun r found => ?_⟩
  obtain ⟨q, foundQ, counts⟩ := serves.outcomes.ring_some found
  exact ⟨q, foundQ, (congrArg Prod.fst counts).ge⟩

theorem onWork (b : Block) {q : Nat} (f : Work → Work) (other : p ≠ q) : Grouping rid p b (b.onWork rid q f) :=
  ⟨.onWork b rid q f, rfl, congrArg (Option.map Work.outcome) (Tbl.get?_modify_other _ _ _ _ (workKey_inj other)), fun r found => ⟨r, found, le_rfl⟩⟩

theorem takeSlot (b : Block) {q : Nat} (x : Nat) (group : Option Nat) (stale : Bool) (r : Ring) (found : b.rings.get? rid = some r) (other : p ≠ q) :
    Grouping rid p b (b.takeSlot rid q x group stale) := by
  have taken := takeSlot_taken b rid q x group stale r found
  obtain ⟨q', there, low, -⟩ := taken.ring
  refine ⟨taken.picking, taken.tables, taken.others p other, fun r' found' => ⟨q', there, ?_⟩⟩
  rw [← Option.some.inj (found.symm.trans found')]
  exact low

theorem takeGroup (st : Store) (first fuel q : Nat) (b : Block) (above : p < q) : Grouping rid p b (Machine.takeGroup st rid p first fuel q b) := by
  induction fuel generalizing q b with
  | zero => exact refl b
  | succ fuel ih =>
    unfold Machine.takeGroup
    split
    · exact refl b
    · rename_i r found
      split
      · exact refl b
      · have rings : ∀ c x, slotFetch st b rid r q = (c, some x) → c.rings.get? rid = some r := fun c x read =>
          (congrArg (Tbl.get? · rid) (slotFetch_rings read)).trans found
        split
        · rename_i c read
          exact of_serves (slotFetch_reads read)
        · rename_i c x read
          have serves : Serves rid b c := slotFetch_reads read
          split
          · exact of_serves serves
          · dsimp only
            have other : p ≠ q := by omega
            have took := takeSlot c x (some p) false r (rings c x read) other
            have started := took.trans (onWork (c.takeSlot rid q x (some p) false) (fun w => { w with data := .lookup { desc := ((c.takeSlot rid q x (some p) false).tables.getD (lop x).table {}).desc } }) other)
            exact (((of_serves serves).trans started).trans (of_serves (Serves.ensureRec _ q))).trans (ih (q + 1) _ (by omega))

end Grouping

theorem Standing.grouping {b c : Block} {rid p x : Nat} {r : Ring} {P : Work → Prop} (stands : Standing b rid p x r P) (groups : Grouping rid p b c)
    (alike : ∀ v w : Work, v.outcome = w.outcome → P w → P v) : Standing c rid p x r P := by
  obtain ⟨w, q, found, ring, place, slot, holds, there, past⟩ := stands
  have same := groups.work
  rw [found] at same
  obtain ⟨v, foundV, is⟩ := Option.map_eq_some_iff.mp same
  obtain ⟨q', there', low⟩ := groups.ring q there
  exact ⟨v, q', foundV, (Work.of_outcome is (·.ring)).trans ring, (Work.of_outcome is (·.p)).trans place, (Work.of_outcome is (·.slot)).trans slot,
    alike v w is holds, there', fun fresh => (past fresh).trans_le low⟩

/-- A lookup slot's merging leaves its descriptor, and the tables. -/
theorem lookup_merges (st : Store) {b : Block} {rid p x : Nat} {r : Ring} {desc : BitVec 512} (go : Bool) (stands : Standing b rid p x r (Work.LooksUp desc)) :
    let b' := takeGroup st rid p x 15 (p + 1) b
    let d := if go then (if b'.works.length = b.works.length then b' else (b'.onWork rid p fun w => { w with group := some p }).statusWrite rid) else b
    Standing d rid p x r (Work.LooksUp desc) ∧ d.tables = b.tables ∧ Picking (ringHub rid) b d := by
  intro b' d
  have groups := Grouping.takeGroup (rid := rid) (p := p) st x 15 (p + 1) b (Nat.lt_succ_self p)
  have grouped : Standing b' rid p x r (Work.LooksUp desc) := stands.grouping groups Work.LooksUp.alike
  show Standing (if go then (if b'.works.length = b.works.length then b' else _) else b) rid p x r _ ∧ (if go then (if b'.works.length = b.works.length then b' else _) else b).tables = _ ∧
    Picking (ringHub rid) b (if go then (if b'.works.length = b.works.length then b' else _) else b)
  split
  · split
    · exact ⟨grouped, groups.tables, groups.picking⟩
    · have written := Serves.statusWrite (rid := rid) (b'.onWork rid p fun w => { w with group := some p })
      refine ⟨?_, written.outcomes.tables.trans groups.tables, (groups.picking.trans (Picking.onWork b' rid p _)).trans written.picking⟩
      exact (grouped.onWork (fun w => { w with group := some p }) (fun _ => ⟨rfl, rfl, rfl⟩) fun w _ looks => looks).outcomes written.outcomes Work.LooksUp.alike
  · exact ⟨stands, rfl, .refl b⟩

/-- A lookup slot that is picked up ends, or looks up on its table's descriptor. -/
theorem lookupStart_starts (st : Store) {b c : Block} {rid p x : Nat} {r : Ring} (taken : Taken b c rid p x false r) (next : p = r.nextSlot) :
    Standing (lookupStart st c r p x rid) rid p x r (Checked (b.lookupStatus r x) (Work.LooksUp (b.tables.getD (lop x).table {}).desc)) ∧
      (lookupStart st c r p x rid).tables = b.tables ∧ Picking (ringHub rid) b (lookupStart st c r p x rid) := by
  have status := taken.reads.lookupStatus r x
  have fresh : Standing c rid p x r (·.Fresh rid p x false) := by
    subst next
    exact taken.standing
  have started : Standing (c.startLookup rid p x) rid p x r (Work.LooksUp (b.tables.getD (lop x).table {}).desc) := by
    rw [← taken.tables]
    exact fresh.onWork _ (fun _ => ⟨rfl, rfl, rfl⟩) fun w _ isFresh => ⟨isFresh.phase, _, rfl, rfl⟩
  obtain ⟨stands, tables, picking⟩ := lookup_merges st (r.merge && r.retry.isEmpty && decide (r.head = p) && (lop x).inl && (lop x).uniform && (lop x).bags == 1) started
  unfold lookupStart
  rw [status]
  refine ⟨standing_checked fresh fun _ => stands, ?_, ?_⟩
  · dsimp only
    split
    · exact (congrArg Block.tables (c.endSlot_eq rid p _ 0 [])).trans taken.tables
    · exact tables.trans taken.tables
  · dsimp only
    split
    · exact taken.picking.trans (Picking.endSlot c rid p _ 0 [])
    · exact (taken.picking.trans (Picking.onWork c rid p _)).trans picking

/-! ### Slots over rows -/

/-- A slot over rows that has started at its first row. -/
def Work.RowsFrom (first last : Nat) (desc : BitVec 512) (w : Work) : Prop :=
  w.phase = .active ∧ ∃ q, w.data = .rows q ∧ q.next = first ∧ q.last = last ∧ q.desc = desc

theorem Work.RowsFrom.alike {first last : Nat} {desc : BitVec 512} (v w : Work) (same : v.outcome = w.outcome) (goes : w.RowsFrom first last desc) :
    v.RowsFrom first last desc := by
  obtain ⟨active, q, data, is⟩ := goes
  exact ⟨(Work.of_outcome same (·.phase)).trans active, q, (Work.of_outcome same (·.data)).trans data, is⟩

/-- The table that a slot's copied bytes name. -/
theorem tableId_of_slot {w : Work} {x : Nat} (slot : w.slot = BitVec.ofNat 2048 x) : w.tableId = bits x 236 20 := by
  rw [Work.tableId, Work.f, Work.x, slot, BitVec.toNat_ofNat, bits_mod _ _ _ _ (by decide)]

/-- A slot over rows that is picked up ends, or starts at its first row. -/
theorem startRows_starts {b c : Block} {rid p x : Nat} {r : Ring} (taken : Taken b c rid p x false r) (next : p = r.nextSlot) (status first last : Nat) :
    Standing (if status ≠ OK then c.endSlot rid p status 0 [] else c.startRows rid p first last) rid p x r
        (Checked status (Work.RowsFrom first last (b.tables.getD (bits x 236 20) {}).desc)) ∧
      (if status ≠ OK then c.endSlot rid p status 0 [] else c.startRows rid p first last).tables = b.tables ∧
      Picking (ringHub rid) b (if status ≠ OK then c.endSlot rid p status 0 [] else c.startRows rid p first last) := by
  have fresh : Standing c rid p x r (·.Fresh rid p x false) := by
    subst next
    exact taken.standing
  refine ⟨standing_checked fresh fun _ => fresh.onWork _ (fun _ => ⟨rfl, rfl, rfl⟩) fun w slot isFresh => ⟨isFresh.phase, _, rfl, rfl, rfl, ?_⟩, ?_, ?_⟩
  · show (c.tables.getD w.tableId {}).desc = _
    rw [tableId_of_slot slot, taken.tables]
  · split
    · exact (congrArg Block.tables (c.endSlot_eq rid p _ 0 [])).trans taken.tables
    · exact taken.tables
  · split
    · exact taken.picking.trans (Picking.endSlot c rid p _ 0 [])
    · exact taken.picking.trans (Picking.onWork c rid p _)

theorem Taken.Reads.rangeCheck {b c : Block} (reads : Taken.Reads b c) (job x : Nat) : c.rangeCheck job x = b.rangeCheck job x := by
  unfold Block.rangeCheck
  rw [reads.use]

theorem Taken.Reads.prefetchCheck {b c : Block} (reads : Taken.Reads b c) (job x : Nat) : c.prefetchCheck job x = b.prefetchCheck job x := by
  unfold Block.prefetchCheck
  rw [reads.use]

theorem Taken.Reads.exchangeCheck {b c : Block} (reads : Taken.Reads b c) (job x : Nat) : c.exchangeCheck job x = b.exchangeCheck job x := by
  unfold Block.exchangeCheck
  rw [reads.use, reads.twin]

theorem maintStart_is {b c : Block} (reads : Taken.Reads b c) (r : Ring) (p x rid : Nat) :
    maintStart c r p x rid = if thenCheck (headCheck b.eng.minor r.cls x rangeReserved false) (fun _ => b.rangeCheck r.job x) ≠ OK then
      c.endSlot rid p (thenCheck (headCheck b.eng.minor r.cls x rangeReserved false) fun _ => b.rangeCheck r.job x) 0 []
      else c.startRows rid p (gFirst x) (gFirst x + gCount x) := by
  unfold maintStart
  simp only [reads.minor, reads.rangeCheck]

theorem prefetchStart_is {b c : Block} (reads : Taken.Reads b c) (r : Ring) (p x rid : Nat) :
    prefetchStart c r p x rid = if thenCheck (headCheck b.eng.minor r.cls x prefetchReserved (decide (1 < bits x 231 2))) (fun _ => b.prefetchCheck r.job x) ≠ OK then
      c.endSlot rid p (thenCheck (headCheck b.eng.minor r.cls x prefetchReserved (decide (1 < bits x 231 2))) fun _ => b.prefetchCheck r.job x) 0 []
      else c.startRows rid p 0 0 := by
  unfold prefetchStart
  simp only [reads.minor, reads.prefetchCheck]

theorem exchangeStart_is {b c : Block} (reads : Taken.Reads b c) (r : Ring) (p x rid : Nat) :
    exchangeStart c r p x rid = if thenCheck (headCheck b.eng.minor r.cls x exchangeReserved false)
        (fun _ => if b.feat featTWIN then b.exchangeCheck r.job x else FEATURE_ABSENT) ≠ OK then
      c.endSlot rid p (thenCheck (headCheck b.eng.minor r.cls x exchangeReserved false)
        fun _ => if b.feat featTWIN then b.exchangeCheck r.job x else FEATURE_ABSENT) 0 []
      else c.startRows rid p (gFirst x) (gFirst x + gCount x) := by
  unfold exchangeStart
  simp only [reads.minor, reads.exchangeCheck, reads.feat]

/-- A pickup of a lookup slot. -/
theorem runs_lookup {i : Instr} {s : State} {rid p x : Nat} {r : Ring} (mine : Nat → Bool)
    (arm : exec i s = run (pickup mine (fun st b r p x => lookupStart st b r p x rid) rid) s) (picks : Picks s rid p x r) (own : mine x = true) :
    Runs i s fun t => InFlight t rid p x r (Checked (s.blk.lookupStatus r x) fun w => w.phase = .active ∧ ∃ l, w.data = .lookup l ∧ l.desc = (s.blk.tables.getD (lop x).table {}).desc) ∧
      t.blk.tables = s.blk.tables := by
  refine runs_pickup mine _ arm rfl picks own fun c t taken next kept _ _ => ?_
  obtain ⟨stands, tables, -⟩ := lookupStart_starts s.store taken next
  exact ⟨stands.outcomes kept (Checked.of_outcome Work.LooksUp.alike), kept.tables.trans tables⟩

/-- A pickup of a slot over rows. -/
theorem runs_rows {i : Instr} {s : State} {rid p x : Nat} {r : Ring} (status first last : Nat) (mine : Nat → Bool) (start : Store → Block → Ring → Nat → Nat → Block)
    {f : Store → Block → Block} (arm : exec i s = run f s) (effect : f s.store s.start = pickup mine start rid s.store s.start) (picks : Picks s rid p x r)
    (own : mine x = true)
    (is : ∀ c, Taken.Reads s.start c → start s.store c r p x = if status ≠ OK then c.endSlot rid p status 0 [] else c.startRows rid p first last) :
    Runs i s fun t => InFlight t rid p x r (Checked status fun w => w.phase = .active ∧
      ∃ q, w.data = .rows q ∧ q.next = first ∧ q.last = last ∧ q.desc = (s.blk.tables.getD (bits x 236 20) {}).desc) ∧ t.blk.tables = s.blk.tables := by
  refine runs_pickup mine start arm effect picks own fun c t taken next kept _ _ => ?_
  obtain ⟨stands, tables, -⟩ := startRows_starts taken next status first last
  rw [is c taken.reads] at kept
  exact ⟨stands.outcomes kept (Checked.of_outcome Work.RowsFrom.alike), kept.tables.trans tables⟩

/-- Settles O35. -/
theorem lookupAndRowSlotsArePickedUp : Obligations.LookupAndRowSlotsArePickedUp := by
  unfold Obligations.LookupAndRowSlotsArePickedUp
  refine ⟨fun rid p x r s picks => ⟨fun op => ?_, fun op => ?_⟩, fun rid p x r s picks => ⟨fun op still => ?_, fun op still => ?_, fun op => ?_, fun op => ?_⟩⟩
  · refine runs_lookup _ rfl picks ?_
    obtain pool | undefined := op
    · simp [pool]
    · simp only [undefined, Bool.not_false, Bool.or_true]
  · exact runs_lookup _ rfl picks (by simp [op])
  · refine runs_rows _ _ _ (fun x => bits x 8 8 == 0x12 && !s.start.resharding x) (fun _ b r p x => maintStart b r p x rid) rfl rfl picks ?_ fun c reads => maintStart_is reads r p x rid
    rw [op, show s.start.resharding x = false from still]
    rfl
  · refine runs_rows _ _ _ (fun x => bits x 8 8 == 0x13 && !s.start.resharding x) (fun _ b r p x => maintStart b r p x rid) rfl rfl picks ?_ fun c reads => maintStart_is reads r p x rid
    rw [op, show s.start.resharding x = false from still]
    rfl
  · exact runs_rows _ _ _ (fun x => bits x 8 8 == 0x03) (fun _ b r p x => prefetchStart b r p x rid) rfl rfl picks (by simp [op]) fun c reads => prefetchStart_is reads r p x rid
  · exact runs_rows _ _ _ (fun x => bits x 8 8 == 0x21) (fun _ b r p x => exchangeStart b r p x rid) rfl rfl picks (by simp [op]) fun c reads => exchangeStart_is reads r p x rid

end Sys2Proof.Machine
end

section
/-! O36: update, permute, barrier and signal slots are picked up. -/
namespace Sys2Proof.Machine
open Sys2Proof.Spec

/-! ### The caches while a unit is translated -/

theorem Forgets.recsHeld (b : Block) (rid p : Nat) : Forgets b (b.recsHeld rid p).1 := by
  unfold Block.recsHeld
  refine Forgets.foldlOk (fun x w => ?_) _ (b, true)
  exact Forgets.ensureRec x.1 rid w.p

theorem Forgets.ensure (b : Block) (rid p : Nat) (needs : List Need) : Forgets b (b.ensure rid p needs).1 := by
  unfold Block.ensure
  split
  · rename_i r w _ _
    refine Forgets.trans ?_ (Forgets.foldlOk (fun x n => ?_) needs (if w.tile = 0 then b.recsHeld rid w.lead else (b, true)))
    · split
      · exact Forgets.recsHeld b rid w.lead
      · exact Forgets.refl b
    · have looked := Forgets.cached x.1 (ringHub rid) r.job n
      dsimp only
      split
      · exact Forgets.refl _
      · split
        · rename_i hit
          rw [hit] at looked
          exact looked.trans (Forgets.of_hubs rfl)
        · rename_i missed
          rw [missed] at looked
          exact looked.trans (Forgets.startWalk _ _ _ _ _ _)
  · exact Forgets.refl b

theorem Serves.ensure {rid : Nat} (b : Block) (p : Nat) (needs : List Need) : Serves rid b (b.ensure rid p needs).1 :=
  Serves.of_translates (Translates.ensure b rid p needs) (Forgets.ensure b rid p needs)

/-! ### A slot whose work of its kind has begun -/

/-- The kind of a slot's work. -/
def WorkData.kind : WorkData → Nat
  | .none => 0
  | .lookup _ => 1
  | .update _ => 2
  | .rows _ => 3
  | .solstice _ _ => 4

theorem WorkData.kind_transforming (d : WorkData) : d.transforming.kind = d.kind := by cases d <;> rfl

/-- From a on only what a pickup may change has changed, and the slot stands with work of a kind. -/
structure Going (a : Block) (rid p x : Nat) (r : Ring) (kind : Nat) (c : Block) : Prop where
  picking : Picking (ringHub rid) a c
  stands : Standing c rid p x r fun w => w.data.kind = kind

namespace Going

variable {a b c : Block} {rid p x kind : Nat} {r : Ring}

theorem kind_alike (v w : Work) (same : v.outcome = w.outcome) (is : w.data.kind = kind) : v.data.kind = kind := (Work.of_outcome same (·.data.kind)).trans is

theorem serves (going : Going a rid p x r kind b) (serves : Serves rid b c) : Going a rid p x r kind c :=
  ⟨going.picking.trans serves.picking, going.stands.outcomes serves.outcomes kind_alike⟩

theorem ensure (going : Going a rid p x r kind b) (needs : List Need) : Going a rid p x r kind (b.ensure rid p needs).1 := going.serves (Serves.ensure b p needs)

theorem onWork (going : Going a rid p x r kind b) (f : Work → Work) (place : ∀ w, (f w).ring = w.ring ∧ (f w).p = w.p ∧ (f w).slot = w.slot)
    (data : ∀ w : Work, w.data.kind = kind → (f w).data.kind = kind) : Going a rid p x r kind (b.onWork rid p f) :=
  ⟨going.picking.trans (Picking.onWork b rid p f), going.stands.onWork f place fun w _ is => data w is⟩

/-- The slot's work becomes another of its kind. -/
theorem setData (going : Going a rid p x r kind b) (d : WorkData) (is : d.kind = kind) : Going a rid p x r kind (b.onWork rid p fun w => { w with data := d }) :=
  going.onWork _ (fun _ => ⟨rfl, rfl, rfl⟩) fun _ _ => is

theorem endSlot (going : Going a rid p x r kind b) (status pos : Nat) (counters : List Nat) : Going a rid p x r kind (b.endSlot rid p status pos counters) := by
  refine ⟨going.picking.trans (Picking.endSlot b rid p status pos counters), ?_⟩
  obtain ⟨w, q, found, ring, place, slot, is, there, past⟩ := going.stands
  have ends := b.endSlot_works rid p status pos counters (workKey rid p)
  rw [if_pos rfl, show b.works.get? (workKey rid p) = some w from found] at ends
  obtain ⟨v, foundV, same⟩ := Option.map_eq_some_iff.mp ends
  exact ⟨v, q, foundV, (congrArg Work.ring same).trans ring, (congrArg Work.p same).trans place, (congrArg Work.slot same).trans slot,
    (congrArg (·.data.kind) same).trans is, (congrArg (fun d : Block => d.rings.get? rid) (b.endSlot_eq rid p status pos counters)).trans there, past⟩

theorem onTable (going : Going a rid p x r kind b) (t : Nat) (f : TableSt → TableSt) : Going a rid p x r kind (b.onTable t f) :=
  ⟨going.picking.trans (Picking.onTable b t f), going.stands⟩

theorem addTask (going : Going a rid p x r kind b) (h q s : Nat) (task : TaskKind) (stack : Option Nat) (ops : Nat) (row : Option Nat) (after : List (Nat × Nat))
    (single : Bool) : Going a rid p x r kind (b.addTask h q s task stack ops row after single) := by
  unfold Block.addTask
  split
  · exact going
  · exact ⟨going.picking.trans (Picking.onHub b h _ (fun _ => rfl) fun _ => rfl), going.stands⟩

/-- Reading through a page of the slot (R264, R323, R348). -/
theorem readPage (going : Going a rid p x r kind b) (st : Store) (pg : Page) (off n : Nat) : Going a rid p x r kind (readPage st b rid p pg off n).1 := by
  unfold Machine.readPage
  dsimp only
  split
  · exact going
  · split
    · split
      · exact going
      · exact going
      · exact going.serves (Serves.hostNeeded b p whatOUT)
    · split
      · split
        · exact going
        · split
          · exact going
          · split
            · exact going
            · exact (going.serves (Serves.sendWin b rid p _ true _)).onWork _ (fun _ => ⟨rfl, rfl, rfl⟩) fun _ is => is
      · exact going

/-- Steps one after another, each with an answer. -/
theorem foldl {α β : Type} {f : Block × β → α → Block × β} (step : ∀ y v, Going a rid p x r kind y.1 → Going a rid p x r kind (f y v).1) (vs : List α) (y : Block × β)
    (going : Going a rid p x r kind y.1) : Going a rid p x r kind (vs.foldl f y).1 := by
  induction vs generalizing y with
  | nil => exact going
  | cons v vs ih => exact ih _ (step y v going)

theorem foldBlocks {α : Type} {f : Block → α → Block} (step : ∀ c v, Going a rid p x r kind c → Going a rid p x r kind (f c v)) (vs : List α)
    (going : Going a rid p x r kind b) : Going a rid p x r kind (vs.foldl f b) := by
  induction vs generalizing b with
  | nil => exact going
  | cons v vs ih => exact ih (step b v going)

theorem readVa (going : Going a rid p x r kind b) (st : Store) (va n : Nat) : Going a rid p x r kind (readVa st b rid p va n).1 := by
  unfold Machine.readVa
  refine foldl (fun y v going => ?_) _ (b, _) going
  obtain ⟨c, acc⟩ := y
  dsimp only
  have paged : ∀ pg, Going a rid p x r kind (Machine.readPage st c rid p pg (Nat.max va v - v) (Nat.min (va + n) (v + 65536) - Nat.max va v)).1 := fun pg =>
    readPage going st pg _ _
  cases acc with
  | stop s => exact going
  | got old =>
    dsimp only
    split
    · exact going
    · rename_i pg _
      replace paged := paged pg
      generalize Machine.readPage st c rid p pg (Nat.max va v - v) (Nat.min (va + n) (v + 65536) - Nat.max va v) = y at paged
      obtain ⟨d, got⟩ := y
      cases got <;> exact paged
  | wait =>
    dsimp only
    split
    · exact going
    · rename_i pg _
      replace paged := paged pg
      generalize Machine.readPage st c rid p pg (Nat.max va v - v) (Nat.min (va + n) (v + 65536) - Nat.max va v) = y at paged
      obtain ⟨d, got⟩ := y
      cases got <;> exact paged

theorem readVa_is (going : Going a rid p x r kind b) {st : Store} {va n : Nat} {rd : Rd} (read : Machine.readVa st b rid p va n = (c, rd)) : Going a rid p x r kind c := by
  have gone := readVa going st va n
  rwa [read] at gone

theorem ensure_is (going : Going a rid p x r kind b) {needs : List Need} {ok : Bool} (held : b.ensure rid p needs = (c, ok)) : Going a rid p x r kind c := by
  have gone := ensure going needs
  rwa [held] at gone

/-- Bytes that are read go on to what follows. -/
theorem withBytes (going : Going a rid p x r kind b) (st : Store) (va n : Nat) (counters : List Nat) (k : Block → List Byte → Block)
    (next : ∀ c bs, Going a rid p x r kind c → Going a rid p x r kind (k c bs)) : Going a rid p x r kind (withBytes st b rid p va n counters k) := by
  unfold Machine.withBytes
  split
  · rename_i read
    exact next _ _ (readVa_is going read)
  · rename_i read
    exact readVa_is going read
  · rename_i read
    exact (readVa_is going read).endSlot _ _ _

theorem withRead (going : Going a rid p x r kind b) (st : Store) (va n : Nat) (k : Block → List Byte → Block)
    (next : ∀ c bs, Going a rid p x r kind c → Going a rid p x r kind (k c bs)) : Going a rid p x r kind (withRead st b rid p va n k) := by
  unfold Machine.withRead
  split
  · rename_i held
    exact ensure_is going held
  · rename_i held
    exact withBytes (ensure_is going held) st va n [] k next

theorem readMany (going : Going a rid p x r kind b) (st : Store) (spans : List (Nat × Nat)) : Going a rid p x r kind (readMany st b rid p spans).1 := by
  unfold Machine.readMany
  refine foldl (fun y v going => ?_) _ (b, _) going
  obtain ⟨c, s, acc⟩ := y
  obtain ⟨va, n⟩ := v
  dsimp only
  split
  · exact going
  · split
    all_goals
      rename_i read
      exact readVa_is going read

theorem readMany_is (going : Going a rid p x r kind b) {st : Store} {spans : List (Nat × Nat)} {y : Rd × List (List Byte)} (read : Machine.readMany st b rid p spans = (c, y)) :
    Going a rid p x r kind c := by
  have gone := readMany going st spans
  rwa [read] at gone

theorem transformReady (going : Going a rid p x r kind b) (q : Ring) (td : TD) (idxw : Nat) (raws : List Nat) :
    Going a rid p x r kind (b.transformReady q rid p td idxw raws).1 := by
  unfold Block.transformReady
  split
  · split
    · exact going
    · dsimp only
      refine onWork ?_ _ (fun _ => ⟨rfl, rfl, rfl⟩) fun w is => (WorkData.kind_transforming w.data).trans is
      exact foldBlocks (fun c _ going => going.addTask _ _ _ _ _ _ _ _ _) _ going
  · exact going

end Going

theorem Going.transformReady_is {a b c : Block} {rid p x kind : Nat} {r q : Ring} (going : Going a rid p x r kind b) {td : TD} {idxw : Nat} {raws : List Nat} {ok : Bool}
    (ran : b.transformReady q rid p td idxw raws = (c, ok)) : Going a rid p x r kind c := by
  have gone := going.transformReady q td idxw raws
  rwa [ran] at gone

/-! ### Update batches (R100, R119) -/

theorem Going.finishPrep {a b : Block} {rid p x : Nat} {r : Ring} (going : Going a rid p x r 2 b) (st : Store) (td : TD) (o : UOp) (h : UHdr) (cs : List Contrib)
    (digested : List Byte) : Going a rid p x r 2 (finishPrep st b rid p td o h cs digested) := by
  unfold Machine.finishPrep
  dsimp only
  split
  · rename_i held
    exact going.ensure_is held
  · rename_i held
    have ensured := going.ensure_is held
    split
    · rename_i read
      exact ensured.readMany_is read
    · rename_i read
      exact (ensured.readMany_is read).endSlot _ _ _
    · rename_i read
      have got := ensured.readMany_is read
      split
      · exact got.endSlot _ _ _
      · exact got.setData _ rfl

theorem Going.prepForm1 {a b : Block} {rid p x : Nat} {r : Ring} (going : Going a rid p x r 2 b) (st : Store) (q : Ring) (td : TD) (o : UOp) (h : UHdr) (head : List Byte) :
    Going a rid p x r 2 (prepForm1 st b rid p q td o h head) := by
  unfold Machine.prepForm1
  extract_lets lensOf idxOf wtOf
  have lengths : ∀ c k, Going a rid p x r 2 c → (∀ d bs lens, Going a rid p x r 2 d → Going a rid p x r 2 (k d bs lens)) → Going a rid p x r 2 (lensOf c k) := by
    intro c k going next
    show Going a rid p x r 2 (if h.uniform then _ else _)
    split
    · exact next c _ _ going
    · exact going.withRead st _ _ _ fun d bs going => next d bs _ going
  have indices : ∀ c k, Going a rid p x r 2 c → (∀ d bs, Going a rid p x r 2 d → Going a rid p x r 2 (k d bs)) → Going a rid p x r 2 (idxOf c k) := by
    intro c k going next
    show Going a rid p x r 2 (if h.n = 0 then _ else _)
    split
    · exact next c _ going
    · exact going.withRead st _ _ k next
  have weights : ∀ c k, Going a rid p x r 2 c → (∀ d bs, Going a rid p x r 2 d → Going a rid p x r 2 (k d bs)) → Going a rid p x r 2 (wtOf c k) := by
    intro c k going next
    show Going a rid p x r 2 (if h.n = 0 || h.bmode ≠ 2 then _ else _)
    split
    · exact next c _ going
    · exact going.withRead st _ _ k next
  clear_value lensOf idxOf wtOf
  apply lengths b _ going
  intro c lb lens going
  dsimp only
  split
  · exact going.endSlot _ _ _
  · apply indices c _ going
    intro d ib going
    split
    · rename_i ran
      exact going.transformReady_is ran
    · rename_i e ran
      have ready := going.transformReady_is ran
      split
      · exact ready.endSlot _ _ _
      · exact weights e _ ready fun f wb going => going.finishPrep st _ _ _ _ _

theorem Going.prepUpdate {a b : Block} {rid p x : Nat} {r : Ring} (going : Going a rid p x r 2 b) (st : Store) : Going a rid p x r 2 (prepUpdate st b rid p) := by
  unfold Machine.prepUpdate
  split
  · split
    · rename_i q w _ _ _ u _
      split
      · exact going
      · split
        · exact going.endSlot _ _ _
        · extract_lets c o td operand
          have checked : Going a rid p x r 2 c := going.setData (.update { u with checked := true }) rfl
          split
          · exact checked.finishPrep st _ _ _ _ _
          · refine checked.withRead st _ _ _ fun d hb going => ?_
            dsimp only
            split
            · exact going.endSlot _ _ _
            · split
              · exact going.prepForm1 st _ _ _ _ _
              · split
                · exact going.finishPrep st _ _ _ _ _
                · refine going.withRead st _ _ _ fun e kb going => ?_
                  split
                  · exact going.endSlot _ _ _
                  · exact going.finishPrep st _ _ _ _ _
    · exact going
  · exact going

/-! ### COPY_PERMUTE (R353, R354) -/

theorem Going.setRows {a b : Block} {rid p x : Nat} {r : Ring} (going : Going a rid p x r 3 b) (f : Rows → Rows) : Going a rid p x r 3 (b.setRows rid p f) := by
  refine going.onWork _ (fun w => ?_) fun w is => ?_
  · split <;> exact ⟨rfl, rfl, rfl⟩
  · split
    · rfl
    · exact is

theorem Going.permPlan {a b : Block} {rid p x : Nat} {r : Ring} (going : Going a rid p x r 3 b) (st : Store) : Going a rid p x r 3 (permPlan st b rid p) := by
  unfold Machine.permPlan
  split
  · split
    · exact going
    · extract_lets n td k
      have next : ∀ c bs, Going a rid p x r 3 c → Going a rid p x r 3 (k c bs) := by
        intro c bs going
        show Going a rid p x r 3 (if _ then _ else _)
        split
        · exact going.endSlot _ _ _
        · split
          · exact (going.onTable _ _).endSlot _ _ _
          · dsimp only
            split
            · exact (going.setRows _).onTable _ _
            · exact going.setRows _
      split
      · exact next b [] going
      · exact going.withRead st _ _ k next
  · exact going

/-! ### SOLSTICE (R216) -/

theorem Going.readWindows {a b : Block} {rid p x : Nat} {r : Ring} (going : Going a rid p x r 4 b) (st : Store) : Going a rid p x r 4 (readWindows st b rid p) := by
  unfold Machine.readWindows
  split
  · split
    · dsimp only
      split
      · exact going
      · refine going.withRead st _ _ _ fun c bs going => ?_
        split
        · exact going.endSlot _ _ _
        · exact going.setData _ rfl
    · exact going
  · exact going

/-! ### The starts -/

/-- A slot that fails its checks ends; one that passes goes on with work of its kind. Only what a pickup may change has changed. -/
theorem going_checked {a c : Block} {rid p x : Nat} {r : Ring} (taken : Taken a c rid p x false r) (next : p = r.nextSlot) (status kind : Nat) (f : Work → Work)
    (g : Block → Block) (place : ∀ w, (f w).ring = w.ring ∧ (f w).p = w.p ∧ (f w).slot = w.slot) (data : ∀ w, (f w).data.kind = kind)
    (goes : ∀ d, Going a rid p x r kind d → Going a rid p x r kind (g d)) :
    Standing (if status ≠ OK then c.endSlot rid p status 0 [] else g (c.onWork rid p f)) rid p x r (Checked status fun w => w.data.kind = kind) ∧
      Picking (ringHub rid) a (if status ≠ OK then c.endSlot rid p status 0 [] else g (c.onWork rid p f)) := by
  have fresh : Standing c rid p x r (·.Fresh rid p x false) := by
    subst next
    exact taken.standing
  have going := goes _ ⟨taken.picking.trans (Picking.onWork c rid p f), fresh.onWork f place fun w _ _ => data w⟩
  refine ⟨standing_checked fresh fun _ => going.stands, ?_⟩
  split
  · exact taken.picking.trans (Picking.endSlot c rid p _ 0 [])
  · exact going.picking

theorem Taken.Reads.updateHead {b c : Block} (reads : Taken.Reads b c) (cls job x : Nat) : c.updateHead cls job x = b.updateHead cls job x := by
  unfold Block.updateHead Block.updateCheck Block.progOf
  rw [reads.minor, reads.use, reads.progs]

theorem Taken.Reads.allotted {b c : Block} (reads : Taken.Reads b c) (h job sem : Nat) : c.allotted h job sem = b.allotted h job sem := by
  unfold Block.allotted
  rw [reads.jobs]

/-- The check of a COPY_PERMUTE slot before its plan is read (Table 7-13). -/
def Block.permStatus (b : Block) (r : Ring) (x : Nat) : Nat :=
  thenCheck (headCheck b.eng.minor r.cls x permReserved (decide (phaseOf x = 3))) fun _ => if (b.tableUse r.job (bits x 236 20)).isNone then TABLE_UNDEFINED else OK

/-- The check of a SOLSTICE slot (Table 7-16). -/
def Block.solStatus (b : Block) (r : Ring) (x : Nat) : Nat :=
  thenCheck (headCheck b.eng.minor r.cls x (solReserved ++ (if solEng x = 0 then [(256, 56)] else [])) false) fun _ => if solBase x % 2 ≠ 0 then SLOT_INVALID else OK

/-- The check of a SIGNAL slot (Table 7-15). -/
def Block.sigStatus (b : Block) (r : Ring) (x rid : Nat) : Nat :=
  thenCheck (headCheck b.eng.minor r.cls x (sigReserved x) false) fun _ => if !sigRemote x && !b.allotted (ringHub rid) r.job (sigSem x) then SEM_INVALID else OK

section
variable {a c : Block} {rid p x : Nat} {r : Ring}

theorem updateStart_starts (st : Store) (taken : Taken a c rid p x false r) (next : p = r.nextSlot) :
    Standing (updateStart st c r p x rid) rid p x r (Checked (a.updateHead r.cls r.job x) fun w => w.data.kind = 2) ∧
      Picking (ringHub rid) a (updateStart st c r p x rid) := by
  unfold updateStart
  rw [taken.reads.updateHead]
  exact going_checked taken next _ 2 _ (prepUpdate st · rid p) (fun _ => ⟨rfl, rfl, rfl⟩) (fun _ => rfl) fun d going => going.prepUpdate st

theorem permStart_starts (st : Store) (taken : Taken a c rid p x false r) (next : p = r.nextSlot) :
    Standing (permStart st c r p x rid) rid p x r (Checked (a.permStatus r x) fun w => w.data.kind = 3) ∧ Picking (ringHub rid) a (permStart st c r p x rid) := by
  unfold permStart
  rw [taken.reads.minor, taken.reads.use]
  exact going_checked taken next (a.permStatus r x) 3 _ (permPlan st · rid p) (fun _ => ⟨rfl, rfl, rfl⟩) (fun _ => rfl) fun d going => going.permPlan st

theorem solStart_starts (st : Store) (taken : Taken a c rid p x false r) (next : p = r.nextSlot) :
    Standing (solStart st c r p x rid) rid p x r (Checked (a.solStatus r x) fun w => w.data.kind = 4) ∧ Picking (ringHub rid) a (solStart st c r p x rid) := by
  unfold solStart
  rw [taken.reads.minor]
  exact going_checked taken next (a.solStatus r x) 4 _ (readWindows st · rid p) (fun _ => ⟨rfl, rfl, rfl⟩) (fun _ => rfl) fun d going => going.readWindows st

theorem signalStart_starts (taken : Taken a c rid p x false r) (next : p = r.nextSlot) :
    Standing (signalStart c r p x rid) rid p x r (Checked (a.sigStatus r x rid) fun w => w.phase = .active) ∧ Picking (ringHub rid) a (signalStart c r p x rid) := by
  have fresh : Standing c rid p x r (·.Fresh rid p x false) := by
    subst next
    exact taken.standing
  unfold signalStart
  rw [taken.reads.minor, taken.reads.allotted]
  refine ⟨standing_checked (status := a.sigStatus r x rid) fresh fun _ => fresh.mono fun w isFresh => isFresh.phase, ?_⟩
  show Picking (ringHub rid) a (if a.sigStatus r x rid ≠ OK then c.endSlot rid p (a.sigStatus r x rid) 0 [] else c)
  split
  · exact taken.picking.trans (Picking.endSlot c rid p _ 0 [])
  · exact taken.picking

end

theorem WorkData.kind_update {d : WorkData} (is : d.kind = 2) : ∃ u, d = .update u := by
  cases d with
  | update => exact ⟨_, rfl⟩
  | _ => cases is

theorem WorkData.kind_rows {d : WorkData} (is : d.kind = 3) : ∃ q, d = .rows q := by
  cases d with
  | rows => exact ⟨_, rfl⟩
  | _ => cases is

theorem WorkData.kind_solstice {d : WorkData} (is : d.kind = 4) : ∃ ws sent, d = .solstice ws sent := by
  cases d with
  | solstice => exact ⟨_, _, rfl⟩
  | _ => cases is


/-- A pickup of a slot that starts so, and leaves jobs and programs. -/
theorem runs_started {i : Instr} {s : State} {rid p x status : Nat} {r : Ring} {Q P : Work → Prop} (mine : Nat → Bool) (start : Store → Block → Ring → Nat → Nat → Block)
    (arm : exec i s = run (pickup mine start rid) s) (picks : Picks s rid p x r) (own : mine x = true)
    (alike : ∀ v w : Work, v.outcome = w.outcome → Q w → Q v) (gives : ∀ w, Q w → P w)
    (starts : ∀ c, Taken s.start c rid p x false r → p = r.nextSlot →
      Standing (start s.store c r p x) rid p x r (Checked status Q) ∧ Picking (ringHub rid) s.start (start s.store c r p x)) :
    Runs i s fun t => InFlight t rid p x r (Checked status P) ∧ t.blk.jobs = s.blk.jobs ∧ t.blk.progs = s.blk.progs := by
  refine runs_pickup mine start arm rfl picks own fun c t taken next kept jobs progs => ?_
  obtain ⟨stands, picking⟩ := starts c taken next
  refine ⟨(stands.outcomes kept (Checked.of_outcome alike)).mono fun w checked => ⟨checked.1, fun ok => gives w (checked.2 ok)⟩, ?_, ?_⟩
  · exact jobs.trans picking.jobs
  · exact progs.trans picking.progs

/-- Settles O36. -/
theorem updatePermuteAndBarrierSlotsArePickedUp : Obligations.UpdatePermuteAndBarrierSlotsArePickedUp := by
  unfold Obligations.UpdatePermuteAndBarrierSlotsArePickedUp
  intro rid p x r s picks
  refine ⟨fun op => ?_, fun op => ?_, fun op phase => ?_, fun op phase => ?_, fun op phase => ?_, fun op => ?_, fun op => ?_⟩
  · exact runs_started _ (fun st b r p x => updateStart st b r p x rid) rfl picks (by simp [op]) Going.kind_alike (fun _ is => WorkData.kind_update is) fun _ => updateStart_starts s.store
  · exact runs_started _ (fun st b r p x => updateStart st b r p x rid) rfl picks (by simp [op]) Going.kind_alike (fun _ is => WorkData.kind_update is) fun _ => updateStart_starts s.store
  · exact runs_started _ (fun st b r p x => permStart st b r p x rid) rfl picks (by simpa [op] using phase) Going.kind_alike (fun _ is => WorkData.kind_rows is) fun _ => permStart_starts s.store
  · exact runs_started _ (fun st b r p x => permStart st b r p x rid) rfl picks (by simp [op, phase]) Going.kind_alike (fun _ is => WorkData.kind_rows is) fun _ => permStart_starts s.store
  · exact runs_started _ (fun st b r p x => permStart st b r p x rid) rfl picks (by simp [op, phase]) Going.kind_alike (fun _ is => WorkData.kind_rows is) fun _ => permStart_starts s.store
  · exact runs_started _ (fun st b r p x => solStart st b r p x rid) rfl picks (by simp [op]) Going.kind_alike (fun _ is => WorkData.kind_solstice is) fun _ => solStart_starts s.store
  · exact runs_started _ (fun _ b r p x => signalStart b r p x rid) rfl picks (by simp [op])
      (fun v w same (is : w.phase = .active) => (Work.of_outcome same (·.phase)).trans is) (fun _ is => is) fun _ => signalStart_starts

end Sys2Proof.Machine
end

section
/-! O37: a pickup stores to no byte outside the rings' status blocks. -/
namespace Sys2Proof.Machine
open Sys2Proof.Spec

/-- A pickup changes only what the start of the slot that it takes may change, and less where the slot is not the command's. -/
theorem pickup_picking {s : State} {rid p x : Nat} {r : Ring} (picks : Picks s rid p x r) (mine : Nat → Bool) (start : Store → Block → Ring → Nat → Nat → Block)
    (starts : ∀ c, Taken s.start c rid p x false r → p = r.nextSlot → Picking (ringHub rid) s.start (start s.store c r p x)) :
    Picking (ringHub rid) s.start (pickup mine start rid s.store s.start) := by
  cases own : mine x with
  | true =>
    obtain ⟨c, taken, next, is⟩ := pickup_takes picks mine start own
    rw [is]
    exact (starts c taken next).trans (Serves.ensureRec _ p).picking
  | false =>
    obtain ⟨b, picked, -, read⟩ := picks_read picks
    have rings : b.rings.get? rid = some r := (congrArg (Tbl.get? · rid) (slotFetch_rings read)).trans picks.1
    unfold pickup
    rw [picked]
    dsimp only
    rw [rings]
    dsimp only
    rw [own, if_pos (by decide)]
    exact (slotFetch_reads read).picking

/-- The command changes only what a pickup may change, before its interrupt writes. -/
def PicksUp (i : Instr) (s : State) (h : Nat) : Prop := ∃ f : Store → Block → Block, exec i s = run f s ∧ Picking h s.start (f s.store s.start)

theorem ite_holds {α : Type} {c : Prop} [Decidable c] {a b : α} {Q : α → Prop} (yes : Q a) (no : Q b) : Q (if c then a else b) := by
  split
  · exact yes
  · exact no

theorem forall_mem_ite {α : Type} {c : Prop} [Decidable c] {a b : Option α} {Q : α → Prop} (yes : ∀ i ∈ a, Q i) (no : ∀ i ∈ b, Q i) :
    ∀ i ∈ (if c then a else b), Q i := ite_holds (Q := fun o : Option α => ∀ i ∈ o, Q i) yes no

theorem forall_mem_some {α : Type} {a : α} {Q : α → Prop} (holds : Q a) : ∀ i ∈ some a, Q i := fun _ mem => Option.some.inj mem ▸ holds

/-- Every command that takes up a slot changes only what a pickup may change. -/
theorem pickCommand_picksUp {i : Instr} {s : State} {rid p x : Nat} {r : Ring} (picks : Picks s rid p x r) (named : pickCommand x rid = some i) :
    PicksUp i s (ringHub rid) := by
  have look := fun mine => pickup_picking picks mine (fun st b r p x => lookupStart st b r p x rid) fun c taken next => (lookupStart_starts s.store taken next).2.2
  have update := fun mine => pickup_picking picks mine (fun st b r p x => updateStart st b r p x rid) fun c taken next => (updateStart_starts s.store taken next).2
  have perm := fun mine => pickup_picking picks mine (fun st b r p x => permStart st b r p x rid) fun c taken next => (permStart_starts s.store taken next).2
  have sol := fun mine => pickup_picking picks mine (fun st b r p x => solStart st b r p x rid) fun c taken next => (solStart_starts s.store taken next).2
  have sig := fun mine => pickup_picking picks mine (fun _ b r p x => signalStart b r p x rid) fun c taken next => (signalStart_starts taken next).2
  have maint := fun mine => pickup_picking picks mine (fun _ b r p x => maintStart b r p x rid)
    fun c taken next => (maintStart_is taken.reads r p x rid).symm ▸ (startRows_starts taken next _ _ _).2.2
  have prefetch := fun mine => pickup_picking picks mine (fun _ b r p x => prefetchStart b r p x rid)
    fun c taken next => (prefetchStart_is taken.reads r p x rid).symm ▸ (startRows_starts taken next _ _ _).2.2
  have exchange := fun mine => pickup_picking picks mine (fun _ b r p x => exchangeStart b r p x rid)
    fun c taken next => (exchangeStart_is taken.reads r p x rid).symm ▸ (startRows_starts taken next _ _ _).2.2
  have every : ∀ i ∈ pickCommand x rid, PicksUp i s (ringHub rid) :=
    forall_mem_ite (forall_mem_some ⟨_, rfl, look _⟩) <| forall_mem_ite (forall_mem_some ⟨_, rfl, prefetch _⟩) <|
    forall_mem_ite (forall_mem_some ⟨_, rfl, update _⟩) <| forall_mem_ite (forall_mem_some ⟨_, rfl, update _⟩) <|
    forall_mem_ite (forall_mem_some ⟨_, rfl, maint _⟩) <| forall_mem_ite (forall_mem_some ⟨_, rfl, maint _⟩) <|
    forall_mem_ite (forall_mem_some (ite_holds (Q := (PicksUp · s _)) ⟨_, rfl, perm _⟩ (ite_holds (Q := (PicksUp · s _)) ⟨_, rfl, perm _⟩ ⟨_, rfl, perm _⟩))) <|
    forall_mem_ite (forall_mem_some ⟨_, rfl, exchange _⟩) <| forall_mem_ite (forall_mem_some ⟨_, rfl, sol _⟩) <|
    forall_mem_ite (forall_mem_some ⟨_, rfl, sig _⟩) (forall_mem_some ⟨_, rfl, look _⟩)
  exact every i named

/-- A write to a host, or to stack memory away from an address. -/
def Wr.Misses (q : Nat) (w : Wr) : Prop := (∃ a data, w = .host a data) ∨ ∃ lo n, Wr.inside lo n w ∧ (q < lo ∨ lo + n ≤ q)

/-- Writes that miss an address leave its byte. -/
theorem Store.apply_misses (q : Nat) (ws : List Wr) (st : Store) (wf : st.wf = true) (miss : ∀ w ∈ ws, w.Misses q) :
    readByte (st.apply ws).mem q = readByte st.mem q := by
  induction ws generalizing st with
  | nil => rfl
  | cons w ws ih =>
    refine (ih (st.apply1 w) (st.apply1_wf _ wf) fun w mem => miss w (List.mem_cons_of_mem _ mem)).trans ?_
    obtain ⟨a, data, rfl⟩ | ⟨lo, n, ⟨a, data, rfl, low, high⟩, out⟩ := miss w List.mem_cons_self
    · rfl
    · exact Store.writeMem_outside _ st a q data wf (by omega)

/-- A write to a status block misses what lies in none. -/
theorem BlockWr.misses {s : State} {h q : Nat} {w : Wr} (write : BlockWr s.start h w) (out : ¬ InStatusBlock s h q) : w.Misses q := by
  obtain host | ⟨rid, r, e, found, hub, ⟨c, set, way⟩, covers, inside⟩ := write
  · exact .inl host
  · refine .inr ⟨_, _, inside, ?_⟩
    have away : ¬ ((e.page r.cbase).addr + r.cbase % 65536 ≤ q ∧ q < (e.page r.cbase).addr + r.cbase % 65536 + 64) := fun within =>
      out ⟨(rid, r), Tbl.mem_of_get found, hub, c, set, e, way, covers, within⟩
    omega

/-- A write to a status block is no interrupt write. -/
theorem BlockWr.not_intr {b : Block} {h k a : Nat} {d : List Byte} (write : BlockWr b h (.intr k a d)) : False := by
  obtain ⟨a, data, same⟩ | ⟨_, _, _, _, _, _, _, a, data, same, -⟩ := write <;> cases same

/-- Settles O37. -/
theorem pickupsStoreToStatusBlocksOnly : Obligations.PickupsStoreToStatusBlocksOnly := by
  unfold Obligations.PickupsStoreToStatusBlocksOnly
  intro i rid p x r s t inv quiet picks named steps
  obtain ⟨f, arm, picking⟩ := pickCommand_picksUp picks named
  obtain ⟨ws, made, blocks⟩ := picking.wr quiet
  have silent : ∀ k a d, Wr.intr k a d ∉ (f s.store s.start).wr := fun k a d mem => (blocks _ (made ▸ mem :)).not_intr
  have is : t = settle s (f s.store s.start) := by
    rw [arm, run, Block.interrupts_none _ silent 16] at steps
    injection steps with same
    exact same.symm
  subst is
  refine ⟨picking.jobs, picking.progs, picking.engPart (·.layout), picking.engPart (·.windows), fun q out => ?_⟩
  rw [settle_store, made]
  exact Store.apply_misses q ws s.store inv fun w mem => (blocks w mem).misses out

end Sys2Proof.Machine
end

section
/-! O40: walks advance, and records are delivered. -/
namespace Sys2Proof.Machine
open Sys2Proof.Spec

/-! ### Walks (R300 to R311) -/

/-- What a walk does with the entry that its read brought. -/
def Block.takeEntry (b : Block) (h id : Nat) (w : Walk) (entry : Entry) : Block :=
  let closed := b.onXlat h fun x => { x with walks := x.walks.del id }
  match entry with
  | .bad s => closed.walkStop w s
  | .absent => closed.walkFault h w fNOTPRESENT w.level false
  | .table t => (b.onXlat h fun x => { x with walks := x.walks.put id { w with level := w.level + 1, table := t, asked := false } }).issueWalk h id
  | .leaf e =>
    match judge b e w.level w.need with
    | .page pg => closed.walkPage h w e pg
    | .fault kind level retired => closed.walkFault h w kind level retired
    | .stop s => closed.walkStop w s

theorem DiesOnly.keepEntry (b : Block) (pa : Nat) : DiesOnly b (b.keepEntry pa) := by
  unfold Block.keepEntry
  split
  · exact DiesOnly.refl b
  · exact DiesOnly.onDie b _ _

theorem Block.atomRead_clean (st : Store) (b : Block) (hub a : Nat) : Block.atomRead st b hub a [] = b := by
  unfold Block.atomRead
  split
  · rfl
  · rfl

/-- An entry says the same to blocks of one engine record. -/
theorem entryOf_eng {b c : Block} (same : c.eng = b.eng) (job lv va x : Nat) : entryOf c job lv va x = entryOf b job lv va x := by
  unfold entryOf leafOk Block.windowSet
  rw [same]

theorem judge_eng {b c : Block} (same : c.eng = b.eng) (e : XEntry) (lv : Nat) (n : Need) : judge c e lv n = judge b e lv n := by
  unfold judge Block.leafRetired
  rw [same]

section
variable {b : Block} {h id : Nat} {w : Walk} {st : Store}

/-- A walk that may go on, whose entry is read or cached, takes the entry. -/
theorem translationWalk_takes (found : (b.hub h).xlat.walks.get? id = some w) (may : (b.hub h).xlat.mayIssue id w = true) (still : b.migrating w.job w.need = false)
    (ready : b.entryCached (entryAddr w.table w.level w.need.va) = true ∨
      (w.asked = true ∧ ∀ ch row, b.locate (entryAddr w.table w.level w.need.va) = some (ch, row) → (b.chan ch).holds (.walk h id) = false))
    (whole : entryStatus st b (entryAddr w.table w.level w.need.va) = OK) :
    translationWalk h id [] st b = (b.keepEntry (entryAddr w.table w.level w.need.va)).takeEntry h id w
      (entryOf b w.job w.level w.need.va (rdNat st b (entryAddr w.table w.level w.need.va) 8)) := by
  have dies := DiesOnly.keepEntry b (entryAddr w.table w.level w.need.va)
  have asked : (!b.entryCached (entryAddr w.table w.level w.need.va) && !w.asked) = false := by
    obtain cached | ⟨asked, -⟩ := ready
    · rw [cached]; rfl
    · rw [asked]; simp
  have same : rdNat st (b.keepEntry (entryAddr w.table w.level w.need.va)) (entryAddr w.table w.level w.need.va) 8 =
      rdNat st b (entryAddr w.table w.level w.need.va) 8 := by
    rw [dies]
    rfl
  unfold translationWalk
  rw [found]
  dsimp only
  rw [may, still, asked, if_neg (by decide), if_neg (by decide)]
  refine (if_neg ?_).trans ?_
  · obtain cached | ⟨-, free⟩ := ready
    · rw [cached]
      exact Bool.false_ne_true
    · cases place : b.locate (entryAddr w.table w.level w.need.va) with
      | none => rw [Bool.and_false]; exact Bool.false_ne_true
      | some at_ =>
        obtain ⟨ch, row⟩ := at_
        dsimp only
        rw [free ch row place, Bool.and_false]
        exact Bool.false_ne_true
  · rw [Block.atomRead_clean, ite_self, whole, ite_self, if_pos rfl, if_neg (by simp), same]
    rw [entryOf_eng (c := b.keepEntry (entryAddr w.table w.level w.need.va)) (b := b) (by rw [dies])]
    generalize entryOf b w.job w.level w.need.va _ = entry
    cases entry <;> rfl

end

/-- What a walk's step leaves of the block. -/
structure WalksOn (b c : Block) : Prop where
  eq : c = { b with hubs := c.hubs, dies := c.dies }

theorem WalksOn.of_dies {b c : Block} (dies : DiesOnly b c) : WalksOn b c := ⟨by rw [dies]⟩

theorem WalksOn.trans {b c d : Block} (first : WalksOn b c) (second : WalksOn c d) : WalksOn b d := ⟨second.eq.trans (by rw [first.eq])⟩

theorem WalksOn.onXlat (b : Block) (h : Nat) (f : Xlat → Xlat) : WalksOn b (b.onXlat h f) := ⟨rfl⟩

/-- Reading the entry leaves the hubs. -/
theorem DiesOnly.hub {b c : Block} (dies : DiesOnly b c) (h : Nat) : c.hub h = b.hub h := (congrArg (fun d : Block => d.hub h) dies :)

/-- A walk whose next read is issued stands, asked or not. -/
theorem Block.issueWalk_stands (b : Block) {h id : Nat} {w : Walk} (there : b.hubs.get? h ≠ none) (found : (b.hub h).xlat.walks.get? id = some w) :
    WalksOn b (b.issueWalk h id) ∧ ((b.issueWalk h id).hub h).xlat.sets = (b.hub h).xlat.sets ∧
      ∃ a, ((b.issueWalk h id).hub h).xlat.walks.get? id = some { w with asked := a } := by
  unfold Block.issueWalk
  rw [found]
  dsimp only
  split
  · exact ⟨⟨rfl⟩, rfl, w.asked, found⟩
  · obtain ⟨x, hub⟩ := Option.ne_none_iff_exists'.mp there
    have dies := DiesOnly.requestAtoms (b.onXlat h fun x => { x with walks := x.walks.modify id fun w => { w with asked := true } }) w.rt
      { what := .walk h id, prio := if w.rt then 0 else (b.onXlat h fun x => { x with walks := x.walks.modify id fun w => { w with asked := true } }).walkClass w }
      [entryAddr w.table w.level w.need.va / 64]
    refine ⟨(WalksOn.onXlat b h _).trans (.of_dies dies), ?_, true, ?_⟩
    · rw [dies.hub, Block.onXlat, Block.hub_onHub_same _ _ _ x hub, Block.hub_of_get b h x hub]
    · rw [Block.hub_of_get b h x hub] at found
      rw [dies.hub, Block.onXlat, Block.hub_onHub_same _ _ _ x hub]
      dsimp only
      rw [Tbl.get?_modify_same, found]
      rfl

/-! ### Delivery (R319) -/

/-- The fill ring of a semaphore is not found in blocks of one core. -/
theorem Block.fillRing_of_core {b c : Block} (core : c.core = b.core) {h sem : Nat} (free : b.fillRing h sem = none) : c.fillRing h sem = none := by
  unfold Block.fillRing Block.ringsOf at free ⊢
  rw [List.find?_eq_none] at free ⊢
  intro x mem
  obtain ⟨there, held⟩ := List.mem_filter.mp mem
  obtain ⟨rid, q⟩ := x
  have same : c.rings.mapVal (fun _ => Ring.core) = b.rings.mapVal fun _ => Ring.core := congrArg Block.rings core
  have seen : (rid, q.core) ∈ b.rings.mapVal fun _ => Ring.core := same ▸ List.mem_map.mpr ⟨(rid, q), there, rfl⟩
  obtain ⟨r, ring, alike⟩ := Tbl.mem_mapVal b.rings _ _ seen
  have fill : q.fillSem = r.fillSem := (congrArg Ring.fillSem (show q.core = r.core from alike) :)
  have none_ := free (rid, r) (List.mem_filter.mpr ⟨ring, held⟩)
  dsimp only at none_ ⊢
  rwa [fill]

/-- A cause that is raised at a hub stands there. -/
theorem Block.raise_sets (b : Block) {h cause : Nat} (low : cause < 64) (there : b.hubs.get? h ≠ none) (still : (b.hub h).regs.msiAddr = 0) :
    ((b.raise h cause).hub h).regs.intStatus.getLsbD cause = true := by
  obtain ⟨x, hub⟩ := Option.ne_none_iff_exists'.mp there
  rw [b.raise_quiet h cause still, Block.onRegs, Block.hub_onHub_same b h _ x hub]
  show (x.regs.intStatus ||| BitVec.ofNat 64 (2 ^ cause)).getLsbD cause = true
  rw [BitVec.getLsbD_or, BitVec.getLsbD_ofNat, decide_eq_true low, Nat.testBit_two_pow_self, Bool.true_and, Bool.or_true]

/-- The store of records after the one that was due is delivered. -/
def HarvestStore.delivered (hs : HarvestStore) (r : Harvest) : HarvestStore :=
  { hs with hprod := hs.hprod + 1
            records := if r.opened then hs.records.map fun x => if x.hseq = r.hseq then { x with delivered := true } else x
                       else hs.records.filter (·.hseq != r.hseq) }

/-- After the only record due is delivered none is due. -/
theorem HarvestStore.delivered_due {hs : HarvestStore} {r : Harvest} (only : hs.due = [r]) : (hs.delivered r).due = [] := by
  have alone : ∀ x ∈ hs.records, x.delivered = false → x = r := fun x mem waits =>
    List.mem_singleton.mp (only ▸ List.mem_filter.mpr ⟨mem, by rw [waits]; rfl⟩)
  refine List.filter_eq_nil_iff.mpr fun y mem => ?_
  unfold HarvestStore.delivered at mem
  dsimp only at mem
  split at mem
  · obtain ⟨x, there, rfl⟩ := List.mem_map.mp mem
    split
    · exact Bool.false_ne_true
    · rename_i other
      cases done : x.delivered with
      | true => decide
      | false => exact absurd (congrArg Harvest.hseq (alone x there done)) other
  · obtain ⟨there, other⟩ := List.mem_filter.mp mem
    cases done : y.delivered with
    | true => decide
    | false =>
      rw [alone y there done] at other
      simp at other

theorem Harvest.bytes_length (r : Harvest) : r.bytes.length = 128 := toBytes_length _ _

/-- HARVEST_DELIVER of the one record due, where the buffer has room for it. -/
theorem harvestDeliver_delivers {st : Store} {b : Block} {r : Harvest} (armed : b.eng.harvest.armed = true) (due : b.eng.harvest.due = [r])
    (gathered : r.age + b.eng.harvest.gdelay ≤ b.age b.eng.leader)
    (room : 1 ≤ 2 ^ b.eng.harvest.lgN - (b.eng.harvest.hprod - rdNat st b (b.eng.harvest.base + 16) 8)) :
    harvestDeliver st b = ((((b.deliver r).wrMem b.eng.leader (b.eng.harvest.base + 8) (toBytes 8 (b.deliver r).eng.harvest.hprod) 1).latch b.eng.leader b.eng.harvest.sem 1).1).raise
      b.eng.leader intHARVEST := by
  have one : [r].take (2 ^ b.eng.harvest.lgN - (b.eng.harvest.hprod - rdNat st b (b.eng.harvest.base + 16) 8)) = [r] := List.take_of_length_le room
  unfold harvestDeliver
  dsimp only
  rw [armed, due, one]
  refine (if_neg ?_).trans (if_neg Bool.false_ne_true)
  simp [gathered]

/-- Caching a leaf leaves the walks, and goes by the sets alone (R307). -/
theorem Xlat.insert_walks (x : Xlat) (ws : Tbl Walk) (e : XEntry) (ahead : Bool) :
    ({ x with walks := ws }.insert e ahead).walks = ws ∧ ({ x with walks := ws }.insert e ahead).sets = (x.insert e ahead).sets := by
  unfold Xlat.insert
  dsimp only
  generalize List.find? _ _ = same
  cases same with
  | some v => exact ⟨rfl, rfl⟩
  | none =>
    dsimp only
    generalize chooseVictim _ _ _ = way
    cases way <;> exact ⟨rfl, rfl⟩

/-- A walk ahead that meets the leaf that serves it caches the leaf, and ends (R310). -/
theorem Block.takeEntry_leaf {b : Block} {h id : Nat} {w : Walk} {e : XEntry} {pg : Page} (who : w.who = .ahead) (keeps : w.discard = false)
    (serves : judge b e w.level w.need = .page pg) :
    b.takeEntry h id w (.leaf e) = (b.onXlat h fun x => { x with walks := x.walks.del id }).onXlat h fun x => x.insert e true := by
  unfold Block.takeEntry
  dsimp only
  rw [serves]
  dsimp only
  unfold Block.walkPage
  rw [who, keeps]
  rfl

/-- A walk ahead that meets an absent entry ends (R310). -/
theorem Block.takeEntry_absent {b : Block} {h id : Nat} {w : Walk} (who : w.who = .ahead) :
    b.takeEntry h id w .absent = b.onXlat h fun x => { x with walks := x.walks.del id } := by
  unfold Block.takeEntry
  dsimp only
  unfold Block.walkFault
  rw [who]

section
variable {s : State} {b : Block} {h id : Nat} {w : Walk} {entry : Entry} {x : Hub}

/-- What a walk's step leaves, as the command's answer shows it. -/
theorem WalksOn.runs {c : Block} {P : State → Prop} (kept : WalksOn s.start c) (takes : translationWalk h id [] s.store s.start = c) (holds : P { s with blk := c }) :
    Runs (.translationWalk h id []) s fun t => (t.store = s.store ∧ t.blk.rings = s.blk.rings ∧ t.blk.works = s.blk.works ∧ t.blk.eng = s.blk.eng) ∧ P t :=
  Runs.of_effect (s := s) rfl c takes (congrArg Block.wr kept.eq)
    ⟨⟨rfl, (congrArg Block.rings kept.eq :), (congrArg Block.works kept.eq :), (congrArg Block.eng kept.eq :)⟩, holds⟩

variable (walks : WalksOn s.start b) (stands : b.hubs.get? h = some x) (takes : translationWalk h id [] s.store s.start = b.takeEntry h id w entry)
include walks stands takes

theorem runs_walkTable {next : Nat} (is : entry = .table next) : Runs (.translationWalk h id []) s fun t =>
    (t.store = s.store ∧ t.blk.rings = s.blk.rings ∧ t.blk.works = s.blk.works ∧ t.blk.eng = s.blk.eng) ∧ (t.blk.hub h).xlat.sets = x.xlat.sets ∧
      ∃ a, (t.blk.hub h).xlat.walks.get? id = some { w with level := w.level + 1, table := next, asked := a } := by
  subst is
  have there : (b.onXlat h fun x => { x with walks := x.walks.put id { w with level := w.level + 1, table := next, asked := false } }).hub h =
      { x with xlat := { x.xlat with walks := x.xlat.walks.put id { w with level := w.level + 1, table := next, asked := false } } } := Block.hub_onHub_same b h _ x stands
  obtain ⟨kept, sets, walk⟩ := Block.issueWalk_stands (b.onXlat h fun x => { x with walks := x.walks.put id { w with level := w.level + 1, table := next, asked := false } })
    (h := h) (id := id) (w := { w with level := w.level + 1, table := next, asked := false })
    (by
      show (b.hubs.modify h _).get? h ≠ none
      rw [Tbl.get?_modify_same, stands]
      exact Option.some_ne_none _)
    (by
      rw [there]
      exact Tbl.get?_put_same _ _ _)
  exact ((walks.trans (.onXlat b h _)).trans kept).runs takes ⟨sets.trans (by rw [there]), walk⟩

theorem runs_walkLeaf {e : XEntry} {pg : Page} (is : entry = .leaf e) (who : w.who = .ahead) (keeps : w.discard = false)
    (serves : judge b e w.level w.need = .page pg) (wf : Tbl.wf x.xlat.walks = true) : Runs (.translationWalk h id []) s fun t =>
    (t.store = s.store ∧ t.blk.rings = s.blk.rings ∧ t.blk.works = s.blk.works ∧ t.blk.eng = s.blk.eng) ∧ (t.blk.hub h).xlat.walks.get? id = none ∧
      (t.blk.hub h).xlat.sets = (x.xlat.insert e true).sets := by
  subst is
  rw [Block.takeEntry_leaf who keeps serves] at takes
  have there : ((b.onXlat h fun x => { x with walks := x.walks.del id }).onXlat h fun x => x.insert e true).hub h =
      { x with xlat := { x.xlat with walks := x.xlat.walks.del id }.insert e true } := by
    refine Block.hub_onHub_same _ h (fun y => { y with xlat := y.xlat.insert e true }) { x with xlat := { x.xlat with walks := x.xlat.walks.del id } } ?_
    show (b.hubs.modify h _).get? h = _
    rw [Tbl.get?_modify_same, stands]
    rfl
  obtain ⟨same, sets⟩ := Xlat.insert_walks x.xlat (x.xlat.walks.del id) e true
  refine ((walks.trans (.onXlat b h _)).trans (.onXlat _ h _)).runs takes ⟨?_, ?_⟩
  · rw [there]
    dsimp only
    rw [same]
    exact Tbl.get?_del_same _ 0 id wf
  · rw [there]
    exact sets

theorem runs_walkAbsent (is : entry = .absent) (who : w.who = .ahead) (wf : Tbl.wf x.xlat.walks = true) : Runs (.translationWalk h id []) s fun t =>
    (t.store = s.store ∧ t.blk.rings = s.blk.rings ∧ t.blk.works = s.blk.works ∧ t.blk.eng = s.blk.eng) ∧ (t.blk.hub h).xlat.walks.get? id = none := by
  subst is
  rw [Block.takeEntry_absent who] at takes
  refine (walks.trans (.onXlat b h _)).runs takes ?_
  have there : (b.onXlat h fun x => { x with walks := x.walks.del id }).hub h = { x with xlat := { x.xlat with walks := x.xlat.walks.del id } } :=
    Block.hub_onHub_same b h _ x stands
  rw [there]
  exact Tbl.get?_del_same _ 0 id wf

end

/-- The bytes of a record, at its place of the buffer. -/
theorem inside_buffer {base lgN hprod : Nat} {r : Harvest} {w : Wr} (inside : Wr.inside (base + 128 + 128 * (hprod % 2 ^ lgN)) r.bytes.length w) :
    Wr.inside base (128 + 128 * 2 ^ lgN) w := by
  obtain ⟨a, data, rfl, low, high⟩ := inside
  have place : hprod % 2 ^ lgN + 1 ≤ 2 ^ lgN := Nat.mod_lt _ (Nat.two_pow_pos _)
  rw [Harvest.bytes_length] at high
  exact ⟨a, data, rfl, by omega, by omega⟩

/-- A record that is delivered is written in the buffer, and leaves the store of records (R319). -/
theorem Block.deliver_writes (b : Block) (r : Harvest) : ∃ c, Touch (Wr.inside b.eng.harvest.base (128 + 128 * 2 ^ b.eng.harvest.lgN)) b c ∧
    b.deliver r = c.onEng fun e => { e with harvest := b.eng.harvest.delivered r } := by
  have written := Touch.wrMem b b.eng.leader (b.eng.harvest.base + 128 + 128 * (b.eng.harvest.hprod % 2 ^ b.eng.harvest.lgN)) r.bytes 1 1
  have kept := written.part (·.eng.harvest)
  refine ⟨_, written.mono fun w => inside_buffer, ?_⟩
  unfold Block.deliver
  dsimp only
  generalize b.wrMem _ _ _ _ _ = c at kept
  unfold Block.onEng HarvestStore.delivered
  dsimp only
  rw [kept]

/-- HPROD's bytes, in the buffer's header. -/
theorem inside_header {base n x : Nat} {w : Wr} (inside : Wr.inside (base + 8) (toBytes 8 x).length w) : Wr.inside base (128 + n) w := by
  obtain ⟨a, data, rfl, low, high⟩ := inside
  rw [toBytes_length] at high
  exact ⟨a, data, rfl, by omega, by omega⟩

/-- A delivery's count and cause at the leader, after its writes. -/
theorem Block.deliver_signals {d : Block} {h sem : Nat} (there : d.hubs.get? h ≠ none) (free : d.fillRing h sem = none) (still : d.Quiet) :
    let t := ((d.latch h sem 1).1).raise h intHARVEST
    t.wr = d.wr ∧ t.eng = d.eng ∧ t.sem h sem = d.sem h sem + 1 ∧ (t.hub h).regs.intStatus.getLsbD intHARVEST = true := by
  intro t
  have counted : (d.latch h sem 1).1 = d.semAdd h sem 1 := congrArg Prod.fst (Block.latch_free free 1)
  have quiet : ((d.semAdd h sem 1).hub h).regs.msiAddr = 0 :=
    (d.hub_onHub_part h h (fun x => { x with sems := x.sems.put sem (d.sem h sem + BitVec.ofNat 64 1) }) (·.regs.msiAddr) fun _ => rfl).trans (still h)
  have stands : (d.semAdd h sem 1).hubs.get? h ≠ none := by
    show (d.hubs.modify h _).get? h ≠ none
    rw [Tbl.get?_modify_same]
    exact fun none_ => there (Option.map_eq_none_iff.mp none_)
  have raised : t = (d.semAdd h sem 1).raise h intHARVEST := congrArg (fun b : Block => b.raise h intHARVEST) counted
  have same := (d.semAdd h sem 1).raise_quiet h intHARVEST quiet
  refine ⟨?_, ?_, ?_, ?_⟩
  · rw [raised, same]
    rfl
  · rw [raised, same]
    rfl
  · rw [raised]
    have sems := (Touch.raise (P := fun _ => True) (d.semAdd h sem 1) h intHARVEST).hub h (fun x => x.sems.getD sem 0)
    exact sems.trans (d.sem_semAdd h sem 1 (Option.ne_none_iff_exists'.mp there))
  · rw [raised]
    exact (d.semAdd h sem 1).raise_sets (by decide) stands quiet

theorem runs_harvestDeliver (s : State) (r : Harvest) (alive : s.blk.fatal = false) (armed : s.blk.eng.harvest.armed = true) (due : s.blk.eng.harvest.due = [r])
    (late : r.age + s.blk.eng.harvest.gdelay ≤ s.blk.age s.blk.eng.leader) (there : s.blk.hubs.get? s.blk.eng.leader ≠ none)
    (free : s.blk.fillRing s.blk.eng.leader s.blk.eng.harvest.sem = none)
    (room : 1 ≤ 2 ^ s.blk.eng.harvest.lgN - (s.blk.eng.harvest.hprod - rdNat s.store s.start (s.blk.eng.harvest.base + 16) 8)) (wf : MemInv s) (quiet : Quiet s) :
    Runs .harvestDeliver s fun t => t.blk.eng.harvest.hprod = s.blk.eng.harvest.hprod + 1 ∧ t.blk.eng.harvest.due = [] ∧
      t.blk.sem s.blk.eng.leader s.blk.eng.harvest.sem = s.blk.sem s.blk.eng.leader s.blk.eng.harvest.sem + 1 ∧
      (t.blk.hub s.blk.eng.leader).regs.intStatus.getLsbD intHARVEST = true ∧ t.store.host = s.store.host ∧
      ∀ a, a < s.blk.eng.harvest.base ∨ s.blk.eng.harvest.base + 128 + 128 * 2 ^ s.blk.eng.harvest.lgN ≤ a → readByte t.store.mem a = readByte s.store.mem a := by
  have effect : (if s.start.fatal then s.start else harvestDeliver s.store s.start) = _ :=
    (if_neg (by rw [show s.start.fatal = false from alive]; exact Bool.false_ne_true)).trans (harvestDeliver_delivers (r := r) armed due late room)
  obtain ⟨c, one, delivered⟩ := s.start.deliver_writes r
  rw [delivered] at effect
  have two := (Touch.wrMem (c.onEng fun e => { e with harvest := s.start.eng.harvest.delivered r }) s.blk.eng.leader (s.blk.eng.harvest.base + 8)
    (toBytes 8 (s.blk.eng.harvest.hprod + 1)) 1 1).mono fun _ => inside_header (n := 128 * 2 ^ s.blk.eng.harvest.lgN)
  replace effect : (if s.start.fatal then s.start else harvestDeliver s.store s.start) =
    (((c.onEng fun e => { e with harvest := s.start.eng.harvest.delivered r }).wrMem s.blk.eng.leader (s.blk.eng.harvest.base + 8)
      (toBytes 8 (s.blk.eng.harvest.hprod + 1)) 1 1).latch s.blk.eng.leader s.blk.eng.harvest.sem 1).1.raise s.blk.eng.leader intHARVEST := effect
  generalize (c.onEng fun e => { e with harvest := s.start.eng.harvest.delivered r }).wrMem s.blk.eng.leader (s.blk.eng.harvest.base + 8)
    (toBytes 8 (s.blk.eng.harvest.hprod + 1)) 1 1 = d at effect two
  have still : c.Quiet := one.quiet quiet
  obtain ⟨x, hub⟩ := Option.ne_none_iff_exists'.mp there
  obtain ⟨y, hubC, -⟩ := one.hub_some hub
  obtain ⟨z, hubD, -⟩ := two.hub_some hubC
  have fill : d.fillRing s.blk.eng.leader s.blk.eng.harvest.sem = none :=
    Block.fillRing_of_core two.core (Block.fillRing_of_core (b := s.start) (c := c) one.core free)
  obtain ⟨wr, eng, sem, cause⟩ := d.deliver_signals (by rw [hubD]; exact Option.some_ne_none z) fill (two.quiet still)
  have harvest : d.eng.harvest = s.blk.eng.harvest.delivered r := two.part (·.eng.harvest)
  have sems : d.sem s.blk.eng.leader s.blk.eng.harvest.sem = s.blk.sem s.blk.eng.leader s.blk.eng.harvest.sem :=
    (two.hub s.blk.eng.leader (fun x => x.sems.getD s.blk.eng.harvest.sem 0)).trans (one.hub s.blk.eng.leader fun x => x.sems.getD s.blk.eng.harvest.sem 0)
  obtain ⟨ws, made, within⟩ := one.wr quiet
  obtain ⟨vs, more, beyond⟩ := two.wr still
  have all : d.wr = ws ++ vs := more.trans (congrArg (· ++ vs) made)
  have inside : ∀ w ∈ ws ++ vs, Wr.inside s.blk.eng.harvest.base (128 + 128 * 2 ^ s.blk.eng.harvest.lgN) w := fun w mem =>
    (List.mem_append.mp mem).elim (within w) (beyond w)
  generalize (d.latch s.blk.eng.leader s.blk.eng.harvest.sem 1).1.raise s.blk.eng.leader intHARVEST = t at effect wr eng sem cause
  refine Runs.of_settle (s := s) rfl t effect (fun k a v mem => ?_) ?_
  · rw [wr, all] at mem
    obtain ⟨a, data, same, -⟩ := inside _ mem
    cases same
  · obtain ⟨host, outside⟩ := Store.apply_inside _ _ (ws ++ vs) s.store wf inside
    refine ⟨?_, ?_, sem.trans (congrArg (· + 1) sems), cause, ?_, fun a out => ?_⟩
    · exact congrArg (·.harvest.hprod) (eng :) |>.trans (congrArg HarvestStore.hprod harvest)
    · exact (congrArg (·.harvest.due) eng).trans ((congrArg HarvestStore.due harvest).trans (HarvestStore.delivered_due due))
    · rw [settle_store, wr, all]
      exact host
    · rw [settle_store, wr, all]
      exact outside a (by omega)

/-- Settles O40. -/
theorem walksAdvanceAndRecordsAreDelivered : Obligations.WalksAdvanceAndRecordsAreDelivered := by
  unfold Obligations.WalksAdvanceAndRecordsAreDelivered
  refine ⟨?_, fun s r => runs_harvestDeliver s r⟩
  intro h id s w found may still there pa ready whole entry stays
  have takes : translationWalk h id [] s.store s.start = (s.start.keepEntry pa).takeEntry h id w entry := translationWalk_takes found may still ready whole
  have dies := DiesOnly.keepEntry s.start pa
  obtain ⟨x, stands⟩ := Option.ne_none_iff_exists'.mp there
  have standing : (s.start.keepEntry pa).hubs.get? h = some x := (congrArg (fun d : Block => d.hubs.get? h) dies :).trans stands
  rw [Block.hub_of_get s.blk h x stands]
  refine ⟨fun next is => runs_walkTable (.of_dies dies) standing takes is, fun e pg who keeps is serves wf => ?_, fun who is wf => ?_⟩
  · exact runs_walkLeaf (.of_dies dies) standing takes is who keeps ((judge_eng (by rw [dies]) e w.level w.need).trans serves) wf
  · exact runs_walkAbsent (.of_dies dies) standing takes is who wf

end Sys2Proof.Machine
end

section
/-! SUPPORT. Slots stand as they were through what the memory system does for a row: reading, poisoning, re-deriving and fetching it (R262 to R264, Table 10-1). -/
namespace Sys2Proof.Machine
open Sys2Proof.Spec

/-- From b to c the slots at work stand as they were, but for their accesses toward windows and hosts. -/
def SlotsKept (b c : Block) : Prop := ∀ k, (c.works.get? k).map Work.core = (b.works.get? k).map Work.core

namespace SlotsKept

variable {b c d : Block}

theorem refl (b : Block) : SlotsKept b b := fun _ => rfl

theorem trans (first : SlotsKept b c) (second : SlotsKept c d) : SlotsKept b d := fun k => (second k).trans (first k)

theorem of_works (same : c.works = b.works) : SlotsKept b c := fun _ => by rw [same]

theorem of_touch {P : Wr → Prop} (touch : Touch P b c) : SlotsKept b c := touch.work

theorem of_core (core : c.core = b.core) : SlotsKept b c := fun k => by
  have same := congrArg (fun d : Block => d.works.get? k) core
  simpa only [Block.core, Tbl.get?_mapVal] using same

theorem foldl {α : Type} {f : Block → α → Block} (step : ∀ b a, SlotsKept b (f b a)) (as : List α) (b : Block) : SlotsKept b (as.foldl f b) := by
  induction as generalizing b with
  | nil => exact refl b
  | cons a as ih => exact (step b a).trans (ih (f b a))

/-- Steps one after another, each with an answer. -/
theorem foldlWith {α β : Type} {f : Block × β → α → Block × β} (step : ∀ y a, SlotsKept y.1 (f y a).1) (as : List α) (y : Block × β) :
    SlotsKept y.1 (as.foldl f y).1 := by
  induction as generalizing y with
  | nil => exact refl y.1
  | cons a as ih => exact (step y a).trans (ih (f y a))

/-- A slot that stands still stands, its core kept. -/
theorem work_some (kept : SlotsKept b c) {rid p : Nat} {w : Work} (found : b.work? rid p = some w) : ∃ w', c.work? rid p = some w' ∧ w'.core = w.core := by
  have same := kept (workKey rid p)
  rw [show b.works.get? (workKey rid p) = some w from found] at same
  exact Option.map_eq_some_iff.mp same

theorem event (b : Block) (hub kind : Nat) (job : Option Nat) (payload : Nat) : SlotsKept b (b.event hub kind job payload) :=
  of_touch (Touch.event (P := fun _ => True) b _ _ _ _)

theorem onDie (b : Block) (q : Nat) (f : RowDie → RowDie) : SlotsKept b (b.onDie q f) := of_works rfl

theorem push (b : Block) (w : Wr) : SlotsKept b (b.push w) := of_works rfl

theorem onSlice (b : Block) (h : Nat) (f : Slice → Slice) : SlotsKept b (b.onSlice h f) := of_works rfl

theorem onGroupSlice (b : Block) (s : Nat) (f : Slice → Slice) : SlotsKept b (b.onGroupSlice s f) := by
  unfold Block.onGroupSlice
  split
  · exact onSlice b _ f
  · exact refl b

theorem requestAtoms (b : Block) (rt : Bool) (q : Req) (atoms : List Nat) : SlotsKept b (b.requestAtoms rt q atoms) :=
  of_works (congrArg Block.works (DiesOnly.requestAtoms b rt q atoms) :)

theorem wcbAccept (b : Block) (stack pa n cls : Nat) (remote : Bool) : SlotsKept b (b.wcbAccept stack pa n cls remote) :=
  of_works (congrArg Block.works (DiesOnly.wcbAccept b stack pa n cls remote) :)

theorem wrMem (b : Block) (hub pa : Nat) (data : List Byte) (source cls : Nat) : SlotsKept b (b.wrMem hub pa data source cls) :=
  of_touch (Touch.wrMem b hub pa data source cls)

/-! ### Errors and poison (R262 to R267) -/

theorem pageErrorAt (b : Block) (hub ch row : Nat) : SlotsKept b (b.pageErrorAt hub ch row) := by
  unfold Block.pageErrorAt Block.listFrames
  dsimp only
  exact (of_works rfl).trans (foldl (fun b f => event b _ _ _ _) _ _)

theorem pageError (b : Block) (hub pa : Nat) : SlotsKept b (b.pageError hub pa) := by
  unfold Block.pageError
  split
  · exact refl b
  · exact pageErrorAt b hub _ _

theorem correctAtom (b : Block) (hub a : Nat) : SlotsKept b (b.correctAtom hub a) := by
  have counted : SlotsKept b (b.pageCorrection hub (64 * a)) := by
    unfold Block.pageCorrection
    split
    · exact refl b
    · exact of_works rfl
  exact counted.trans (requestAtoms _ _ _ _)

theorem poisonAtoms (b : Block) (hub pa n source : Nat) : SlotsKept b (b.poisonAtoms hub pa n source) := by
  unfold Block.poisonAtoms
  dsimp only
  split
  · refine SlotsKept.trans ?_ (event _ _ _ _ _)
    refine SlotsKept.trans ?_ (onDie _ _ _)
    exact ((of_works rfl).trans (wcbAccept (b.push (.poison (atomsOf pa n))) _ _ _ _ _)).trans (onGroupSlice _ _ _)
  · exact of_works rfl

theorem markPoison (r : RowRef) (st : Store) (b : Block) (hub off len : Nat) (h : RowHdr) : SlotsKept b (r.markPoison st b hub off len h) := by
  unfold RowRef.markPoison
  dsimp only
  split
  · exact of_works rfl
  · exact wrMem b hub _ _ _ _

theorem poisonRow (st : Store) (b : Block) (hub : Nat) (r : RowRef) (bad : List Nat) (nonfinite : Bool) : SlotsKept b (Machine.poisonRow st b hub r bad nonfinite) := by
  unfold Machine.poisonRow
  dsimp only
  exact (foldl (fun b a => poisonAtoms b hub _ _ _) _ b).trans (markPoison r st _ hub _ _ _)

theorem digestEvent (b : Block) (hub pa : Nat) : SlotsKept b (b.digestEvent hub pa) := by
  unfold Block.digestEvent
  split
  · exact event b _ _ _ _
  · exact refl b

theorem poisonMaster (st : Store) (b : Block) (hub : Nat) (r : RowRef) : SlotsKept b (Machine.poisonMaster st b hub r) := by
  unfold Machine.poisonMaster
  split
  · exact poisonRow st b hub r [] false
  · extract_lets failed old c d
    have listed : SlotsKept b c := by
      show SlotsKept b (if _ then _ else _)
      split
      · exact refl b
      · exact (digestEvent b hub _).trans (pageError _ hub _)
    have marked : SlotsKept c d := by
      show SlotsKept c (if _ then _ else _)
      split
      · exact refl c
      · exact markPoison r st c hub _ _ _
    exact (listed.trans marked).trans (poisonRow st d hub r [] false)

/-- A row that is read (R264). -/
theorem readRow (st : Store) (b : Block) (hub : Nat) (r : RowRef) (stack : Bool) (err : ReadErr) : SlotsKept b (Machine.readRow st b hub r stack err).1 := by
  unfold Machine.readRow
  split
  · exact refl b
  · extract_lets pa atoms met held failed c bs h
    have corrected : SlotsKept b c := foldl (fun b a => correctAtom b hub a) _ b
    clear_value c
    split
    · exact (corrected.trans (poisonRow st c hub r failed false)).trans (foldl (fun b a => pageError b hub _) failed _)
    · split
      · dsimp only
        split
        · exact corrected
        · exact corrected.trans (poisonRow st c hub r [] false)
      · split
        · exact corrected
        · split
          · exact corrected
          · split
            · exact ((corrected.trans (poisonRow st c hub r [] false)).trans (pageError _ hub _)).trans (digestEvent _ hub _)
            · exact corrected

/-! ### Frame errors (R296) -/

theorem disableEvent (b : Block) (hub level s set way cause : Nat) (whole : Bool) : SlotsKept b (b.disableEvent hub level s set way cause whole) :=
  (event b _ _ _ _).trans (of_works rfl)

theorem disableFrame (b : Block) (hub : Nat) (buffer : Option Nat) (set way cause : Nat) : SlotsKept b (b.disableFrame hub buffer set way cause) := by
  unfold Block.disableFrame
  dsimp -zeta only
  extract_lets c put level d
  have puts : ∀ e, SlotsKept b (put b e) := fun e => by
    dsimp only [put]
    split
    · exact onSlice b hub _
    · exact onDie b _ _
  clear_value put
  refine ite_holds (Q := SlotsKept b) (refl b) (ite_holds (Q := SlotsKept b) (puts _) ?_)
  have told : SlotsKept b d := (puts _).trans (disableEvent _ hub level (buffer.getD 0) set way cause false)
  exact ite_holds (Q := SlotsKept b) (told.trans (disableEvent d hub level (buffer.getD 0) 0 way 2 true)) told

theorem publish (b : Block) : SlotsKept b b.publish := of_works (congrArg Block.works b.publish_only :)

theorem republished (b b' : Block) : SlotsKept b' (b.republished b') := by
  unfold Block.republished
  split
  · exact refl b'
  · exact publish b'

theorem lineErr (b : Block) (hub : Nat) (buffer : Option Nat) (ch row : Nat) (e : AtomErr) : SlotsKept b (b.lineErr hub buffer ch row e).1 := by
  unfold Block.lineErr
  dsimp -zeta only
  extract_lets now c setOf set put bad
  have puts : ∀ e, SlotsKept b (put e) := fun e => by
    dsimp only [put]
    split
    · exact onSlice b hub _
    · exact onDie b _ _
  clear_value put
  have disabled : ∀ e w k, SlotsKept b (b.republished ((put e).disableFrame hub buffer set w k)) := fun e w k =>
    ((puts e).trans (disableFrame (put e) hub buffer set w k)).trans (republished b _)
  split
  · exact refl b
  · split
    · exact ((puts _).trans (foldl (fun b w => disableFrame b hub buffer set w 0) _ _)).trans (republished b _)
    · split
      · exact refl b
      · exact ite_holds (Q := SlotsKept b) (disabled _ _ _) (puts _)

theorem lineErrs (b : Block) (hub : Nat) (buffer : Option Nat) (locs : List (Nat × Nat)) (err : ReadErr) : SlotsKept b (b.lineErrs hub buffer locs err).1 := by
  unfold Block.lineErrs
  refine foldlWith (fun y e => ?_) err (b, false)
  obtain ⟨c, lost⟩ := y
  dsimp only
  exact lineErr c hub buffer (locs.getD (e.atom / 4) (locs.headD (0, 0))).1 (locs.getD (e.atom / 4) (locs.headD (0, 0))).2 e

theorem bufferTouch (b : Block) (s : Nat) (locs : List (Nat × Nat)) : SlotsKept b (b.bufferTouch s locs) := onDie b s _

theorem bufferFill (b : Block) (s part : Nat) (locs : List (Nat × Nat)) (toward zero : Bool) : SlotsKept b (b.bufferFill s part locs toward zero) :=
  of_works (congrArg Block.works (Filled.bufferFill b s part locs toward zero).eq :)

theorem bufferRead (b : Block) (r : RowRef) (err : ReadErr) (cls : Nat) : SlotsKept b (b.bufferRead r err cls).1 := by
  unfold Block.bufferRead
  dsimp only
  split
  · exact (bufferTouch b r.stack (b.rowLocs r)).trans (lineErrs (b.bufferTouch r.stack (b.rowLocs r)) (b.homeHub r.stack) (some r.stack) (b.rowLocs r) err)
  · split
    · exact refl b
    · exact (requestAtoms b (cls == 0) { what := .work, prio := cls } (r.atoms 0 r.td.S)).trans (bufferFill _ r.stack r.td.cpart (b.rowLocs r) false false)

/-! ### Re-derivation (R264, R349) -/

theorem keepEntry (b : Block) (pa : Nat) : SlotsKept b (b.keepEntry pa) := of_works (congrArg Block.works (DiesOnly.keepEntry b pa) :)

theorem cached (b : Block) (h job : Nat) (n : Need) : SlotsKept b (b.cached h job n).2 := by
  unfold Block.cached
  split
  · exact refl b
  · dsimp only
    split
    · exact refl b
    · split
      · exact of_works rfl
      · exact of_works rfl

theorem walked (st : Store) (b : Block) (job : Nat) (n : Need) : SlotsKept b (Block.walked st b job n) := by
  unfold Block.walked
  split
  · exact refl b
  · exact foldl (fun b pa => keepEntry b pa) _ b

theorem translateNow (st : Store) (b : Block) (h job : Nat) (n : Need) : SlotsKept b (Machine.translateNow st b h job n).2 := by
  have looked := cached b h job n
  unfold Machine.translateNow
  split
  · rename_i hit
    rwa [hit] at looked
  · rename_i c missed
    replace looked : SlotsKept b c := by rwa [missed] at looked
    split
    · exact (looked.trans (walked st c job n)).trans (of_works rfl)
    · exact looked.trans (walked st c job n)

theorem masterRead (st : Store) (b : Block) (td : TD) (hub lrow : Nat) : SlotsKept b (Machine.masterRead st b td hub lrow).1 := by
  unfold Machine.masterRead
  refine foldlWith (fun y v => ?_) _ (b, Rd.got [])
  obtain ⟨c, acc⟩ := y
  dsimp only
  split
  · have looked := translateNow st c hub td.job { va := v, read := true, place := 2 }
    split
    · rename_i at_
      rw [at_] at looked
      split
      · exact looked
      · exact looked
    · rename_i at_
      rw [at_] at looked
      exact looked
  · exact refl c

theorem rowMaster (st : Store) (b : Block) (hub : Nat) (r : RowRef) : SlotsKept b (Machine.rowMaster st b hub r).1 := by
  unfold Machine.rowMaster
  split
  · dsimp only
    split
    · exact refl b
    · exact refl b
  · split
    · exact masterRead st b r.td hub r.lrow
    · exact refl b

theorem askTwin (b : Block) (r : RowRef) : SlotsKept b (b.askTwin r).1 := by
  unfold Block.askTwin
  split
  · exact of_works rfl
  · exact refl b

theorem commitTags (b : Block) (q : Nat) (row : List (Nat × Nat)) (wrote : List (Nat × Nat × Bool)) : SlotsKept b (b.commitTags q row wrote).1 := by
  unfold Block.commitTags
  split
  · exact refl b
  · dsimp only
    split
    · exact of_works rfl
    · split
      · exact of_works rfl
      · split
        · exact of_works rfl
        · split
          · split
            · exact of_works rfl
            · exact of_works rfl
          · exact of_works rfl

theorem wrCommit (b : Block) (hub part : Nat) (row : List (Nat × Nat)) (parts : List (Nat × Nat × Nat)) (img : List Byte) (cls : Nat) :
    SlotsKept b (b.wrCommit hub part row parts img cls).1 := by
  unfold Block.wrCommit
  dsimp only
  refine SlotsKept.trans (foldlWith (fun y v => ?_) _ (b, [])) (commitTags _ part row _)
  obtain ⟨c, wrote⟩ := y
  obtain ⟨a, off, n⟩ := v
  dsimp only
  split
  · exact refl c
  · split
    · exact (of_works rfl).trans (event (c.sample 0x10 _ 0) _ _ _ _)
    · exact (of_works rfl).trans (wcbAccept (c.push _) _ _ _ _ _)

theorem neighbours (r : RowRef) (st : Store) (b b' : Block) : SlotsKept b' (r.neighbours st b b') := by
  unfold RowRef.neighbours
  dsimp only
  split
  · exact refl b'
  · exact foldl (fun b a => push b _) _ b'

theorem commitEntry (st : Store) (b : Block) (r : RowRef) (hub : Nat) (img : List Byte) (cls : Nat) : SlotsKept b (Block.commitEntry st b r hub img cls) := by
  unfold Block.commitEntry Block.commitRow
  dsimp only
  refine SlotsKept.trans ?_ (of_works rfl)
  exact ((of_works rfl).trans (neighbours r st b (b.push (.heal (r.atoms 0 r.td.S))))).trans (wrCommit _ hub _ _ _ img cls)

theorem journal (b : Block) (td : TD) (stack lrow bseq : Nat) : SlotsKept b (b.journal td stack lrow bseq) := by
  unfold Block.journal Block.journalAdd
  dsimp only
  split
  · exact refl b
  · split
    · exact refl b
    · split
      · exact onDie b stack _
      · exact (of_works rfl).trans (event (b.onTable td.table fun x => { x with overflowed := true }) _ _ _ _)

theorem rederiveRow (st : Store) (b : Block) (hub : Nat) (r : RowRef) (cls : Nat) : SlotsKept b (Machine.rederiveRow st b hub r cls).1 := by
  have read := (bufferRead b r [] cls).trans (rowMaster st (b.bufferRead r [] cls).1 hub r)
  unfold Machine.rederiveRow
  split
  · exact refl b
  · split
    · rename_i at_
      rwa [at_] at read
    · rename_i c _ at_
      rw [at_] at read
      exact SlotsKept.trans read (askTwin c r)
    · rename_i c rec_ at_
      replace read : SlotsKept b c := by rwa [at_] at read
      split
      · exact read
      · split
        · refine SlotsKept.trans (c := if r.td.place = 0 then _ else _) ?_ (askTwin _ r)
          split
          · exact read.trans (poisonMaster st c hub r)
          · exact read
        · dsimp only
          split
          · dsimp only
            split
            · exact read
            · exact read.trans (poisonRow st c hub r [] true)
          · exact (read.trans (commitEntry st c r hub _ cls)).trans (journal _ _ _ _ _)

theorem readRowHealed (st : Store) (b : Block) (hub : Nat) (r : RowRef) (stack : Bool) (err : ReadErr) (cls : Nat) :
    SlotsKept b (Machine.readRowHealed st b hub r stack err cls).1 := by
  have read := readRow st b hub r stack err
  unfold Machine.readRowHealed
  split
  · rename_i c at_
    replace read : SlotsKept b c := by rwa [at_] at read
    have derived := rederiveRow st c hub r cls
    split
    · exact read
    · split
      · rename_i d done
        replace derived : SlotsKept c d := by rwa [done] at derived
        exact (read.trans derived).trans (readRow st d hub r false [])
      · rename_i d done
        rw [done] at derived
        exact read.trans derived
      · rename_i d done
        rw [done] at derived
        exact read.trans derived
      · rename_i d _ done
        rw [done] at derived
        exact read.trans derived
  · exact read

/-! ### Fetches (Table 10-1) -/

theorem prefetchRead (b : Block) (part : Nat) (locs : List (Nat × Nat)) (toward up preload : Bool) : SlotsKept b (b.prefetchRead part locs toward up preload) := by
  unfold Block.prefetchRead
  dsimp only
  split
  · exact refl b
  · exact foldl (fun b (x : Nat × Nat × Nat) => of_works (congrArg Block.works (DiesOnly.request b x.1 false { what := .fill part locs toward up preload, prio := 3, row := x.2.1, atoms := x.2.2 }) :)) _ b

theorem wideFetch (b : Block) (r : RowRef) (err : ReadErr) : SlotsKept b (b.wideFetch r err).1 := by
  unfold Block.wideFetch
  dsimp -zeta only
  extract_lets s locs count counted hit near admitted
  have counts : ∀ c, SlotsKept c (count c) := fun c => onGroupSlice c s _
  clear_value count
  split
  · exact refl b
  · rename_i hit
    have touched : SlotsKept b ((count (b.cacheTouch (s / 3) locs)).lineErrs (s / 3) none locs err).1 :=
      ((onSlice b (s / 3) _).trans (counts (b.cacheTouch (s / 3) locs))).trans (lineErrs _ (s / 3) none locs err)
    generalize (count (b.cacheTouch (s / 3) locs)).lineErrs (s / 3) none locs err = y at touched
    obtain ⟨c, lost⟩ := y
    dsimp only at touched ⊢
    split
    · exact touched.trans (bufferRead c r [] 1)
    · exact touched
  · have filled : SlotsKept b (if hit then counted.bufferRead r err else (counted.bufferFill s r.td.cpart locs false, !(locs.all fun x => counted.staged x.1 x.2))).1 := by
      split
      · exact (counts b).trans (bufferRead _ r err 1)
      · exact (counts b).trans (bufferFill _ s r.td.cpart locs false false)
    have fetched : SlotsKept b near := by
      dsimp only [near]
      generalize (if hit then counted.bufferRead r err else (counted.bufferFill s r.td.cpart locs false, !(locs.all fun x => counted.staged x.1 x.2))).1 = c at filled
      split
      · split
        · split
          · exact filled
          · exact filled.trans (prefetchRead c _ _ _ _ _)
        · exact filled
      · exact filled
    show SlotsKept b admitted
    dsimp only [admitted]
    split
    · split
      · exact fetched.trans (onSlice near _ _)
      · exact fetched
    · exact fetched

end SlotsKept

end Sys2Proof.Machine
end

section
/-! O39: a lookup's rows arrive, and its partials are combined. -/
namespace Sys2Proof.Machine
open Sys2Proof.Spec

/-! ### A row arrives (R83) -/

theorem Block.addTask_works (b : Block) (h rid p : Nat) (kind : TaskKind) (stack : Option Nat) (ops : Nat) (row : Option Nat) (after : List (Nat × Nat)) (single : Bool) :
    (b.addTask h rid p kind stack ops row after single).works = b.works := by
  unfold Block.addTask
  split
  · rfl
  · rfl

/-- The tile that slot p runs still awaits a row. -/
def Block.AwaitsRow (b : Block) (rid p lrow : Nat) : Prop :=
  ∃ w l f, b.work? rid p = some w ∧ w.data = .lookup l ∧ l.fetches.find? (fun g => g.lrow == lrow && !g.got) = some f

/-- The tile that slot p runs has a row's elements. -/
def Block.HasRow (b : Block) (rid p lrow : Nat) (xs : List Word) : Prop :=
  ∃ w l, b.work? rid p = some w ∧ w.data = .lookup l ∧ ∀ g ∈ l.fetches, g.lrow = lrow → g.got = true ∧ g.elems = xs

/-- A tile's fetches once a row has come. -/
def Lookup.taking (l : Lookup) (f : Fetch) (lrow : Nat) (xs : List Word) : Lookup :=
  { l with fetches := l.fetches.map fun g => if g.lrow = lrow then { f with got := true, elems := xs, nonfinite := !xs.all isFin } else g }

theorem takeRow_takes {b : Block} {rid p lrow : Nat} {w : Work} {l : Lookup} {f : Fetch} (found : b.work? rid p = some w) (data : w.data = .lookup l)
    (waits : l.fetches.find? (fun g => g.lrow == lrow && !g.got) = some f) (xs : List Word) :
    (takeRow b rid p lrow (some xs)).works = (b.onWork rid p fun w => { w with data := .lookup (l.taking f lrow xs) }).works := by
  unfold takeRow
  rw [found]
  dsimp -zeta only
  rw [data]
  dsimp -zeta only
  rw [waits]
  dsimp -zeta only
  extract_lets o td got fs c terms here per d e stackOf partials
  have same : d.works = c.works := ite_holds (Q := fun x : Block => x.works = c.works) (c.addTask_works _ _ _ _ _ _ _ _ _) rfl
  refine ite_holds (Q := fun x : Block => x.works = c.works) same ?_
  have single : e.works = c.works := ite_holds (Q := fun x : Block => x.works = c.works) ((d.addTask_works _ _ _ _ _ _ _ _ _).trans same) same
  exact ite_holds (Q := fun x : Block => x.works = c.works) single ((e.addTask_works _ _ _ _ _ _ _ _ _).trans single)

theorem takeRow_idle {b : Block} {rid p lrow : Nat} (idle : ¬ b.AwaitsRow rid p lrow) (v : Option (List Word)) : takeRow b rid p lrow v = b := by
  unfold takeRow
  split
  · rfl
  · rename_i w found
    split
    · rename_i l data
      split
      · rfl
      · rename_i f waits
        exact absurd ⟨w, l, f, found, data, waits⟩ idle
    · rfl

/-- A row that one slot takes leaves every other slot of its ring. -/
theorem takeRow_other (b : Block) {rid p q : Nat} (other : p ≠ q) (lrow : Nat) (xs : List Word) : (takeRow b rid q lrow (some xs)).work? rid p = b.work? rid p := by
  by_cases waits : b.AwaitsRow rid q lrow
  · obtain ⟨w, l, f, found, data, waits⟩ := waits
    refine (congrArg (Tbl.get? · (workKey rid p)) (takeRow_takes found data waits xs)).trans ?_
    exact Tbl.get?_modify_other _ _ _ _ (workKey_inj other)
  · rw [takeRow_idle waits]

theorem Block.HasRow.idle {b : Block} {rid p lrow : Nat} {xs : List Word} (has : b.HasRow rid p lrow xs) : ¬ b.AwaitsRow rid p lrow := by
  obtain ⟨w, l, found, data, all⟩ := has
  rintro ⟨w', l', f, found', data', waits⟩
  obtain rfl := Option.some.inj (found.symm.trans found')
  obtain rfl := WorkData.lookup.inj (data.symm.trans data')
  have picked := List.find?_some waits
  simp only [Bool.and_eq_true, beq_iff_eq, Bool.not_eq_true'] at picked
  rw [(all f (List.mem_of_find?_eq_some waits) picked.1).1] at picked
  exact absurd picked.2 (by decide)

theorem Block.HasRow.takeRow {b : Block} {rid p lrow : Nat} {xs : List Word} (has : b.HasRow rid p lrow xs) (q : Nat) :
    (takeRow b rid q lrow (some xs)).HasRow rid p lrow xs := by
  obtain rfl | other := eq_or_ne p q
  · rwa [takeRow_idle has.idle]
  · obtain ⟨w, l, found, rest⟩ := has
    exact ⟨w, l, (takeRow_other b other lrow xs).trans found, rest⟩

theorem Block.AwaitsRow.takeRow {b : Block} {rid p lrow : Nat} (waits : b.AwaitsRow rid p lrow) (xs : List Word) :
    (takeRow b rid p lrow (some xs)).HasRow rid p lrow xs := by
  obtain ⟨w, l, f, found, data, waits⟩ := waits
  refine ⟨{ w with data := .lookup (l.taking f lrow xs) }, l.taking f lrow xs, ?_, rfl, fun g mem is => ?_⟩
  · refine (congrArg (Tbl.get? · (workKey rid p)) (takeRow_takes found data waits xs)).trans ?_
    exact (Tbl.get?_modify_same _ _ _).trans (congrArg (Option.map _) found)
  · obtain ⟨g0, -, rfl⟩ := List.mem_map.mp mem
    split
    · exact ⟨rfl, rfl⟩
    · rename_i away
      rw [if_neg away] at is
      exact absurd is away

/-- A row that a group's slots take reaches each of them. -/
theorem takeRows_hasRow {rid p lrow : Nat} {xs : List Word} (users : List Nat) (b : Block) (stands : b.HasRow rid p lrow xs ∨ b.AwaitsRow rid p lrow ∧ p ∈ users) :
    (users.foldl (fun b q => takeRow b rid q lrow (some xs)) b).HasRow rid p lrow xs := by
  induction users generalizing b with
  | nil => exact stands.elim id fun waits => absurd waits.2 List.not_mem_nil
  | cons q users ih =>
    refine ih _ ?_
    obtain has | ⟨waits, mem⟩ := stands
    · exact .inl (has.takeRow q)
    · obtain rfl | other := eq_or_ne p q
      · exact .inl (waits.takeRow xs)
      · obtain ⟨w, l, f, found, rest⟩ := waits
        exact .inr ⟨⟨w, l, f, (takeRow_other b other lrow xs).trans found, rest⟩, (List.mem_cons.mp mem).resolve_left other⟩

/-- A slot at work is a member of the group that it belongs to. -/
theorem Block.mem_members {b : Block} {rid p : Nat} {w : Work} (found : b.work? rid p = some w) (ring : w.ring = rid) (place : w.p = p) (active : w.phase = .active) :
    p ∈ b.members rid w.lead := by
  refine List.mem_map.mpr ⟨w, List.mem_filter.mpr ⟨List.mem_filter.mpr ⟨Tbl.mem_vals_of_get found, beq_iff_eq.mpr ring⟩, ?_⟩, place⟩
  rw [active, Work.lead]
  cases group : w.group with
  | none => simp
  | some g => simp

section
variable {s : State} {rid p : Nat} {w : Work} {l : Lookup} {f : Fetch} {err e : ReadErr} {b1 b2 : Block} {stack : Bool} {hd : RowHdr} {pl : List Byte}

/-- A row that is fetched and reads well goes to every slot of the group (R83). -/
theorem rowFetch_takes {b : Block} {st : Store} (found : b.work? rid p = some w) (data : w.data = .lookup l) (active : w.phase = .active)
    (waits : l.fetches.find? (fun g => g.lrow == f.lrow && !g.got) = some f) (unqueued : b.rowQueued f.ch rid w.lead f.lrow = false)
    (fetched : (if w.cls = 0 then (b, some (true, err)) else b.wideFetch { td := tdOf l.desc, lrow := f.lrow, parts := f.pieces, ch := f.ch } err) = (b1, some (stack, e)))
    (reads : readRowHealed st b1 (b.homeHub (RowRef.stack { td := tdOf l.desc, lrow := f.lrow, parts := f.pieces, ch := f.ch }))
      { td := tdOf l.desc, lrow := f.lrow, parts := f.pieces, ch := f.ch } stack e w.cls = (b2, .row hd pl)) :
    rowFetch rid p f.lrow err st b = (b1.members rid w.lead).foldl (fun b q => takeRow b rid q f.lrow (some
      (if (lop w.x).figures then decodeFigures (tdOf l.desc).wfmt (tdOf l.desc).width hd pl else decodeRow (tdOf l.desc).wfmt (tdOf l.desc).width hd pl))) b2 := by
  unfold rowFetch
  rw [found]
  dsimp only
  rw [data]
  dsimp only
  rw [waits]
  dsimp only
  rw [active, unqueued, if_neg (by decide), fetched]
  dsimp only
  rw [reads]

end

/-- ROW_FETCH of a row that reads well gives the tile its elements. -/
theorem runs_rowFetch {s : State} {rid p : Nat} {w : Work} {l : Lookup} {f : Fetch} {err e : ReadErr} {b1 b2 : Block} {stack : Bool} {hd : RowHdr} {pl : List Byte}
    (found : s.blk.work? rid p = some w) (ring : w.ring = rid) (place : w.p = p) (data : w.data = .lookup l) (active : w.phase = .active) (alive : s.blk.fatal = false)
    (waits : l.fetches.find? (fun g => g.lrow == f.lrow && !g.got) = some f) (unqueued : s.blk.rowQueued f.ch rid w.lead f.lrow = false)
    (fetched : (if w.cls = 0 then (s.start, some (true, err)) else s.start.wideFetch { td := tdOf l.desc, lrow := f.lrow, parts := f.pieces, ch := f.ch } err) = (b1, some (stack, e)))
    (reads : readRowHealed s.store b1 (s.blk.homeHub (RowRef.stack { td := tdOf l.desc, lrow := f.lrow, parts := f.pieces, ch := f.ch }))
      { td := tdOf l.desc, lrow := f.lrow, parts := f.pieces, ch := f.ch } stack e w.cls = (b2, .row hd pl)) :
    Runs (.rowFetch rid p f.lrow err) s fun t => t.blk.HasRow rid p f.lrow
      (if (lop w.x).figures then decodeFigures (tdOf l.desc).wfmt (tdOf l.desc).width hd pl else decodeRow (tdOf l.desc).wfmt (tdOf l.desc).width hd pl) := by
  have effect : (if s.start.fatal then s.start else rowFetch rid p f.lrow err s.store s.start) = _ :=
    (if_neg (by rw [show s.start.fatal = false from alive]; exact Bool.false_ne_true)).trans (rowFetch_takes (b := s.start) found data active waits unqueued fetched reads)
  have wide : SlotsKept s.start b1 := by
    have kept : SlotsKept s.start (if w.cls = 0 then (s.start, some (true, err)) else
        s.start.wideFetch { td := tdOf l.desc, lrow := f.lrow, parts := f.pieces, ch := f.ch } err).1 := by
      split
      · exact .refl _
      · exact .wideFetch _ _ _
    rwa [fetched] at kept
  have healed : SlotsKept b1 b2 := by
    have kept := SlotsKept.readRowHealed s.store b1 (s.blk.homeHub (RowRef.stack { td := tdOf l.desc, lrow := f.lrow, parts := f.pieces, ch := f.ch }))
      { td := tdOf l.desc, lrow := f.lrow, parts := f.pieces, ch := f.ch } stack e w.cls
    rwa [reads] at kept
  obtain ⟨w1, found1, same1⟩ := wide.work_some (b := s.start) found
  obtain ⟨w2, found2, same2⟩ := healed.work_some found1
  have member : p ∈ b1.members rid w.lead := by
    have lead : w1.lead = w.lead := (congrArg Work.lead same1 :)
    rw [← lead]
    exact Block.mem_members found1 ((congrArg Work.ring same1 :).trans ring) ((congrArg Work.p same1 :).trans place) ((congrArg Work.phase same1 :).trans active)
  have data2 : w2.data = .lookup l := (congrArg Work.data same2 :).trans ((congrArg Work.data same1 :).trans data)
  obtain ⟨w3, l3, found3, data3, all⟩ := takeRows_hasRow (b1.members rid w.lead) b2 (.inr ⟨⟨w2, l, f, found2, data2, waits⟩, member⟩)
  refine Runs.of_core (s := s) _ rfl fun t core => ?_
  obtain ⟨w4, found4, same4⟩ := (SlotsKept.of_core (core.trans (congrArg Block.core effect))).work_some found3
  exact ⟨w4, l3, found4, (congrArg Work.data same4 :).trans data3, all⟩

/-! ### A partial joins its bag (R86 to R89) -/

/-- A tile's bags after the partial of the first stack left joins one. -/
def Lookup.combining (l : Lookup) (j : Nat) (left : List Nat) (acc : Option (List Word)) : Lookup :=
  { l with bags := l.bags.map fun g => if g.j = j then { g with left := left, acc := acc } else g }

/-- The accumulator of a bag after a stack's partial. -/
def Lookup.accAfter (l : Lookup) (o : LOp) (width : Nat) (bag : Bag) (stack : Nat) : Option (List Word) :=
  match poolList o.mode o.figures width (l.values (bag.terms.filter fun t => l.fetches.any fun f => f.lrow == t.lrow && f.stack == stack)) with
  | none => bag.acc
  | some v => some (combinePartial o.mode bag.acc v)

theorem partialCombine_adds {b : Block} {st : Store} {rid p stack next : Nat} {rest : List Nat} {w : Work} {l : Lookup} {bag : Bag} (found : b.work? rid p = some w)
    (data : w.data = .lookup l) (active : w.phase = .active) (running : l.running = true) (plain : (lop w.x).gather = false) (loose : (lop w.x).strict = false)
    (picked : l.bags.find? (fun g => g.j == bag.j && !g.finished) = some bag) (left : bag.left = stack :: next :: rest) (got : ∀ f ∈ l.fetches, f.got = true)
    (pooled : b.taskStands rid p (some stack) = false) (combined : b.taskStands rid p none = false) :
    ∃ F, partialCombine rid p bag.j stack st b = b.onWork rid p F ∧
      F w = { w with data := .lookup (l.combining bag.j (next :: rest) (l.accAfter (lop w.x) (tdOf l.desc).width bag stack)) } := by
  have all : (l.fetches.all fun f => f.got || ((lop w.x).gather && !(if (lop w.x).strict then bag.terms else
      bag.terms.filter fun t => l.fetches.any fun f => f.lrow == t.lrow && f.stack == stack).any (·.lrow == f.lrow))) = true :=
    List.all_eq_true.mpr fun f mem => by rw [got f mem, Bool.true_or]
  unfold partialCombine
  rw [found]
  dsimp only
  rw [data]
  dsimp only
  rw [picked]
  dsimp only
  rw [all, active, running, left, pooled, combined, plain, loose, if_neg (by simp), if_neg Bool.false_ne_true]
  simp only [Bool.false_eq_true, if_false]
  refine ⟨_, rfl, ?_⟩
  rw [data, ← active] <;> unfold Lookup.combining Lookup.accAfter <;> cases poolList (lop w.x).mode (lop w.x).figures (tdOf l.desc).width _ <;> rfl

/-- PARTIAL_COMBINE of a stack's partial that is not the bag's last. -/
theorem runs_partialCombine {s : State} {rid p stack next : Nat} {rest : List Nat} {w : Work} {l : Lookup} {bag : Bag} (found : s.blk.work? rid p = some w)
    (data : w.data = .lookup l) (active : w.phase = .active) (running : l.running = true) (plain : (lop w.x).gather = false) (loose : (lop w.x).strict = false)
    (picked : l.bags.find? (fun g => g.j == bag.j && !g.finished) = some bag) (left : bag.left = stack :: next :: rest) (got : ∀ f ∈ l.fetches, f.got = true)
    (pooled : s.blk.taskStands rid p (some stack) = false) (combined : s.blk.taskStands rid p none = false) :
    Runs (.partialCombine rid p bag.j stack) s fun t => t.store = s.store ∧ t.blk.hubs = s.blk.hubs ∧ t.blk.dies = s.blk.dies ∧
      ∃ w' l', t.blk.work? rid p = some w' ∧ w'.data = .lookup l' ∧ ∀ g ∈ l'.bags, g.j = bag.j → g.left = next :: rest ∧
        g.acc = l.accAfter (lop w.x) (tdOf l.desc).width bag stack := by
  obtain ⟨F, effect, adds⟩ := partialCombine_adds (b := s.start) (st := s.store) found data active running plain loose picked left got pooled combined
  refine Runs.of_effect (s := s) rfl _ effect rfl ⟨rfl, rfl, rfl, F w, l.combining bag.j (next :: rest) (l.accAfter (lop w.x) (tdOf l.desc).width bag stack), ?_, ?_, ?_⟩
  · exact (Tbl.get?_modify_same s.blk.works (workKey rid p) F).trans (congrArg (Option.map F) found)
  · rw [adds]
  · rintro g mem is
    obtain ⟨g0, -, rfl⟩ := List.mem_map.mp mem
    split
    · exact ⟨rfl, rfl⟩
    · rename_i away
      rw [if_neg away] at is
      exact absurd is away

end Sys2Proof.Machine
end

section
/-! O39: a tile starts. -/
namespace Sys2Proof.Machine
open Sys2Proof.Spec

/-! ### What a tile's translation leaves of its slot (R84) -/

/-- The descriptor that a lookup's work stands on. -/
def WorkData.desc : WorkData → Option (BitVec 512)
  | .lookup l => Option.some l.desc
  | _ => Option.none

/-- What the start of a tile goes by. -/
def Work.gist (w : Work) : BitVec 2048 × Phase × Option (BitVec 512) := (w.slot, w.phase, w.data.desc)

theorem WorkData.desc_some {d : WorkData} {desc : BitVec 512} (is : d.desc = some desc) : ∃ l, d = .lookup l ∧ l.desc = desc := by
  cases d with
  | lookup l => exact ⟨l, rfl, Option.some.inj is⟩
  | _ => cases is

theorem WorkData.desc_transforming (d : WorkData) : d.transforming.desc = d.desc := by cases d <;> rfl

/-- Slot p stands in c as in b, as far as the start of its tile goes. -/
def Alike (rid p : Nat) (b c : Block) : Prop := (c.work? rid p).map Work.gist = (b.work? rid p).map Work.gist

/-- Steps that find a tile of slot p, if they do, leave the slot as the tile's start goes by it. -/
def Finds (rid p : Nat) (a : Block) (y : Block × Option Tile) : Prop := ∀ t, y.2 = some t → t.p = p ∧ Alike rid p a y.1

namespace Alike

variable {a b c : Block} {rid p : Nat}

theorem refl (b : Block) : Alike rid p b b := rfl

theorem outcomes (alike : Alike rid p a b) (kept : Outcomes b c) : Alike rid p a c := by
  have same := congrArg (Option.map Work.gist) (kept.work (workKey rid p))
  rw [Option.map_map, Option.map_map, show Work.gist ∘ Work.outcome = Work.gist from rfl] at same
  exact Eq.trans same alike

theorem onWork (alike : Alike rid p a b) (f : Work → Work) (keeps : ∀ w, (f w).gist = w.gist) : Alike rid p a (b.onWork rid p f) := by
  refine Eq.trans ?_ alike
  show ((b.works.modify (workKey rid p) f).get? (workKey rid p)).map Work.gist = _
  rw [Tbl.get?_modify_same, Option.map_map, show Work.gist ∘ f = Work.gist from funext keeps]
  rfl

theorem ensure_is (alike : Alike rid p a b) {needs : List Need} {ok : Bool} (held : b.ensure rid p needs = (c, ok)) : Alike rid p a c := by
  have kept := alike.outcomes (Serves.ensure (rid := rid) b p needs).outcomes
  rwa [held] at kept

/-- Reading through a page of the slot. -/
theorem readPage (alike : Alike rid p a b) (st : Store) (pg : Page) (off n : Nat) : Alike rid p a (readPage st b rid p pg off n).1 := by
  unfold Machine.readPage
  dsimp only
  split
  · exact alike
  · split
    · split
      · exact alike
      · exact alike
      · exact alike.outcomes (Serves.hostNeeded (rid := rid) b p whatOUT).outcomes
    · split
      · split
        · exact alike
        · split
          · exact alike
          · split
            · exact alike
            · exact (alike.outcomes (Serves.sendWin (rid := rid) b rid p _ true _).outcomes).onWork _ fun _ => rfl
      · exact alike

/-- Steps one after another, each with an answer. -/
theorem foldl {α β : Type} {f : Block × β → α → Block × β} (step : ∀ y v, Alike rid p a y.1 → Alike rid p a (f y v).1) (vs : List α) (y : Block × β)
    (alike : Alike rid p a y.1) : Alike rid p a (vs.foldl f y).1 := by
  induction vs generalizing y with
  | nil => exact alike
  | cons v vs ih => exact ih _ (step y v alike)

theorem readVa_is (alike : Alike rid p a b) {st : Store} {va n : Nat} {rd : Rd} (read : readVa st b rid p va n = (c, rd)) : Alike rid p a c := by
  have kept : Alike rid p a (readVa st b rid p va n).1 := by
    unfold readVa
    refine foldl (fun y v alike => ?_) _ (b, _) alike
    obtain ⟨d, acc⟩ := y
    dsimp only
    split
    · exact alike
    · split
      · exact alike
      · rename_i pg _
        have paged := alike.readPage st pg (Nat.max va v - v) (Nat.min (va + n) (v + 65536) - Nat.max va v)
        generalize Machine.readPage st d rid p pg (Nat.max va v - v) (Nat.min (va + n) (v + 65536) - Nat.max va v) = y at paged
        obtain ⟨e, got⟩ := y
        cases got <;> cases acc <;> exact paged
  rwa [read] at kept

theorem addTasks (alike : Alike rid p a b) (ns : List Nat) (h q : Nat) (kind : TaskKind) (stack : Option Nat) (ops : Nat) :
    Alike rid p a (ns.foldl (fun b _ => b.addTask h rid q kind stack ops) b) := by
  induction ns generalizing b with
  | nil => exact alike
  | cons n ns ih =>
    refine ih (Eq.trans ?_ alike)
    rw [Block.work?, b.addTask_works, ← Block.work?]

theorem transformReady_is (alike : Alike rid p a b) {q : Ring} {td : TD} {idxw : Nat} {raws : List Nat} {ok : Bool}
    (ran : b.transformReady q rid p td idxw raws = (c, ok)) : Alike rid p a c := by
  have kept : Alike rid p a (b.transformReady q rid p td idxw raws).1 := by
    unfold Block.transformReady
    split
    · split
      · exact alike
      · dsimp only
        refine onWork ?_ _ fun w => congrArg (fun d => (w.slot, w.phase, d)) (WorkData.desc_transforming w.data)
        exact alike.addTasks _ _ _ _ _ _
    · exact alike
  rwa [ran] at kept

end Alike

namespace Finds

variable {a b c : Block} {rid p : Nat} {st : Store}

theorem none (a c : Block) : Finds rid p a (c, Option.none) := fun _ found => nomatch found

theorem some (alike : Alike rid p a c) {t : Tile} (place : t.p = p) : Finds rid p a (c, Option.some t) := fun u found => by
  obtain rfl := Option.some.inj found
  exact ⟨place, alike⟩

theorem readIndices (alike : Alike rid p a b) (r : Ring) (td : TD) (o : LOp) (x k n : Nat) (counters : List Nat) (kept : Bool) (next : Block → List Idx → Block × Option Tile)
    (goes : ∀ c cs, Alike rid p a c → Finds rid p a (next c cs)) : Finds rid p a (readIndices st b rid p r td o x k n counters kept next) := by
  unfold Machine.readIndices
  extract_lets sz give
  have gives : ∀ c raw, Alike rid p a c → Finds rid p a (give c raw) := by
    intro c raw alike
    dsimp only [give]
    split
    · exact none a _
    · rename_i d ran
      refine goes d _ ?_
      split at ran
      · exact (Prod.mk.inj ran).1 ▸ alike
      · exact alike.transformReady_is ran
  clear_value give
  split
  · exact gives b _ alike
  · split
    · rename_i read
      exact gives _ _ (alike.readVa_is read)
    · exact none a _
    · exact none a _

theorem tileRest (alike : Alike rid p a b) (td : TD) (o : LOp) (w : Work) (bags : List (Nat × Nat)) (first n : Nat) (classes : List Idx) :
    Finds rid p a (tileRest st b rid p td o w bags first n classes) := by
  unfold Machine.tileRest
  dsimp only
  split
  · exact none a _
  · rename_i held
    have ensured := alike.ensure_is held
    split
    · exact some ensured rfl
    · split
      · exact some ensured rfl
      · split
        · rename_i read
          exact some (ensured.readVa_is read) rfl
        · exact none a _
        · exact none a _

theorem invCheck (alike : Alike rid p a b) (r : Ring) (td : TD) (o : LOp) (w : Work) (l : Lookup) (next : Block → Block × Option Tile)
    (goes : ∀ c, Alike rid p a c → Finds rid p a (next c)) : Finds rid p a (invCheck st b rid p r td o w l next) := by
  unfold Machine.invCheck
  split
  · exact goes b alike
  · split
    · exact none a _
    · rename_i held
      refine readIndices (alike.ensure_is held) _ _ _ _ _ _ _ _ _ fun c cs alike => ?_
      split
      · exact none a _
      · exact goes c alike

theorem withLengths (alike : Alike rid p a b) (o : LOp) (w : Work) (l : Lookup) (next : Block → List Nat → Block × Option Tile)
    (goes : ∀ c lens, Alike rid p a c → Finds rid p a (next c lens)) : Finds rid p a (withLengths st b rid p o w l next) := by
  unfold Machine.withLengths
  split
  · exact goes b [] alike
  · split
    · exact none a _
    · rename_i held
      split
      · exact none a _
      · exact none a _
      · rename_i read
        dsimp only
        split
        · exact none a _
        · exact goes _ _ ((alike.ensure_is held).readVa_is read)

theorem planTile (b : Block) : Finds rid p b (planTile st b rid p) := by
  unfold Machine.planTile
  split
  · split
    · dsimp only
      refine withLengths (Alike.refl b) _ _ _ _ fun c lens alike => ?_
      refine invCheck alike _ _ _ _ _ _ fun d alike => ?_
      split
      · exact none b _
      · rename_i held
        exact readIndices (alike.ensure_is held) _ _ _ _ _ _ _ _ _ fun e cs alike => tileRest alike _ _ _ _ _ _ cs
    · exact none b _
  · exact none b _

end Finds

/-! ### The start of a translated tile -/

/-- The fetch of a row that lies in memory. -/
def Fetch.of (r : RowRef) : Fetch := { lrow := r.lrow, pieces := r.parts, stack := r.stack, ch := r.ch }

/-- Slot p runs a tile with these fetches. -/
def Block.Tiled (b : Block) (rid p : Nat) (fs : List Fetch) : Prop :=
  ∃ w l, b.work? rid p = some w ∧ w.phase = .active ∧ w.data = .lookup l ∧ l.running = true ∧ l.fetches = fs

namespace Block.Tiled

variable {b c : Block} {rid p : Nat} {fs : List Fetch}

theorem outcomes (tiled : b.Tiled rid p fs) (kept : Outcomes b c) : c.Tiled rid p fs := by
  obtain ⟨w, l, found, active, data, runs⟩ := tiled
  obtain ⟨v, foundV, same⟩ := kept.work_some found
  exact ⟨v, l, foundV, (Work.of_outcome same (·.phase)).trans active, (Work.of_outcome same (·.data)).trans data, runs⟩

theorem of_works (tiled : b.Tiled rid p fs) (same : c.works = b.works) : c.Tiled rid p fs := by
  unfold Block.Tiled Block.work?
  rwa [same]

/-- A change of the slot that leaves its phase and its tile's fetches. -/
theorem onWork (tiled : b.Tiled rid p fs) (f : Work → Work) (phase : ∀ w, (f w).phase = w.phase)
    (data : ∀ w l, w.data = .lookup l → ∃ l', (f w).data = .lookup l' ∧ l'.running = l.running ∧ l'.fetches = l.fetches) : (b.onWork rid p f).Tiled rid p fs := by
  obtain ⟨w, l, found, active, is, running, fetches⟩ := tiled
  obtain ⟨l', is', running', fetches'⟩ := data w l is
  exact ⟨f w, l', (Tbl.get?_modify_same _ _ _).trans (congrArg (Option.map f) found), (phase w).trans active, is', running'.trans running, fetches'.trans fetches⟩

theorem foldl {α : Type} {f : Block → α → Block} (step : ∀ c v, c.Tiled rid p fs → (f c v).Tiled rid p fs) (vs : List α) (tiled : b.Tiled rid p fs) :
    (vs.foldl f b).Tiled rid p fs := by
  induction vs generalizing b with
  | nil => exact tiled
  | cons v vs ih => exact ih (step b v tiled)

theorem askRow (tiled : b.Tiled rid p fs) (w : Work) (r : RowRef) : (b.askRow rid w r).Tiled rid p fs := by
  unfold Block.askRow
  exact ite_holds (Q := fun c : Block => c.Tiled rid p fs) tiled (tiled.of_works (congrArg Block.works (DiesOnly.requestAtoms b _ _ _) :))

theorem putOutput (tiled : b.Tiled rid p fs) (st : Store) (o : LOp) (j : Nat) (v : List Word) : (putOutput st b rid p o j v).Tiled rid p fs := by
  unfold Machine.putOutput Block.outWrite
  dsimp only
  refine onWork (tiled.outcomes (Outcomes.vaWrite b rid p _ _ _ _)) _ (fun w => ?_) fun w l is => ⟨l, ?_, rfl, rfl⟩
  · split <;> rfl
  · split <;> exact is

theorem writeBag (tiled : b.Tiled rid p fs) (st : Store) (o : LOp) (td : TD) (bag : Bag) (acc : Option (List Word)) : (writeBag st b rid p o td bag acc).Tiled rid p fs := by
  unfold Machine.writeBag
  refine onWork (tiled.putOutput st o _ _) _ (fun w => ?_) fun w l is => ?_
  · split <;> rfl
  · rw [is]
    exact ⟨_, rfl, rfl, rfl⟩

theorem writeGather (tiled : b.Tiled rid p fs) (st : Store) (o : LOp) (k : Nat) (v : List Word) : (writeGather st b rid p o k v).Tiled rid p fs := by
  unfold Machine.writeGather
  refine onWork (tiled.putOutput st o _ _) _ (fun w => ?_) fun w l is => ?_
  · split <;> rfl
  · rw [is]
    exact ⟨_, rfl, rfl, rfl⟩

/-- A tile that still awaits a row does not end. -/
theorem tileEnd (tiled : b.Tiled rid p fs) (waits : fs.all (·.got) = false) : (tileEnd b rid p).Tiled rid p fs := by
  obtain ⟨w, l, found, active, data, running, rfl⟩ := tiled
  have same : Machine.tileEnd b rid p = b := by
    unfold Machine.tileEnd
    rw [found]
    dsimp only
    rw [data]
    dsimp only
    rw [waits, running]
    rfl
  rw [same]
  exact ⟨w, l, found, active, data, running, rfl⟩

theorem walkAhead (tiled : b.Tiled rid p fs) (h job : Nat) (needs : List Need) : (b.walkAhead h job needs).Tiled rid p fs := by
  unfold Block.walkAhead
  refine foldl (fun c n tiled => ?_) needs tiled
  split
  · exact tiled
  · exact tiled.outcomes (.of_translates (Translates.startWalk c h .ahead job n false))

theorem aheadTile (tiled : b.Tiled rid p fs) (st : Store) : (aheadTile st b rid p).Tiled rid p fs := by
  unfold Machine.aheadTile
  split
  · split
    · dsimp only
      split
      · exact tiled
      · exact tiled.walkAhead _ _ _
    · exact tiled
  · exact tiled

end Block.Tiled

/-- The rows that a tile reads, each once. -/
def Tile.rows (t : Tile) (o : LOp) : List Nat := distinct ((tileTerms t o).map (·.2.lrow))

theorem startTile_tiles {st : Store} {b : Block} {rid : Nat} {t : Tile} {w : Work} {l : Lookup} (found : b.work? rid t.p = some w) (active : w.phase = .active)
    (data : w.data = .lookup l) (some_ : t.rows (lop w.x) ≠ []) (whole : ∀ lr ∈ t.rows (lop w.x), (b.rowVia rid t.p (tdOf l.desc) lr).2 = OK) :
    (startTile st b rid t).Tiled rid t.p ((t.rows (lop w.x)).map fun lr => Fetch.of (b.rowVia rid t.p (tdOf l.desc) lr).1) := by
  have sound : ((t.rows (lop w.x)).map fun lr => b.rowVia rid t.p (tdOf l.desc) lr).find? (fun x => x.2 != OK) = none := by
    rw [List.find?_eq_none]
    intro x mem
    obtain ⟨lr, row, rfl⟩ := List.mem_map.mp mem
    rw [whole lr row]
    decide
  have waits : ((t.rows (lop w.x)).map fun lr => Fetch.of (b.rowVia rid t.p (tdOf l.desc) lr).1).all (·.got) = false := by
    obtain ⟨lr, rest, is⟩ := List.exists_cons_of_ne_nil some_
    rw [is]
    rfl
  unfold startTile
  rw [found]
  dsimp -zeta only
  rw [data]
  dsimp -zeta only
  extract_lets o td terms rows refs fetches stackOf mk bags cls counts nb c zero d e
  have none_ : refs.find? (fun x => x.2 != OK) = none := sound
  split
  · rename_i hit
    cases hit.symm.trans none_
  · have same : fetches = (t.rows (lop w.x)).map fun lr => Fetch.of (b.rowVia rid t.p (tdOf l.desc) lr).1 := List.map_map
    rw [← same] at waits ⊢
    have started : c.Tiled rid t.p fetches := ⟨_, _, (Tbl.get?_modify_same _ _ _).trans (congrArg (Option.map _) found), active, rfl, rfl, rfl⟩
    have asked : d.Tiled rid t.p fetches := Block.Tiled.foldl (fun c x tiled => ite_holds (Q := fun b : Block => b.Tiled rid t.p fetches) tiled (tiled.askRow w x.1)) refs started
    refine Block.Tiled.tileEnd (?_ : e.Tiled rid t.p fetches) waits
    dsimp only [e]
    split
    · refine Block.Tiled.foldl (fun c x tiled => ?_) _ asked
      split
      · exact tiled.writeGather st o _ zero
      · exact tiled.writeGather st o _ zero
      · exact tiled
    · exact Block.Tiled.foldl (fun c bag tiled => tiled.writeBag st o td bag none) _ asked

/-! ### TILE_START (R84) -/

/-- The tile of a slot of its own that is translated starts. -/
theorem tileStart_starts {st : Store} {b c : Block} {rid p : Nat} {err : ReadErr} {w : Work} {l : Lookup} {t : Tile} (found : b.work? rid p = some w) (place : w.p = p)
    (active : w.phase = .active) (data : w.data = .lookup l) (free : b.commitAhead w = false) (alone : w.group = none) (members : b.members rid p = [p])
    (idle : l.running = false) (planned : planTile st b rid p = (c, some t)) :
    tileStart rid p err st b = aheadTile st (startTile st c rid t) rid p := by
  have lead : w.lead = p := by rw [Work.lead, alone, Option.getD_none, place]
  unfold tileStart
  rw [found]
  dsimp only
  rw [active, free, if_neg (by decide), data]
  dsimp only
  rw [if_pos lead]
  unfold startLookupTile
  rw [members]
  refine (if_neg ?_).trans ?_
  · rw [List.any_cons, List.any_nil, found, Option.map_some, data]
    dsimp only
    rw [idle]
    exact Bool.false_ne_true
  · rw [List.foldl_cons, List.foldl_nil]
    dsimp only
    rw [planned]
    exact if_neg Bool.false_ne_true

/-- TILE_START of a translated tile with a row to read. -/
theorem runs_tileStart {s : State} {rid p : Nat} {err : ReadErr} {w : Work} {l : Lookup} {b : Block} {t : Tile} (found : s.blk.work? rid p = some w) (place : w.p = p)
    (active : w.phase = .active) (data : w.data = .lookup l) (alive : s.blk.fatal = false) (free : s.blk.commitAhead w = false) (alone : w.group = none)
    (members : s.blk.members rid p = [p]) (idle : l.running = false) (planned : planTile s.store s.start rid p = (b, some t)) (some_ : t.rows (lop w.x) ≠ [])
    (whole : ∀ lr ∈ t.rows (lop w.x), (b.rowVia rid p (tdOf l.desc) lr).2 = OK) :
    Runs (.tileStart rid ⟨p, err⟩) s fun u => u.blk.Tiled rid p ((t.rows (lop w.x)).map fun lr => Fetch.of (b.rowVia rid p (tdOf l.desc) lr).1) := by
  have finds : Finds rid p s.start (b, some t) := planned ▸ Finds.planTile s.start
  obtain ⟨at_, alike⟩ := finds t rfl
  have effect : (if s.start.fatal then s.start else tileStart rid p err s.store s.start) = _ :=
    (if_neg (by rw [show s.start.fatal = false from alive]; exact Bool.false_ne_true)).trans
      (tileStart_starts (b := s.start) found place active data free alone members idle planned)
  have stands : (b.work? rid p).map Work.gist = some w.gist := Eq.trans alike (congrArg (Option.map Work.gist) found)
  obtain ⟨v, foundV, gist⟩ := Option.map_eq_some_iff.mp stands
  have slot : v.slot = w.slot := congrArg Prod.fst gist
  have phase : v.phase = .active := (congrArg (·.2.1) gist :).trans active
  have desc : v.data.desc = some l.desc := (congrArg (·.2.2) gist :).trans (congrArg WorkData.desc data)
  obtain ⟨k, dataV, same⟩ := WorkData.desc_some desc
  have x : v.x = w.x := congrArg BitVec.toNat slot
  subst at_
  rw [← x] at some_ whole ⊢
  rw [← same] at whole ⊢
  have tiled := (startTile_tiles (st := s.store) foundV phase dataV some_ whole).aheadTile s.store
  refine Runs.of_core (s := s) _ rfl fun u core => ?_
  exact tiled.outcomes (Outcomes.of_core (core.trans (congrArg Block.core effect)))

/-- Settles O39. -/
theorem lookupTilesFetchAndCombine : Obligations.LookupTilesFetchAndCombine := by
  unfold Obligations.LookupTilesFetchAndCombine
  intro rid p s w l found ring place data active o td
  refine ⟨?_, ?_, ?_⟩
  · intro b tl alive free alone members idle planned rows some_ whole
    refine (runs_tileStart found place active data alive free alone members idle planned some_ whole).mono fun t tiled => ?_
    obtain ⟨v, k, there, act, is, running, fetches⟩ := tiled
    refine ⟨v, k, there, act, is, running, ?_, fun f mem => ?_⟩
    · rw [fetches, List.map_map]
      rfl
    · rw [fetches] at mem
      obtain ⟨lr, -, rfl⟩ := List.mem_map.mp mem
      rfl
  · intro err f b1 b2 stack e hd pl alive waits unqueued r fetched reads
    refine (runs_rowFetch found ring place data active alive waits unqueued fetched reads).mono fun t has => ?_
    obtain ⟨v, k, there, is, all⟩ := has
    exact ⟨v, k, there, is, fun g mem row => ⟨(all g mem row).1, fun _ => (all g mem row).2⟩⟩
  · intro bag stack next rest running plain loose _ picked left ts got pooled combined
    exact runs_partialCombine found data active running plain loose picked left got pooled combined

end Sys2Proof.Machine
end
